-- ==== Sys2Proof/Word.lean ====
section
/-! DEFINITION. Word: the bit-vector types of the machine. A register lane is 64 bits (R175), memory is bytes
(R10), a register number is six bits and a predicate number three (R236). -/

namespace Sys2Proof

/-- A register lane, a program counter, an effective address (R175). -/
abbrev Word := BitVec 64

/-- A byte of memory (R10). -/
abbrev Byte := BitVec 8

/-- A register number, v0 to v63 (R200). -/
abbrev Reg := BitVec 6

/-- A predicate number, p0 to p7 (R200). -/
abbrev Pred := BitVec 3

/-- A mask with one bit per lane of a crew (R174). -/
abbrev Mask := BitVec 32

end Sys2Proof
end

