-- ==== Sys2Proof/Config.lean ====
section
/-! DEFINITION. Config: what an implementation fixes and the free values. A free value is an opaque constant
with no body, so that nothing can be proved of it beyond its type; each names the rule that leaves it open and
the log entry that says so. -/

namespace Sys2Proof.Config

/-- The result bits of a correctly rounded function whose rounding the interval evaluation of `Machine.Trans`
did not decide: function, format code, operand bits (R278; assumption 12). -/
opaque undecided : Nat → Nat → Nat → Nat

/-- The fixed hash that picks a line's home slice from its tag (R40: software must not depend on it; assumption 10). -/
opaque sliceHash : Nat → Nat → Nat → Nat

/-- The fixed hash that picks an L1 set from a line's tag (02_memory_hierarchy.md, L1; assumption 10). -/
opaque l1Hash : Nat → Nat → Nat → Nat

/-- The fixed hash that picks a set of a home slice or gateway cache from a line's tag (R59, R64; assumption 10). -/
opaque cacheSet : Nat → Nat → Nat → Nat

/-- The bytes of the landing allotment that R53 leaves undefined: at a free counter, by offset (assumption 14). -/
opaque landing : Nat → Nat → BitVec 8

/-- Whether a node of a Kiln array in physical mode takes +1: at a free counter, by node (R349; assumption 15). -/
opaque kilnNode : Nat → Nat → Bool

/-- The ones a Cone monitor has sampled in a window, at a free counter (R355; assumption 15). -/
opaque coneOnes : Nat → Nat

/-- The integrators of a Slip tile in physical mode as FP32 bits: at a free counter, by integrator (R358;
assumption 15). -/
opaque slipX : Nat → Nat → BitVec 32

/-- The bytes of the opaque blocks of a save image: at a free counter, by block, by offset (R414; assumption 16). -/
opaque imageByte : Nat → Nat → Nat → BitVec 8

/-- What AES-256-GCM opens a frame's payload and tag to under a key of a session, or `none` where the tag does not verify: key,
nonce, additional data, ciphertext with tag (R433; assumption 17). -/
opaque gcmOpen : Nat → List (BitVec 8) → List (BitVec 8) → List (BitVec 8) → Option (List (BitVec 8))

/-- A byte of what AES-256-GCM makes of a frame's payload, with its tag: key, nonce, additional data, payload, offset (R433; assumption 17). -/
opaque gcmSeal : Nat → List (BitVec 8) → List (BitVec 8) → List (BitVec 8) → Nat → BitVec 8

/-- Whether an ML-DSA-87 signature verifies: public key, message, signature (R435, R450; assumption 17). -/
opaque signatureOk : List (BitVec 8) → List (BitVec 8) → List (BitVec 8) → Bool

/-- A byte of the ML-DSA-87 signature of a message under the identity key: public key, message, offset (R439; assumption 17). -/
opaque signatureByte : List (BitVec 8) → List (BitVec 8) → Nat → BitVec 8

/-- A byte of the identity public key derived from the fused secret and MEAS[0] (R451; assumption 17). -/
opaque identityByte : List (BitVec 8) → List (BitVec 8) → Nat → BitVec 8

/-- The parts of a firmware image (R450), whose layout the spec does not give: body, hash, version, signing key, what is signed, and
signature (assumption 18). -/
opaque imageBody : List (BitVec 8) → List (BitVec 8)
/-- See `imageBody`. -/
opaque imageHash : List (BitVec 8) → List (BitVec 8)
/-- See `imageBody`. -/
opaque imageVersion : List (BitVec 8) → Nat
/-- See `imageBody`. -/
opaque imageKey : List (BitVec 8) → List (BitVec 8)
/-- See `imageBody`. -/
opaque imageSigned : List (BitVec 8) → List (BitVec 8)
/-- See `imageBody`. -/
opaque imageSignature : List (BitVec 8) → List (BitVec 8)

/-- Which of the four images of R449 a firmware image is (assumption 18). -/
opaque imageIndex : List (BitVec 8) → Nat

/-- The measurement register, less 4, that takes a partition-management value, by its subcommand (R451; assumption 19). -/
opaque measureIndex : Nat → Nat

/-- Cycles that pass in one step, at a free counter (assumption 20). -/
opaque cycles : Nat → Nat

/-- Whether the replay of a warm reset matches its logs, at a free counter (R421; assumption 21). -/
opaque replayOk : Nat → Bool

/-- Which of the words an instruction cache and memory hold for an address a fetch returns, at a free counter, by address (R251;
assumption 22). -/
opaque fetchPick : Nat → Nat → Nat

/-- The entries of a core's store queue, less one (R49, R58; assumption 40). -/
opaque storeQueue : Nat

/-- Which of the operations of a matrix engine that may go on does so next, at a free counter (R324; assumption 54). -/
opaque mxTurn : Nat → Nat

/-- Which of the bytes still to be accessed a misaligned access takes next, at a free counter (R290; assumption 41). -/
opaque byteOrder : Nat → Nat

end Sys2Proof.Config
end

