-- ==== Sys2Proof/Machine/Flags.lean ====
section
/-! DEFINITION. Flags: the exception flags and which of them trap (R207, R209, R223). -/

namespace Sys2Proof.Machine

/-- A set of exception flags, laid out as FSTAT: INV, DZ, OF, UF, NX in bits 0 to 4 (R207). -/
abbrev Flags := BitVec 5

/-- No flag. -/
def fNone : Flags := 0
/-- Invalid. -/
def fInv : Flags := 1
/-- Division by zero. -/
def fDz : Flags := 2
/-- Overflow. -/
def fOf : Flags := 4
/-- Underflow. -/
def fUf : Flags := 8
/-- Inexact. -/
def fNx : Flags := 16

/-- The flags of a set that an enable of CMR.TRAPEN [12:8] makes trap (R209, R223). -/
def Flags.trapped (f : Flags) (cmr : BitVec 32) : Flags := f &&& (cmr >>> 8).setWidth 5

end Sys2Proof.Machine
end

