-- ==== Sys2Proof/Machine/Num.lean ====
section
/-! DEFINITION. Num: the element formats, exact values, rounding, NaN and flag rules of 10_number_formats.md
(R213 to R222). Values are exact naturals scaled by powers of two; every rounding happens in `roundTo`. -/

namespace Sys2Proof.Machine

/-- The rounding modes (R209, R217). -/
inductive Rnd where
  /-- Nearest, ties to even. -/
  | rne
  /-- Toward zero. -/
  | rtz
  /-- Toward −∞. -/
  | rdn
  /-- Toward +∞. -/
  | rup
deriving DecidableEq, Repr

/-- The mode of a two-bit code (R217). -/
def Rnd.ofCode (c : Nat) : Rnd :=
  match c with
  | 0 => .rne
  | 1 => .rtz
  | 2 => .rdn
  | _ => .rup

/-- The sixteen element formats, in the order of their codes (R213). -/
inductive Fmt where
  | fp64 | fp32 | fp16 | bf16 | e4m3 | e5m2 | e3m2 | e2m3 | e2m1
  | int16 | int8 | uint8 | int4 | uint4 | int2 | bin1
deriving DecidableEq, Repr

/-- The format of a four-bit code (R213). -/
def Fmt.ofCode (c : Nat) : Fmt :=
  match c with
  | 0 => .fp64
  | 1 => .fp32
  | 2 => .fp16
  | 3 => .bf16
  | 4 => .e4m3
  | 5 => .e5m2
  | 6 => .e3m2
  | 7 => .e2m3
  | 8 => .e2m1
  | 9 => .int16
  | 10 => .int8
  | 11 => .uint8
  | 12 => .int4
  | 13 => .uint4
  | 14 => .int2
  | _ => .bin1

/-- The element width as packed in a lane: 8 for the two six-bit formats (R215). -/
def Fmt.width : Fmt → Nat
  | .fp64 => 64
  | .fp32 => 32
  | .fp16 | .bf16 | .int16 => 16
  | .e4m3 | .e5m2 | .e3m2 | .e2m3 | .int8 | .uint8 => 8
  | .e2m1 | .int4 | .uint4 => 4
  | .int2 => 2
  | .bin1 => 1

/-- The bits an element itself holds: 6 for E3M2 and E2M3 (R213, R215). -/
def Fmt.elemBits : Fmt → Nat
  | .e3m2 | .e2m3 => 6
  | f => f.width

/-- Whether the format is a floating one (codes 0 to 8, R213). -/
def Fmt.isFloat : Fmt → Bool
  | .fp64 | .fp32 | .fp16 | .bf16 | .e4m3 | .e5m2 | .e3m2 | .e2m3 | .e2m1 => true
  | _ => false

/-- The four wide floating formats, the only ones that flush (R218). -/
def Fmt.isWide : Fmt → Bool
  | .fp64 | .fp32 | .fp16 | .bf16 => true
  | _ => false

/-- Exponent width (R213); 0 for the integer formats. -/
def Fmt.eb : Fmt → Nat
  | .fp64 => 11
  | .fp32 | .bf16 => 8
  | .fp16 | .e5m2 => 5
  | .e4m3 => 4
  | .e3m2 => 3
  | .e2m3 | .e2m1 => 2
  | _ => 0

/-- Mantissa width (R213); 0 for the integer formats. -/
def Fmt.mb : Fmt → Nat
  | .fp64 => 52
  | .fp32 => 23
  | .fp16 => 10
  | .bf16 => 7
  | .e4m3 | .e2m3 => 3
  | .e5m2 | .e3m2 => 2
  | .e2m1 => 1
  | _ => 0

/-- Exponent bias (R213). -/
def Fmt.bias : Fmt → Nat
  | .fp64 => 1023
  | .fp32 | .bf16 => 127
  | .fp16 | .e5m2 => 15
  | .e4m3 => 7
  | .e3m2 => 3
  | _ => 1

/-- Whether the all-ones exponent holds infinities and NaNs as in IEEE 754-2019 (R213). -/
def Fmt.ieee : Fmt → Bool
  | .fp64 | .fp32 | .fp16 | .bf16 | .e5m2 => true
  | _ => false

/-- The bit pattern of the largest finite magnitude (R214). -/
def Fmt.maxBits (f : Fmt) : Nat :=
  match f with
  | .e4m3 => 0x7E
  | .e3m2 | .e2m3 => 0x1F
  | .e2m1 => 0x7
  | _ => (2 ^ f.eb - 1) * 2 ^ f.mb - 1

/-- The position of the sign bit. -/
def Fmt.signBit (f : Fmt) : Nat := f.eb + f.mb

/-- The canonical quiet NaN (R220); +0 in the formats that have none (R219). -/
def Fmt.canon : Fmt → Nat
  | .fp64 => 0x7FF8000000000000
  | .fp32 => 0x7FC00000
  | .bf16 => 0x7FC0
  | .fp16 => 0x7E00
  | .e4m3 => 0x7F
  | .e5m2 => 0x7E
  | _ => 0

/-- The least and the greatest value of an integer format (R214). -/
def Fmt.intRange : Fmt → Int × Int
  | .int16 => (-32768, 32767)
  | .int8 => (-128, 127)
  | .uint8 => (0, 255)
  | .int4 => (-8, 7)
  | .uint4 => (0, 15)
  | .int2 => (-2, 1)
  | _ => (-1, 1)

/-- The arithmetic controls of the context mode register (R209). -/
structure FCtl where
  rnd : Rnd
  ftzi : Bool
  ftzr : Bool
  nsat : Bool
  canon : Bool
deriving DecidableEq, Repr

/-- The controls of a CMR value (R209). -/
def FCtl.ofCmr (c : BitVec 32) : FCtl :=
  { rnd := .ofCode (c.toNat % 4), ftzi := c.getLsbD 2, ftzr := c.getLsbD 3, nsat := c.getLsbD 4,
    canon := c.getLsbD 5 }

/-- The controls of the matrix engine: RNE, subnormals kept, canonical NaNs (R224). -/
def FCtl.engine : FCtl := { rnd := .rne, ftzi := false, ftzr := false, nsat := false, canon := true }

/-- An element's value: a NaN with its sign, whether it signals, its mantissa and the mantissa's width; an
infinity; or the exact number (−1)^neg · m · 2^e. -/
inductive Val where
  | nan (neg sig : Bool) (man mw : Nat)
  | inf (neg : Bool)
  | fin (neg : Bool) (m : Nat) (e : Int)
deriving DecidableEq, Repr

/-- Whether a value is a NaN. -/
def Val.isNan : Val → Bool
  | .nan .. => true
  | _ => false

/-- Whether a value is a signalling NaN (R220). -/
def Val.isSig : Val → Bool
  | .nan _ s _ _ => s
  | _ => false

/-- Whether a value is a zero. -/
def Val.isZero : Val → Bool
  | .fin _ m _ => m == 0
  | _ => false

/-- The sign of a value. -/
def Val.neg : Val → Bool
  | .nan n .. => n
  | .inf n => n
  | .fin n .. => n

/-- A value with its sign replaced. -/
def Val.withNeg (v : Val) (n : Bool) : Val :=
  match v with
  | .nan _ s m w => .nan n s m w
  | .inf _ => .inf n
  | .fin _ m e => .fin n m e

/-- An integer as a value; zero is +0. -/
def Val.ofInt (i : Int) : Val := .fin (i < 0) i.natAbs 0

/-- A natural of `n` bits read as two's complement. -/
def signedOf (n x : Nat) : Int := if x < 2 ^ (n - 1) then x else (x : Int) - 2 ^ n

/-- The low `n` bits of an integer's two's complement. -/
def toBits (n : Nat) (i : Int) : Nat := (i % 2 ^ n).toNat

/-- The value of an element's bit pattern (R213). -/
def Fmt.value (f : Fmt) (b : Nat) : Val :=
  if f.isFloat then
    let m := b % 2 ^ f.mb
    let e := b / 2 ^ f.mb % 2 ^ f.eb
    let s := b / 2 ^ f.signBit % 2 == 1
    if f.ieee && e == 2 ^ f.eb - 1 then
      if m == 0 then .inf s else .nan s (m / 2 ^ (f.mb - 1) == 0) m f.mb
    else if f == .e4m3 && e == 15 && m == 7 then .nan s true 7 3
    else if e == 0 then .fin s m (1 - (f.bias : Int) - f.mb)
    else .fin s (m + 2 ^ f.mb) ((e : Int) - f.bias - f.mb)
  else match f with
    | .uint8 | .uint4 => .ofInt b
    | .bin1 => .ofInt (if b % 2 == 1 then 1 else -1)
    | _ => .ofInt (signedOf f.width b)

/-- Whether a pattern is a subnormal of its format. -/
def Fmt.isSub (f : Fmt) (b : Nat) : Bool :=
  b % 2 ^ f.mb != 0 && b / 2 ^ f.mb % 2 ^ f.eb == 0

/-- An element as an instruction reads it: a wide subnormal reads as zero of its sign under FTZI (R218). -/
def Fmt.input (f : Fmt) (c : FCtl) (b : Nat) : Val :=
  if c.ftzi && f.isWide && f.isSub b then .fin (b / 2 ^ f.signBit % 2 == 1) 0 0 else f.value b

/-- An element result: its bits and the flags it raises. -/
structure FRes where
  bits : Nat
  fl : Flags
deriving DecidableEq, Repr

/-- A sign bit placed for a format. -/
def Fmt.signed (f : Fmt) (neg : Bool) (mag : Nat) : Nat := mag + if neg then 2 ^ f.signBit else 0

/-- Zero of a sign. -/
def Fmt.zero (f : Fmt) (neg : Bool) : Nat := f.signed neg 0

/-- Infinity of a sign, for the formats that have one. -/
def Fmt.infBits (f : Fmt) (neg : Bool) : Nat := f.signed neg ((2 ^ f.eb - 1) * 2 ^ f.mb)

/-- Quiet of a NaN, converted to `f` by keeping its sign and the top mantissa bits that fit (R220 rule 3). -/
def Fmt.quietBits (f : Fmt) (neg : Bool) (man mw : Nat) : Nat :=
  match f with
  | .e4m3 => f.signed neg 0x7F
  | _ =>
    let q := if man / 2 ^ (mw - 1) % 2 == 1 then man else man + 2 ^ (mw - 1)
    let m := if mw ≤ f.mb then q * 2 ^ (f.mb - mw) else q / 2 ^ (mw - f.mb)
    f.signed neg ((2 ^ f.eb - 1) * 2 ^ f.mb + m)

/-- The NaN a format delivers in place of a NaN operand: none of E3M2, E2M3 and E2M1 has one, and +0 with
INV results there (R219). -/
def Fmt.hasNan : Fmt → Bool
  | .e3m2 | .e2m3 | .e2m1 => false
  | _ => true

/-- NaNResult of an operation (R220): `invalid` says whether the operation is one of rule 2's, `ops` are its
operands in the stated order. -/
def nanResult (c : FCtl) (f : Fmt) (invalid : Bool) (ops : List Val) : FRes :=
  let inv : Flags := if invalid || ops.any Val.isSig then fInv else fNone
  if !f.hasNan then ⟨0, fInv⟩
  else if c.canon || invalid then ⟨f.canon, inv⟩
  else match ops.find? Val.isNan with
    | some (.nan n _ m w) => ⟨f.quietBits n m w, inv⟩
    | _ => ⟨f.canon, inv⟩

/-- Whether an overflow is infinite-bound: an infinity is what IEEE 754-2019 delivers (R219). -/
def infBound (r : Rnd) (neg : Bool) : Bool :=
  match r with
  | .rne => true
  | .rtz => false
  | .rdn => neg
  | .rup => !neg

/-- The result of an overflow (R219). -/
def overflow (c : FCtl) (f : Fmt) (neg : Bool) : FRes :=
  let mx := f.signed neg f.maxBits
  if !infBound c.rnd neg then ⟨mx, fOf ||| fNx⟩
  else match f with
    | .e5m2 => if c.nsat then ⟨mx, fOf ||| fNx⟩ else ⟨f.infBits neg, fOf ||| fNx⟩
    | .e4m3 => if c.nsat then ⟨mx, fOf ||| fNx⟩ else ⟨f.signed neg 0x7F, fOf ||| fNx ||| fInv⟩
    | .e3m2 | .e2m3 | .e2m1 => ⟨mx, fOf ||| fNx⟩
    | _ => ⟨f.infBits neg, fOf ||| fNx⟩

/-- The result of an infinite exact value (R219). -/
def infResult (c : FCtl) (f : Fmt) (neg : Bool) : FRes :=
  let mx := f.signed neg f.maxBits
  match f with
  | .e5m2 => if c.nsat then ⟨mx, fOf⟩ else ⟨f.infBits neg, fNone⟩
  | .e4m3 => if c.nsat then ⟨mx, fOf⟩ else ⟨f.signed neg 0x7F, fInv⟩
  | .e3m2 | .e2m3 | .e2m1 => ⟨mx, fInv⟩
  | _ => ⟨f.infBits neg, fNone⟩

/-- `m` (and a sticky remainder below it) rounded to a multiple of 2^s: the multiple, and whether the value
changed. -/
def roundShift (r : Rnd) (neg : Bool) (m s : Nat) (sticky : Bool) : Nat × Bool :=
  let big := Nat.log2 m + 1 < s
  let k := if big then 0 else m / 2 ^ s
  let rem := if big then m else m % 2 ^ s
  let inexact := rem != 0 || sticky
  let up := match r with
    | .rtz => false
    | .rdn => neg && inexact
    | .rup => !neg && inexact
    | .rne =>
      if big then false
      else
        let twice := 2 * rem
        let unit := 2 ^ s
        if twice > unit then true
        else if twice == unit then sticky || k % 2 == 1
        else false
  (if up then k + 1 else k, inexact)

/-- `m · 2^e` (with a sticky remainder) rounded to a multiple of 2^q: the multiple of 2^q and whether the
value changed. -/
def roundQuantum (r : Rnd) (neg : Bool) (m : Nat) (e q : Int) (sticky : Bool) : Nat × Bool :=
  if q ≤ e then (m * 2 ^ (e - q).toNat, sticky) else roundShift r neg m (q - e).toNat sticky

/-- The packed bits of the magnitude k · 2^q, where q is the quantum the value was rounded to: a normal when
k has reached 2^mb, else a subnormal (q = emin − mb). -/
def packMag (f : Fmt) (k : Nat) (q : Int) : Nat :=
  if k < 2 ^ f.mb then k
  else
    let (k, q) := if k == 2 ^ (f.mb + 1) then (2 ^ f.mb, q + 1) else (k, q)
    (q + f.mb + f.bias).toNat * 2 ^ f.mb + (k - 2 ^ f.mb)

/-- RoundTo of a non-zero finite value (R217). When `sticky`, the exact magnitude lies strictly between
m · 2^e and (m + 1) · 2^e, and m holds more bits than any rounding keeps. -/
def roundFin (c : FCtl) (f : Fmt) (neg : Bool) (m : Nat) (e : Int) (sticky : Bool) : FRes :=
  let emin : Int := 1 - (f.bias : Int)
  let lg : Int := (Nat.log2 m : Int) + e
  let emax : Int := (f.maxBits / 2 ^ f.mb : Nat) - (f.bias : Int)
  if emax + 1 < lg then overflow c f neg
  else
    let q := max lg emin - f.mb
    let (k, inexact) := roundQuantum c.rnd neg m e q sticky
    let mag := packMag f k q
    if f.maxBits < mag then overflow c f neg
    else
      let nx := if inexact then fNx else fNone
      let (t, _) := roundQuantum c.rnd neg m e (lg - f.mb) sticky
      -- t · 2^(lg − mb) is the value rounded with an unbounded exponent
      let tiny := lg < emin - 1 || (lg == emin - 1 && t != 2 ^ (f.mb + 1))
      let uf := if tiny && inexact then fUf else fNone
      if c.ftzr && f.isWide && mag != 0 && k < 2 ^ f.mb then ⟨f.zero neg, fUf ||| fNx⟩
      else ⟨f.signed neg mag, nx ||| uf⟩

/-- RoundTo(x, f) (R217): `sticky` marks a finite value given with a remainder below its last bit. A NaN is
its own sole operand (R220). -/
def roundTo (c : FCtl) (f : Fmt) (x : Val) (sticky : Bool := false) : FRes :=
  match x with
  | .nan .. => nanResult c f false [x]
  | .inf n => infResult c f n
  | .fin n m e => if m == 0 then ⟨f.zero n, fNone⟩ else roundFin c f n m e sticky

/-- The exact sum of finite terms as a signed multiple of 2^e, e the least exponent among them. -/
def exactSum (ts : List (Bool × Nat × Int)) : Int × Int :=
  let e := ts.foldl (fun a t => min a t.2.2) (match ts with | [] => 0 | t :: _ => t.2.2)
  (ts.foldl (fun a t => let v := (t.2.1 : Int) * 2 ^ (t.2.2 - e).toNat; if t.1 then a - v else a + v) 0, e)

/-- The sign of an exact zero sum: that of its terms when they agree, else + or, under RDN, − (R275). -/
def zeroSign (r : Rnd) (negs : List Bool) : Bool :=
  if negs.all id && !negs.isEmpty then true
  else if negs.all (!·) then false
  else r == .rdn

/-- The finite terms of a list of values. -/
def finTerms (vs : List Val) : List (Bool × Nat × Int) :=
  vs.filterMap fun v => match v with
    | .fin n m e => some (n, m, e)
    | _ => none

/-- The exact sum of values that are no NaN: `none` when infinities of opposite signs meet. -/
def sumVal (r : Rnd) (vs : List Val) : Option Val :=
  let pinf := vs.any (· == .inf false)
  let ninf := vs.any (· == .inf true)
  if pinf && ninf then none
  else if pinf then some (.inf false)
  else if ninf then some (.inf true)
  else
    let ts := finTerms vs
    let (s, e) := exactSum ts
    if s == 0 then some (.fin (zeroSign r (ts.map (·.1))) 0 0) else some (.fin (s < 0) s.natAbs e)

/-- The exact product of two values that are no NaN: `none` for 0 · ∞. -/
def mulVal (a b : Val) : Option Val :=
  let n := a.neg != b.neg
  match a, b with
  | .fin _ m e, .fin _ m' e' => some (.fin n (m * m') (e + e'))
  | a, b => if a.isZero || b.isZero then none else some (.inf n)

/-- A sum rounded to `f`: NaN operands and the invalid case give NaNResult. -/
def addRes (c : FCtl) (f : Fmt) (ops terms : List Val) : FRes :=
  if ops.any Val.isNan then nanResult c f false ops
  else match sumVal c.rnd terms with
    | none => nanResult c f true ops
    | some v => roundTo c f v

/-- a + b (R275). -/
def fadd (c : FCtl) (f : Fmt) (a b : Val) : FRes := addRes c f [a, b] [a, b]

/-- A value with its sign inverted; a NaN keeps its sign. -/
def Val.negate (v : Val) : Val := if v.isNan then v else v.withNeg (!v.neg)

/-- a − b (R275). -/
def fsub (c : FCtl) (f : Fmt) (a b : Val) : FRes := addRes c f [a, b] [a, b.negate]

/-- a · b (R275). -/
def fmul (c : FCtl) (f : Fmt) (a b : Val) : FRes :=
  if a.isNan || b.isNan then nanResult c f false [a, b]
  else match mulVal a b with
    | none => nanResult c f true [a, b]
    | some v => roundTo c f v

/-- ±(a · b) ± c with one rounding (R275): `np` negates the product, `nc` the addend. 0 · ∞ is invalid even
when the addend is a quiet NaN. -/
def ffma (c : FCtl) (f : Fmt) (np nc : Bool) (a b d : Val) : FRes :=
  let ops := [a, b, d]
  if a.isNan || b.isNan then nanResult c f false ops
  else match mulVal a b with
    | none => nanResult c f true ops
    | some p =>
      if d.isNan then nanResult c f false ops
      else match sumVal c.rnd [if np then p.negate else p, if nc then d.negate else d] with
        | none => nanResult c f true ops
        | some v => roundTo c f v

/-- Exact order of two values that are no NaN, −0 below +0 (R221). -/
def valLt (a b : Val) : Bool :=
  match a, b with
  | .inf n, .inf n' => n && !n'
  | .inf n, _ => n
  | _, .inf n => !n
  | .fin n m e, .fin n' m' e' =>
    if m == 0 && m' == 0 then n && !n'
    else
      let lo := min e e'
      let x : Int := (m : Int) * 2 ^ (e - lo).toNat
      let y : Int := (m' : Int) * 2 ^ (e' - lo).toNat
      (if n then -x else x) < (if n' then -y else y)
  | _, _ => false

/-- IEEE comparison of values that are no NaN: −0 equals +0 (R277). -/
def valEq (a b : Val) : Bool := (a.isZero && b.isZero) || (!valLt a b && !valLt b a)

/-- Minimum or maximum of two elements (R221): `mx` picks the maximum, `num` the number kind. The result
is an operand, not rounded, so only formats of 8 bits or fewer change it (R219); `flush` flushes a subnormal
result under FTZR, as the floating atomics do (R146). -/
def fminmax (c : FCtl) (f : Fmt) (mx num : Bool) (a b : Val) (flush : Bool := false) : FRes :=
  let sig : Flags := if a.isSig || b.isSig then fInv else fNone
  let pick (v : Val) : FRes := let r := roundTo { c with ftzr := c.ftzr && flush } f v; ⟨r.bits, r.fl ||| sig⟩
  if a.isNan && b.isNan then nanResult c f false [a, b]
  else if a.isNan then if num then pick b else nanResult c f false [a, b]
  else if b.isNan then if num then pick a else nanResult c f false [a, b]
  else if mx then pick (if valLt a b then b else a) else pick (if valLt b a then b else a)

/-- a ÷ b (R275): the quotient is carried to 130 bits with a sticky remainder, then rounded once. -/
def divVal (a b : Val) : Option (Val × Bool × Flags) :=
  let n := a.neg != b.neg
  match a, b with
  | .inf _, .inf _ => none
  | .inf _, _ => some (.inf n, false, fNone)
  | _, .inf _ => some (.fin n 0 0, false, fNone)
  | .fin _ m e, .fin _ m' e' =>
    if m' == 0 then (if m == 0 then none else some (.inf n, false, fDz))
    else
      let k := 130 + Nat.log2 m'
      some (.fin n (m * 2 ^ k / m') (e - e' - k), m * 2 ^ k % m' != 0, fNone)
  | _, _ => none

/-- Division with its special cases (R275). -/
def fdiv (c : FCtl) (f : Fmt) (a b : Val) : FRes :=
  if a.isNan || b.isNan then nanResult c f false [a, b]
  else match divVal a b with
    | none => nanResult c f true [a, b]
    | some (v, st, fl) => let r := roundTo c f v st; ⟨r.bits, r.fl ||| fl⟩

/-- ⌊√n⌋, one bit a step from bit `k` down. -/
def isqrtGo (n : Nat) : Nat → Nat → Nat
  | 0, r => r
  | k + 1, r => let t := r + 2 ^ k; isqrtGo n k (if t * t ≤ n then t else r)

/-- ⌊√n⌋. -/
def isqrt (n : Nat) : Nat := isqrtGo n (Nat.log2 n / 2 + 1) 0

/-- √x rounded (R278 FSQRT). -/
def fsqrt (c : FCtl) (f : Fmt) (a : Val) : FRes :=
  match a with
  | .nan .. => nanResult c f false [a]
  | .inf n => if n then nanResult c f true [a] else infResult c f false
  | .fin n m e =>
    if m == 0 then ⟨f.zero n, fNone⟩
    else if n then nanResult c f true [a]
    else
      let m2 := if e % 2 == 0 then m else 2 * m
      let e2 := if e % 2 == 0 then e else e - 1
      let r := isqrt (m2 * 2 ^ 160)
      roundTo c f (.fin false r (e2 / 2 - 80)) (r * r != m2 * 2 ^ 160)

/-- 1 ÷ √x rounded (R278 FRSQ). -/
def frsq (c : FCtl) (f : Fmt) (a : Val) : FRes :=
  match a with
  | .nan .. => nanResult c f false [a]
  | .inf n => if n then nanResult c f true [a] else ⟨f.zero false, fNone⟩
  | .fin n m e =>
    if m == 0 then ⟨f.infBits n, fDz⟩
    else if n then nanResult c f true [a]
    else
      let m2 := if e % 2 == 0 then m else 2 * m
      let e2 := if e % 2 == 0 then e else e - 1
      let k := 80 + Nat.log2 m2
      let r := isqrt (2 ^ (2 * k) / m2)
      roundTo c f (.fin false r (-(e2 / 2) - k)) (r * r * m2 != 2 ^ (2 * k))

/-- a · 2^n (R275 FSCALE). -/
def fscale (c : FCtl) (f : Fmt) (a : Val) (n : Int) : FRes :=
  match a with
  | .nan .. => nanResult c f false [a]
  | .inf s => infResult c f s
  | .fin s m e => roundTo c f (.fin s m (e + n))

/-- An exact value rounded to an integer: the integer and whether the value changed (R278, R280). -/
def roundInt (r : Rnd) (neg : Bool) (m : Nat) (e : Int) (sticky : Bool := false) : Int × Bool :=
  let (k, nx) := roundQuantum r neg m e 0 sticky
  (if neg then -(k : Int) else k, nx)

/-- The modes of FRINT, FFLOOR, FCEIL and FTRUNC (R278): `quietNx` leaves NX unraised. -/
def frint (c : FCtl) (f : Fmt) (r : Rnd) (quietNx : Bool) (a : Val) : FRes :=
  match a with
  | .fin n m e =>
    let (k, nx) := roundQuantum r n m e 0 false
    if k == 0 then ⟨f.zero n, if nx && !quietNx then fNx else fNone⟩
    else
      let v := roundTo c f (.fin n k 0)
      ⟨v.bits, v.fl ||| if nx && !quietNx then fNx else fNone⟩
  | v => roundTo c f v

/-- FCLASS (R278). -/
def fclass (f : Fmt) (b : Nat) : Nat :=
  match f.value b with
  | .nan _ s _ _ => if s then 256 else 512
  | .inf n => if n then 1 else 128
  | .fin n m _ =>
    if m == 0 then (if n then 8 else 16)
    else if f.isSub b then (if n then 4 else 32)
    else if n then 2 else 64

end Sys2Proof.Machine
end

