-- ==== Sys2Proof/Syntax.lean ====
section
/-! DEFINITION. Syntax: the operand structures of the encoded instructions (one per field layout of R236,
R239, R312, R325, R327, R350 and R359) and `Instr`, one constructor per row of the opcode table: the
instructions that have an encoding first, then the steps of the device that have none. -/

namespace Sys2Proof

/-- A guard (R237): predicate `p`, negated when `neg`. -/
structure Guard where
  neg : Bool
  p : Pred
deriving DecidableEq, Repr

/-- The guard that always holds: predicate 7, not negated (R237). -/
def Guard.always : Guard := { neg := false, p := 7 }

/-- Format RR with every register field zero. -/
structure OpG where
  g : Guard
deriving DecidableEq, Repr

/-- WAITC (R298): counter class and threshold. -/
structure OpWaitc where
  cls : BitVec 3
  thr : BitVec 7
  g : Guard
deriving DecidableEq, Repr

/-- SRD (R369): destination and special-register number. -/
structure OpSrd where
  d : Reg
  num : BitVec 6
  g : Guard
deriving DecidableEq, Repr

/-- Format RR with only vb used (SWR, R369). -/
structure OpB where
  b : Reg
  g : Guard
deriving DecidableEq, Repr

/-- TRAP and BKPT (R369): a 12-bit code. -/
structure OpCode where
  code : BitVec 12
  g : Guard
deriving DecidableEq, Repr

/-- BAR and BARA (R301): barrier number and count. -/
structure OpBar where
  n : BitVec 6
  bar : BitVec 4
  g : Guard
deriving DecidableEq, Repr

/-- BARW (R301): barrier number. -/
structure OpBarw where
  bar : BitVec 4
  g : Guard
deriving DecidableEq, Repr

/-- FENCE (R297): kind and scope. -/
structure OpFence where
  kind : BitVec 2
  scope : BitVec 3
  g : Guard
deriving DecidableEq, Repr

/-- Format RR with vd and va used. -/
structure OpDA where
  d : Reg
  a : Reg
  g : Guard
deriving DecidableEq, Repr

/-- Format RR with three registers (R236). -/
structure OpRR where
  d : Reg
  a : Reg
  b : Reg
  g : Guard
deriving DecidableEq, Repr

/-- Format RR with vd, va and a two-bit width or format code in vb (R263, R278). -/
structure OpDAW where
  d : Reg
  a : Reg
  w : BitVec 2
  g : Guard
deriving DecidableEq, Repr

/-- ICMP (R264). -/
structure OpIcmp where
  cond : BitVec 4
  w32 : Bool
  comb : BitVec 2
  q : Pred
  a : Reg
  b : Reg
  g : Guard
deriving DecidableEq, Repr

/-- Format RI (R236): vd, va and a ten-bit immediate. -/
structure OpRI where
  d : Reg
  a : Reg
  imm : BitVec 10
  g : Guard
deriving DecidableEq, Repr

/-- SHI (R267): element width and count in the immediate. -/
structure OpShi where
  d : Reg
  a : Reg
  w : BitVec 2
  cnt : BitVec 6
  g : Guard
deriving DecidableEq, Repr

/-- CMPI (R265). -/
structure OpCmpi where
  cond : BitVec 3
  q : Pred
  a : Reg
  imm : BitVec 10
  g : Guard
deriving DecidableEq, Repr

/-- MOVI (R266): a sixteen-bit immediate from the va field and imm10. -/
structure OpMovi where
  d : Reg
  imm : BitVec 16
  g : Guard
deriving DecidableEq, Repr

/-- LEA (R268): the minor is the shift. -/
structure OpLea where
  sh : BitVec 4
  d : Reg
  a : Reg
  b : Reg
  g : Guard
deriving DecidableEq, Repr

/-- F8 (R276): minor bit 3 is the format. -/
structure OpF8 where
  e5m2 : Bool
  d : Reg
  a : Reg
  b : Reg
  g : Guard
deriving DecidableEq, Repr

/-- FCMP (R277). -/
structure OpFcmp where
  cond : BitVec 4
  fmt : BitVec 2
  conj : Bool
  q : Pred
  a : Reg
  b : Reg
  g : Guard
deriving DecidableEq, Repr

/-- CVT (R279): destination and source format codes. -/
structure OpCvt where
  dst : BitVec 4
  d : Reg
  a : Reg
  sat : Bool
  src : BitVec 4
  g : Guard
deriving DecidableEq, Repr

/-- CVTS (R281): format slot. -/
structure OpCvts where
  slot : BitVec 3
  d : Reg
  a : Reg
  b : Reg
  g : Guard
deriving DecidableEq, Repr

/-- BCAST, XORL, ROTL (R284): a lane number. -/
structure OpLane where
  d : Reg
  a : Reg
  k : BitVec 5
  g : Guard
deriving DecidableEq, Repr

/-- RED, SCAN, SEGRED (R285): function code and type. -/
structure OpRed where
  d : Reg
  a : Reg
  fn : BitVec 4
  t : BitVec 2
  g : Guard
deriving DecidableEq, Repr

/-- MATCH (R284). -/
structure OpMatch where
  d : Reg
  a : Reg
  k32 : Bool
  g : Guard
deriving DecidableEq, Repr

/-- BALLOT (R284): a predicate source. -/
structure OpBallot where
  d : Reg
  neg : Bool
  q : Pred
  g : Guard
deriving DecidableEq, Repr

/-- VOTE (R284). -/
structure OpVote where
  q : Pred
  mode : BitVec 2
  neg : Bool
  s : Pred
  g : Guard
deriving DecidableEq, Repr

/-- Format RR with only vd used. -/
structure OpD where
  d : Reg
  g : Guard
deriving DecidableEq, Repr

/-- PSET (R271). -/
structure OpPset where
  q : Pred
  a : Reg
  bit : BitVec 6
  g : Guard
deriving DecidableEq, Repr

/-- PAND, POR, PXOR (R271): two predicate sources. -/
structure OpPP where
  q : Pred
  neg1 : Bool
  s1 : Pred
  neg2 : Bool
  s2 : Pred
  g : Guard
deriving DecidableEq, Repr

/-- PNOT (R271). -/
structure OpPnot where
  q : Pred
  neg1 : Bool
  s1 : Pred
  g : Guard
deriving DecidableEq, Repr

/-- TAGR (R286). -/
structure OpTagr where
  d : Reg
  h : Bool
  g : Guard
deriving DecidableEq, Repr

/-- Format B (R236): a signed displacement in words. -/
structure OpBr where
  disp : BitVec 22
  g : Guard
deriving DecidableEq, Repr

/-- Format RR with only va used. -/
structure OpA where
  a : Reg
  g : Guard
deriving DecidableEq, Repr

/-- REP (R246): count − 1, stepped fields and step − 1. -/
structure OpRep where
  cnt : BitVec 6
  stepD : Bool
  stepA : Bool
  stepB : Bool
  step : BitVec 4
deriving DecidableEq, Repr

/-- MOVX minors 0 and 1 (R269). -/
structure OpMovx where
  d : Reg
  la : BitVec 4
  imm : BitVec 28
  g : Guard
deriving DecidableEq, Repr

/-- MOVX minor 2 (R269). -/
structure OpMovxHi where
  d : Reg
  la : BitVec 4
  imm : BitVec 8
  g : Guard
deriving DecidableEq, Repr

/-- BFXI (R270). -/
structure OpBfxi where
  d : Reg
  a : Reg
  la : BitVec 4
  wid : BitVec 7
  off : BitVec 6
  g : Guard
deriving DecidableEq, Repr

/-- Loads: vd, va and the extension of R239. -/
structure OpLd where
  d : Reg
  a : Reg
  la : BitVec 4
  space : BitVec 3
  scope : BitVec 3
  order : BitVec 2
  hint : BitVec 2
  off : BitVec 18
  g : Guard
deriving DecidableEq, Repr

/-- Stores and crew operations with va and vb and the extension of R239. -/
structure OpSt where
  a : Reg
  b : Reg
  la : BitVec 4
  space : BitVec 3
  scope : BitVec 3
  order : BitVec 2
  hint : BitVec 2
  off : BitVec 18
  g : Guard
deriving DecidableEq, Repr

/-- An address in va and the extension of R239. -/
structure OpAd where
  a : Reg
  la : BitVec 4
  space : BitVec 3
  scope : BitVec 3
  order : BitVec 2
  hint : BitVec 2
  off : BitVec 18
  g : Guard
deriving DecidableEq, Repr

/-- Three registers and the extension of R239. -/
structure OpDabExt where
  d : Reg
  a : Reg
  b : Reg
  la : BitVec 4
  space : BitVec 3
  scope : BitVec 3
  order : BitVec 2
  hint : BitVec 2
  off : BitVec 18
  g : Guard
deriving DecidableEq, Repr

/-- MACL and MACS (R336): tile, address, pitch and the extension of R239. -/
structure OpTileMem where
  tile : BitVec 6
  a : Reg
  b : Reg
  la : BitVec 4
  space : BitVec 3
  scope : BitVec 3
  order : BitVec 2
  hint : BitVec 2
  off : BitVec 18
  g : Guard
deriving DecidableEq, Repr

/-- Returning atomics (R140). -/
structure OpAt where
  d : Reg
  a : Reg
  b : Reg
  la : BitVec 4
  space : BitVec 3
  scope : BitVec 3
  order : BitVec 2
  ord : Bool
  typ : BitVec 3
  off : BitVec 16
  g : Guard
deriving DecidableEq, Repr

/-- Posted atomics (R140). -/
structure OpAtn where
  a : Reg
  b : Reg
  la : BitVec 4
  space : BitVec 3
  scope : BitVec 3
  order : BitVec 2
  ord : Bool
  typ : BitVec 3
  off : BitVec 16
  g : Guard
deriving DecidableEq, Repr

/-- Task instruction with vd and va (R312). -/
structure OpTkDA where
  d : Reg
  a : Reg
  la : BitVec 4
  off : BitVec 18
  g : Guard
deriving DecidableEq, Repr

/-- Task instruction with va and vb (R312). -/
structure OpTkAB where
  a : Reg
  b : Reg
  la : BitVec 4
  off : BitVec 18
  g : Guard
deriving DecidableEq, Repr

/-- Task instruction with vd, va and vb (R312). -/
structure OpTkDAB where
  d : Reg
  a : Reg
  b : Reg
  la : BitVec 4
  off : BitVec 18
  g : Guard
deriving DecidableEq, Repr

/-- PRDR (R312). -/
structure OpTkDB where
  d : Reg
  b : Reg
  la : BitVec 4
  off : BitVec 18
  g : Guard
deriving DecidableEq, Repr

/-- VPUB and VFIN (R312): a predicate destination. -/
structure OpTkQA where
  q : Pred
  a : Reg
  la : BitVec 4
  off : BitVec 18
  g : Guard
deriving DecidableEq, Repr

/-- Task instruction with va (R312). -/
structure OpTkA where
  a : Reg
  la : BitVec 4
  off : BitVec 18
  g : Guard
deriving DecidableEq, Repr

/-- VREL (R312): the buffer in IMM8. -/
structure OpTkRel where
  a : Reg
  buf : Bool
  la : BitVec 4
  off : BitVec 18
  g : Guard
deriving DecidableEq, Repr

/-- GSYNC (R312). -/
structure OpTkG where
  la : BitVec 4
  off : BitVec 18
  g : Guard
deriving DecidableEq, Repr

/-- MMA (R327). -/
structure OpMma where
  a : Reg
  b : Reg
  la : BitVec 4
  aslot : BitVec 3
  bslot : BitVec 3
  tile : BitVec 6
  km1 : BitVec 12
  clr : Bool
  skip : Bool
  cplx : Bool
  g : Guard
deriving DecidableEq, Repr

/-- MMAP initiator (R327). -/
structure OpMmap where
  d : Reg
  a : Reg
  b : Reg
  la : BitVec 4
  aslot : BitVec 3
  bslot : BitVec 3
  tile : BitVec 6
  km1 : BitVec 10
  dir : BitVec 2
  clr : Bool
  skip : Bool
  cplx : Bool
  g : Guard
deriving DecidableEq, Repr

/-- MMAP partner (R327): TILE and CLR are zero. -/
structure OpMmapP where
  d : Reg
  a : Reg
  b : Reg
  la : BitVec 4
  aslot : BitVec 3
  bslot : BitVec 3
  km1 : BitVec 10
  dir : BitVec 2
  skip : Bool
  cplx : Bool
  g : Guard
deriving DecidableEq, Repr

/-- MACZ (R325). -/
structure OpMacz where
  tile : BitVec 6
  la : BitVec 4
  ntm1 : BitVec 3
  g : Guard
deriving DecidableEq, Repr

/-- RSTAT (R325). -/
structure OpRstat where
  d : Reg
  la : BitVec 4
  tile : BitVec 6
  g : Guard
deriving DecidableEq, Repr

/-- Two-word instruction with va and LA. -/
structure OpXA where
  a : Reg
  la : BitVec 4
  g : Guard
deriving DecidableEq, Repr

/-- Two-word instruction with LA only. -/
structure OpXG where
  la : BitVec 4
  g : Guard
deriving DecidableEq, Repr

/-- BPASS (R325). -/
structure OpBpass where
  la : BitVec 4
  expl : Bool
  tgt : BitVec 5
  g : Guard
deriving DecidableEq, Repr

/-- NLS (R325). -/
structure OpNls where
  a : Reg
  la : BitVec 4
  dir : BitVec 2
  g : Guard
deriving DecidableEq, Repr

/-- NLR (R325). -/
structure OpNlr where
  d : Reg
  la : BitVec 4
  dir : BitVec 2
  g : Guard
deriving DecidableEq, Repr

/-- MSCL (R332): scale register bases. -/
structure OpMscl where
  sa : Reg
  sb : Reg
  la : BitVec 4
  g : Guard
deriving DecidableEq, Repr

/-- KCPL (R350). -/
structure OpKcpl where
  a : Reg
  b : Reg
  la : BitVec 4
  space : BitVec 3
  row0 : BitVec 8
  nm1 : BitVec 8
  g : Guard
deriving DecidableEq, Repr

/-- KBIAS (R350). -/
structure OpKbias where
  a : Reg
  b : Reg
  la : BitVec 4
  space : BitVec 3
  bonly : Bool
  g : Guard
deriving DecidableEq, Repr

/-- Two-word instruction with va, vb and LA. -/
structure OpXAB where
  a : Reg
  b : Reg
  la : BitVec 4
  g : Guard
deriving DecidableEq, Repr

/-- Two-word instruction with vb and LA. -/
structure OpXB where
  b : Reg
  la : BitVec 4
  g : Guard
deriving DecidableEq, Repr

/-- KSWP (R350). -/
structure OpKswp where
  a : Reg
  b : Reg
  la : BitVec 4
  nm1 : BitVec 16
  pub : Bool
  fin : Bool
  g : Guard
deriving DecidableEq, Repr

/-- KCNT (R350). -/
structure OpKcnt where
  d : Reg
  la : BitVec 4
  clr : Bool
  g : Guard
deriving DecidableEq, Repr

/-- Two-word instruction with vd and LA. -/
structure OpXD where
  d : Reg
  la : BitVec 4
  g : Guard
deriving DecidableEq, Repr

/-- KMODE.INJECT (R350): a bias value. -/
structure OpKinj where
  la : BitVec 4
  bias : BitVec 16
  g : Guard
deriving DecidableEq, Repr

/-- KBND (R350). -/
structure OpKbnd where
  a : Reg
  b : Reg
  la : BitVec 4
  s : BitVec 3
  g0 : BitVec 5
  nm1 : BitVec 5
  g : Guard
deriving DecidableEq, Repr

/-- KBND unbind form (R350). -/
structure OpKunb where
  la : BitVec 4
  g0 : BitVec 5
  nm1 : BitVec 5
  g : Guard
deriving DecidableEq, Repr

/-- GCPL (R359). -/
structure OpGcpl where
  a : Reg
  b : Reg
  la : BitVec 4
  space : BitVec 3
  row0 : BitVec 6
  nm1 : BitVec 6
  g : Guard
deriving DecidableEq, Repr

/-- GBIAS (R359). -/
structure OpGbias where
  a : Reg
  b : Reg
  la : BitVec 4
  tonly : Bool
  g : Guard
deriving DecidableEq, Repr

/-- GRUN (R359). -/
structure OpGrun where
  a : Reg
  b : Reg
  la : BitVec 4
  nwm1 : BitVec 16
  pub : Bool
  fin : Bool
  cum : Bool
  cov : Bool
  g : Guard
deriving DecidableEq, Repr

/-- GRDM (R359). -/
structure OpGrdm where
  d : Reg
  la : BitVec 4
  sel : BitVec 2
  g : Guard
deriving DecidableEq, Repr

/-- GRDC (R359). -/
structure OpGrdc where
  d : Reg
  la : BitVec 4
  row : BitVec 6
  g : Guard
deriving DecidableEq, Repr

/-- GRES (R359). -/
structure OpGres where
  d : Reg
  b : Reg
  la : BitVec 4
  sc : BitVec 6
  g : Guard
deriving DecidableEq, Repr


/-- One constructor per row of the opcode table. The docstring names the row's rule. -/
inductive Instr where
  /-- NOP (R256): Does nothing in any lane. -/
  | nop (o : OpG)
  /-- WAITC (R298): Holds the issue group until the named counter is at or below the threshold. -/
  | waitc (o : OpWaitc)
  /-- YIELD (R299): Yield point at which the crew stops if PREEMPT or CANCEL is set. -/
  | yield (o : OpG)
  /-- SRD (R370): Reads a special register into every active lane of vd. -/
  | srd (o : OpSrd)
  /-- SWR_FSTAT (R370): Writes the sticky flags FSTAT[4:0] from vb. -/
  | swrFstat (o : OpB)
  /-- SWR_CTMR (R370): Arms or stops the crew timer; ARM with REMAIN 0 faults at once. -/
  | swrCtmr (o : OpB)
  /-- SWR_GANGR (R370): Writes the gang list without checks. -/
  | swrGangr (o : OpB)
  /-- SWR_KEY0 (R370): Writes key half k0 for later RNG instructions. -/
  | swrKey0 (o : OpB)
  /-- SWR_KEY1 (R370): Writes key half k1 for later RNG instructions. -/
  | swrKey1 (o : OpB)
  /-- TRAP (R371): Raises a software-trap fault with a 12-bit code, PCs past the instruction. -/
  | trap (o : OpCode)
  /-- BKPT (R371): Raises a breakpoint fault with a 12-bit code, PCs on the instruction. -/
  | bkpt (o : OpCode)
  /-- EXIT (R372): Sets the exited bit in each active lane and re-evaluates holds. -/
  | exit (o : OpG)
  /-- BAR (R301): Arrives at a team barrier and waits for its generation to complete. -/
  | bar (o : OpBar)
  /-- BARA (R301): Arrives at a team barrier without waiting. -/
  | bara (o : OpBar)
  /-- BARW (R301): Waits until the crew's pending bit for the barrier clears. -/
  | barw (o : OpBarw)
  /-- FENCE (R297): Acquire, release, acq-rel or full fence at a scope. -/
  | fence (o : OpFence)
  /-- ERET (R374): Ends the handler crew after its counters drain, acting as a full device fence. -/
  | eret (o : OpG)
  /-- WINR (R375): Handler reads an item of a stopped crew through the access window. -/
  | winr (o : OpDA)
  /-- WINW (R375): Handler writes an item of a stopped crew through the access window. -/
  | winw (o : OpRR)
  /-- I64_ADD (R262): Integer add at width 64. -/
  | i64Add (o : OpRR)
  /-- I64_SUB (R262): Integer subtract at width 64. -/
  | i64Sub (o : OpRR)
  /-- I64_MUL (R262): Low half of integer product at width 64. -/
  | i64Mul (o : OpRR)
  /-- I64_MULH (R262): High half of signed product at width 64. -/
  | i64Mulh (o : OpRR)
  /-- I64_MULHU (R262): High half of unsigned product at width 64. -/
  | i64Mulhu (o : OpRR)
  /-- I64_MIN (R262): Signed minimum at width 64. -/
  | i64Min (o : OpRR)
  /-- I64_MAX (R262): Signed maximum at width 64. -/
  | i64Max (o : OpRR)
  /-- I64_MINU (R262): Unsigned minimum at width 64. -/
  | i64Minu (o : OpRR)
  /-- I64_MAXU (R262): Unsigned maximum at width 64. -/
  | i64Maxu (o : OpRR)
  /-- I64_AND (R262): Bitwise AND at width 64. -/
  | i64And (o : OpRR)
  /-- I64_OR (R262): Bitwise OR at width 64. -/
  | i64Or (o : OpRR)
  /-- I64_XOR (R262): Bitwise XOR at width 64. -/
  | i64Xor (o : OpRR)
  /-- I64_SHL (R262): Shift left at width 64. -/
  | i64Shl (o : OpRR)
  /-- I64_SHR (R262): Logical shift right at width 64. -/
  | i64Shr (o : OpRR)
  /-- I64_SAR (R262): Arithmetic shift right at width 64. -/
  | i64Sar (o : OpRR)
  /-- I64_ADDSAT (R262): Signed saturating add at width 64. -/
  | i64Addsat (o : OpRR)
  /-- I32_ADD (R262): Integer add at width 32. -/
  | i32Add (o : OpRR)
  /-- I32_SUB (R262): Integer subtract at width 32. -/
  | i32Sub (o : OpRR)
  /-- I32_MUL (R262): Low half of integer product at width 32. -/
  | i32Mul (o : OpRR)
  /-- I32_MULH (R262): High half of signed product at width 32. -/
  | i32Mulh (o : OpRR)
  /-- I32_MULHU (R262): High half of unsigned product at width 32. -/
  | i32Mulhu (o : OpRR)
  /-- I32_MIN (R262): Signed minimum at width 32. -/
  | i32Min (o : OpRR)
  /-- I32_MAX (R262): Signed maximum at width 32. -/
  | i32Max (o : OpRR)
  /-- I32_MINU (R262): Unsigned minimum at width 32. -/
  | i32Minu (o : OpRR)
  /-- I32_MAXU (R262): Unsigned maximum at width 32. -/
  | i32Maxu (o : OpRR)
  /-- I32_AND (R262): Bitwise AND at width 32. -/
  | i32And (o : OpRR)
  /-- I32_OR (R262): Bitwise OR at width 32. -/
  | i32Or (o : OpRR)
  /-- I32_XOR (R262): Bitwise XOR at width 32. -/
  | i32Xor (o : OpRR)
  /-- I32_SHL (R262): Shift left at width 32. -/
  | i32Shl (o : OpRR)
  /-- I32_SHR (R262): Logical shift right at width 32. -/
  | i32Shr (o : OpRR)
  /-- I32_SAR (R262): Arithmetic shift right at width 32. -/
  | i32Sar (o : OpRR)
  /-- I32_ADDSAT (R262): Signed saturating add at width 32. -/
  | i32Addsat (o : OpRR)
  /-- I16_ADD (R262): Integer add at width 16. -/
  | i16Add (o : OpRR)
  /-- I16_SUB (R262): Integer subtract at width 16. -/
  | i16Sub (o : OpRR)
  /-- I16_MUL (R262): Low half of integer product at width 16. -/
  | i16Mul (o : OpRR)
  /-- I16_MULH (R262): High half of signed product at width 16. -/
  | i16Mulh (o : OpRR)
  /-- I16_MULHU (R262): High half of unsigned product at width 16. -/
  | i16Mulhu (o : OpRR)
  /-- I16_MIN (R262): Signed minimum at width 16. -/
  | i16Min (o : OpRR)
  /-- I16_MAX (R262): Signed maximum at width 16. -/
  | i16Max (o : OpRR)
  /-- I16_MINU (R262): Unsigned minimum at width 16. -/
  | i16Minu (o : OpRR)
  /-- I16_MAXU (R262): Unsigned maximum at width 16. -/
  | i16Maxu (o : OpRR)
  /-- I16_AND (R262): Bitwise AND at width 16. -/
  | i16And (o : OpRR)
  /-- I16_OR (R262): Bitwise OR at width 16. -/
  | i16Or (o : OpRR)
  /-- I16_XOR (R262): Bitwise XOR at width 16. -/
  | i16Xor (o : OpRR)
  /-- I16_SHL (R262): Shift left at width 16. -/
  | i16Shl (o : OpRR)
  /-- I16_SHR (R262): Logical shift right at width 16. -/
  | i16Shr (o : OpRR)
  /-- I16_SAR (R262): Arithmetic shift right at width 16. -/
  | i16Sar (o : OpRR)
  /-- I16_ADDSAT (R262): Signed saturating add at width 16. -/
  | i16Addsat (o : OpRR)
  /-- I8_ADD (R262): Integer add at width 8. -/
  | i8Add (o : OpRR)
  /-- I8_SUB (R262): Integer subtract at width 8. -/
  | i8Sub (o : OpRR)
  /-- I8_MUL (R262): Low half of integer product at width 8. -/
  | i8Mul (o : OpRR)
  /-- I8_MULH (R262): High half of signed product at width 8. -/
  | i8Mulh (o : OpRR)
  /-- I8_MULHU (R262): High half of unsigned product at width 8. -/
  | i8Mulhu (o : OpRR)
  /-- I8_MIN (R262): Signed minimum at width 8. -/
  | i8Min (o : OpRR)
  /-- I8_MAX (R262): Signed maximum at width 8. -/
  | i8Max (o : OpRR)
  /-- I8_MINU (R262): Unsigned minimum at width 8. -/
  | i8Minu (o : OpRR)
  /-- I8_MAXU (R262): Unsigned maximum at width 8. -/
  | i8Maxu (o : OpRR)
  /-- I8_AND (R262): Bitwise AND at width 8. -/
  | i8And (o : OpRR)
  /-- I8_OR (R262): Bitwise OR at width 8. -/
  | i8Or (o : OpRR)
  /-- I8_XOR (R262): Bitwise XOR at width 8. -/
  | i8Xor (o : OpRR)
  /-- I8_SHL (R262): Shift left at width 8. -/
  | i8Shl (o : OpRR)
  /-- I8_SHR (R262): Logical shift right at width 8. -/
  | i8Shr (o : OpRR)
  /-- I8_SAR (R262): Arithmetic shift right at width 8. -/
  | i8Sar (o : OpRR)
  /-- I8_ADDSAT (R262): Signed saturating add at width 8. -/
  | i8Addsat (o : OpRR)
  /-- NEG (R263): Negates each element of va. -/
  | iunNeg (o : OpDAW)
  /-- ABS (R263): Signed absolute value of each element. -/
  | iunAbs (o : OpDAW)
  /-- NOT (R263): Bitwise complement of each element. -/
  | iunNot (o : OpDAW)
  /-- CLZ (R263): Counts leading zero bits of each element. -/
  | iunClz (o : OpDAW)
  /-- CTZ (R263): Counts trailing zero bits of each element. -/
  | iunCtz (o : OpDAW)
  /-- POPC (R263): Counts one bits of each element. -/
  | iunPopc (o : OpDAW)
  /-- BREV (R263): Reverses the bits of each element. -/
  | iunBrev (o : OpDAW)
  /-- BSWAP (R263): Reverses the bytes of each element. -/
  | iunBswap (o : OpDAW)
  /-- SXT (R263): Sign-extends the low w bits of the lane to 64 bits. -/
  | iunSxt (o : OpDAW)
  /-- ZXT (R263): Zero-extends the low w bits of the lane to 64 bits. -/
  | iunZxt (o : OpDAW)
  /-- ICMP (R264): Compares va with vb under a condition and sets or combines a predicate. -/
  | icmp (o : OpIcmp)
  /-- ADDI (R266): Adds a sign-extended 10-bit immediate. -/
  | addi (o : OpRI)
  /-- ANDI (R266): ANDs with a sign-extended immediate. -/
  | andi (o : OpRI)
  /-- ORI (R266): ORs with a sign-extended immediate. -/
  | ori (o : OpRI)
  /-- XORI (R266): XORs with a sign-extended immediate. -/
  | xori (o : OpRI)
  /-- SHLI (R267): Shifts each element left by an immediate count. -/
  | shli (o : OpShi)
  /-- SHRI (R267): Shifts each element right logically by an immediate count. -/
  | shri (o : OpShi)
  /-- SARI (R267): Shifts each element right arithmetically by an immediate count. -/
  | sari (o : OpShi)
  /-- RORI (R267): Rotates each element right by an immediate count. -/
  | rori (o : OpShi)
  /-- CMPI (R265): Compares va with a sign-extended immediate and sets a predicate. -/
  | cmpi (o : OpCmpi)
  /-- MOVI (R266): Writes a sign-extended 16-bit immediate. -/
  | movi (o : OpMovi)
  /-- LEA (R268): Computes va plus vb shifted left by 0-15. -/
  | lea (o : OpLea)
  /-- BFXU (R270): Extracts an unsigned bit field with offset and width from vb. -/
  | bfxu (o : OpRR)
  /-- BFXS (R270): Extracts a signed bit field with offset and width from vb. -/
  | bfxs (o : OpRR)
  /-- BFI (R270): Inserts a bit field into vd. -/
  | bfi (o : OpRR)
  /-- BFM (R270): Deposits a bit field into zeros. -/
  | bfm (o : OpRR)
  /-- F64_FADD (R275): FP64 add. -/
  | f64Fadd (o : OpRR)
  /-- F64_FSUB (R275): FP64 subtract. -/
  | f64Fsub (o : OpRR)
  /-- F64_FMUL (R275): FP64 multiply. -/
  | f64Fmul (o : OpRR)
  /-- F64_FMA (R275): FP64 fused multiply-add into vd. -/
  | f64Fma (o : OpRR)
  /-- F64_FMS (R275): FP64 fused multiply-subtract. -/
  | f64Fms (o : OpRR)
  /-- F64_FNMA (R275): FP64 fused negated multiply-add. -/
  | f64Fnma (o : OpRR)
  /-- F64_FMIN (R275): FP64 propagating minimum. -/
  | f64Fmin (o : OpRR)
  /-- F64_FMAX (R275): FP64 propagating maximum. -/
  | f64Fmax (o : OpRR)
  /-- F64_FMINNM (R275): FP64 number minimum. -/
  | f64Fminnm (o : OpRR)
  /-- F64_FMAXNM (R275): FP64 number maximum. -/
  | f64Fmaxnm (o : OpRR)
  /-- F64_FABD (R275): FP64 absolute difference. -/
  | f64Fabd (o : OpRR)
  /-- F64_FSCALE (R275): FP64 multiply by a power of two. -/
  | f64Fscale (o : OpRR)
  /-- F64_FDIV (R275): FP64 divide. -/
  | f64Fdiv (o : OpRR)
  /-- F64_FCPYS (R275): FP64 copy sign. -/
  | f64Fcpys (o : OpRR)
  /-- F32_FADD (R275): Packed FP32 add. -/
  | f32Fadd (o : OpRR)
  /-- F32_FSUB (R275): Packed FP32 subtract. -/
  | f32Fsub (o : OpRR)
  /-- F32_FMUL (R275): Packed FP32 multiply. -/
  | f32Fmul (o : OpRR)
  /-- F32_FMA (R275): Packed FP32 fused multiply-add. -/
  | f32Fma (o : OpRR)
  /-- F32_FMS (R275): Packed FP32 fused multiply-subtract. -/
  | f32Fms (o : OpRR)
  /-- F32_FNMA (R275): Packed FP32 fused negated multiply-add. -/
  | f32Fnma (o : OpRR)
  /-- F32_FMIN (R275): Packed FP32 propagating minimum. -/
  | f32Fmin (o : OpRR)
  /-- F32_FMAX (R275): Packed FP32 propagating maximum. -/
  | f32Fmax (o : OpRR)
  /-- F32_FMINNM (R275): Packed FP32 number minimum. -/
  | f32Fminnm (o : OpRR)
  /-- F32_FMAXNM (R275): Packed FP32 number maximum. -/
  | f32Fmaxnm (o : OpRR)
  /-- F32_FABD (R275): Packed FP32 absolute difference. -/
  | f32Fabd (o : OpRR)
  /-- F32_FSCALE (R275): Packed FP32 multiply by a power of two. -/
  | f32Fscale (o : OpRR)
  /-- F32_FDIV (R275): Packed FP32 divide. -/
  | f32Fdiv (o : OpRR)
  /-- F32_FCPYS (R275): Packed FP32 copy sign. -/
  | f32Fcpys (o : OpRR)
  /-- F16_FADD (R275): Packed FP16 add. -/
  | f16Fadd (o : OpRR)
  /-- F16_FSUB (R275): Packed FP16 subtract. -/
  | f16Fsub (o : OpRR)
  /-- F16_FMUL (R275): Packed FP16 multiply. -/
  | f16Fmul (o : OpRR)
  /-- F16_FMA (R275): Packed FP16 fused multiply-add. -/
  | f16Fma (o : OpRR)
  /-- F16_FMS (R275): Packed FP16 fused multiply-subtract. -/
  | f16Fms (o : OpRR)
  /-- F16_FNMA (R275): Packed FP16 fused negated multiply-add. -/
  | f16Fnma (o : OpRR)
  /-- F16_FMIN (R275): Packed FP16 propagating minimum. -/
  | f16Fmin (o : OpRR)
  /-- F16_FMAX (R275): Packed FP16 propagating maximum. -/
  | f16Fmax (o : OpRR)
  /-- F16_FMINNM (R275): Packed FP16 number minimum. -/
  | f16Fminnm (o : OpRR)
  /-- F16_FMAXNM (R275): Packed FP16 number maximum. -/
  | f16Fmaxnm (o : OpRR)
  /-- F16_FABD (R275): Packed FP16 absolute difference. -/
  | f16Fabd (o : OpRR)
  /-- F16_FSCALE (R275): Packed FP16 multiply by a power of two. -/
  | f16Fscale (o : OpRR)
  /-- F16_FDIV (R275): Packed FP16 divide. -/
  | f16Fdiv (o : OpRR)
  /-- F16_FCPYS (R275): Packed FP16 copy sign. -/
  | f16Fcpys (o : OpRR)
  /-- B16_FADD (R275): Packed BF16 add. -/
  | b16Fadd (o : OpRR)
  /-- B16_FSUB (R275): Packed BF16 subtract. -/
  | b16Fsub (o : OpRR)
  /-- B16_FMUL (R275): Packed BF16 multiply. -/
  | b16Fmul (o : OpRR)
  /-- B16_FMA (R275): Packed BF16 fused multiply-add. -/
  | b16Fma (o : OpRR)
  /-- B16_FMS (R275): Packed BF16 fused multiply-subtract. -/
  | b16Fms (o : OpRR)
  /-- B16_FNMA (R275): Packed BF16 fused negated multiply-add. -/
  | b16Fnma (o : OpRR)
  /-- B16_FMIN (R275): Packed BF16 propagating minimum. -/
  | b16Fmin (o : OpRR)
  /-- B16_FMAX (R275): Packed BF16 propagating maximum. -/
  | b16Fmax (o : OpRR)
  /-- B16_FMINNM (R275): Packed BF16 number minimum. -/
  | b16Fminnm (o : OpRR)
  /-- B16_FMAXNM (R275): Packed BF16 number maximum. -/
  | b16Fmaxnm (o : OpRR)
  /-- B16_FABD (R275): Packed BF16 absolute difference. -/
  | b16Fabd (o : OpRR)
  /-- B16_FSCALE (R275): Packed BF16 multiply by a power of two. -/
  | b16Fscale (o : OpRR)
  /-- B16_FDIV (R275): Packed BF16 divide. -/
  | b16Fdiv (o : OpRR)
  /-- B16_FCPYS (R275): Packed BF16 copy sign. -/
  | b16Fcpys (o : OpRR)
  /-- F8_FADD (R276): Adds eight E4M3 or E5M2 elements per lane. -/
  | f8Fadd (o : OpF8)
  /-- F8_FSUB (R276): Subtracts eight 8-bit float elements per lane. -/
  | f8Fsub (o : OpF8)
  /-- F8_FMUL (R276): Multiplies eight 8-bit float elements per lane. -/
  | f8Fmul (o : OpF8)
  /-- F8_FMIN (R276): Propagating minimum of 8-bit float elements. -/
  | f8Fmin (o : OpF8)
  /-- F8_FMAX (R276): Propagating maximum of 8-bit float elements. -/
  | f8Fmax (o : OpF8)
  /-- FCMP (R277): IEEE floating comparison of element 0 into a predicate. -/
  | fcmp (o : OpFcmp)
  /-- FSQRT (R278): Square root of each element. -/
  | fsqrt (o : OpDAW)
  /-- FRCP (R278): Reciprocal of each element. -/
  | frcp (o : OpDAW)
  /-- FRSQ (R278): Reciprocal square root of each element. -/
  | frsq (o : OpDAW)
  /-- FEXP2 (R278): Two to the power of each element. -/
  | fexp2 (o : OpDAW)
  /-- FLOG2 (R278): Base-2 logarithm of each element. -/
  | flog2 (o : OpDAW)
  /-- FSIN (R278): sin(pi x) of each element. -/
  | fsin (o : OpDAW)
  /-- FCOS (R278): cos(pi x) of each element. -/
  | fcos (o : OpDAW)
  /-- FTANH (R278): Hyperbolic tangent of each element. -/
  | ftanh (o : OpDAW)
  /-- FSIGM (R278): Logistic sigmoid of each element. -/
  | fsigm (o : OpDAW)
  /-- FRINT (R278): Rounds each element to an integral value in CMR mode. -/
  | frint (o : OpDAW)
  /-- FFLOOR (R278): Rounds each element toward minus infinity. -/
  | ffloor (o : OpDAW)
  /-- FCEIL (R278): Rounds each element toward plus infinity. -/
  | fceil (o : OpDAW)
  /-- FTRUNC (R278): Rounds each element toward zero. -/
  | ftrunc (o : OpDAW)
  /-- FNEG (R278): Inverts the sign bit of each element. -/
  | fneg (o : OpDAW)
  /-- FABS (R278): Clears the sign bit of each element. -/
  | fabs (o : OpDAW)
  /-- FCLASS (R278): Writes a one-hot class mask for each element. -/
  | fclass (o : OpDAW)
  /-- CVT (R280): Converts elements from a source format to a destination format. -/
  | cvt (o : OpCvt)
  /-- CVTS_PACK (R282): Packs FP32 values into a scaled slot format. -/
  | cvtsPack (o : OpCvts)
  /-- CVTS_UNPACK (R282): Unpacks a scaled slot format into FP32 values. -/
  | cvtsUnpack (o : OpCvts)
  /-- DOT8S (R283): Accumulates eight INT8 products into vd. -/
  | dot8s (o : OpRR)
  /-- DOT8U (R283): Accumulates eight UINT8 products into vd. -/
  | dot8u (o : OpRR)
  /-- DOT4S (R283): Accumulates sixteen INT4 products into vd. -/
  | dot4s (o : OpRR)
  /-- DOT4U (R283): Accumulates sixteen UINT4 products into vd. -/
  | dot4u (o : OpRR)
  /-- DOTE4 (R283): Accumulates eight E4M3 products into an FP32 vd. -/
  | dote4 (o : OpRR)
  /-- DOTE5 (R283): Accumulates eight E5M2 products into an FP32 vd. -/
  | dote5 (o : OpRR)
  /-- DOTB (R283): Accumulates four BF16 products into an FP32 vd. -/
  | dotb (o : OpRR)
  /-- DOTH (R283): Accumulates four FP16 products into an FP32 vd. -/
  | doth (o : OpRR)
  /-- DOT2S (R283): Accumulates thirty-two INT2 products into vd. -/
  | dot2s (o : OpRR)
  /-- SHFL64 (R284): Shuffles 64-bit elements across the crew by index. -/
  | shfl64 (o : OpRR)
  /-- SHFL32 (R284): Shuffles 32-bit elements across the crew by index. -/
  | shfl32 (o : OpRR)
  /-- SHFL16 (R284): Shuffles 16-bit elements across the crew by index. -/
  | shfl16 (o : OpRR)
  /-- SHFL8 (R284): Shuffles 8-bit elements across the crew by index. -/
  | shfl8 (o : OpRR)
  /-- BCAST (R284): Broadcasts lane k of va. -/
  | bcast (o : OpLane)
  /-- XORL (R284): Reads lane l XOR m of va. -/
  | xorl (o : OpLane)
  /-- ROTL (R284): Reads lane (l + m) mod 32 of va. -/
  | rotl (o : OpLane)
  /-- RED (R284): Reduces active elements with a fixed pairwise tree. -/
  | red (o : OpRed)
  /-- SCAN (R284): Sequential inclusive scan over active elements. -/
  | scan (o : OpRed)
  /-- MATCH (R284): Writes the mask of active lanes with an equal key. -/
  | laneMatch (o : OpMatch)
  /-- BALLOT (R284): Writes the mask of active lanes whose predicate is 1. -/
  | ballot (o : OpBallot)
  /-- VOTE (R284): Writes ALL, ANY or UNI of a predicate into a predicate. -/
  | vote (o : OpVote)
  /-- SPERM (R284): Permutes bytes within each lane. -/
  | sperm (o : OpRR)
  /-- ACTV (R284): Writes the active mask and the count of active lanes below. -/
  | actv (o : OpD)
  /-- SEGRED (R284): Reduces over the segment mask held in vd. -/
  | segred (o : OpRed)
  /-- MOV (R271): Copies va to vd. -/
  | mov (o : OpDA)
  /-- SEL (R272): Selects va or vb per lane by the guard predicate. -/
  | sel (o : OpRR)
  /-- MOVP (R271): Moves the lane's predicates into a register. -/
  | movp (o : OpD)
  /-- PSET (R271): Sets a predicate from a bit of va. -/
  | pset (o : OpPset)
  /-- PAND (R271): ANDs two predicate sources. -/
  | pand (o : OpPP)
  /-- POR (R271): ORs two predicate sources. -/
  | por (o : OpPP)
  /-- PXOR (R271): XORs two predicate sources. -/
  | pxor (o : OpPP)
  /-- PNOT (R271): Negates a predicate source. -/
  | pnot (o : OpPnot)
  /-- SETU (R286): Writes all 32 lanes with va's lane 0 value, tag U. -/
  | setu (o : OpDA)
  /-- SETA (R286): Writes all lanes as an affine progression from lanes 0 and 1, tag A. -/
  | seta (o : OpDA)
  /-- TAGR (R286): Reads the shape tags of 32 registers. -/
  | tagr (o : OpTagr)
  /-- CLRV (R271): Writes zero to vd. -/
  | clrv (o : OpD)
  /-- RNG64 (R287): Writes VK64 of the lane counter under KEY0 and KEY1. -/
  | rng64 (o : OpDA)
  /-- RNGU (R287): Writes a uniform FP32 in [0,1) from VK64. -/
  | rngu (o : OpDA)
  /-- RNGB (R287): Writes a Bernoulli bit from VK64 and a threshold. -/
  | rngb (o : OpRR)
  /-- BR (R257): Branches active lanes to a PC-relative target. -/
  | br (o : OpBr)
  /-- CALL (R257): Writes the return address to v0 and branches. -/
  | call (o : OpBr)
  /-- SETM (R257): Sets the meeting register to a PC-relative target. -/
  | setm (o : OpBr)
  /-- JMP (R258): Jumps each active lane to the address in va. -/
  | jmp (o : OpA)
  /-- CALLR (R258): Calls the address in va, writing v0. -/
  | callr (o : OpA)
  /-- RET (R258): Jumps to the address in v0. -/
  | ret (o : OpG)
  /-- GETM (R260): Reads the meeting register into vd. -/
  | getm (o : OpD)
  /-- PUTM (R260): Writes the meeting register from va. -/
  | putm (o : OpA)
  /-- CLRM (R260): Sets the meeting register to NONE. -/
  | clrm (o : OpG)
  /-- REP (R246): Re-issues its target n times with stepped register fields. -/
  | rep (o : OpRep)
  /-- MOVX_LO (R269): Writes a sign-extended 28-bit immediate. -/
  | movxLo (o : OpMovx)
  /-- MOVX_MID (R269): Writes bits 55:28 of vd. -/
  | movxMid (o : OpMovx)
  /-- MOVX_HI (R269): Writes bits 63:56 of vd. -/
  | movxHi (o : OpMovxHi)
  /-- BFXI_BFXU (R270): Extracts an unsigned field with immediate offset and width. -/
  | bfxiBfxu (o : OpBfxi)
  /-- BFXI_BFXS (R270): Extracts a signed field with immediate offset and width. -/
  | bfxiBfxs (o : OpBfxi)
  /-- BFXI_BFI (R270): Inserts a field with immediate offset and width. -/
  | bfxiBfi (o : OpBfxi)
  /-- LD8U (R291): Loads one byte per lane, zero-extended. -/
  | ld8u (o : OpLd)
  /-- LD8S (R291): Loads one byte per lane, sign-extended. -/
  | ld8s (o : OpLd)
  /-- LD16U (R291): Loads 2 B per lane, zero-extended. -/
  | ld16u (o : OpLd)
  /-- LD16S (R291): Loads 2 B per lane, sign-extended. -/
  | ld16s (o : OpLd)
  /-- LD32U (R291): Loads 4 B per lane, zero-extended. -/
  | ld32u (o : OpLd)
  /-- LD32S (R291): Loads 4 B per lane, sign-extended. -/
  | ld32s (o : OpLd)
  /-- LD64 (R291): Loads 8 B per lane. -/
  | ld64 (o : OpLd)
  /-- LD128 (R291): Loads 16 B per lane into vd and vd+1. -/
  | ld128 (o : OpLd)
  /-- LDT (R292): Loads one 256 B line spread over the crew's lanes. -/
  | ldt (o : OpLd)
  /-- LDNC (R293): Loads 8 B at the executing place after draining the CMB line. -/
  | ldnc (o : OpLd)
  /-- PREF (R294): Prefetches lines toward the core without faulting. -/
  | pref (o : OpAd)
  /-- LDAQ (R293): Acquire load of 8 B that bypasses the L1. -/
  | ldaq (o : OpLd)
  /-- LDAQ32 (R293): Acquire load of 4 B that bypasses the L1. -/
  | ldaq32 (o : OpLd)
  /-- ST8 (R291): Stores one byte per lane. -/
  | st8 (o : OpSt)
  /-- ST16 (R291): Stores 2 B per lane. -/
  | st16 (o : OpSt)
  /-- ST32 (R291): Stores 4 B per lane. -/
  | st32 (o : OpSt)
  /-- ST64 (R291): Stores 8 B per lane. -/
  | st64 (o : OpSt)
  /-- ST128 (R291): Stores 16 B per lane from vb and vb+1. -/
  | st128 (o : OpSt)
  /-- STT (R292): Stores one 256 B line from the crew's lanes. -/
  | stt (o : OpSt)
  /-- STNC (R293): Stores 8 B at the executing place after invalidating L1 and draining CMB. -/
  | stnc (o : OpSt)
  /-- STRL (R293): Release store of 8 B performed as STNC. -/
  | strl (o : OpSt)
  /-- STRL32 (R293): Release store of 4 B performed as STNC. -/
  | strl32 (o : OpSt)
  /-- AADD (R144): Returning atomic integer add. -/
  | aadd (o : OpAt)
  /-- AMIN (R144): Returning atomic signed minimum. -/
  | amin (o : OpAt)
  /-- AMAX (R144): Returning atomic signed maximum. -/
  | amax (o : OpAt)
  /-- AMINU (R144): Returning atomic unsigned minimum. -/
  | aminu (o : OpAt)
  /-- AMAXU (R144): Returning atomic unsigned maximum. -/
  | amaxu (o : OpAt)
  /-- AAND (R144): Returning atomic AND. -/
  | aand (o : OpAt)
  /-- AOR (R144): Returning atomic OR. -/
  | aor (o : OpAt)
  /-- AXOR (R144): Returning atomic XOR. -/
  | axor (o : OpAt)
  /-- ASWP (R144): Returning atomic swap. -/
  | aswp (o : OpAt)
  /-- ACAS (R145): Returning compare-and-swap of 4, 8 or 16 B. -/
  | acas (o : OpAt)
  /-- AFADD (R146): Returning atomic floating add. -/
  | afadd (o : OpAt)
  /-- AFMIN (R146): Returning atomic floating number minimum. -/
  | afmin (o : OpAt)
  /-- AFMAX (R146): Returning atomic floating number maximum. -/
  | afmax (o : OpAt)
  /-- AINC (R144): Returning atomic wrapping increment. -/
  | ainc (o : OpAt)
  /-- ADEC (R144): Returning atomic wrapping decrement. -/
  | adec (o : OpAt)
  /-- AADD_N (R148): Posted atomic integer add. -/
  | aaddN (o : OpAtn)
  /-- AMIN_N (R148): Posted atomic signed minimum. -/
  | aminN (o : OpAtn)
  /-- AMAX_N (R148): Posted atomic signed maximum. -/
  | amaxN (o : OpAtn)
  /-- AMINU_N (R148): Posted atomic unsigned minimum. -/
  | aminuN (o : OpAtn)
  /-- AMAXU_N (R148): Posted atomic unsigned maximum. -/
  | amaxuN (o : OpAtn)
  /-- AAND_N (R148): Posted atomic AND. -/
  | aandN (o : OpAtn)
  /-- AOR_N (R148): Posted atomic OR. -/
  | aorN (o : OpAtn)
  /-- AXOR_N (R148): Posted atomic XOR. -/
  | axorN (o : OpAtn)
  /-- ASWP_N (R148): Posted atomic swap. -/
  | aswpN (o : OpAtn)
  /-- AFADD_N (R148): Posted atomic floating add. -/
  | afaddN (o : OpAtn)
  /-- AFMIN_N (R148): Posted atomic floating minimum. -/
  | afminN (o : OpAtn)
  /-- AFMAX_N (R148): Posted atomic floating maximum. -/
  | afmaxN (o : OpAtn)
  /-- AINC_N (R148): Posted atomic wrapping increment. -/
  | aincN (o : OpAtn)
  /-- ADEC_N (R148): Posted atomic wrapping decrement. -/
  | adecN (o : OpAtn)
  /-- KICK (R308): Writes the kick register and hands copy records to the request engine. -/
  | kick (o : OpSt)
  /-- ARRS (R309): Sets an arrival word's target and clears its count and flags. -/
  | arrs (o : OpSt)
  /-- ARRA (R309): Arms an arrival word and evaluates it once. -/
  | arra (o : OpAd)
  /-- ARRW (R309): Waits until an arrival word reaches a generation. -/
  | arrw (o : OpSt)
  /-- RCLM (R310): Claims ring granules per lane. -/
  | rclm (o : OpDabExt)
  /-- RCMT (R310): Commits claimed ring granules per lane. -/
  | rcmt (o : OpSt)
  /-- RAWT (R310): Awaits committed ring granules per lane. -/
  | rawt (o : OpDabExt)
  /-- RRET (R310): Retires consumed ring granules per lane. -/
  | rret (o : OpSt)
  /-- FLUSH (R136): Makes writes of a range visible at system scope. -/
  | flush (o : OpSt)
  /-- INVAL (R137): Invalidates the issuing core's L1 lines of a range. -/
  | inval (o : OpSt)
  /-- RDET (R158): Declares flag synchronisation to the race detector. -/
  | rdet (o : OpAd)
  /-- DIGB (R311): Adds a region to the root grid's digest list. -/
  | digb (o : OpSt)
  /-- DIGE (R311): Sets the destination of the root grid's digest. -/
  | dige (o : OpAd)
  /-- LNCH (R313): Launches a child grid and returns a status. -/
  | lnch (o : OpTkDA)
  /-- BINP (R315): Pushes a local record into a work-graph node's bin. -/
  | binp (o : OpTkAB)
  /-- VPUB (R162): Publishes a new version of a versioned tile. -/
  | vpub (o : OpTkQA)
  /-- VFIN (R162): Publishes the final version of a versioned tile. -/
  | vfin (o : OpTkQA)
  /-- VGET (R162): Takes the current version of a tile and holds its buffer. -/
  | vget (o : OpTkDA)
  /-- VREL (R162): Releases a get on one buffer of a tile. -/
  | vrel (o : OpTkRel)
  /-- VWAIT (R162): Waits for a version, FIN or ABND on a cell. -/
  | vwait (o : OpTkDAB)
  /-- STOPREF (R162): Sets STOP in a version cell. -/
  | stopref (o : OpTkDA)
  /-- VSUB (R162): Sets the subscription index of a cell. -/
  | vsub (o : OpTkAB)
  /-- MIGR (R194): Moves the crew to the core near an address's home slice. -/
  | migr (o : OpTkA)
  /-- GSYNC (R314): Arrives at and waits on the grid barrier. -/
  | gsync (o : OpTkG)
  /-- PRDR (R316): Reads the scheduler's last predicate decision for a node. -/
  | prdr (o : OpTkDB)
  /-- MMA (R331): Arrives at a gang rendezvous for a block-scaled matrix multiply-accumulate. -/
  | mma (o : OpMma)
  /-- MMAP (R340): Initiator arrival of a paired multiply across a neighbour link. -/
  | mmap (o : OpMmap)
  /-- MMAP_PARTNER (R340): Partner arrival of a paired multiply, supplying its slab. -/
  | mmapPartner (o : OpMmapP)
  /-- MACL (R336): Loads an accumulator tile from memory. -/
  | macl (o : OpTileMem)
  /-- MACS (R336): Stores an accumulator tile to memory. -/
  | macs (o : OpTileMem)
  /-- MACZ (R337): Zeroes up to eight accumulator tiles. -/
  | macz (o : OpMacz)
  /-- RSTAT (R338): Writes row max, sum and sum of squares of a tile. -/
  | rstat (o : OpRstat)
  /-- GANG (R329): Writes and checks the gang list. -/
  | gang (o : OpXA)
  /-- BTAKE (R339): Waits until the crew holds the team's baton. -/
  | btake (o : OpXG)
  /-- BPASS (R339): Passes the team's baton to the next or a named crew. -/
  | bpass (o : OpBpass)
  /-- NLS (R342): Sends a register over a neighbour link. -/
  | nls (o : OpNls)
  /-- NLR (R342): Receives a register from a neighbour-link queue. -/
  | nlr (o : OpNlr)
  /-- MSCL (R332): Records the scale register bases for the leader's MMA. -/
  | mscl (o : OpMscl)
  /-- KCPL (R352): Loads Kiln coupling rows from memory. -/
  | kcpl (o : OpKcpl)
  /-- KBIAS (R352): Loads Kiln BETA and optionally the biases. -/
  | kbias (o : OpKbias)
  /-- KCLMP (R352): Sets the Kiln clamp mask and values. -/
  | kclmp (o : OpXAB)
  /-- KCLMP_STATES (R352): Sets the states of unclamped Kiln nodes. -/
  | kclmpStates (o : OpXB)
  /-- KCOL (R352): Sets the colours of all 256 Kiln nodes. -/
  | kcol (o : OpXA)
  /-- KSWP (R346): Runs n Kiln sweeps, optionally publishing windows. -/
  | kswp (o : OpKswp)
  /-- KCNT (R352): Reads and optionally clears the Kiln counts. -/
  | kcnt (o : OpKcnt)
  /-- KRDS (R352): Reads Kiln states and status. -/
  | krds (o : OpXD)
  /-- KMODE_CONFIGURE (R352): Configures Kiln mode, colours, nodes, key and table, optionally resetting. -/
  | kmodeConfigure (o : OpXAB)
  /-- KMODE_QUAR (R355): Handler quarantines the core's Kiln array. -/
  | kmodeQuar (o : OpXG)
  /-- KMODE_FREE (R355): Handler lifts the Kiln array's quarantine. -/
  | kmodeFree (o : OpXG)
  /-- KMODE_INJECT (R355): Handler injects a bias value into the current Cone window. -/
  | kmodeInject (o : OpKinj)
  /-- KBND (R352): Binds ghosts to nodes of a partner array. -/
  | kbnd (o : OpKbnd)
  /-- KBND_UNBIND (R352): Removes ghost bindings within a range. -/
  | kbndUnbind (o : OpKunb)
  /-- GCPL (R361): Loads Slip coupling rows from memory. -/
  | gcpl (o : OpGcpl)
  /-- GBIAS (R361): Loads the Slip temperature and optionally the bias. -/
  | gbias (o : OpGbias)
  /-- GRUN (R362): Runs Slip integration windows, optionally publishing. -/
  | grun (o : OpGrun)
  /-- GRDM (R365): Reads the Slip mean, state or status. -/
  | grdm (o : OpGrdm)
  /-- GRDC (R365): Reads one row of the Slip covariance. -/
  | grdc (o : OpGrdc)
  /-- GMODE_CONFIGURE (R361): Configures Slip mode, step, order, key and table. -/
  | gmodeConfigure (o : OpXAB)
  /-- GMODE_SET_STATE (R361): Sets the Slip integrator states. -/
  | gmodeSetState (o : OpXA)
  /-- GRES (R367): Computes a scaled digital residual b - A x. -/
  | gres (o : OpGres)
  /-- DICT_ISSUE_UNIT (R244): Checks and issues the two dictionary codes of one body word together. -/
  | dictIssueUnit (crew : Nat)
  /-- WALK_NODE_READ (R30): A page-table node read returns and the walk advances or completes. -/
  | walkNodeRead (t : Nat) (id : Nat) (err : Bool)
  /-- L1_FILL_ARRIVE (R49): A fill sets the still-invalid bytes of an L1 line. -/
  | l1FillArrive (t : Nat) (k : Nat) (ix : Nat)
  /-- CMB_STORE_ARRIVE (R55): A store from a cluster core merges into or allocates a CMB line. -/
  | cmbStoreArrive (t : Nat) (k : Nat)
  /-- CMB_AGE_DRAIN (R57): A CMB line reaching its age limit drains. -/
  | cmbAgeDrain (t : Nat) (cl : Nat) (ix : Nat)
  /-- CMB_DRAIN_ARRIVE (R60): Home slice receives drained bytes and invalidates directory copies. -/
  | cmbDrainArrive (t : Nat) (cl : Nat) (ix : Nat)
  /-- COPY_INVALIDATE (R65): A remote-sector or gateway copy is invalidated and acknowledged. -/
  | copyInvalidate (id : Nat) (ix : Nat)
  /-- INVALIDATE_ACK (R60): Last invalidation acknowledgement lets the home apply the write. -/
  | invalidateAck (id : Nat)
  /-- DRAIN_ACK (R57): Home acknowledgement frees the CMB line. -/
  | drainAck (t : Nat) (cl : Nat) (ix : Nat)
  /-- SLICE_LOAD_REQUEST (R59): A load miss is served at a home slice or remote-sector copy. -/
  | sliceLoadRequest (t : Nat) (k : Nat) (ix : Nat) (err : Bool)
  /-- GATEWAY_LOAD (R64): A load to a remote-homed line looks up the gateway cache. -/
  | gatewayLoad (t : Nat) (k : Nat) (ix : Nat) (err : Bool)
  /-- HBM_FILL_RETURN (R59): HBM data returns to a home slice and merges. -/
  | hbmFillReturn (t : Nat) (k : Nat) (ix : Nat)
  /-- LOAD_RESPONSE (R99): Load data is bound and written to its register. -/
  | loadResponse (op : Nat) (err : Bool)
  /-- ACCESS_AT_EXECUTING_PLACE (R86): Vault, local, host-window or uncached access applied at its controller. -/
  | accessAtExecutingPlace (op : Nat) (lane : Nat)
  /-- PARTITION_AREA_ACCESS (R19): Partition-area port applies a handler or transport access. -/
  | partitionAreaAccess (op : Nat) (lane : Nat)
  /-- ATOMIC_AT_PLACE (R143): An atomic is applied indivisibly at its executing place. -/
  | atomicAtPlace (op : Nat) (lane : Nat)
  /-- ORDERED_ATOMIC_ACCEPT (R151): An ordered atomic enters a reorder queue or is displaced or returned. -/
  | orderedAtomicAccept (op : Nat) (lane : Nat)
  /-- ORDERED_ATOMIC_APPLY (R151): The lowest-tagged held operation below H is applied. -/
  | orderedAtomicApply (op : Nat) (lane : Nat)
  /-- ORDERED_ATOMIC_RESEND (R151): A returned ordered operation is sent again after about 200 cycles. -/
  | orderedAtomicResend (op : Nat) (lane : Nat)
  /-- HORIZON_REPORT (R150): A core or the scheduler reports a changed horizon and H is recomputed. -/
  | horizonReport (grid : Nat)
  /-- HORIZON_UPDATE (R150): A new H value reaches an executing place. -/
  | horizonUpdate (t : Nat) (grid : Nat)
  /-- RACE_CHECK (R157): Home slice checks and updates a race shadow word. -/
  | raceCheck (id : Nat)
  /-- PATROL_SCRUB (R73): Patrol engine visits and corrects a line. -/
  | patrolScrub (unit : Nat) (key : Nat) (found : Nat)
  /-- COPY_REQUEST_START (R122): Request engine checks and starts a copy request. -/
  | copyRequestStart (op : Nat)
  /-- COPY_GRANULE (R126): One 256 B granule is read, written, invalidated and counted. -/
  | copyGranule (op : Nat) (u : Nat) (j : Nat)
  /-- RING_OP_AT_PLACE (R134): A ring operation checks its header and applies or waits. -/
  | ringOpAtPlace (op : Nat) (lane : Nat)
  /-- RING_OP_RESEND (R135): A ring operation returned from a full waiting store is resent. -/
  | ringOpResend (op : Nat) (lane : Nat)
  /-- VERSION_OP_AT_SLICE (R162): A version-cell operation checks the cell and applies or waits. -/
  | versionOpAtSlice (op : Nat)
  /-- SUBSCRIPTION_DELIVERY (R168): A published version is delivered to a subscription's state machine. -/
  | subscriptionDelivery (ix : Nat)
  /-- CANCELLATION_REQUEST (R392): A REFIRE cancellation acts on the consumer where it stands. -/
  | cancellationRequest (pair : Nat)
  /-- ENGINE_WINDOW_END (R173): Kiln or Slip engine writes and publishes a window estimate. -/
  | engineWindowEnd (slip : Bool) (t : Nat) (k : Nat)
  /-- RANGE_TABLE_LOAD (R38): After the context's teams end, caches drain and the new range table loads. -/
  | rangeTableLoad (low : Nat)
  /-- CMR_CHANGE (R209): After the context's teams end, a new CMR takes effect. -/
  | cmrChange (low : Nat)
  /-- DEAL_TEAM (R382): Scheduler deals a team to a core's pending list. -/
  | dealTeam (low : Nat)
  /-- DISPATCH_EVALUATE (R383): Dispatcher evaluates its pending list and admits a fitting team. -/
  | dispatchEvaluate (t : Nat) (k : Nat) (to_ : Option (Nat × Nat))
  /-- EVICT_TEAM (R189): Dispatcher saves a blocked team to make room for child teams. -/
  | evictTeam (team : Nat)
  /-- RESTORE_TEAM (R189): An evicted team is restored when room exists. -/
  | restoreTeam (t : Nat) (k : Nat)
  /-- BIN_PUSH (R388): A record enters a node's bin, waiting while the bin is full. -/
  | binPush (op : Nat)
  /-- BIN_TIMER_EXPIRE (R390): A bin's timer expires. -/
  | binTimerExpire (t : Nat) (b : Nat)
  /-- BIN_LAUNCH_DECISION (R389): A bin launches or discards a one-team grid from its records. -/
  | binLaunchDecision (t : Nat) (b : Nat)
  /-- CREW_END (R119): An exited crew's counters reach zero and it ends. -/
  | crewEnd (id : Nat)
  /-- TEAM_END (R166): A team ends, releasing gets, baton and resources. -/
  | teamEnd (team : Nat)
  /-- SETTLE_WORD_UPDATE (R172): Atomic write of a graph's settle word. -/
  | settleWordUpdate (root : Nat)
  /-- DIGEST_COMPUTE (R429): Security processor digests the declared regions before retirement. -/
  | digestCompute (grid : Nat)
  /-- COMPLETION_WORD_ATOMIC (R385): Adds 1 to the grid's completion word, releasing at system scope. -/
  | completionWordAtomic (grid : Nat)
  /-- GRID_RETIRE (R188): A grid retires and its report is sent. -/
  | gridRetire (grid : Nat)
  /-- MX_OPERATION_COMPLETE (R324): An accepted matrix-engine operation finishes executing. -/
  | mxOperationComplete (t : Nat) (k : Nat)
  /-- NL_ENTRY_ARRIVE (R342): An NLS entry arrives in the far receive queue. -/
  | nlEntryArrive (t : Nat) (k : Nat)
  /-- NL_CREDIT_RETURN (R342): A freed receive-queue entry returns a credit to the sender. -/
  | nlCreditReturn (t : Nat) (k : Nat) (dir : Nat)
  /-- KILN_OPERATION_EXECUTE (R351): A queued Kiln operation executes in issue order. -/
  | kilnOperationExecute (t : Nat) (k : Nat)
  /-- KILN_SWEEP (R346): One Kiln sweep runs after its ghost snapshots are present. -/
  | kilnSweep (t : Nat) (k : Nat)
  /-- SNAPSHOT_ARRIVE (R353): A ghost snapshot arrives and is retained. -/
  | snapshotArrive (t : Nat) (k : Nat) (ix : Nat)
  /-- SUBSCRIBER_REGISTER (R352): A partner array registers a subscriber and sends a first snapshot. -/
  | subscriberRegister (t : Nat) (k : Nat) (g0 : Nat)
  /-- CONE_WINDOW_END (R355): Cone monitor window ends and may raise a Kiln health fault. -/
  | coneWindowEnd (t : Nat) (k : Nat)
  /-- SLIP_OPERATION_EXECUTE (R360): A queued Slip operation executes in issue order. -/
  | slipOperationExecute (t : Nat) (k : Nat)
  /-- SLIP_STEP (R363): One Slip unit advances the integrators and samples. -/
  | slipStep (t : Nat) (k : Nat)
  /-- MIGRATION_REQUEST (R194): A landing request reaches the landing core's queue. -/
  | migrationRequest (op : Nat)
  /-- MIGRATION_RESEND (R194): A request returned from a full queue is resent. -/
  | migrationResend (op : Nat)
  /-- MIGRATION_LAND (R194): The crew's state lands in slot 33 and it becomes eligible. -/
  | migrationLand (op : Nat)
  /-- CTMR_EXPIRE (R207): The crew timer reaches zero and faults. -/
  | ctmrExpire (crew : Nat)
  /-- PAIR_WATCHDOG_EXPIRE (R341): A pairing watchdog expires with a pair timeout. -/
  | pairWatchdogExpire (crew : Nat)
  /-- PREEMPT_DEADLINE_EXPIRE (R412): A crew not stopped by its deadline is forced to stop. -/
  | preemptDeadlineExpire (crew : Nat)
  /-- ENGINE_HALT_STOP (R401): An engine stops within its skid and writes its stop record. -/
  | engineHaltStop (t : Nat) (k : Nat) (eng : Nat)
  /-- HALT_COMPLETE (R400): All engines stopped; ABND set and handler crews start. -/
  | haltComplete (low : Nat)
  /-- FRAME_RECEIVE (R434): A transport frame is verified and accepted in sequence or discarded. -/
  | frameReceive (port : Nat) (addr : Nat) (checks : Bool) (bytes : List Byte)
  /-- ACKNOWLEDGEMENT_FRAME (R433): An acknowledgement-only frame advances the sender's window. -/
  | acknowledgementFrame (port : Nat) (addr : Nat) (checks : Bool) (bytes : List Byte)
  /-- RETRANSMIT_TIMEOUT (R434): No ACK advance within 50 us retransmits unacknowledged frames. -/
  | retransmitTimeout (sess : Nat) (q : Nat)
  /-- SESSION_ESTABLISH (R435): ML-DSA and ML-KEM exchange on queue 0 opens a session. -/
  | sessionEstablish (addr : Nat) (key : List Byte) (msg : List Byte) (sig : List Byte)
  /-- SESSION_REKEY (R435): A session rekeys before any queue reaches 2^32 frames. -/
  | sessionRekey (sess : Nat)
  /-- LAUNCH (R378): Transport command 0x0001 launches a root grid. -/
  | launch (sess : Nat) (q : Nat)
  /-- READ (R436): Transport command reads device memory or management registers. -/
  | read (sess : Nat) (q : Nat)
  /-- WRITE (R436): Transport command writes device memory. -/
  | write (sess : Nat) (q : Nat)
  /-- TRANSPORT_FLUSH (R438): Transport command drains CMB lines of a range. -/
  | transportFlush (sess : Nat) (q : Nat)
  /-- TRANSPORT_INVALIDATE (R138): Transport command invalidates L1 lines of a range. -/
  | transportInvalidate (sess : Nat) (q : Nat)
  /-- SHOOTDOWN (R44): Transport command starts a TLB shootdown. -/
  | shootdown (sess : Nat) (q : Nat)
  /-- SHOOTDOWN_STEP (R44): The next shootdown step starts once the previous one is done everywhere. -/
  | shootdownStep (low : Nat)
  /-- SET_SPLIT (R442): Partition SUB 1 sets the tower split. -/
  | setSplit (sess : Nat) (q : Nat)
  /-- SET_VAULT_ALLOTMENT (R67): Partition SUB 2 sets a vault allotment, zeroing vaults as needed. -/
  | setVaultAllotment (sess : Nat) (q : Nat)
  /-- VAULT_ZEROING_COMPLETE (R67): Vault zeroing finishes and the allotment takes effect. -/
  | vaultZeroingComplete (ix : Nat)
  /-- SET_HOST_WINDOW_REGION (R17): Partition SUB 3 sets the host-window region. -/
  | setHostWindowRegion (sess : Nat) (q : Nat)
  /-- SET_RACE_MODE (R154): Partition SUB 4 sets race mode and shadow bases. -/
  | setRaceMode (sess : Nat) (q : Nat)
  /-- SET_CONE_WINDOW (R355): Partition SUB 5 sets the Cone window and limit. -/
  | setConeWindow (sess : Nat) (q : Nat)
  /-- SET_HANDLER_ENTRY (R407): Partition SUB 6 sets handler entry and region. -/
  | setHandlerEntry (sess : Nat) (q : Nat)
  /-- SET_SAVE_AREA_SIZE (R414): Partition SUB 7 sets the save-area size. -/
  | setSaveAreaSize (sess : Nat) (q : Nat)
  /-- SET_BIN_STORE_VAULT (R388): Partition SUB 8 names the bin-store vault. -/
  | setBinStoreVault (sess : Nat) (q : Nat)
  /-- SET_CHECKPOINT_REGION (R420): Partition SUB 9 sets a checkpoint region and interval. -/
  | setCheckpointRegion (sess : Nat) (q : Nat)
  /-- QUARANTINE_CLEAR (R355): Partition SUB 10 clears a Kiln quarantine mark. -/
  | quarantineClear (sess : Nat) (q : Nat)
  /-- CONTEXT_CREATE (R440): Context SUB 1 creates a context with CTXID and root. -/
  | contextCreate (sess : Nat) (q : Nat) (descBase : Nat) (descCount : Nat)
  /-- CONTEXT_DESTROY (R438): Context SUB 2 destroys a context. -/
  | contextDestroy (sess : Nat) (q : Nat)
  /-- SWITCH_OUT (R412): Context SUB 3 pre-empts and saves a context. -/
  | switchOut (sess : Nat) (q : Nat)
  /-- CONTEXT_SWITCH_STEP (R413): The next switch step starts once the previous one is done on every core. -/
  | contextSwitchStep (low : Nat)
  /-- CONTEXT_RESTORE (R414): Context SUB 4 restores a saved context. -/
  | contextRestore (sess : Nat) (q : Nat)
  /-- TELEMETRY (R443): Reads, or reads and clears, a telemetry item. -/
  | telemetry (sess : Nat) (q : Nat)
  /-- HALT_TOWER (R418): Debug SUB 1 debug-halts one tower. -/
  | haltTower (sess : Nat) (q : Nat)
  /-- RESUME_TOWER (R419): Debug SUB 2 resumes a debug-halted tower. -/
  | resumeTower (sess : Nat) (q : Nat)
  /-- DEBUG_READ_ITEM (R375): Debug SUB 3 reads a window item. -/
  | debugReadItem (sess : Nat) (q : Nat)
  /-- DEBUG_WRITE_ITEM (R375): Debug SUB 4 writes a window item. -/
  | debugWriteItem (sess : Nat) (q : Nat)
  /-- END_HANDLER_CREW (R408): Debug SUB 5 ends a faulted handler crew as its ERET. -/
  | endHandlerCrew (sess : Nat) (q : Nat)
  /-- CHECKPOINT_TAKE (R420): Checkpoint SUB 1 takes a tower checkpoint. -/
  | checkpointTake (sess : Nat) (q : Nat)
  /-- CHECKPOINT_INTERVAL_EXPIRE (R420): The checkpoint interval expires and a checkpoint is taken. -/
  | checkpointIntervalExpire (t : Nat)
  /-- WARM_RESET (R421): Checkpoint SUB 2 rolls a tower back and replays it alone. -/
  | warmReset (sess : Nat) (q : Nat)
  /-- ATTEST (R451): Returns a signed attestation report for a nonce. -/
  | attest (sess : Nat) (q : Nat)
  /-- FIRMWARE_CHUNK (R450): Receives a firmware chunk and verifies the complete image. -/
  | firmwareChunk (sess : Nat) (q : Nat)
  /-- SET_IPV4 (R448): Manage SUB 1 sets or removes the IPv4 address. -/
  | setIpv4 (sess : Nat) (q : Nat)
  /-- SET_IPV6 (R448): Manage SUB 2 sets or removes the IPv6 address. -/
  | setIpv6 (sess : Nat) (q : Nat)
  /-- ENROL_HOST_KEY (R448): Manage SUB 3 enrols a host key hash. -/
  | enrolHostKey (sess : Nat) (q : Nat)
  /-- REVOKE_HOST_KEY (R448): Manage SUB 4 revokes a host key and ends its sessions. -/
  | revokeHostKey (sess : Nat) (q : Nat)
  /-- RELEASE_OWNERSHIP (R448): Manage SUB 5 removes every key and ends every session. -/
  | releaseOwnership (sess : Nat) (q : Nat)
  /-- LIST_KEYS (R448): Manage SUB 6 lists enrolled key hashes. -/
  | listKeys (sess : Nat) (q : Nat)
  /-- UNKNOWN_COMMAND (R436): A command with an unknown code is refused. -/
  | unknownCommand (sess : Nat) (q : Nat)
  /-- MGMT_STATUS_QUERY (R447): Management endpoint answers a STATUS query. -/
  | mgmtStatusQuery (dest : Nat) (bytes : List Byte)
  /-- MGMT_FAILREC_QUERY (R447): Management endpoint returns FAILREC records. -/
  | mgmtFailrecQuery (dest : Nat) (bytes : List Byte)
  /-- POWER_UP (R445): Self-test of dies, links and harvest masks at power-up. -/
  | powerUp (fails : List (Nat × Nat × Nat × Nat × Nat)) (test : Nat) (detail : Nat)
  /-- FLIT_REPLAY (R70): A corrupted UCIe flit is replayed. -/
  | flitReplay (link : Nat)
  /-- LINK_RETRAIN (R70): Persistent errors retrain a link to half width. -/
  | linkRetrain (link : Nat)
  /-- LINK_DOWN (R70): A link that cannot train is marked down, halting affected partitions. -/
  | linkDown (link : Nat)
  /-- NEIGHBOUR_LINK_ERROR (R71): An uncorrectable neighbour-link beat halts the partition. -/
  | neighbourLinkError (t : Nat) (cluster : Nat) (dir : Nat)
  /-- ARRAY_CLOCK_CHANGE (R5): The power manager lowers or restores the array-die clock. -/
  | arrayClockChange (t : Nat) (mhz : Nat)
  /-- SKIPD_CHANGE (R207): The power manager changes the adaptive skip offset. -/
  | skipdChange (t : Nat) (v : BitVec 16)
  /-- POWER_SAMPLE (R441): Module power is sampled every 1 ms. -/
  | powerSample (rail : Nat) (mw : Nat) (temp : Word)
  /-- WARM_RESET_LIMIT_EXPIRE (R421): A warm-reset replay that outlasts the driver-set limit ends with replay divergence. -/
  | warmResetLimitExpire (t : Nat)
  /-- CHECKPOINT_COMPLETE (R420): A tower checkpoint finishes capturing state and writing back dirty slice lines, and the tower's issue resumes. -/
  | checkpointComplete (t : Nat)
  /-- POWER_LOSS (R448): Loss of the module supply ends all volatile state; only enrolled keys and configured addresses in the non-volatile store survive to the next power-up. -/
  | powerLoss
deriving DecidableEq, Repr

end Sys2Proof
end

