-- ==== Sys2Proof/WellFormed.lean ====
section
/-! DEFINITION. WellFormed: the causes of an illegal-instruction trap by name (R377) and the field values an
instruction may carry (R13, R79, R141, R200, R289 to R340, R350, R359). A term outside `wellFormed` is one
the decoder rejects. Checks that need the state (the issuing slot, the format slots, a special register's
permission) belong to the meanings. -/

namespace Sys2Proof

/-- The causes of an illegal-instruction trap (R377). -/
inductive Illegal where
  /-- Class 0: a reserved major (R249). -/
  | reservedMajor
  /-- Class 1: a minor outside its row (R249). -/
  | badMinor
  /-- Class 2: a non-zero zero field (R238). -/
  | zeroField
  /-- Class 3: a field value declared illegal. -/
  | badValue
  /-- Class 4: not permitted in the issuing slot (R250, R369). -/
  | slot
  /-- Class 5: clause header or class violation (R232). -/
  | header
  /-- Class 6: bad instruction address (R233, R259). -/
  | badAddress
  /-- Class 7: illegal dictionary code or override (R243, R245). -/
  | dictionary
  /-- Class 8: illegal REP target or stepping (R246, R247). -/
  | repeated
  /-- Class 9: special-register access not permitted (R207, R370). -/
  | registerAccess
deriving DecidableEq, Repr

/-- The class number written to the stop record (R377). -/
def Illegal.code : Illegal → Nat
  | .reservedMajor => 0
  | .badMinor => 1
  | .zeroField => 2
  | .badValue => 3
  | .slot => 4
  | .header => 5
  | .badAddress => 6
  | .dictionary => 7
  | .repeated => 8
  | .registerAccess => 9

/-- A space code that names a space (R13). -/
def okSpace (s : BitVec 3) : Bool := s.toNat ≤ 3

/-- A scope code that names a scope (R79). -/
def okScope (s : BitVec 3) : Bool := s.toNat ≤ 5

/-- The orders a load may carry: relaxed, acquire (R79). -/
def loadOrder (o : BitVec 2) : Bool := o == 0 || o == 1

/-- The orders a store or a posted atomic may carry: relaxed, release (R79). -/
def storeOrder (o : BitVec 2) : Bool := o == 0 || o == 2

/-- Whether every field of an instruction holds a value the spec declares legal. -/
def Instr.wellFormed : Instr → Bool
  | .nop _ => true
  | .waitc o => o.cls != 0 && o.cls != 7
  | .yield _ => true
  | .srd _ => true
  | .swrFstat _ => true
  | .swrCtmr _ => true
  | .swrGangr _ => true
  | .swrKey0 _ => true
  | .swrKey1 _ => true
  | .trap _ => true
  | .bkpt _ => true
  | .exit _ => true
  | .bar o => o.n.toNat ≤ 32
  | .bara o => o.n.toNat ≤ 32
  | .barw _ => true
  | .fence o => o.scope.toNat ≤ 5
  | .eret _ => true
  | .winr o => o.d.toNat ≤ 62
  | .winw _ => true
  | .i64Add _ => true
  | .i64Sub _ => true
  | .i64Mul _ => true
  | .i64Mulh _ => true
  | .i64Mulhu _ => true
  | .i64Min _ => true
  | .i64Max _ => true
  | .i64Minu _ => true
  | .i64Maxu _ => true
  | .i64And _ => true
  | .i64Or _ => true
  | .i64Xor _ => true
  | .i64Shl _ => true
  | .i64Shr _ => true
  | .i64Sar _ => true
  | .i64Addsat _ => true
  | .i32Add _ => true
  | .i32Sub _ => true
  | .i32Mul _ => true
  | .i32Mulh _ => true
  | .i32Mulhu _ => true
  | .i32Min _ => true
  | .i32Max _ => true
  | .i32Minu _ => true
  | .i32Maxu _ => true
  | .i32And _ => true
  | .i32Or _ => true
  | .i32Xor _ => true
  | .i32Shl _ => true
  | .i32Shr _ => true
  | .i32Sar _ => true
  | .i32Addsat _ => true
  | .i16Add _ => true
  | .i16Sub _ => true
  | .i16Mul _ => true
  | .i16Mulh _ => true
  | .i16Mulhu _ => true
  | .i16Min _ => true
  | .i16Max _ => true
  | .i16Minu _ => true
  | .i16Maxu _ => true
  | .i16And _ => true
  | .i16Or _ => true
  | .i16Xor _ => true
  | .i16Shl _ => true
  | .i16Shr _ => true
  | .i16Sar _ => true
  | .i16Addsat _ => true
  | .i8Add _ => true
  | .i8Sub _ => true
  | .i8Mul _ => true
  | .i8Mulh _ => true
  | .i8Mulhu _ => true
  | .i8Min _ => true
  | .i8Max _ => true
  | .i8Minu _ => true
  | .i8Maxu _ => true
  | .i8And _ => true
  | .i8Or _ => true
  | .i8Xor _ => true
  | .i8Shl _ => true
  | .i8Shr _ => true
  | .i8Sar _ => true
  | .i8Addsat _ => true
  | .iunNeg _ => true
  | .iunAbs _ => true
  | .iunNot _ => true
  | .iunClz _ => true
  | .iunCtz _ => true
  | .iunPopc _ => true
  | .iunBrev _ => true
  | .iunBswap _ => true
  | .iunSxt _ => true
  | .iunZxt _ => true
  | .icmp o => o.cond.toNat ≤ 11 && o.q != 7
  | .addi _ => true
  | .andi _ => true
  | .ori _ => true
  | .xori _ => true
  | .shli _ => true
  | .shri _ => true
  | .sari _ => true
  | .rori _ => true
  | .cmpi o => o.q != 7
  | .movi _ => true
  | .lea _ => true
  | .bfxu _ => true
  | .bfxs _ => true
  | .bfi _ => true
  | .bfm _ => true
  | .f64Fadd _ => true
  | .f64Fsub _ => true
  | .f64Fmul _ => true
  | .f64Fma _ => true
  | .f64Fms _ => true
  | .f64Fnma _ => true
  | .f64Fmin _ => true
  | .f64Fmax _ => true
  | .f64Fminnm _ => true
  | .f64Fmaxnm _ => true
  | .f64Fabd _ => true
  | .f64Fscale _ => true
  | .f64Fdiv _ => true
  | .f64Fcpys _ => true
  | .f32Fadd _ => true
  | .f32Fsub _ => true
  | .f32Fmul _ => true
  | .f32Fma _ => true
  | .f32Fms _ => true
  | .f32Fnma _ => true
  | .f32Fmin _ => true
  | .f32Fmax _ => true
  | .f32Fminnm _ => true
  | .f32Fmaxnm _ => true
  | .f32Fabd _ => true
  | .f32Fscale _ => true
  | .f32Fdiv _ => true
  | .f32Fcpys _ => true
  | .f16Fadd _ => true
  | .f16Fsub _ => true
  | .f16Fmul _ => true
  | .f16Fma _ => true
  | .f16Fms _ => true
  | .f16Fnma _ => true
  | .f16Fmin _ => true
  | .f16Fmax _ => true
  | .f16Fminnm _ => true
  | .f16Fmaxnm _ => true
  | .f16Fabd _ => true
  | .f16Fscale _ => true
  | .f16Fdiv _ => true
  | .f16Fcpys _ => true
  | .b16Fadd _ => true
  | .b16Fsub _ => true
  | .b16Fmul _ => true
  | .b16Fma _ => true
  | .b16Fms _ => true
  | .b16Fnma _ => true
  | .b16Fmin _ => true
  | .b16Fmax _ => true
  | .b16Fminnm _ => true
  | .b16Fmaxnm _ => true
  | .b16Fabd _ => true
  | .b16Fscale _ => true
  | .b16Fdiv _ => true
  | .b16Fcpys _ => true
  | .f8Fadd _ => true
  | .f8Fsub _ => true
  | .f8Fmul _ => true
  | .f8Fmin _ => true
  | .f8Fmax _ => true
  | .fcmp o => o.cond.toNat ≤ 7 && o.q != 7
  | .fsqrt _ => true
  | .frcp _ => true
  | .frsq _ => true
  | .fexp2 _ => true
  | .flog2 _ => true
  | .fsin _ => true
  | .fcos _ => true
  | .ftanh _ => true
  | .fsigm _ => true
  | .frint _ => true
  | .ffloor _ => true
  | .fceil _ => true
  | .ftrunc _ => true
  | .fneg _ => true
  | .fabs _ => true
  | .fclass _ => true
  | .cvt _ => true
  | .cvtsPack _ => true
  | .cvtsUnpack _ => true
  | .dot8s _ => true
  | .dot8u _ => true
  | .dot4s _ => true
  | .dot4u _ => true
  | .dote4 _ => true
  | .dote5 _ => true
  | .dotb _ => true
  | .doth _ => true
  | .dot2s _ => true
  | .shfl64 _ => true
  | .shfl32 _ => true
  | .shfl16 _ => true
  | .shfl8 _ => true
  | .bcast _ => true
  | .xorl _ => true
  | .rotl _ => true
  | .red o => o.fn.toNat ≤ 12
  | .scan o => o.fn.toNat ≤ 12
  | .laneMatch _ => true
  | .ballot _ => true
  | .vote o => o.q != 7 && o.mode != 3
  | .sperm _ => true
  | .actv _ => true
  | .segred o => o.fn.toNat ≤ 12
  | .mov _ => true
  | .sel _ => true
  | .movp _ => true
  | .pset o => o.q != 7
  | .pand o => o.q != 7
  | .por o => o.q != 7
  | .pxor o => o.q != 7
  | .pnot o => o.q != 7
  | .setu _ => true
  | .seta _ => true
  | .tagr _ => true
  | .clrv _ => true
  | .rng64 _ => true
  | .rngu _ => true
  | .rngb _ => true
  | .br _ => true
  | .call _ => true
  | .setm _ => true
  | .jmp _ => true
  | .callr _ => true
  | .ret _ => true
  | .getm _ => true
  | .putm _ => true
  | .clrm _ => true
  | .rep _ => true
  | .movxLo _ => true
  | .movxMid _ => true
  | .movxHi _ => true
  | .bfxiBfxu o => o.wid.toNat ≤ 64
  | .bfxiBfxs o => o.wid.toNat ≤ 64
  | .bfxiBfi o => o.wid.toNat ≤ 64
  | .ld8u o => okSpace o.space && okScope o.scope && loadOrder o.order
  | .ld8s o => okSpace o.space && okScope o.scope && loadOrder o.order
  | .ld16u o => okSpace o.space && okScope o.scope && loadOrder o.order
  | .ld16s o => okSpace o.space && okScope o.scope && loadOrder o.order
  | .ld32u o => okSpace o.space && okScope o.scope && loadOrder o.order
  | .ld32s o => okSpace o.space && okScope o.scope && loadOrder o.order
  | .ld64 o => okSpace o.space && okScope o.scope && loadOrder o.order
  | .ld128 o => okSpace o.space && okScope o.scope && loadOrder o.order && o.d.toNat ≤ 62
  | .ldt o => okSpace o.space && okScope o.scope && loadOrder o.order
  | .ldnc o => okSpace o.space && okScope o.scope && loadOrder o.order
  | .pref o => okSpace o.space && okScope o.scope && o.order == 0
  | .ldaq o => okSpace o.space && okScope o.scope && o.order == 1
  | .ldaq32 o => okSpace o.space && okScope o.scope && o.order == 1
  | .st8 o => okSpace o.space && okScope o.scope && storeOrder o.order
  | .st16 o => okSpace o.space && okScope o.scope && storeOrder o.order
  | .st32 o => okSpace o.space && okScope o.scope && storeOrder o.order
  | .st64 o => okSpace o.space && okScope o.scope && storeOrder o.order
  | .st128 o => okSpace o.space && okScope o.scope && storeOrder o.order && o.b.toNat ≤ 62
  | .stt o => okSpace o.space && okScope o.scope && storeOrder o.order
  | .stnc o => okSpace o.space && okScope o.scope && storeOrder o.order
  | .strl o => okSpace o.space && okScope o.scope && o.order == 2
  | .strl32 o => okSpace o.space && okScope o.scope && o.order == 2
  | .aadd o => okSpace o.space && okScope o.scope && o.typ.toNat ≤ 1
  | .amin o => okSpace o.space && okScope o.scope && o.typ.toNat ≤ 1
  | .amax o => okSpace o.space && okScope o.scope && o.typ.toNat ≤ 1
  | .aminu o => okSpace o.space && okScope o.scope && o.typ.toNat ≤ 1
  | .amaxu o => okSpace o.space && okScope o.scope && o.typ.toNat ≤ 1
  | .aand o => okSpace o.space && okScope o.scope && o.typ.toNat ≤ 1
  | .aor o => okSpace o.space && okScope o.scope && o.typ.toNat ≤ 1
  | .axor o => okSpace o.space && okScope o.scope && o.typ.toNat ≤ 1
  | .aswp o => okSpace o.space && okScope o.scope && o.typ.toNat ≤ 1
  | .acas o => okSpace o.space && okScope o.scope && o.typ.toNat ≤ 2 && (o.typ != 2 || (o.d.toNat ≤ 62 && o.b.toNat ≤ 62 && o.space != 3))
  | .afadd o => okSpace o.space && okScope o.scope && 3 ≤ o.typ.toNat && o.space != 3
  | .afmin o => okSpace o.space && okScope o.scope && 3 ≤ o.typ.toNat && o.space != 3
  | .afmax o => okSpace o.space && okScope o.scope && 3 ≤ o.typ.toNat && o.space != 3
  | .ainc o => okSpace o.space && okScope o.scope && o.typ.toNat ≤ 1
  | .adec o => okSpace o.space && okScope o.scope && o.typ.toNat ≤ 1
  | .aaddN o => okSpace o.space && okScope o.scope && o.typ.toNat ≤ 1 && storeOrder o.order
  | .aminN o => okSpace o.space && okScope o.scope && o.typ.toNat ≤ 1 && storeOrder o.order
  | .amaxN o => okSpace o.space && okScope o.scope && o.typ.toNat ≤ 1 && storeOrder o.order
  | .aminuN o => okSpace o.space && okScope o.scope && o.typ.toNat ≤ 1 && storeOrder o.order
  | .amaxuN o => okSpace o.space && okScope o.scope && o.typ.toNat ≤ 1 && storeOrder o.order
  | .aandN o => okSpace o.space && okScope o.scope && o.typ.toNat ≤ 1 && storeOrder o.order
  | .aorN o => okSpace o.space && okScope o.scope && o.typ.toNat ≤ 1 && storeOrder o.order
  | .axorN o => okSpace o.space && okScope o.scope && o.typ.toNat ≤ 1 && storeOrder o.order
  | .aswpN o => okSpace o.space && okScope o.scope && o.typ.toNat ≤ 1 && storeOrder o.order
  | .afaddN o => okSpace o.space && okScope o.scope && 3 ≤ o.typ.toNat && o.space != 3 && storeOrder o.order
  | .afminN o => okSpace o.space && okScope o.scope && 3 ≤ o.typ.toNat && o.space != 3 && storeOrder o.order
  | .afmaxN o => okSpace o.space && okScope o.scope && 3 ≤ o.typ.toNat && o.space != 3 && storeOrder o.order
  | .aincN o => okSpace o.space && okScope o.scope && o.typ.toNat ≤ 1 && storeOrder o.order
  | .adecN o => okSpace o.space && okScope o.scope && o.typ.toNat ≤ 1 && storeOrder o.order
  | .kick o => o.space == 2 && o.scope == 0 && o.order == 0 && o.hint == 0
  | .arrs o => o.space == 2 && o.scope == 0 && o.order == 0 && o.hint == 0
  | .arra o => o.space == 2 && o.scope == 0 && o.order == 0 && o.hint == 0
  | .arrw o => o.space == 2 && o.scope == 0 && o.order == 0 && o.hint == 0
  | .rclm o => o.space.toNat ≤ 2 && okScope o.scope && o.order == 0 && o.hint == 0
  | .rcmt o => o.space.toNat ≤ 2 && okScope o.scope && o.order == 0 && o.hint == 0
  | .rawt o => o.space.toNat ≤ 2 && okScope o.scope && o.order == 0 && o.hint == 0
  | .rret o => o.space.toNat ≤ 2 && okScope o.scope && o.order == 0 && o.hint == 0
  | .flush o => okSpace o.space && o.scope == 5 && o.order == 0 && o.hint == 0
  | .inval o => okSpace o.space && o.scope == 0 && o.order == 0 && o.hint == 0
  | .rdet o => o.space == 0 && o.scope == 0 && (o.order == 1 || o.order == 2) && o.hint == 0
  | .digb o => o.space == 0 && o.scope == 0 && o.order == 0 && o.hint == 0
  | .dige o => (o.space == 0 || o.space == 3) && o.scope == 0 && o.order == 0 && o.hint == 0
  | .lnch _ => true
  | .binp _ => true
  | .vpub o => o.q != 7
  | .vfin o => o.q != 7
  | .vget _ => true
  | .vrel _ => true
  | .vwait _ => true
  | .stopref _ => true
  | .vsub _ => true
  | .migr _ => true
  | .gsync _ => true
  | .prdr o => o.d.toNat ≤ 62
  | .mma o => o.a.toNat ≤ 56 && o.b.toNat ≤ 56
  | .mmap o => o.a.toNat ≤ 56 && o.b.toNat ≤ 56
  | .mmapPartner o => o.a.toNat ≤ 56 && o.b.toNat ≤ 56
  | .macl o => o.space.toNat ≤ 2 && o.scope == 0 && o.order == 0
  | .macs o => o.space.toNat ≤ 2 && o.scope == 0 && o.order == 0
  | .macz o => o.tile.toNat + o.ntm1.toNat ≤ 63
  | .rstat o => o.d.toNat ≤ 61
  | .gang _ => true
  | .btake _ => true
  | .bpass _ => true
  | .nls _ => true
  | .nlr _ => true
  | .mscl _ => true
  | .kcpl o => o.space.toNat ≤ 2 && o.row0.toNat + o.nm1.toNat ≤ 255
  | .kbias o => o.space.toNat ≤ 2 && (!o.bonly || (o.space == 0 && o.a == 0))
  | .kclmp _ => true
  | .kclmpStates _ => true
  | .kcol _ => true
  | .kswp o => (!o.fin || o.pub) && (o.pub || (o.a == 0 && o.b == 0))
  | .kcnt o => o.d.toNat ≤ 60
  | .krds _ => true
  | .kmodeConfigure _ => true
  | .kmodeQuar _ => true
  | .kmodeFree _ => true
  | .kmodeInject _ => true
  | .kbnd o => o.g0.toNat + o.nm1.toNat + 1 ≤ 32
  | .kbndUnbind o => o.g0.toNat + o.nm1.toNat + 1 ≤ 32
  | .gcpl o => o.space.toNat ≤ 2 && o.row0.toNat + o.nm1.toNat ≤ 63
  | .gbias o => !o.tonly || o.a == 0
  | .grun o => (!o.fin && !o.cov || o.pub) && (o.pub || o.a == 0)
  | .grdm o => o.sel != 3
  | .grdc _ => true
  | .gmodeConfigure _ => true
  | .gmodeSetState _ => true
  | .gres _ => true
  | .dictIssueUnit _ => true
  | .walkNodeRead _ _ _ => true
  | .l1FillArrive _ _ _ => true
  | .cmbStoreArrive _ _ => true
  | .cmbAgeDrain _ _ _ => true
  | .cmbDrainArrive _ _ _ => true
  | .copyInvalidate _ _ => true
  | .invalidateAck _ => true
  | .drainAck _ _ _ => true
  | .sliceLoadRequest _ _ _ _ => true
  | .gatewayLoad _ _ _ _ => true
  | .hbmFillReturn _ _ _ => true
  | .loadResponse _ _ => true
  | .accessAtExecutingPlace _ _ => true
  | .partitionAreaAccess _ _ => true
  | .atomicAtPlace _ _ => true
  | .orderedAtomicAccept _ _ => true
  | .orderedAtomicApply _ _ => true
  | .orderedAtomicResend _ _ => true
  | .horizonReport _ => true
  | .horizonUpdate _ _ => true
  | .raceCheck _ => true
  | .patrolScrub _ _ _ => true
  | .copyRequestStart _ => true
  | .copyGranule _ _ _ => true
  | .ringOpAtPlace _ _ => true
  | .ringOpResend _ _ => true
  | .versionOpAtSlice _ => true
  | .subscriptionDelivery _ => true
  | .cancellationRequest _ => true
  | .engineWindowEnd _ _ _ => true
  | .rangeTableLoad _ => true
  | .cmrChange _ => true
  | .dealTeam _ => true
  | .dispatchEvaluate _ _ _ => true
  | .evictTeam _ => true
  | .restoreTeam _ _ => true
  | .binPush _ => true
  | .binTimerExpire _ _ => true
  | .binLaunchDecision _ _ => true
  | .crewEnd _ => true
  | .teamEnd _ => true
  | .settleWordUpdate _ => true
  | .digestCompute _ => true
  | .completionWordAtomic _ => true
  | .gridRetire _ => true
  | .mxOperationComplete _ _ => true
  | .nlEntryArrive _ _ => true
  | .nlCreditReturn _ _ _ => true
  | .kilnOperationExecute _ _ => true
  | .kilnSweep _ _ => true
  | .snapshotArrive _ _ _ => true
  | .subscriberRegister _ _ _ => true
  | .coneWindowEnd _ _ => true
  | .slipOperationExecute _ _ => true
  | .slipStep _ _ => true
  | .migrationRequest _ => true
  | .migrationResend _ => true
  | .migrationLand _ => true
  | .ctmrExpire _ => true
  | .pairWatchdogExpire _ => true
  | .preemptDeadlineExpire _ => true
  | .engineHaltStop _ _ _ => true
  | .haltComplete _ => true
  | .frameReceive _ _ _ _ => true
  | .acknowledgementFrame _ _ _ _ => true
  | .retransmitTimeout _ _ => true
  | .sessionEstablish _ _ _ _ => true
  | .sessionRekey _ => true
  | .launch _ _ => true
  | .read _ _ => true
  | .write _ _ => true
  | .transportFlush _ _ => true
  | .transportInvalidate _ _ => true
  | .shootdown _ _ => true
  | .shootdownStep _ => true
  | .setSplit _ _ => true
  | .setVaultAllotment _ _ => true
  | .vaultZeroingComplete _ => true
  | .setHostWindowRegion _ _ => true
  | .setRaceMode _ _ => true
  | .setConeWindow _ _ => true
  | .setHandlerEntry _ _ => true
  | .setSaveAreaSize _ _ => true
  | .setBinStoreVault _ _ => true
  | .setCheckpointRegion _ _ => true
  | .quarantineClear _ _ => true
  | .contextCreate _ _ _ _ => true
  | .contextDestroy _ _ => true
  | .switchOut _ _ => true
  | .contextSwitchStep _ => true
  | .contextRestore _ _ => true
  | .telemetry _ _ => true
  | .haltTower _ _ => true
  | .resumeTower _ _ => true
  | .debugReadItem _ _ => true
  | .debugWriteItem _ _ => true
  | .endHandlerCrew _ _ => true
  | .checkpointTake _ _ => true
  | .checkpointIntervalExpire _ => true
  | .warmReset _ _ => true
  | .attest _ _ => true
  | .firmwareChunk _ _ => true
  | .setIpv4 _ _ => true
  | .setIpv6 _ _ => true
  | .enrolHostKey _ _ => true
  | .revokeHostKey _ _ => true
  | .releaseOwnership _ _ => true
  | .listKeys _ _ => true
  | .unknownCommand _ _ => true
  | .mgmtStatusQuery _ _ => true
  | .mgmtFailrecQuery _ _ => true
  | .powerUp _ _ _ => true
  | .flitReplay _ => true
  | .linkRetrain _ => true
  | .linkDown _ => true
  | .neighbourLinkError _ _ _ => true
  | .arrayClockChange _ _ => true
  | .skipdChange _ _ => true
  | .powerSample _ _ _ => true
  | .warmResetLimitExpire _ => true
  | .checkpointComplete _ => true
  | .powerLoss => true

end Sys2Proof
end

