-- ==== Sys2Proof/Machine/State.lean ====
section
/-! DEFINITION. State: every piece of state the spec gives the machine, as plain data, the faults and refusals
a step can end in, and the state after reset. -/

namespace Sys2Proof.Machine

/-! ## Faults of the machine (21_traps_and_preemption.md) -/

/-- The stop reasons of R399 in code order. -/
inductive Reason where
  | none | violation | uncorrectable | misaligned | misalignedAtomic | atomicType
  | malformedCopy | malformedArrival | arrivalOvershoot | malformedRing
  | malformedCell | publishAfterFinal | versionExhausted | prematureFinal | readerUnderflow | tileTableFull
  | malformedSubscription
  | orderedTagExhausted | raceDetected | raceShadow
  | illegal | beyondAllotment | shapeOverflow | lookahead | floatException | crewTimer | trap | breakpoint
  | launchNonLeader | nestingTooDeep | gridBarrier | landed | barrierCount | barrierMismatch
  | badKickCount | digestFull | digestTwice | badNode
  | badGang | kTooBig | batonNotHeld | batonBusy | gangMismatch | gangEnded | badTileOperand | badBatonTarget
  | noLink | noNeighbour | pairMismatch | pairTimeout
  | replayExhausted | replayNotOwned | nonReproducible | badKilnOperand | badInverseTemp | quarantined
  | badPartner | ghostBusy | bindingFull | kilnHealth | neighbourLink
  | badSlipOperand | badNoiseTemp | noiseExhausted | noiseNotOwned | slipNotPd | slipRail
  | completionWord | badPredicate | linkDown | deferredWriteBack | meetingDeadlock | malformedImage
  | replayDivergence | badSettleWord
deriving DecidableEq, Repr

/-- The REASON code of a stop record (R399): the position in the list above. -/
def Reason.code (r : Reason) : Nat := r.ctorIdx

/-- The ENGINE codes of R405 in order. -/
inductive Engine where
  | issue | request | matrix | kiln | slip | outbox | cmb | slice | vault | hostWindow | gateway | link
  | neighbour | scheduler | walker | patrol | cone | handler | replay
deriving DecidableEq, Repr

/-- The ENGINE code (R405). -/
def Engine.code (e : Engine) : Nat := e.ctorIdx

/-- What the violation log says of a failed access (R32): tensor, REASON of R33, ACCESS, SPACE. -/
structure Viol where
  tensor : Nat := 0
  why : Nat := 0
  access : Nat := 0
  space : Nat := 0
  /-- IADDR of the entry where it is not the record's: the copy request's address (R32). -/
  iaddr : Option Word := none
deriving DecidableEq, Repr

/-- The fields of a stop record (R404) that the fault itself fixes. `crew` and `peer` are global crew ids, with
0xFFFFFF for none. -/
structure FaultInfo where
  reason : Reason
  engine : Engine := .issue
  tower : Nat := 0
  unit : Nat := 0
  crew : Nat := 0xFFFFFF
  peer : Nat := 0xFFFFFF
  iaddr : Word := 0
  aform : Nat := 0
  addr : Word := 0
  lanes : Mask := 0
  extra : Word := 0
  detail : Nat := 0
  /-- False for the record of an engine that stopped with work in progress (R404 FAULT). -/
  isFault : Bool := true
  /-- The queued operation, CMB line or other item the record's disposition acts on (R406). -/
  item : Nat := 0
  /-- The violation log entry that goes before the record (R31). -/
  viol : Option Viol := none
deriving DecidableEq, Repr

/-! ## Threads and crews (08, 09) -/

/-- A thread (R175): program counter, meeting register (all ones is NONE), exited bit, and its skip count
(R178). -/
structure Thread where
  pc : Word := 0
  m : Word := BitVec.allOnes 64
  exited : Bool := false
  skip : Nat := 0
deriving DecidableEq, Repr

/-- A vector register with its shape tag (R202): uniform, affine (base, stride), or 32 lane values. -/
inductive RegVal where
  | uni (u : Word)
  | aff (b s : Word)
  | gen (l : List Word)
deriving DecidableEq, Repr

/-- A pending register (R240): the operation that will write it, and for each thread the number of further
instructions it may issue plus one, 0 where the register is not pending. -/
structure Pend where
  reg : Nat
  op : Nat
  left : List Nat
  /-- LA, from which the counts start again (R241). -/
  la : Nat := 0
deriving DecidableEq, Repr

/-- What a waiting issue group waits for (R182). -/
inductive Cond where
  /-- A counter at or below a threshold (R116): class 1 to 6, threshold. -/
  | counter (cls thr : Nat)
  /-- A counter that must not pass 127 with `n` more (R117). -/
  | counterRoom (cls n : Nat)
  /-- A FENCE or implied fence of this group, by its number (R297). -/
  | fence (id : Nat)
  /-- PEND of a team barrier is 0 (R301). -/
  | barrier (b : Nat)
  /-- GPEND is 0 (R314). -/
  | gridBarrier
  /-- An arrival word reaches a generation (R309): local byte address, wanted GEN. -/
  | arrival (addr want : Nat)
  /-- The operation with this number has written its result (R306). -/
  | result (op : Nat)
  /-- The crew holds its team's baton (R339). -/
  | baton
  /-- A neighbour queue of the core holds an entry; the NLR that takes it (R342). -/
  | neighbour (dir op : Nat)
  /-- A credit toward a neighbour (R342). -/
  | credit (dir : Nat)
  /-- Room in the kick-record store, the matrix queue, the Kiln queue or the Slip queue (R125, R324, R351,
  R360). -/
  | room (engine : Engine) (n : Nat)
  /-- Room in the atomic outbox (R147). -/
  | outboxRoom (n : Nat)
  /-- An MMAP pairing slot is free (R340). -/
  | pairSlot (dir role : Nat)
  /-- It has been met: the barrier it waited for is complete (R300). -/
  | over
  /-- A gang or pair rendezvous is complete (R330, R340). -/
  | rendezvous (id : Nat)
  /-- A translation walk has answered (R30). -/
  | walk (id : Nat)
  /-- A shootdown no longer holds the context's translations (R44). -/
  | held (ctx : Nat)
  /-- An earlier memory instruction of the crew has passed its checks (R85). -/
  | checks
  /-- Room in the core's store queue (R58). -/
  | storeRoom
  /-- Fewer memory requests of the core outstanding than it may have (R3). -/
  | requests
  /-- Every pending register of the group's threads that has run out its lookahead is written (R240). -/
  | registers
  /-- Departure or landing of a migration, by its operation (R194). -/
  | migration (op : Nat)
deriving DecidableEq, Repr

/-- A wait entered by an issue group (R182): its threads, its condition, and whether the instruction issues
again when the condition is met (`again`), or the threads continue at `next`. `acquire` is the scope of the
acquire a met wait performs (R99, R96), `second` the dictionary code that issues when the wait ends (R244). -/
structure Wait where
  mask : Mask
  cond : Cond
  again : Bool
  next : Word := 0
  addr : Word := 0
  acquire : Option Nat := none
  second : Option (Nat × Nat) := none
  /-- The registers that code writes, which count as G meanwhile. -/
  dests : List Nat := []
  /-- Code 0 has had its effect, so that code 1 alone is left; its floating-point traps, taken after code 1; and the word ends a run (R235,
  R244). -/
  ran : Bool := false
  late : List FaultInfo := []
  runEnd : Bool := false
deriving DecidableEq, Repr

/-- Why a crew does not issue. -/
inductive CrewStatus where
  | running
  /-- Stopped at a yield point or by force for a pre-emption (R198, R412). -/
  | stopped
  /-- Cancelled and draining (R169). -/
  | cancelled
  /-- A handler crew that faulted (R373). -/
  | faulted
  /-- Every thread has exited; the crew ends when its counters are zero (R119). -/
  | draining
deriving DecidableEq, Repr

/-- Where a crew stands: absolute tower, physical core, slot 0 to 33 and occupancy count (R184). -/
structure Place where
  tower : Nat := 0
  core : Nat := 0
  slot : Nat := 0
  occ : Nat := 0
deriving DecidableEq, Repr

/-- The special registers a crew holds (R207). -/
structure Special where
  fstat : BitVec 5 := 0
  /-- CTMR.ARM and CTMR.REMAIN. -/
  ctmrArm : Bool := false
  ctmr : BitVec 48 := 0
  /-- The timer has expired and the crew's next instruction faults. -/
  ctmrFault : Bool := false
  preempt : Bool := false
  cancel : Bool := false
  gangr : BitVec 33 := 0
  key0 : Word := 0
  key1 : Word := 0
deriving DecidableEq, Repr

/-- The grid-epoch view of a crew (R156) and the peers of its race declarations (R158). -/
structure Epochs where
  grid : Nat := 0
  peers : List Nat := []
deriving DecidableEq, Repr

/-- A crew (R174, R175, R184). `id` is the model's own name for it. -/
structure Crew where
  id : Nat := 0
  place : Place := {}
  /-- The slot in which its team admitted it (R194). -/
  home : Place := {}
  team : Nat := 0
  index : Nat := 0
  threads : List Thread := []
  /-- p0 to p6, one mask each (R200). -/
  preds : List Mask := List.replicate 7 0
  regs : List RegVal := List.replicate 64 (.uni 0)
  /-- The allotted registers, bit k for vk (R201). -/
  allot : Word := 0
  /-- The G-budget (R204). -/
  gbud : Nat := 0
  pend : List Pend := []
  /-- The six counters GLD, GST, CPY, MX, SMP, TSK (R114). -/
  cnt : List Nat := List.replicate 6 0
  sp : Special := {}
  ep : Epochs := {}
  /-- SEQ, TW and GW (R149). -/
  seq : Nat := 0
  tw : Nat := 0
  gw : Nat := 0
  /-- REPI (R246). -/
  repi : Nat := 0
  /-- The threads whose REP is between repeats (R178, R246). -/
  repGroup : Mask := 0
  /-- Threads that entered a clause with YIELDPT at its header and stand on its first body instruction (R235). -/
  entered : Mask := 0
  /-- Scale register bases SA and SB (R332). -/
  sa : Nat := 0
  sb : Nat := 0
  /-- PEND bits of the team barriers (R300) and GPEND (R314). -/
  bar : BitVec 16 := 0
  gpend : Bool := false
  /-- Its chosen group waits for a pending register (R240); cleared when one is written. -/
  stalled : Bool := false
  waits : List Wait := []
  status : CrewStatus := .running
  /-- Age in the age matrix: larger is younger (R393). -/
  age : Nat := 0
  /-- Instructions issued in the present hold, and whether a hold is on (R235). -/
  held : Bool := false
  holdCount : Nat := 0
  /-- Resident cycles counted since PREEMPT was set (R412). -/
  deadline : Nat := 0
  forced : Bool := false
  landed : Bool := false
  handler : Bool := false
  /-- Pages whose walk failed for it, with the reason of R33, until an instruction meets them (R28, R30). -/
  walkFails : List (Nat × Nat) := []
  /-- The threads, and their PC, of a memory instruction whose translation is still to come, which later memory instructions of the
  crew wait for (R29, R85). -/
  checking : Option (Mask × Word) := none
  /-- Registers that hold an uncorrectable error (R75). -/
  badRegs : List Nat := []
  /-- Whether it has issued since its context became resident (R417). -/
  issued : Bool := false
deriving DecidableEq, Repr

/-! ## Memory (01, 02) -/

/-- Memory: (address, byte) pairs with strictly rising addresses and no byte equal to 0, which is what an
unlisted address reads as (assumption 1). The key of a physical byte is its 40-bit physical address (R18, R19);
the key of a byte of local memory is `localBase` plus its place (R52). -/
abbrev Memory := List Host.Cell

/-- Addresses rise strictly. -/
def Memory.rising : Memory → Bool
  | [] => true
  | [_] => true
  | a :: b :: r => decide (a.1 < b.1) && Memory.rising (b :: r)

/-- The canonical form: addresses rise strictly and no listed byte is 0. -/
def Memory.wf (m : Memory) : Bool := Memory.rising m && m.all fun c => c.2 != 0

/-- A cache-line tag (R33): tensor id (0 is flat), tile row, tile column. -/
structure Tag where
  tensor : Nat := 0
  row : Nat := 0
  col : Nat := 0
deriving DecidableEq, Repr

/-- One byte of an access: its memory key, its line and its position in the line (R36), and whether its page has
KIND 0, so that the L1 and the CMB may hold it (R47). -/
structure BRef where
  key : Nat
  tag : Tag := {}
  pos : Nat := 0
  cached : Bool := false
  /-- Its page is of KIND 0 or 2, so that an access at its home slice allocates the line there (R25, R59). -/
  alloc : Bool := false
  /-- The virtual address it was named by, for a global access. -/
  va : Nat := 0
deriving DecidableEq, Repr

/-- A byte at a position of a line. -/
abbrev LineByte := Nat × Byte

/-- An L1 line (R49): its valid bytes, the positions whose store has not reached the CMB (R50), and whether it
is protected by hint 2 (R48). The L1 lists its lines most recently used first. -/
structure L1Line where
  tag : Tag
  valid : List LineByte := []
  /-- The grid whose access protected it (R48). -/
  keep : Option Nat := none
  /-- The 256 B blocks of virtual addresses its bytes were named by (R137). -/
  vas : List Nat := []
deriving DecidableEq, Repr

/-- A fill an L1 has asked for (R49): requested, at its home by way of a gateway, held for an HBM fill, or served, so that it may
arrive (assumption 39). -/
inductive FillState where
  | requested
  | atGateway
  | atHbm
  | served
deriving DecidableEq, Repr

/-- An outstanding L1 fill. `refs` gives the memory key of each position of the line. -/
structure Fill where
  tag : Tag
  refs : List (Nat × Nat) := []
  hint : Nat := 0
  /-- The grid that asked for it (R48). -/
  grid : Nat := 0
  vas : List Nat := []
  state : FillState := .requested
  /-- It is asked for by a PREF of hint 3, and brings the line to its home slice only (R294). -/
  homeOnly : Bool := false
  /-- When it was sent, in the model's own numbering (R62, R63). -/
  sent : Nat := 0
deriving DecidableEq, Repr

/-- An entry of a core's outbound store queue, oldest first (R49, R58): the bytes of one store to one line, or
the marker of a fence or release (R57). -/
inductive SqEntry where
  | store (op crew : Nat) (tag : Tag) (bytes : List (BRef × Byte)) (segs : List Word) (ctx : Nat)
  | marker (fence : Nat)
deriving DecidableEq, Repr

/-- Why a CMB line drains, by the trigger codes of R410. -/
inductive Trigger where
  | fence | flush | atomic | occupancy | age | halt | switch | shootdown | rangeTable | direct
deriving DecidableEq, Repr

/-- A CMB line (R55): dirty bytes, the page of each segment as the first write recorded it, context tag, writer-core mask;
whether a drain is on its way, and the trigger of a drain whose re-check failed (R410). The CMB lists lines in the order of
their last write. -/
structure CmbLine where
  tag : Tag
  dirty : List (BRef × Byte) := []
  segs : List Word := []
  ctx : Nat := 0
  writers : Nat := 0
  draining : Bool := false
  /-- When the drain on its way was sent, in the model's own numbering (R62, R63). -/
  sent : Nat := 0
  /-- The home slice has the drain; until then it takes along what is still written to the line. -/
  arrived : Bool := false
  /-- Positions written since the drain reached its home slice; they stay dirty when it is acknowledged. -/
  fresh : List Nat := []
  /-- The home has applied the drain, whose acknowledgement is on its way: its bytes are read at the home (R56, R86). -/
  applied : Bool := false
  failed : Option Trigger := none
  /-- It holds an uncorrectable error (R75). -/
  bad : Bool := false
deriving DecidableEq, Repr

/-- A fence, release, flush or other operation that waits for drains (R57, R95, R411): the crew and address of
its instruction, the scope, and the lines of its cluster's CMB that it waits for once its marker has arrived. -/
structure FenceRec where
  id : Nat
  crew : Nat := 0
  /-- The threads whose next memory instruction it withholds (R297). -/
  mask : Mask := 0
  iaddr : Word := 0
  core : Nat := 0
  cluster : Nat := 0
  tower : Nat := 0
  trigger : Trigger := .fence
  /-- True while the marker is still in the store queue. -/
  marker : Bool := true
  lines : List Tag := []
  /-- The scope of an acquire made when it completes. -/
  acquire : Option Nat := none
  /-- The operation that completes with it (FLUSH). -/
  op : Option Nat := none
  /-- Earlier operations of the crew that must complete first (R95, R136). -/
  ops : List Nat := []
  /-- The ranges of virtual addresses a FLUSH names, start and length; empty for every line. -/
  ranges : List (Nat × Nat) := []
  /-- Whether it waits for the core's store queue, and for the cluster's dirty lines. -/
  queue : Bool := false
  drains : Bool := false
  /-- Its operations were not complete when its marker or its lines were named: what they have observed by the time they are
  complete is named then (R90, R95). -/
  again : Bool := false
  /-- It is an ERET's, which does not wait for a line whose write-back has failed (R374, R406). -/
  eret : Bool := false
  /-- Its instruction issues again when it is complete. -/
  retry : Bool := false
  /-- It is complete, and kept for the release or other instruction that issues again after it. -/
  done : Bool := false
deriving DecidableEq, Repr

/-- A TLB entry (R27): context tag unless global, page number at its level, leaf entry. -/
structure TlbEntry where
  ctx : Nat
  vpn : Nat
  level : Nat
  leaf : Word
deriving DecidableEq, Repr

/-- A walk-cache entry: a non-leaf entry of levels 0 to 2 (R30). -/
structure WalkCacheEntry where
  ctx : Nat
  level : Nat
  index : Nat
  node : Nat
deriving DecidableEq, Repr

/-- A page-table walk (R21, R30): context, 64 KiB page, the next level and node to read, and the cores that
asked for it. -/
structure Walk where
  id : Nat
  ctx : Nat
  vpn : Nat
  level : Nat := 0
  node : Nat := 0
  cores : List Nat := []
deriving DecidableEq, Repr

/-- A home line (R59, R60): where it is at home, the directory of its copies (the sectors of its tower, and the towers whose
gateway caches hold one, with the port), its protection (R48), and when it was last used in the model's own numbering, 0 for the
least-recently-used position. -/
structure HomeLine where
  tag : Tag
  home : Nat
  slice : Nat
  sectors : List Nat := []
  gateways : List (Nat × Nat) := []
  keep : Option Nat := none
  used : Nat := 0
deriving DecidableEq, Repr

/-- The way that a copy of a home line takes (R48, R59, R64): in a slice of another sector of its home tower, or in the gateway cache
at a port of another tower. It holds the copy while the directory of the home line names it. -/
structure CopyLine where
  tag : Tag
  tower : Nat
  /-- True for a gateway cache, whose port `at_` is; else `at_` is the sector. -/
  gateway : Bool
  at_ : Nat
  keep : Option Nat := none
  used : Nat := 0
deriving DecidableEq, Repr

/-- A drain at its home slice that waits for the invalidation of copies (R60). -/
structure HomeWrite where
  id : Nat
  tag : Tag
  bytes : List (BRef × Byte) := []
  /-- Copies told to go: sectors, and gateway caches; each with whether the copy itself is gone. -/
  sectors : List (Nat × Bool) := []
  gateways : List (Nat × Nat × Bool) := []
  /-- The cluster whose CMB line is acknowledged. -/
  cluster : Nat := 0
  tower : Nat := 0
  /-- Its bytes are applied and the acknowledgement is on its way. -/
  applied : Bool := false
deriving DecidableEq, Repr

/-! ## Operations in flight (05) -/

/-- One lane's part of a memory operation: the bytes it names, in address order, the data of a store, the bytes a
load has bound (index, byte), and whether it is done. -/
structure LaneAcc where
  lane : Nat
  refs : List BRef := []
  data : List Byte := []
  got : List (Nat × Byte) := []
  done : Bool := false
  /-- It is misaligned, so that its bytes are accessed one by one (R290). -/
  loose : Bool := false
  /-- The cache hint of an access at its executing place (R48). -/
  hint : Nat := 0
  /-- When it was sent, in the model's own numbering, where that is later than its operation's number. -/
  sent : Nat := 0
deriving DecidableEq, Repr

/-- How a loaded value becomes a register value (R289): bytes per register, signed, and whether the second
register takes the next eight bytes. -/
structure LoadForm where
  size : Nat
  signed : Bool := false
  double : Bool := false
deriving DecidableEq, Repr

/-- An atomic operation's function and type (R141), and the operands of a lane: b or compare value, new value,
each over the operation size. -/
structure AtomicLane where
  lane : Nat
  refs : List BRef := []
  opnd : Nat := 0
  newv : Nat := 0
  old : Nat := 0
  done : Bool := false
  accepted : Bool := false
  /-- Sent back by a full reorder queue and not yet sent again (R151). -/
  returned : Bool := false
  /-- When it was sent, in the model's own numbering, where that is later than its operation's number. -/
  sent : Nat := 0
deriving DecidableEq, Repr

/-- An order tag (R149): GW, team index, TW, crew index, SEQ, lane. -/
structure OrderTag where
  gw : Nat
  team : Nat
  tw : Nat
  crew : Nat
  seq : Nat
  lane : Nat
deriving DecidableEq, Repr

/-- The ring operations (R134). -/
inductive RingOp where
  | claim | commit | await | retire
deriving DecidableEq, Repr

/-- One lane's ring operation: the header's 64 bytes, start and count; `state` 0 sent, 1 waiting at its place, 2
applied, 3 faulted, 4 sent back by a full waiting store; since when it waits; what it returns. -/
structure RingLane where
  lane : Nat
  refs : List BRef := []
  start : Nat := 0
  n : Nat := 0
  state : Nat := 0
  since : Nat := 0
  result : Nat := 0
  /-- When it was sent, in the model's own numbering, where that is later than its operation's number. -/
  sent : Nat := 0
deriving DecidableEq, Repr

/-- The version-cell operations (R162). -/
inductive VerOp where
  | publish | final | get | release | wait | stopref | subscribe
deriving DecidableEq, Repr

/-- What an operation in flight still has to do. -/
inductive OpKind where
  /-- A load (R291 to R293): lanes, form, destination, whether it may take L1 bytes and CMB bytes, cache hint,
  acquire scope. -/
  | load (accs : List LaneAcc) (form : LoadForm) (reg : Nat) (l1 : Bool) (cmb : Bool) (hint : Nat)
      (acq : Option Nat)
  /-- A store (R291): `left` of its KIND 0 parts are still in the store queue (R99), and `accs` are the parts that
  are applied at their executing place (R86). -/
  | store (left : Nat) (accs : List LaneAcc)
  /-- An atomic (R143): minor, type, CMR bits, returning destination, lanes, order tag. -/
  | atomic (minor typ : Nat) (cmr : BitVec 32) (reg : Option Nat) (lanes : List AtomicLane)
      (ord : Option OrderTag) (acq : Option Nat)
  /-- A copy request (R120), counted in CPY. -/
  | copy
  /-- ARRS or ARRA at a local word: its key and its local offset (R309). -/
  | arrival (key off : Nat) (arm : Bool) (target : Nat)
  /-- A ring instruction (R310). -/
  | ring (op : RingOp) (reg : Option Nat) (lanes : List RingLane) (scope : Nat)
  /-- FLUSH: completes with its fence record (R136). -/
  | flush
  /-- An operation complete at issue, such as INVAL, DIGB or DIGE, waiting only for its turn to retire. -/
  | instant
  /-- A version-cell operation (R162, R317): the cell's physical and virtual address, operand, destination register or
  predicate; `state` 0 sent, 1 waiting at the slice, 2 applied and not retired; since when it waits; for a publish the
  buffer of the version before it. -/
  | version (op : VerOp) (key va arg : Nat) (reg : Option Nat) (pred : Option Nat) (state since buf : Nat)
  /-- BINP held at the scheduler until the bin has room (R315). -/
  | binPush (tower bin : Nat) (bytes : List Byte)
  /-- MIGR (R194): `stage` 3 waits for the crew's older operations, 4 for its fence, 0 asks for the landing core's slot, 1 waits in its queue,
  2 was sent back by a full one. -/
  | migrate (stage : Nat) (tower core : Nat)
  /-- GSYNC (R314). -/
  | gsync
  /-- A matrix-engine operation in the queue (R324). -/
  | matrix
  /-- An NLR whose group waits for an entry of a neighbour queue (R342). -/
  | receive (dir : Nat)
  /-- A Kiln or Slip operation in its queue (R351, R360). -/
  | sampler
deriving DecidableEq, Repr

/-- An outstanding operation (R114, R115): crew, counter class 1 to 6, instruction address, active lanes; it
retires when it is done and no older operation of its crew and class remains. -/
structure Op where
  id : Nat
  crew : Nat
  cls : Nat
  iaddr : Word
  lanes : Mask
  kind : OpKind
  done : Bool := false
  /-- The fence and the operations that must be over before it is sent: the release and the earlier acquires of a posted atomic, which
  issues without waiting for them (R90, R91, R147). -/
  after : List Nat := []
  /-- FSTAT flags ORed in at retirement, and whether an enabled one faults then (R207, R223). -/
  flags : BitVec 5 := 0
  /-- Of the product of a pair, the other end's crew, instruction and lanes (R340, R341). -/
  partner : Option (Nat × Word × Mask) := none
deriving DecidableEq, Repr

/-- A copy request in the request engine (R120 to R126): kicking crew and instruction, record fields, granules
already applied, whether it has started, and whether it stopped at a failed granule. -/
structure CopyReq where
  op : Nat
  crew : Nat
  iaddr : Word
  recOff : Nat
  recd : Nat
  kick : Word := 0
  started : Bool := false
  bytesDone : Nat := 0
  /-- Granules written: 2^32 · unit + block (R126). -/
  applied : List Nat := []
  /-- It stopped at a granule that failed (R127). -/
  stopped : Bool := false
deriving DecidableEq, Repr

/-! ## Ordered atomics and races (06) -/

/-- An ordered lane operation held in a reorder queue (R151). -/
structure Held where
  place : Nat
  line : Tag
  tag : OrderTag
  grid : Nat
  op : Nat
  lane : Nat
  faulted : Bool := false
  cancelled : Bool := false
deriving DecidableEq, Repr

/-- A race check on its way to the home slice (R154): accessor, sector, kind 0 load, 1 store, 2 atomic. -/
structure RaceReq where
  id : Nat
  crew : Nat
  gid : Nat
  team : Nat
  te : Nat
  ge : Nat
  peers : List Nat := []
  kind : Nat
  iaddr : Word
  /-- (lane, physical address, virtual address) of each lane. -/
  lanes : List (Nat × Nat × Word)
deriving DecidableEq, Repr

/-! ## Grids, teams, scheduling (08, 09, 20) -/

/-- A format slot (R211). -/
structure FmtSlot where
  fmt : Nat := 0
  scale : Nat := 0
  blen : Nat := 0
  cplx : Bool := false
  skip : Bool := false
  skipt : Nat := 0
deriving DecidableEq, Repr

/-- A launch record as read at acceptance (R210). -/
structure LaunchRec where
  code : Word := 0
  codelen : Nat := 0
  dict : Word := 0
  dictn : Nat := 0
  argp : Word := 0
  complete : Word := 0
  ranget : Word := 0
  subt : Word := 0
  subn : Nat := 0
  teams : Nat := 1
  cmrv : BitVec 32 := 0
  deadline : Nat := 0
  crews : Nat := 1
  nregs : Nat := 1
  gbud : Nat := 0
  pre : Nat := 0
  localg : Nat := 0
  det : Bool := false
  coop : Bool := false
  prio : Nat := 0
  agelim : Nat := 0
  slots : List FmtSlot := []
  graphp : Word := 0
deriving DecidableEq, Repr

/-- A node of a work graph as read at acceptance (R386, R387), its bin and what PRDR reports (R391). -/
structure GraphNode where
  tower : Nat := 0
  coal : Nat := 1
  timer : Nat := 0
  pred : Word := 0
  recAddr : Word := 0
  launch : LaunchRec := {}
  bin : Nat := 0
  lastPred : Word := 0
  launched : Bool := false
  decisions : Nat := 0
deriving DecidableEq, Repr

/-- The settle word's pending update (R172). -/
structure Settle where
  settled : Bool := false
  quiet : Bool := false
  /-- The last update clears both bits, so that a push has nothing to clear. -/
  cleared : Bool := false
  /-- GEN as the scheduler last wrote it. -/
  count : Nat := 0
  /-- Updates still to be written, oldest first: SETTLED, QUIET, and what GEN advances by. -/
  updates : List (Bool × Bool × Nat) := []
deriving DecidableEq, Repr

/-- A work graph of a root grid (R386). -/
structure Graph where
  nodes : List GraphNode := []
  sinks : List Word := []
  settleAddr : Word := 0
  settleSpace : Nat := 0
  settle : Settle := {}
deriving DecidableEq, Repr

/-- Where a grid stands. -/
inductive GridPhase where
  /-- In a launch queue; `dealt` counts its dealt teams. -/
  | queued
  /-- Every team dealt. -/
  | dealt
  /-- Its digest and completion word are being written (R188, R385). -/
  | retiring
  | retired
deriving DecidableEq, Repr

/-- A grid (R174, R187): record, record address, acceptance number, tower of its launch queue, depth, parent
team and root grid, dealt and ended team counts, digest declarations of a root grid (R311), and for a node grid
the records its team starts with (R389). -/
structure Grid where
  id : Nat := 0
  ctx : Nat := 0
  launch : LaunchRec := {}
  recAddr : Word := 0
  accept : Nat := 0
  tower : Nat := 0
  depth : Nat := 0
  parentTeam : Option Nat := none
  parentIndex : Nat := 0xFFFFFFFF
  parentGrid : Option Nat := none
  root : Nat := 0
  phase : GridPhase := .queued
  dealtTeams : Nat := 0
  admitted : Nat := 0
  ended : Nat := 0
  graph : Option Graph := none
  regions : List (Word × Word) := []
  digestDest : Option (Nat × Word) := none
  digest : Option (List Byte) := none
  /-- The code signature read at acceptance (R426). -/
  codeHash : List Byte := []
  node : Option Nat := none
  records : List (List Byte) := []
  /-- The subscription states whose consumer its team is (R168). -/
  pairs : List Nat := []
  /-- The session and queue of the command that launched it. -/
  origin : Option (Nat × Nat) := none
  /-- That command's TAGID. -/
  originTag : Nat := 0
  /-- The digest could not be read (R430). -/
  digestAbsent : Bool := false
  /-- The drains its digest or its release waits for, once begun (R385, R429). -/
  drain : Option (List Nat) := none
deriving DecidableEq, Repr

/-- A generation of a team barrier (R300): the crews that have arrived and N, and the operations that those crews release, which must take
effect before the generation completes (R96). -/
structure Barrier where
  arrived : List Nat := []
  n : Nat := 0
  owes : List Nat := []
deriving DecidableEq, Repr

/-- A tile-table entry (R165). -/
structure TileEntry where
  cell : Word := 0
  held0 : Nat := 0
  held1 : Nat := 0
  infin : Bool := false
  out : Bool := false
  got : Bool := false
deriving DecidableEq, Repr

/-- Where a team stands. -/
inductive TeamPhase where
  /-- In a core's pending list. -/
  | pending
  | resident
  /-- Saved by eviction and waiting in a pending list (R189). -/
  | evicted
  /-- Its crews have ended; its gets are being released (R166). -/
  | ending
  | ended
  /-- Saved with its context (R413). -/
  | saved
deriving DecidableEq, Repr

/-- A team (R174, R185). Its core is (tower, core). -/
structure Team where
  id : Nat := 0
  grid : Nat := 0
  index : Nat := 0
  phase : TeamPhase := .pending
  tower : Nat := 0
  core : Nat := 0
  age : Nat := 0
  crews : List Nat := []
  /-- Global crew ids its crews had and have no more: the model's own record, by which R157 still finds the team of such a writer
  (assumption 24). -/
  gone : List Nat := []
  /-- First granule and count of its local allotment (R53). -/
  gran : List Nat := []
  barriers : List Barrier := List.replicate 16 {}
  /-- Generations, by barrier, whose count is met and whose releases have not all taken effect: later arrivals are none of theirs (R96, R300). -/
  closing : List (Nat × Barrier) := []
  tiles : List TileEntry := []
  epoch : Nat := 0
  /-- The global crew id of its crew 0 when it was admitted or restored. -/
  tag : Nat := 0xFFFFFF
  /-- The crew index that holds the baton (R339). -/
  baton : Nat := 0
  bound : Bool := false
  cancelled : Bool := false
  /-- The drains that its eviction or its end waits for, once begun (R105, R166). -/
  drain : Option (List Nat) := none
  /-- The saved crews of an evicted team. -/
  image : List Crew := []
  localImage : List Host.Cell := []
  /-- Its withdrawn operations, to be sent again at the restore (R118). -/
  ops : List Op := []
  /-- The landing allotments of its saved crews that had landed, by crew (R197). -/
  lands : List (Nat × List Byte) := []
  /-- Cores on which crews of it have ended that had landed there, beside its own: its release at its end is made on these too (R166). -/
  away : List (Nat × Nat) := []
deriving DecidableEq, Repr

/-- A work-graph bin (R388): its graph's root grid and node, records, timer, and a decision that waits for
queue room with the predicate it read. -/
structure Bin where
  owner : Option (Nat × Nat) := none
  records : List (List Byte × Option Nat) := []
  /-- The place in its part of the bin store that the next record takes (R388). -/
  pos : Nat := 0
  /-- Version records held back by a full bin. -/
  wait : List (List Byte × Option Nat) := []
  timer : Option Nat := none
  /-- The timer has run out since the last decision (R390). -/
  expired : Bool := false
  waiting : Option (Nat × Word) := none
deriving DecidableEq, Repr

/-! ## Halts (21) -/

/-- The progress of a partition halt (R400). -/
inductive HaltPhase where
  | running
  /-- The halt line is raised; engines have not all stopped. -/
  | stopping
  /-- Handler crews run. -/
  | handling
deriving DecidableEq, Repr

/-- A record of the present halt by its index in the stop area. -/
structure HaltRec where
  index : Nat
  info : FaultInfo
  /-- Appended while handler crews run (R402). -/
  appended : Bool := false
deriving DecidableEq, Repr

/-- A partition's halt state (R400 to R402); the stop area itself is memory. -/
structure Halt where
  phase : HaltPhase := .running
  halts : Nat := 0
  records : List HaltRec := []
  count : Nat := 0
  ovf : Bool := false
  /-- (tower, core, engine code) that have stopped. -/
  stopped : List (Nat × Nat × Nat) := []
  /-- Asynchronous faults met while the context is not resident (R402). -/
  deferred : List FaultInfo := []
  handlersLeft : Nat := 0
deriving DecidableEq, Repr

/-! ## Engines of a core (16, 17, 18) -/

/-- Sparse cells: (index, value) pairs; an index that is not listed holds the default the field's comment
names. -/
abbrev Cells := List (Nat × Nat)

/-- What an accepted matrix-engine operation does (R324 to R342). -/
inductive MxKind where
  /-- MMA or MMAP: extension fields, the captured A and B slabs of each member (32 lanes of 8 registers, by
  register), scale registers of the leader, threshold offset SKIPD, format slots. -/
  | mma (tile km1 : Nat) (clr skip cplx : Bool) (aslot bslot : FmtSlot) (slabs : List (List (List Word) × List (List Word)))
      (scaleA scaleB : List (List Word)) (skipd : Nat)
  | macl (tile : Nat) (f64 : Bool) (refs : List (List BRef))
  | macs (tile : Nat) (f64 : Bool) (refs : List (List BRef))
  | macz (tile n : Nat)
  | rstat (tile reg : Nat)
  | nls (dir : Nat) (data : List Word)
deriving DecidableEq, Repr

/-- An accepted matrix-engine operation: its own operation first (the leader's or initiator's), then the
operations of the other members, or the partner's, that retire with it. -/
structure MxOp where
  kind : MxKind
  op : Nat
  crew : Nat
  others : List (Nat × Nat) := []
  /-- What a MACL has read already, and what a MACS that has taken its tile has still to write (R324). -/
  bytes : Option (List (List Byte)) := none
deriving DecidableEq, Repr

/-- An arrival at a gang rendezvous (R330): crew, its crew index, GANGR, extension, captured slab, its format
slots, and for the leader its scales and SKIPD. -/
structure GangArrival where
  crew : Nat
  index : Nat
  iaddr : Word
  lanes : Mask
  gangr : BitVec 33
  ext : Nat
  slabA : List (List Word)
  slabB : List (List Word)
  kind : Option MxKind := none
deriving DecidableEq, Repr

/-- An arrival at a pair rendezvous (R340): crew, role, direction, the fields that must agree, captured slab,
remaining watchdog, and the initiator's operation. -/
structure PairArrival where
  crew : Nat
  team : Nat
  tower : Nat
  core : Nat
  iaddr : Word
  lanes : Mask
  role : Nat
  dir : Nat
  fields : Nat
  slabA : List (List Word)
  slabB : List (List Word)
  watchdog : Nat
  kind : Option MxKind := none
deriving DecidableEq, Repr

/-- A ghost binding of a Kiln array (R352, R353): first ghost, count, partner logical core, its node of each
ghost, staleness, retained snapshots (tag, states as 0 or 1), newest last; the global crew id and the address of the
KBND that made it. -/
structure Binding where
  id : Nat
  /-- The KBND that makes it, complete once the partner has registered it and the first snapshot has arrived (R352). -/
  op : Nat := 0
  crew : Nat
  iaddr : Word
  g0 : Nat
  n : Nat
  partner : Nat
  nodes : List Nat
  stale : Nat
  snaps : List (Nat × List Nat) := []
  registered : Bool := false
deriving DecidableEq, Repr

/-- A subscriber of a Kiln array (R352): the subscribing core, and its binding's number and nodes. -/
structure Subscriber where
  tower : Nat
  core : Nat
  id : Nat
  nodes : List Nat
deriving DecidableEq, Repr

/-- What a queued Kiln operation does (R352). -/
inductive KilnKind where
  | couplings (row0 n : Nat) (refs : List (List BRef))
  | bias (beta : Nat) (refs : List BRef)
  | clamp (mask vals : List Word)
  | states (vals : List Word)
  | colours (lanes : List Word)
  /-- Sweeps left, window length (0 without PUB), FIN, cell address, sweeps left in the window. -/
  | sweep (left window : Nat) (fin : Bool) (cell : Word)
  | counts (reg : Nat) (clr : Bool)
  | readState (reg : Nat)
  | configure (cfg table : Word) (key0 key1 : Word) (team : Nat)
  | bind (g0 n partner : Nat) (refs : List BRef) (stale : Nat)
  | unbind (g0 n : Nat)
deriving DecidableEq, Repr

/-- A queued Kiln or Slip operation: operation number, crew, team, active lanes. -/
structure KilnOp where
  kind : KilnKind
  op : Nat
  crew : Nat
  team : Nat
deriving DecidableEq, Repr

/-- A Kiln array (R344), with its queue and its sweep in progress. Unlisted cells: S −1, J, JG, H, COL, CLM,
CLV, GS, CNT 0. Signed values are held as two's complement of their width. -/
structure Kiln where
  /-- 1 where a node is +1. -/
  s : Cells := []
  j : Cells := []
  jg : Cells := []
  h : Cells := []
  beta : Nat := 0
  col : Cells := []
  clm : Cells := []
  clv : Cells := []
  /-- 0 unbound, 1 for −1, 2 for +1. -/
  gs : Cells := []
  cnt : Cells := []
  swp : Nat := 0
  mode : Nat := 1
  ncol : Nat := 1
  nnodes : Nat := 256
  /-- `none`: the core's logical id (R344). -/
  arrayid : Option Nat := none
  key0 : Word := 0
  key1 : Word := 0
  tbase : Nat := 0
  tlen : Nat := 0
  tpos : Nat := 0
  towner : Option Nat := none
  improper : Bool := false
  stalls : Nat := 0
  bindings : List Binding := []
  subscribers : List Subscriber := []
  /-- Snapshots on their way here, oldest first: binding, tag, states. -/
  inbound : List (Nat × Nat × List Nat) := []
  queue : List KilnOp := []
  /-- The sweep in progress: the next colour phase. -/
  phase : Option Nat := none
  stalled : Bool := false
  /-- Counts of the window in progress, and its sweeps so far (R354). -/
  wcnt : Cells := []
  wdone : Nat := 0
  /-- A window end is to be made, and whether it has been tried and waits for the team's last publish to retire (R173). -/
  windowEnd : Bool := false
  wstalled : Bool := false
  /-- The run has made its last publish and waits for it to retire: the cell's key and the buffer whose gets must be released (R162, R351). -/
  closing : Option (Nat × Nat) := none
  quarantined : Bool := false
deriving DecidableEq, Repr

/-- The Cone monitor of a core (R355): the samples of the window in progress, 8 a cycle, the windows ended, and an
injected B. -/
structure Cone where
  total : Nat := 8 * 0x100000
  window : Nat := 0
  injected : Option Nat := none
deriving DecidableEq, Repr

/-- What a queued Slip operation does (R361 to R367). -/
inductive SlipKind where
  | couplings (row0 n : Nat) (refs : List (List BRef))
  | bias (temp : Nat) (b : Option (List Nat))
  /-- Windows left, timers, FIN, CUM, COV, cell. -/
  | run (windows settle period window : Nat) (pub fin cum cov : Bool) (cell : Word)
  | readMean (reg sel : Nat)
  | readCov (reg row : Nat)
  | configure (cfg table key0 key1 : Word) (team : Nat)
  | setState (x : List Nat)
  | residual (reg sc : Nat) (x : List Nat)
deriving DecidableEq, Repr

/-- A queued Slip operation. -/
structure SlipOp where
  kind : SlipKind
  op : Nat
  crew : Nat
  team : Nat
deriving DecidableEq, Repr

/-- A Slip tile (R357), with its queue and its run in progress. Unlisted cells hold +0. -/
structure Slip where
  a : Cells := []
  b : Cells := []
  temp : Nat := 0
  x : Cells := []
  sx : Cells := []
  sxx : Cells := []
  ns : Nat := 0
  mu : Cells := []
  cv : Cells := []
  mode : Nat := 1
  k : Nat := 0
  nord : Nat := 64
  tileid : Option Nat := none
  key0 : Word := 0
  key1 : Word := 0
  step : Nat := 0
  tbase : Nat := 0
  tlen : Nat := 0
  tpos : Nat := 0
  towner : Option Nat := none
  wins : Nat := 0
  pstalls : Nat := 0
  queue : List SlipOp := []
  /-- The unit t of the run in progress, 0 before its start check. -/
  t : Nat := 0
  running : Bool := false
  flags : BitVec 5 := 0
  windowEnd : Bool := false
  wstalled : Bool := false
  /-- As in an array (R162, R360). -/
  closing : Option (Nat × Nat) := none
  /-- Settling units to repeat after a restore of a physical run (R368). -/
  resettle : Nat := 0
  /-- Runs that a fault has ended, which retire once the halt is over (R363, R364). -/
  spent : List Nat := []
deriving DecidableEq, Repr

/-! ## Cores, clusters, towers (00, 01, 02, 20) -/

/-- A core: tower and physical number are its key in `Dev.cores`. -/
structure Core where
  /-- L1 lines, most recently used first (R49). -/
  l1 : List L1Line := []
  fills : List Fill := []
  /-- Outbound store queue, oldest first (R49). -/
  sq : List SqEntry := []
  tlb : List TlbEntry := []
  /-- Instruction-cache words: (context, address, word) (R251). -/
  icache : List (Nat × Word × Nat) := []
  /-- The dictionary's image, named by grid record address and count, and its entries (R242). -/
  dictOwner : Option (Word × Nat × Nat) := none
  dict : List Word := []
  /-- Entries of the dictionary, and tiles of the accumulator store, that hold an uncorrectable error (R75). -/
  badDict : List Nat := []
  badAcc : List Nat := []
  /-- Slots 0 to 33: occupancy counts (R184). -/
  occ : List Nat := List.replicate 34 0
  /-- Kick register (R124) and request engine (R125). -/
  kick : Word := 0
  copies : List CopyReq := []
  /-- Posted atomic lanes in the outbox (R147): operation and lane. -/
  outbox : List (Nat × Nat) := []
  /-- Accumulator store: index tile · 1024 + row · 32 + column, unlisted +0 (R323). -/
  acc : Cells := []
  mxq : List MxOp := []
  /-- Receive queues by direction, oldest first, and credits used toward each neighbour (R342). -/
  nq : List (List (List Word)) := [[], [], [], []]
  credits : List Nat := [8, 8, 8, 8]
  kiln : Kiln := {}
  cone : Cone := {}
  slip : Slip := {}
  /-- Pending list of the dispatcher, team ids, head first (R382). -/
  pending : List Nat := []
  /-- Migration requests waiting for slot 33, crew ids in arrival order (R194). -/
  landing : List Nat := []
  /-- Granules free: granules 0 to 239 not allotted; and the context that last held each granule (R53). -/
  granUsed : List Nat := []
  granCtx : Cells := []
  landCtx : Option Nat := none
  runOverflow : Nat := 0
deriving DecidableEq, Repr

/-- A cluster: CMB lines in the order of their last write, cluster TLB (R55, R29). -/
structure Cluster where
  cmb : List CmbLine := []
  tlb : List TlbEntry := []
deriving DecidableEq, Repr

/-- A (tile, subscription) pair state of a tower scheduler (R168). -/
structure SubPair where
  id : Nat := 0
  grid : Nat
  sub : Nat
  slot : Nat
  cell : Word
  node : Nat
  policy : Nat
  running : Bool := true
  pending : Option (List Byte) := none
  queue : List (List Byte) := []
  /-- A cancellation request kept until it has acted (R392). -/
  cancel : Bool := false
deriving DecidableEq, Repr

/-- A version delivery on its way to the scheduler of its node (R167): publish operation, root grid,
subscription entry index and slot, cell, version, node, policy. -/
structure Delivery where
  op : Nat
  /-- The crew and the address of the publishing instruction (R167). -/
  crew : Nat := 0xFFFFFF
  iaddr : Word := 0
  lanes : Mask := 0
  /-- The publishing team, whose publish retires once it is delivered (R168, R173). -/
  team : Nat := 0
  grid : Nat
  sub : Nat
  slot : Nat := 0
  /-- The cell's virtual and physical address, and the version published. -/
  cell : Word
  key : Nat
  ver : Nat
  node : Nat := 0
  policy : Nat := 0
  /-- Its entry of the subscription table is still to be read (R167). -/
  unread : Bool := true
  /-- It waits for a free state or place, and its publish stays unretired meanwhile (R168). -/
  held : Bool := false
deriving DecidableEq, Repr

/-- A tower: walker, scheduler, clocks. -/
structure Tower where
  walks : List Walk := []
  waitingWalks : List Walk := []
  walkCache : List WalkCacheEntry := []
  /-- Launch queues of priority 0 to 7, grid ids, head first (R378). -/
  queues : List (List Nat) := [[], [], [], [], [], [], [], []]
  bins : List Bin := List.replicate 64 {}
  pairs : List SubPair := []
  /-- CYC (R207). -/
  cyc : Word := 0
  /-- SKIPD as the power manager last wrote it (R207). -/
  skipd : BitVec 16 := 0
  /-- Array-die clock state (R5). -/
  arrayClock : Nat := 3000
  /-- Reorder queues: 64 entries per executing place (R151). -/
  held : List Held := []
  /-- Vault of the bin store, race shadow base, checkpoint settings (R388, R155, R420). -/
  binVault : Nat := 0
  sbase : Nat := 0
deriving DecidableEq, Repr

/-! ## Partitions, contexts, host, bring-up (00, 21, 23) -/

/-- The stages of a context switch (R413, R414) or restore. -/
inductive SwitchPhase where
  | idle
  /-- Step 1: every crew is to stop. -/
  | stopping
  /-- Step 2: operations drain or are withdrawn. -/
  | draining
  /-- Step 3: CMBs drain. -/
  | cmbs
  /-- Step 4: the image is written. -/
  | image
deriving DecidableEq, Repr

/-- What the device keeps of a context that is switched out, beside the save image: what the image's opaque blocks stand
for, and the structure its documented fields are read back into (R414). `mark` is the counter the opaque bytes were taken
at. -/
structure Saved where
  mark : Nat := 0
  layout : List (Nat × Nat) := []
  cores : List (Nat × Core) := []
  towers : List (Nat × Tower) := []
  grids : List Grid := []
  teams : List Team := []
  crews : List Crew := []
  ops : List Op := []
  deliveries : List Delivery := []
  horizons : List (Nat × Nat × OrderTag) := []
  dealing : Option Nat := none
  /-- The grid held at the head (R379). -/
  head : Option Nat := none
deriving DecidableEq, Repr

/-- A context (R7, R21, R209). -/
structure Ctx where
  ctxid : Nat := 0
  part : Nat := 0
  root : Nat := 0
  debug : Bool := false
  resident : Bool := true
  /-- 0 until the first root grid brings its value: the spec gives none (assumption 70). -/
  cmr : BitVec 32 := 0
  /-- Descriptor table base and count (R34). -/
  descBase : Word := 0
  descCount : Nat := 1
  /-- The loaded range table: pointer and (base, extent end, tensor id, descriptor) entries (R37, R38). -/
  ranget : Word := 0
  ranges : List (Nat × Nat × Nat × Nat) := []
  /-- The grid-epoch counter (R156). -/
  gridEpoch : Nat := 0
  raceMode : Nat := 0
  /-- Declaration table, most recently used first: flag address, crew (R158). -/
  decls : List (Word × Nat) := []
  switch : SwitchPhase := .idle
  /-- CYC stands still since the context's restore, until its first issue (R417). -/
  cycHeld : Bool := false
  /-- The transport command that waits for the switch: session, queue, TAGID. -/
  switchCmd : Option (Nat × Nat × Nat) := none
  saved : Option Saved := none
deriving DecidableEq, Repr

/-- A shootdown in progress (R44): step, context, range, and the command to answer. -/
structure Shootdown where
  part : Nat
  ctx : Nat
  start : Nat
  pages : Nat
  globals : Bool
  step : Nat := 1
  cmd : Nat × Nat × Nat
  /-- The accesses its step 2 and the drains its step 3 wait for, once begun. -/
  settle : Option (List Nat) := none
  drains : Option (List Nat) := none
deriving DecidableEq, Repr

/-- A message between a checkpointed tower and another, or the I/O die, 8: whether the tower sent it, the other end, the memory key it is about,
and how many bytes it is about (R420). -/
structure Message where
  out : Bool
  peer : Nat
  addr : Nat
  size : Nat
deriving DecidableEq, Repr

/-- The state of one tower (R420): its crews, teams, operations, fences, rendezvous, cores, clusters, scheduler with its grids, and local
memories. -/
structure TowerSlice where
  crews : List Crew := []
  grids : List Grid := []
  gangs : List GangArrival := []
  pairs : List PairArrival := []
  teams : List Team := []
  ops : List Op := []
  fences : List FenceRec := []
  cores : List (Nat × Core) := []
  clusters : List (Nat × Cluster) := []
  tower : Tower := {}
  locals : List Host.Cell := []
deriving DecidableEq, Repr

/-- A checkpoint region of a tower and what has been captured (R420). -/
structure Checkpoint where
  tower : Nat
  host : Nat := 0
  base : Nat := 0
  size : Nat := 0
  interval : Nat := 0
  elapsed : Nat := 0
  used : Nat := 0
  taken : Bool := false
  /-- Undo copies: memory key and the byte at the checkpoint. -/
  undo : List Host.Cell := []
  /-- The messages that have entered and left the tower since, in order. -/
  log : List Message := []
  /-- A checkpoint is being taken, and the tower's issue pauses; the command that asked for it. -/
  taking : Bool := false
  cmd : Option (Nat × Nat × Nat) := none
  /-- The tower at the checkpoint. -/
  snap : TowerSlice := {}
  /-- The replay of a warm reset: its limit, and the command to answer. -/
  replay : Option (Nat × (Nat × Nat × Nat)) := none
  /-- The tower and its memory as the logged messages lead to again (R421). -/
  again : TowerSlice := {}
  redo : List Host.Cell := []
  failed : Bool := false
deriving DecidableEq, Repr

/-- A partition, named by its lowest tower (R6, R440). -/
structure Part where
  towers : List Nat := []
  ctx : Option Nat := none
  halt : Halt := {}
  /-- Vault masks by tower (R15). -/
  vaults : List (Nat × BitVec 48) := []
  hostBase : Nat := 0
  hostSize : Nat := 0
  handler : Option (Nat × Nat × Nat) := none
  saveSize : Nat := 0
  coneWc : Nat := 0x100000
  coneL : Nat := 1024
  accept : Nat := 0
  /-- The grid being dealt, once its head condition has been met (R379). -/
  dealing : Option Nat := none
  /-- The grid that is held at the head, and stays there until its dealing begins (R379). -/
  head : Option Nat := none
  debugHalted : List Nat := []
  /-- The race mode and the shadow base of each tower that its next root grid brings (R440, R442). -/
  race : Option (Nat × List Nat) := none
  /-- The drains a range-table load waits for, once begun (R38). -/
  drain : Option (List Nat) := none
deriving DecidableEq, Repr

/-- A vault being zeroed for a new owner (R67): tower, vault, partition, and the command to answer. -/
structure Zeroing where
  tower : Nat
  mask : BitVec 48
  newMask : BitVec 48
  part : Nat
  cmd : Nat × Nat × Nat
deriving DecidableEq, Repr

/-- A frame the device sends on the port (R433): session (by the model's own id), queue, kind, sequence number, ACK and payload, and its bytes. -/
structure SentFrame where
  session : Nat
  queue : Nat
  kind : Nat
  seq : Nat
  ack : Nat := 0
  payload : List Byte
  bytes : List Byte := []
deriving DecidableEq, Repr

/-- One direction-pair of a transport queue (R433, R434). -/
structure Queue where
  id : Nat := 0
  expected : Nat := 0
  sendSeq : Nat := 0
  acked : Nat := 0
  ackCount : Nat := 0
  /-- Frames not yet acknowledged, oldest first; the first 256 have been sent (R434). -/
  unacked : List SentFrame := []
  /-- Commands accepted and not yet applied, oldest first: payload bytes. -/
  commands : List (List Byte) := []
  /-- The head command's effect has begun and completes later (R437). -/
  busy : Bool := false
  /-- The drains it waits for. -/
  drains : List Nat := []
deriving DecidableEq, Repr

/-- A session (R435): the model's own id of it, which no later session takes, and the number its frames carry (R433). -/
structure Session where
  id : Nat := 0
  number : Nat := 0
  /-- The enrolled key that authenticated it; `none` before any key is enrolled. -/
  key : Option (List Byte) := none
  keyEpoch : Nat := 0
  queues : List Queue := []
  /-- The model's own: the queues, by direction, whose numbers stood in their upper half when the session last rekeyed for it (R435). -/
  halves : List Nat := []
  /-- Ends after the next response (R448). -/
  ending : Bool := false
  address : Nat := 0
deriving DecidableEq, Repr


/-- The non-volatile store of the security processor (R448): enrolled keys with their OWNER bit, addresses,
and the firmware images. An address is held as the value of its subcommand, and is empty where none is configured. -/
structure NvStore where
  keys : List (List Byte × Bool) := []
  ipv4 : List Byte := []
  ipv6 : List Byte := []
  /-- The four images the next boot loads, in load order (R449, R450). -/
  images : List (List Byte) := [[], [], [], []]
deriving DecidableEq, Repr

/-- The transport and management side of the device. -/
structure HostSide where
  sessions : List Session := []
  sent : List SentFrame := []
  /-- The device's signatures of the exchanges that have opened sessions (R435). -/
  proofs : List (List Byte) := []
  /-- Replies of the management endpoint. -/
  mgmt : List (List Byte) := []
  fwParts : List Byte := []
  fwTotal : Nat := 0
deriving DecidableEq, Repr

/-- Bring-up (R445, R446): the stage reached, whether the device is safe, the failures found, and the
measurement registers (R451). -/
structure Boot where
  stage : Nat := 0
  safe : Bool := false
  running : Bool := false
  failures : List (List Byte) := []
  meas : List (List Byte) := List.replicate 8 (List.replicate 64 0)
  identity : List Byte := []
deriving DecidableEq, Repr

/-- A UCIe link (R70): replays, retrains, width in modules. -/
structure Link where
  replays : Nat := 0
  retrains : Nat := 0
  width : Nat := 4
deriving DecidableEq, Repr

/-- Error, power and temperature counters of telemetry (R73, R441): structure or rail index and value. -/
structure Telemetry where
  soft : Cells := []
  recovered : Cells := []
  power : Cells := []
  temperature : Cells := []
deriving DecidableEq, Repr

/-- Values fixed at manufacture (R8, R432, R444, R450). -/
structure Fused where
  harv : List (BitVec 48) := List.replicate 8 (BitVec.allOnes 48)
  stepping : BitVec 8 := 0
  mac : BitVec 48 := 0
  rollback : List Nat := [0, 0, 0, 0]
  keyHash : List Byte := []
  secret : List Byte := []
deriving DecidableEq, Repr

/-! ## The machine -/

/-- The issue in progress: the crew, the issue group, the address of the instruction and of the one after it,
its words, which dictionary code it is, and the skip counts the choice leaves (R178). -/
structure Cur where
  crew : Nat := 0
  group : Mask := 0
  addr : Word := 0
  ret : Word := 0
  word : Nat := 0
  /-- Which code of a dictionary word it is. -/
  code : Nat := 0
  skips : List Nat := []
  /-- The instruction that follows in the clause, for a REP (R246). -/
  target : Option (Nat × Nat) := none
  /-- For a repeat of a REP: REPI after it (R246). -/
  repi : Option Nat := none
  /-- It is the last body instruction of a clause with RUNEND (R235). -/
  runEnd : Bool := false
  /-- It counts as an instruction of lookahead (R241). -/
  counts : Bool := true
  /-- The instructions of a hold it counts as: a REP with all repeats is two (R235). -/
  weight : Nat := 1
deriving DecidableEq, Repr

/-- An error that strikes a storage structure, which the world decides (R73 to R75; assumption 50). -/
inductive ErrorEvent where
  /-- A soft error corrected on a read, in a structure by its code in a tower (R73, R443). -/
  | soft (structureCode tower : Nat)
  /-- A line of a core's L1, by its place in the list (R74). -/
  | l1Line (tower core i : Nat)
  /-- A line of a core's instruction cache: the words of a context at 256 B of addresses (R74). -/
  | fetchLine (tower core ctx block : Nat)
  /-- An entry of a core's TLB or of a cluster's (R74). -/
  | coreTlb (tower core i : Nat)
  | clusterTlb (tower cluster i : Nat)
  /-- Local memory, a home line, a vault, HBM or the host window, by the key of a byte (R75). -/
  | location (key : Nat)
  /-- A register of a crew, a line of a merge buffer, a dictionary entry, a tile of an accumulator store (R75). -/
  | register (crew reg : Nat)
  | cmbLine (tower cluster i : Nat)
  | dictEntry (tower core i : Nat)
  | tile (tower core i : Nat)
deriving DecidableEq, Repr

/-- Which agent moves next: an issue by a crew, or one step of the device by the name of its row and
arguments. The agenda is plain data, so that every interleaving of the agents is the run of some agenda. -/
inductive Choice where
  | crew (id : Nat)
  | row (i : Instr)
  | error (e : ErrorEvent)
deriving DecidableEq, Repr

/-- Everything the steps of the device change, apart from memory. -/
structure Dev where
  /-- The next unused number for an operation, crew, team, grid, fence or walk (the model's own). -/
  nextId : Nat := 1
  /-- The counter that free values are taken at (the model's own; assumption 2). -/
  free : Nat := 0
  /-- Steps taken, by which crews and the device's rows take turns where the agenda names none (the model's own; assumption 20). -/
  turn : Nat := 0
  cur : Option Cur := none
  agenda : List Choice := []
  crews : List Crew := []
  teams : List Team := []
  grids : List Grid := []
  ctxs : List Ctx := []
  parts : List Part := []
  ops : List Op := []
  fences : List FenceRec := []
  /-- Cores by 48 · tower + core, clusters by 12 · tower + cluster, towers by number; unlisted is the default. -/
  cores : List (Nat × Core) := []
  clusters : List (Nat × Cluster) := []
  towers : List (Nat × Tower) := []
  homes : List HomeLine := []
  copies : List CopyLine := []
  homeWrites : List HomeWrite := []
  races : List RaceReq := []
  gangs : List GangArrival := []
  pairs : List PairArrival := []
  deliveries : List Delivery := []
  /-- The horizon each tower's places hold for a grid: (tower, grid, tag) (R150). -/
  horizons : List (Nat × Nat × OrderTag) := []
  shootdowns : List Shootdown := []
  checkpoints : List Checkpoint := []
  zeroings : List Zeroing := []
  links : List Link := List.replicate 10 {}
  /-- Locations whose uncorrectable error stands until they are overwritten whole, each by the keys of its bytes (R76). -/
  bad : List (List Nat) := []
  tele : Telemetry := {}
  host : HostSide := {}
  nv : NvStore := {}
  boot : Boot := {}
  /-- The partition that last held each vault (R67): by 48 · tower + vault, a number that names it; unlisted is none. -/
  vaultOwner : Cells := []
deriving DecidableEq, Repr

/-- Memory and device as they stood before a dictionary unit (R244). -/
structure Snap where
  mem : Memory
  dev : Dev
deriving DecidableEq, Repr

/-- How far a dictionary unit has come. -/
inductive UnitPhase where
  /-- Code 0 is to issue. -/
  | first
  /-- Code 0 has issued. -/
  | half
  /-- Code 1 issues. -/
  | second
  /-- Code 0 has entered a wait; code 1 is checked on a copy that is then dropped. -/
  | trial
deriving DecidableEq, Repr

/-- An issue that goes on without a choice between its parts: the two codes of a dictionary word (R244).
`before` is the machine before the word, `after` the machine after code 0 while code 1 is only checked. -/
structure Cont where
  phase : UnitPhase := .first
  crew : Nat := 0
  group : Mask := 0
  addr : Word := 0
  next : Word := 0
  first : Nat × Nat := (0, 0)
  second : Option (Nat × Nat) := none
  before : Snap := { mem := [], dev := {} }
  after : Option Snap := none
  late : List FaultInfo := []
  /-- The word ends a run (R235). -/
  runEnd : Bool := false
  /-- Code 1 issues after a wait, with its checks made already (R244). -/
  resumed : Bool := false
  /-- The instructions of the present hold that the word counts as: one where a wait of code 0 has ended the hold that this one issued in
  (R235). -/
  weight : Nat := 2
deriving DecidableEq, Repr

/-- The machine. `fx` holds what no step changes. -/
structure State where
  fx : Fused := {}
  mem : Memory := []
  d : Dev := {}
  cont : Option Cont := none
deriving DecidableEq, Repr

/-- Why the machine stops with a fault. Every fault the spec gives the machine is taken as a next state; this
reason is the device's safe state, which no step leaves (R446). -/
inductive Fault where
  /-- Raised by `step` when bring-up has left the device in the safe state: it answers only management queries
  and needs a power cycle. Safe: the machine does nothing further. -/
  | safeState
deriving DecidableEq, Repr

/-- Why a step has no meaning. -/
inductive Refusal where
  /-- Raised by `exec` for an instruction that has no meaning yet. Safe: nothing can be proved of it. -/
  | notModelled (mnemonic : String)
deriving DecidableEq, Repr

/-- What a step answers. -/
abbrev Out := Host.Outcome State Fault Refusal

/-- The machine right after reset: power has come up and bring-up (R445) has not begun. Memory lists nothing,
no context exists, the partition table is one partition of all towers (R444 SPLITR), and every field holds the
reset value the spec gives or the value its assumption names. -/
def State.reset : State :=
  { fx := {}, mem := [], cont := none,
    d := { parts := [{ towers := [0, 1, 2, 3, 4, 5, 6, 7] }] } }

end Sys2Proof.Machine
end

