-- ==== Sys2Proof/Machine/Ops.lean ====
section
/-! DEFINITION. Ops: the named operations over memory, cores, crews and registers that the meanings share. -/

namespace Sys2Proof.Machine

/-! ## Bytes -/

/-- The number little-endian bytes stand for (R10). -/
def leNat : List Byte → Nat
  | [] => 0
  | b :: r => b.toNat + 256 * leNat r

/-- The `n` low bytes of a number, lowest first (R10). -/
def natLe : Nat → Nat → List Byte
  | 0, _ => []
  | n + 1, v => BitVec.ofNat 8 v :: natLe n (v / 256)

/-- Bits [hi:lo] of a number (R10). -/
def bits (hi lo v : Nat) : Nat := v / 2 ^ lo % 2 ^ (hi + 1 - lo)

/-- Bit [i] of a number. -/
def bit (i v : Nat) : Bool := v / 2 ^ i % 2 == 1

/-- A number of `w` bits read as two's complement. -/
def toSigned (w v : Nat) : Int := if v < 2 ^ (w - 1) then (v : Int) else (v : Int) - 2 ^ w

/-- An integer modulo 2^w. -/
def ofSigned (w : Nat) (v : Int) : Nat := (v % (2 ^ w : Int)).toNat

/-! ## Memory -/

/-- The byte at a key; an unlisted key reads 0 (assumption 1). -/
def Memory.get (m : Memory) (k : Nat) : Byte :=
  match m with
  | [] => 0
  | c :: r => if c.1 == k then c.2 else Memory.get r k

/-- A memory with one byte written, in canonical form: a 0 is not listed. -/
def Memory.put (m : Memory) (k : Nat) (b : Byte) : Memory :=
  match m with
  | [] => if b == 0 then [] else [(k, b)]
  | c :: r =>
    if k < c.1 then (if b == 0 then c :: r else (k, b) :: c :: r)
    else if k == c.1 then (if b == 0 then r else (k, b) :: r)
    else c :: Memory.put r k b

/-- A memory with a list of writes applied; the head of the list is the newest. -/
def Memory.commit (m : Memory) : List Host.Cell → Memory
  | [] => m
  | c :: r => Memory.put (Memory.commit m r) c.1 c.2

/-- The state a step works on: the fixed values, memory with the step's writes (newest first), the device, and
the faults of a one-word instruction that are taken after its results are written (R223). -/
structure Work where
  fx : Fused := {}
  mem : Memory := []
  wr : List Host.Cell := []
  d : Dev := {}
  late : List FaultInfo := []

/-- The byte at a key, the step's own writes included. -/
def Work.get (w : Work) (k : Nat) : Byte :=
  match w.wr.find? (fun c => c.1 == k) with
  | some c => c.2
  | none => w.mem.get k

/-- A byte written. -/
def Work.put (w : Work) (k : Nat) (b : Byte) : Work := { w with wr := (k, b) :: w.wr }

/-- `n` bytes from a key on. -/
def Work.gets (w : Work) (k n : Nat) : List Byte := (List.range n).map fun i => w.get (k + i)

/-- Bytes written from a key on. -/
def Work.puts (w : Work) (k : Nat) : List Byte → Work
  | [] => w
  | b :: r => (w.put k b).puts (k + 1) r

/-- Bytes written at the keys that stand beside them. -/
def Work.putAt (w : Work) : List (Nat × Byte) → Work
  | [] => w
  | c :: r => (w.put c.1 c.2).putAt r

/-- A little-endian number of `n` bytes (R10). -/
def Work.num (w : Work) (k n : Nat) : Nat := leNat (w.gets k n)

/-- A little-endian number written in `n` bytes (R10). -/
def Work.putNum (w : Work) (k n v : Nat) : Work := w.puts k (natLe n v)

/-- The work a state begins with. -/
def State.work (s : State) : Work := { fx := s.fx, mem := s.mem, d := s.d }

/-- Whether a key is HBM or vault memory of a tower (R15, R18, R19). -/
def inTower (t key : Nat) : Bool :=
  (decide (key < 2 ^ 39) && key / 2 ^ 36 == t)
    || (decide (2 ^ 39 ≤ key) && decide (key < 2 ^ 39 + 2 ^ 32) && (key - 2 ^ 39) / 2 ^ 29 == t)

/-- An undo copy of each byte of a checkpointed tower at its first write since the checkpoint (R420). -/
def Checkpoint.record (m : Memory) (cp : Checkpoint) : List Host.Cell → Checkpoint
  | [] => cp
  | c :: r =>
    let cp := cp.record m r
    if cp.taken && inTower cp.tower c.1 && !cp.undo.any fun u => u.1 == c.1 then
      { cp with undo := cp.undo ++ [(c.1, m.get c.1)], used := cp.used + 1 }
    else cp

/-- The state a device step leaves: its writes are in memory. -/
def State.after (s : State) (w : Work) : State :=
  { s with mem := s.mem.commit w.wr
           d := if w.d.checkpoints.isEmpty then w.d else { w.d with checkpoints := w.d.checkpoints.map fun c => c.record s.mem w.wr } }

/-- The state a work leaves: its writes are in memory and the issue in progress is over. -/
def State.done (s : State) (w : Work) : State :=
  let t := s.after w
  { t with d := { t.d with cur := none } }

/-- One step of the device: with its precondition unmet it changes nothing. -/
def event (s : State) (f : Work → Option Work) : Out :=
  match f s.work with
  | some w => .next (s.after w)
  | none => .next s

/-- A change of the device. -/
def Work.mod (w : Work) (f : Dev → Dev) : Work := { w with d := f w.d }

/-! ## Keyed lists -/

/-- The value at a key, or the default. -/
def getA {α : Type} (l : List (Nat × α)) (k : Nat) (dflt : α) : α :=
  match l with
  | [] => dflt
  | p :: r => if p.1 == k then p.2 else getA r k dflt

/-- The list with a value at a key, keys rising. -/
def putA {α : Type} (l : List (Nat × α)) (k : Nat) (v : α) : List (Nat × α) :=
  match l with
  | [] => [(k, v)]
  | p :: r => if k < p.1 then (k, v) :: p :: r else if k == p.1 then (k, v) :: r else p :: putA r k v

/-- Element `i` of a list, or the default. -/
def nth {α : Type} (l : List α) (i : Nat) (dflt : α) : α := l.getD i dflt

/-- A list with element `i` changed. -/
def modNth {α : Type} (l : List α) (i : Nat) (f : α → α) : List α := l.modify i f

/-- A list with element `i` changed, a list too short being filled up with the default first. -/
def setNth {α : Type} (dflt : α) : List α → Nat → (α → α) → List α
  | [], 0, f => [f dflt]
  | [], n + 1, f => dflt :: setNth dflt [] n f
  | a :: r, 0, f => f a :: r
  | a :: r, n + 1, f => a :: setNth dflt r n f

/-- A list in the order of a key, smallest first, equal keys in their order. -/
def sortOn {α : Type} (key : α → Nat) : List α → List α
  | [] => []
  | a :: r => ins a (sortOn key r)
where
  /-- An element put before the first one with a larger or equal key. -/
  ins (a : α) : List α → List α
    | [] => [a]
    | b :: r => if key a ≤ key b then a :: b :: r else b :: ins a r

/-- A list without repeats, first occurrences kept. -/
def distinct {α : Type} [BEq α] : List α → List α
  | [] => []
  | a :: r => a :: (distinct r).filter fun b => !(b == a)

/-! ## Units of the device (R1, R2, R6) -/

/-- The key of a core in `Dev.cores`. -/
def coreKey (tower core : Nat) : Nat := 48 * tower + core

/-- The cluster of a physical core (R1). -/
def clusterOf (core : Nat) : Nat := core / 4

/-- The sector of a physical core (R1): its cluster's grid row. -/
def sectorOf (core : Nat) : Nat := core / 16

/-- The key of a cluster in `Dev.clusters`. -/
def clusterKey (tower cluster : Nat) : Nat := 12 * tower + cluster

/-- A core. -/
def Dev.core (d : Dev) (t k : Nat) : Core := getA d.cores (coreKey t k) {}

/-- A core changed. -/
def Dev.modCore (d : Dev) (t k : Nat) (f : Core → Core) : Dev :=
  { d with cores := putA d.cores (coreKey t k) (f (d.core t k)) }

/-- A cluster. -/
def Dev.cluster (d : Dev) (t k : Nat) : Cluster := getA d.clusters (clusterKey t k) {}

/-- A cluster changed. -/
def Dev.modCluster (d : Dev) (t k : Nat) (f : Cluster → Cluster) : Dev :=
  { d with clusters := putA d.clusters (clusterKey t k) (f (d.cluster t k)) }

/-- A tower. -/
def Dev.tower (d : Dev) (t : Nat) : Tower := getA d.towers t {}

/-- A tower changed. -/
def Dev.modTower (d : Dev) (t : Nat) (f : Tower → Tower) : Dev :=
  { d with towers := putA d.towers t (f (d.tower t)) }

/-- The partition that holds a tower (R6). -/
def Dev.part (d : Dev) (t : Nat) : Option Part := d.parts.find? fun p => p.towers.contains t

/-- The lowest tower of a partition, by which it is named (R440). -/
def Part.low (p : Part) : Nat := p.towers.headD 0

/-- The partition of a tower changed. -/
def Dev.modPart (d : Dev) (t : Nat) (f : Part → Part) : Dev :=
  { d with parts := d.parts.map fun p => if p.towers.contains t then f p else p }

/-- A context by its tag. -/
def Dev.ctx (d : Dev) (id : Nat) : Option Ctx := d.ctxs.find? fun c => c.ctxid == id

/-- A context changed. -/
def Dev.modCtx (d : Dev) (id : Nat) (f : Ctx → Ctx) : Dev :=
  { d with ctxs := d.ctxs.map fun c => if c.ctxid == id then f c else c }

/-- The context that runs on a tower (R7). -/
def Dev.ctxOf (d : Dev) (t : Nat) : Option Ctx := (d.part t).bind fun p => p.ctx.bind d.ctx

/-- Whether a physical core is present (R8). -/
def Work.present (w : Work) (t k : Nat) : Bool := (w.fx.harv.getD t 0).getLsbD k && decide (k < 48)

/-- The present cores of a tower in ascending order. -/
def Work.cores (w : Work) (t : Nat) : List Nat := (List.range 48).filter (w.present t)

/-- The present cores of a partition, (tower, core), in the order of their logical ids (R9). -/
def Work.logical (w : Work) (p : Part) : List (Nat × Nat) :=
  p.towers.flatMap fun t => (w.cores t).map fun k => (t, k)

/-- The logical id of a core in its partition (R9). -/
def Work.logicalId (w : Work) (t k : Nat) : Nat :=
  match w.d.part t with
  | some p => (w.logical p).findIdx fun c => c == (t, k)
  | none => 0

/-- The adjacent cluster in a direction, 0 north, 1 east, 2 south, 3 west, if the grid has one (R2). -/
def neighbourCluster (cluster dir : Nat) : Option Nat :=
  let r := cluster / 4
  let c := cluster % 4
  match dir with
  | 0 => if r == 0 then none else some (cluster - 4)
  | 1 => if c == 3 then none else some (cluster + 1)
  | 2 => if r == 2 then none else some (cluster + 4)
  | _ => if c == 0 then none else some (cluster - 1)

/-- The opposite direction. -/
def oppositeDir (dir : Nat) : Nat := (dir + 2) % 4

/-! ## Keys of memory -/

/-- The first key of local memory: one above every physical address. -/
def localBase : Nat := 2 ^ 44

/-- The key of a byte of a core's 256 KiB local memory (R52). -/
def localKey (t k off : Nat) : Nat := localBase + coreKey t k * 2 ^ 18 + off

/-- The key of a vault byte: its alias in the device region (R15, R19). -/
def vaultKey (addr : Nat) : Nat := 2 ^ 39 + addr

/-- The key of a host-window byte at an absolute offset (R19). -/
def hostKey (off : Nat) : Nat := 2 ^ 39 + 2 ^ 36 + off

/-- The key of a byte of a partition area (R19): area 0 stop, 1 save, 2 violation log, 3 race log. -/
def areaKey (low area off : Nat) : Nat := 2 ^ 39 + 3 * 2 ^ 36 + low * 2 ^ 33 + area * 2 ^ 28 + off

/-- A physical address in the form of R14. -/
def physForm (pa : Nat) : Word := BitVec.ofNat 64 (2 ^ 63 + pa)

/-! ## Crews, teams, grids, operations -/

/-- A crew by its number. -/
def Dev.crew (d : Dev) (id : Nat) : Option Crew := d.crews.find? fun c => c.id == id

/-- A crew put in the place of the one with its number. -/
def Dev.setCrew (d : Dev) (c : Crew) : Dev :=
  { d with crews := d.crews.map fun x => if x.id == c.id then c else x }

/-- A crew changed. -/
def Dev.modCrew (d : Dev) (id : Nat) (f : Crew → Crew) : Dev :=
  { d with crews := d.crews.map fun x => if x.id == id then f x else x }

/-- A team by its number. -/
def Dev.team (d : Dev) (id : Nat) : Option Team := d.teams.find? fun c => c.id == id

/-- A team changed. -/
def Dev.modTeam (d : Dev) (id : Nat) (f : Team → Team) : Dev :=
  { d with teams := d.teams.map fun x => if x.id == id then f x else x }

/-- A grid by its number. -/
def Dev.grid (d : Dev) (id : Nat) : Option Grid := d.grids.find? fun c => c.id == id

/-- A grid changed. -/
def Dev.modGrid (d : Dev) (id : Nat) (f : Grid → Grid) : Dev :=
  { d with grids := d.grids.map fun x => if x.id == id then f x else x }

/-- The team of a crew. -/
def Dev.teamOf (d : Dev) (c : Crew) : Option Team := if c.handler then none else d.team c.team

/-- The grid of a crew. -/
def Dev.gridOf (d : Dev) (c : Crew) : Option Grid := (d.teamOf c).bind fun t => d.grid t.grid

/-- The global crew id of the slot a crew occupies (R184). -/
def Place.gid (p : Place) : Nat := p.tower * 2 ^ 21 + p.core * 2 ^ 15 + p.slot * 2 ^ 9 + p.occ % 512

/-- A crew's global id kept with its team when the crew gives up its slot (R157, R184, R416). -/
def Dev.leaveSlot (d : Dev) (c : Crew) : Dev :=
  if c.landed || c.handler then d else d.modTeam c.team fun t => { t with gone := c.place.gid :: t.gone }

/-- The context mode register as a crew reads it (R209); a handler crew's is 0 (R407). -/
def Dev.cmr (d : Dev) (c : Crew) : BitVec 32 :=
  if c.handler then 0 else match d.ctxOf c.place.tower with
    | some x => x.cmr
    | none => 0

/-- An operation by its number. -/
def Dev.op (d : Dev) (id : Nat) : Option Op := d.ops.find? fun o => o.id == id

/-- An operation changed. -/
def Dev.modOp (d : Dev) (id : Nat) (f : Op → Op) : Dev :=
  { d with ops := d.ops.map fun x => if x.id == id then f x else x }

/-- A new number of the model's own. -/
def Work.newId (w : Work) : Nat × Work := (w.d.nextId, w.mod fun d => { d with nextId := d.nextId + 1 })

/-- The counter a free value is taken at, and the work with the counter advanced (assumption 2). -/
def Work.freeAt (w : Work) : Nat × Work := (w.d.free, w.mod fun d => { d with free := d.free + 1 })

/-! ## Masks and threads -/

/-- The lanes of a crew. -/
def lanes : List Nat := List.range 32

/-- The lanes of a mask in ascending order. -/
def maskLanes (m : Mask) : List Nat := lanes.filter fun l => m.getLsbD l

/-- The mask of the lanes that meet a test. -/
def maskOf (f : Nat → Bool) : Mask :=
  BitVec.ofNat 32 (lanes.foldr (fun l n => 2 * n + (if f l then 1 else 0)) 0)

/-- The lowest lane of a mask, 0 for none. -/
def lowLane (m : Mask) : Nat := (maskLanes m).headD 0

/-- The number of lanes of a mask. -/
def maskCount (m : Mask) : Nat := (maskLanes m).length

/-- The value NONE of a meeting register (R175). -/
def mNone : Word := BitVec.allOnes 64

/-- Thread `l` of a crew. -/
def Crew.thread (c : Crew) (l : Nat) : Thread := c.threads.getD l { exited := true }

/-- The non-exited threads. -/
def Crew.live (c : Crew) : Mask := maskOf fun l => !(c.thread l).exited

/-- A thread is held when its PC equals its M (R176), an M that lies outside the code included (R259; assumption 75). -/
def Thread.held (t : Thread) : Bool := !t.exited && t.pc == t.m

/-- The threads of a crew that wait (R182). -/
def Crew.waiting (c : Crew) : Mask := c.waits.foldr (fun x m => x.mask ||| m) 0

/-- The eligible threads (R176). -/
def Crew.eligible (c : Crew) : Mask :=
  maskOf fun l => !(c.thread l).exited && !(c.thread l).held && !c.waiting.getLsbD l

/-- The threads of a mask changed. -/
def Crew.modThreads (c : Crew) (m : Mask) (f : Thread → Thread) : Crew :=
  { c with threads := c.threads.mapIdx fun l t => if m.getLsbD l then f t else t }

/-- The PCs of the threads of a mask set. -/
def Crew.setPc (c : Crew) (m : Mask) (pc : Word) : Crew := c.modThreads m fun t => { t with pc := pc }

/-- A hold on a meeting point is complete when every non-exited thread whose M names it is there (R180). -/
def holdComplete (ts : List Thread) (j : Word) : Bool :=
  j != mNone && ts.any (fun t => t.held && t.m == j)
    && ts.all fun t => t.exited || t.m != j || t.pc == j

/-- The release of every complete hold (R180). -/
def Crew.release (c : Crew) : Crew :=
  { c with threads := c.threads.map fun t =>
      if t.held && holdComplete c.threads t.m then { t with m := mNone } else t }

/-- The LA counts of a crew's pending registers started again (R241). -/
def Crew.laRestart (c : Crew) : Crew :=
  { c with pend := c.pend.map fun p => { p with left := p.left.map fun n => if n == 0 then 0 else p.la + 1 } }

/-! ## Registers (R200 to R204) -/

/-- The value of a lane (R202). -/
def RegVal.lane (v : RegVal) (l : Nat) : Word :=
  match v with
  | .uni u => u
  | .aff b s => b + BitVec.ofNat 64 l * s
  | .gen ls => ls.getD l 0

/-- Whether a register is tagged G. -/
def RegVal.isGen : RegVal → Bool
  | .gen _ => true
  | _ => false

/-- Whether a register is tagged U. -/
def RegVal.isUni : RegVal → Bool
  | .uni _ => true
  | _ => false

/-- The tag code (R202). -/
def RegVal.tag : RegVal → Nat
  | .uni _ => 0
  | .aff _ _ => 1
  | .gen _ => 2

/-- The 32 lane values. -/
def RegVal.all (v : RegVal) : List Word := lanes.map v.lane

/-- A register of a crew. -/
def Crew.reg (c : Crew) (r : Nat) : RegVal := c.regs.getD r (.uni 0)

/-- A lane of a register. -/
def Crew.val (c : Crew) (r l : Nat) : Word := (c.reg r).lane l

/-- A predicate, p7 being true in every lane (R200). -/
def Crew.pred (c : Crew) (p : Nat) : Mask := if p == 7 then BitVec.allOnes 32 else c.preds.getD p 0

/-- The lanes in which a guard holds (R237). -/
def Crew.guard (c : Crew) (g : Guard) : Mask :=
  if g.neg then ~~~ (c.pred g.p.toNat) else c.pred g.p.toNat

/-- A write is full when its lanes include every non-exited thread (R203). -/
def Crew.full (c : Crew) (act : Mask) : Bool := c.live &&& ~~~ act == 0

/-- The value a register holds after a write of `new` in the lanes `act` (R203): on a full write that is not
tagged G, `new` itself; otherwise G, with the other lanes kept. -/
def RegVal.merge (old new : RegVal) (full : Bool) (act : Mask) : RegVal :=
  match full, new with
  | true, .uni u => .uni u
  | true, .aff b s => .aff b s
  | _, _ => .gen (lanes.map fun l => if act.getLsbD l then new.lane l else old.lane l)

/-- A register written in the lanes of a mask; a write of all of it clears an uncorrectable error there (R76). -/
def Crew.put (c : Crew) (r : Nat) (v : RegVal) (act : Mask) : Crew :=
  { c with regs := setNth (.uni 0) c.regs r fun old => old.merge v (c.full act) act
           badRegs := if c.full act then c.badRegs.filter (· != r) else c.badRegs }

/-- A predicate written in the lanes of a mask. -/
def Crew.putPred (c : Crew) (p : Nat) (m act : Mask) : Crew :=
  { c with preds := setNth 0 c.preds p fun old => (old &&& ~~~ act) ||| (m &&& act) }

/-- The registers that code 1 of a dictionary word will write after a wait (R244). -/
def Crew.reserved (c : Crew) : List Nat := c.waits.flatMap fun x => x.dests

/-- The registers that count as G (R204): tagged G, pending, or reserved by a dictionary word. -/
def Crew.gcount (c : Crew) : Nat :=
  ((List.range 64).filter fun k => c.allot.getLsbD k &&
    ((c.reg k).isGen || c.pend.any (fun p => p.reg == k) || c.reserved.contains k)).length

/-- Whether the G-budget is exceeded (R204). -/
def Crew.overBudget (c : Crew) : Bool := decide (c.gbud < c.gcount)

/-- Exception flags ORed into FSTAT (R207). -/
def Crew.orFlags (c : Crew) (f : BitVec 5) : Crew := { c with sp := { c.sp with fstat := c.sp.fstat ||| f } }

end Sys2Proof.Machine
end

