-- ==== Sys2Proof/Machine/Fault.lean ====
section
/-! DEFINITION. Fault: taking an exception. One operation, `Work.raise`, writes the violation log entry and the
stop record and raises the halt line (R31, R32, R398 to R405); the return from it is in `Trap`. -/

namespace Sys2Proof.Machine

/-! ## Notices of the device (R434, R439) -/

/-- A queue of a session, a fresh one where none exists yet. -/
def Session.queue (s : Session) (q : Nat) : Queue := (s.queues.find? fun x => x.id == q).getD { id := q }

/-- A session with a queue put in. -/
def Session.setQueue (s : Session) (q : Queue) : Session :=
  { s with queues := if s.queues.any (fun x => x.id == q.id)
      then s.queues.map fun x => if x.id == q.id then q else x else s.queues ++ [q] }

/-- Frames of a queue that may be unacknowledged at once (R434). -/
def windowSize : Nat := 256

/-- The keys of a session, one for each direction (R435): host to device, and device to host. -/
def Session.hostKey (s : Session) : Nat := 2 * s.keyEpoch
/-- See `Session.hostKey`. -/
def Session.deviceKey (s : Session) : Nat := 2 * s.keyEpoch + 1

/-- The GCM nonce of a frame (R433): session, queue, DIR, and the sequence number with its most significant byte first. -/
def frameNonce (session queue dir seq : Nat) : List Byte :=
  natLe 1 session ++ natLe 1 (queue % 64) ++ natLe 1 dir ++ List.replicate 5 0 ++ (natLe 4 seq).reverse

/-- The header of a frame (R433). -/
def frameHeader (session queue kind len seq ack : Nat) : List Byte :=
  natLe 16 (1 + session % 2 ^ 8 * 2 ^ 8 + queue % 64 * 2 ^ 16 + kind % 2 ^ 8 * 2 ^ 40 + len % 2 ^ 16 * 2 ^ 48 + seq % 2 ^ 32 * 2 ^ 64 + ack % 2 ^ 32 * 2 ^ 96)

/-- A frame of the device with its bytes: the header in clear, then payload and tag under the key of its direction (R433, R435). -/
def Session.frame (s : Session) (q kind seq ack : Nat) (payload : List Byte) : SentFrame :=
  let head := frameHeader s.number q kind payload.length seq ack
  { session := s.id, queue := q, kind := kind, seq := seq, ack := ack, payload := payload
    bytes := head ++ (List.range (payload.length + 16)).map (Config.gcmSeal s.deviceKey (frameNonce s.number q (if kind == 2 then 3 else 1) seq) head payload) }

/-- A response (KIND 1) or notice (KIND 3) sent on a queue: it takes the next sequence number and stays
unacknowledged until an ACK passes it; beyond the window it waits (R433, R434). -/
def HostSide.send (h : HostSide) (sess q kind : Nat) (payload : List Byte) : HostSide :=
  match h.sessions.find? fun s => s.id == sess with
  | none => h
  | some s =>
    let k := s.queue q
    let f := s.frame q kind k.sendSeq k.expected payload
    { h with
      sessions := h.sessions.map fun x => if x.id == sess
        then x.setQueue { k with sendSeq := (k.sendSeq + 1) % 2 ^ 32, unacked := k.unacked ++ [f] } else x
      sent := if k.unacked.length < windowSize then h.sent ++ [f] else h.sent }

/-- The payload of a notice (R439). -/
def noticePayload (code part ctx : Nat) (body : List Byte) : List Byte :=
  natLe 8 (body.length * 2 ^ 32 + ctx * 2 ^ 20 + part * 2 ^ 16 + code) ++ body

/-- A notice sent on queue 0 of every session (R439). -/
def Dev.noticeAll (d : Dev) (code part ctx : Nat) (body : List Byte) : Dev :=
  { d with host := d.host.sessions.foldl (fun h s => h.send s.id 0 3 (noticePayload code part ctx body)) d.host }

/-! ## The violation log (R32) -/

/-- One entry appended to the violation log of a partition: COUNT is read from the log's header, which the handler
may have written. -/
def Work.logViolation (w : Work) (low : Nat) (f : FaultInfo) (v : Viol) : Work :=
  let count := w.num (areaKey low 2 0) 4
  let seq := count % 2 ^ 15
  let entry := 2 ^ 255 + seq * 2 ^ 240 + v.tensor * 2 ^ 216 + v.why * 2 ^ 200 + v.access * 2 ^ 197
    + v.space * 2 ^ 192 + (f.crew % 2 ^ 24) * 2 ^ 160 + f.lanes.toNat * 2 ^ 128 + (v.iaddr.getD f.iaddr).toNat * 2 ^ 64 + f.addr.toNat
  (w.putNum (areaKey low 2 (64 + 32 * (count % 256))) 32 entry).putNum (areaKey low 2 0) 4 (count + 1)

/-! ## Stop records (R403, R404) -/

/-- The records the stop area holds (R403). -/
def stopRecords : Nat := 16383

/-- The lower-numbered end of a link (R405). -/
def linkTower (l : Nat) : Nat := if l < 3 then l else if l < 6 then l + 1 else l - 6

/-- TOWER of a record: the engine's tower, and the lower-numbered end of a link, which may lie outside the partition that
halts (R70, R405). -/
def FaultInfo.engineTower (f : FaultInfo) : Nat := if f.engine == .link then linkTower f.unit else f.tower

/-- The 64 bytes of a stop record (R404). -/
def FaultInfo.bytes (f : FaultInfo) (ctx halts : Nat) : List Byte :=
  natLe 64 (f.extra.toNat * 2 ^ 448 + f.addr.toNat * 2 ^ 384 + f.iaddr.toNat * 2 ^ 320
    + (f.crew % 2 ^ 24) * 2 ^ 296 + (f.peer % 2 ^ 24) * 2 ^ 272 + ctx * 2 ^ 260 + f.aform * 2 ^ 256
    + f.reason.code * 2 ^ 248 + f.engine.code * 2 ^ 240 + f.unit % 256 * 2 ^ 232 + f.engineTower * 2 ^ 229
    + (if f.isFault then 2 ^ 228 else 0) + f.lanes.toNat * 2 ^ 192 + halts % 2 ^ 32 * 2 ^ 160 + f.detail % 2 ^ 128)

/-- The 64 bytes of the stop area header (R403). -/
def Halt.header (h : Halt) : List Byte :=
  natLe 64 (h.halts % 2 ^ 32 * 2 ^ 64 + (if h.ovf then 2 ^ 33 else 0)
    + (if h.phase == .running then 0 else 2 ^ 32) + h.count)

/-- The stop area header of a partition brought into memory. -/
def Work.putHeader (w : Work) (p : Part) : Work := w.puts (areaKey p.low 0 0) p.halt.header

/-- The key of stop record `i`. -/
def recordKey (low i : Nat) : Nat := areaKey low 0 (64 + 64 * i)

/-- The records of engines with work in progress at the end of those of a halt: those of faults that join it go before them (R403). -/
def Halt.tail (h : Halt) : List HaltRec := (h.records.reverse.takeWhile fun r => !r.info.isFault).reverse

/-- Records of a halt as they stand in the stop area, which holds so many. -/
def Work.putRecords (w : Work) (low ctx halts : Nat) (rs : List HaltRec) : Work :=
  rs.foldl (fun w r => if r.index < stopRecords then w.puts (recordKey low r.index) (r.info.bytes ctx halts) else w) w

/-- The record of a fault that joins a halt put before the records of engines with work in progress (R400, R403). -/
def Work.joinRecord (w : Work) (p : Part) (f : FaultInfo) : Work :=
  let h := p.halt
  let front := h.records.take (h.records.length - h.tail.length)
  let tail := ({ index := 0, info := f } :: h.tail).mapIdx fun i r => { r with index := Nat.min (front.length + i) stopRecords }
  let rs := front ++ tail
  let h' := { h with records := rs, count := Nat.min rs.length stopRecords, ovf := h.ovf || decide (stopRecords < rs.length) }
  ((w.putRecords p.low (p.ctx.getD 0) h.halts tail).mod fun d => d.modPart p.low fun _ => { p with halt := h' }).putHeader { p with halt := h' }

/-- A record written at index COUNT, or OVF where the area is full; one of a fault that joins a halt goes before those of engines with work in
progress (R403). -/
def Work.putRecord (w : Work) (t : Nat) (f : FaultInfo) (appended : Bool) : Work :=
  match w.d.part t with
  | none => w
  | some p =>
    let h := p.halt
    if h.phase == .stopping && f.isFault && !h.tail.isEmpty then w.joinRecord p f
    else
    let h' := if h.count < stopRecords
      then { h with count := h.count + 1, records := h.records ++ [{ index := h.count, info := f, appended := appended }] }
      else { h with ovf := true, records := h.records ++ [{ index := stopRecords, info := f, appended := appended }] }
    let w1 := if h.count < stopRecords
      then w.puts (recordKey p.low h.count) (f.bytes (p.ctx.getD 0) h.halts) else w
    let p' := { p with halt := h' }
    (w1.mod fun d => d.modPart t fun _ => p').putHeader p'

/-- The halt line raised (R400 step 1): HALTS advances, HALTED is set, COUNT is cleared. -/
def Work.startHalt (w : Work) (t : Nat) : Work :=
  w.mod fun d => d.modPart t fun p => { p with halt := { p.halt with
    phase := .stopping, halts := (p.halt.halts + 1) % 2 ^ 32, count := 0, ovf := false, records := [], stopped := [] } }

/-- The reason of R33 by which the model names a walk that has met an uncorrectable error at the entry with a key: not one of the codes, and
never written. -/
def walkLost (key : Nat) : Nat := 16 + key

/-- The fault of an access whose walk has met an uncorrectable error: it names the entry's place and is no violation (R75, R405). -/
def FaultInfo.walked (f : FaultInfo) : FaultInfo :=
  match f.viol with
  | some v =>
    if v.why < walkLost 0 then f
    else
      let key := v.why - walkLost 0
      { f with reason := .uncorrectable, engine := .slice, tower := key / 2 ^ 36 % 8, unit := Config.sliceHash 0 (key / 256) 0 % 48,
               aform := 2, addr := physForm key, extra := 0, detail := 0, viol := none }
  | none => f

/-- The handler crew that a fault belongs to: one that it raises itself at issue, or whose own operation meets it; the drain of a merge buffer's
line is no crew's own (R373, R398). -/
def Dev.ownHandler (d : Dev) (f : FaultInfo) : Option Crew :=
  if f.engine == .cmb then none else d.crews.find? fun c => c.handler && c.place.gid == f.crew

/-- Taking a fault: the violation log entry, where the fault has one; then the halt line and the record. A fault that
strikes while engines stop joins the halt (R400); one that arrives while handler crews run is appended (R402), and
one of a handler crew stops that crew alone (R373); one that arrives while no context is resident waits for the
restore (R402). -/
def Work.raise (w : Work) (f₀ : FaultInfo) : Work :=
  let f := f₀.walked
  match w.d.part f.tower with
  | none => w
  | some p =>
    let w := match f.viol with
      | some v => w.logViolation p.low f v
      | none => w
    if p.ctx.isNone then
      w.mod fun d => d.modPart f.tower fun p => { p with halt := { p.halt with deferred := p.halt.deferred ++ [f] } }
    else match p.halt.phase with
      | .running => (w.startHalt f.tower).putRecord f.tower f false
      | .stopping => w.putRecord f.tower f false
      | .handling =>
        match w.d.ownHandler f with
        | some y =>
          let f := { f with engine := .handler, tower := y.place.tower, unit := y.place.core }
          let w := w.putRecord f.tower f false
          w.mod fun d =>
            let d := { d with crews := d.crews.map fun (c : Crew) =>
              if c.handler && c.place.gid == f.crew then { c with status := .faulted } else c }
            d.noticeAll 3 p.low (p.ctx.getD 0) (f.bytes (p.ctx.getD 0) p.halt.halts)
        | none => w.putRecord f.tower f true

/-- A list of faults taken in order. -/
def Work.raiseAll (w : Work) : List FaultInfo → Work
  | [] => w
  | f :: r => (w.raise f).raiseAll r

end Sys2Proof.Machine
end

