-- ==== Sys2Proof/Machine/Issue.lean ====
section
/-! DEFINITION. Issue: what every instruction of a crew has in common: the checks made at issue (R200, R201, R204,
R207, R240, R250), the active lanes (R177), the advance of the group's PCs, entering a wait (R182), the two codes of
a dictionary word (R244), and how an issue ends in a next state. -/

namespace Sys2Proof.Machine

/-- Which slots an instruction may issue in (R369). -/
inductive Slots where
  | all | kernel | handler
deriving DecidableEq, Repr

/-- What an instruction reads and writes, its implied registers included (R201, R240), and the checks its kind
asks for. -/
structure Use where
  reads : List Nat := []
  writes : List Nat := []
  /-- Its destinations are written later and count as G from issue on (R204). -/
  pends : Bool := false
  /-- It works on registers alone, so that a check of it (R244) may run it on a copy. -/
  pure : Bool := false
  /-- What its own checks at issue look at is the registers it reads, memory's permissions and what no wait of another instruction
  changes, so that a check of it (R244) may run it on a copy where those registers are known (assumption 56). -/
  values : Bool := false
  slots : Slots := .all
  /-- A landed crew may not issue it (R195). -/
  home : Bool := false
  /-- Its fields name what its chapter declares illegal, whatever its lanes (R250). -/
  refused : Bool := false

/-- Whether an instruction reads or writes a register. -/
def Use.touches (u : Use) (r : Nat) : Bool := u.reads.contains r || u.writes.contains r

/-- One issue: the choice, the crew as it was, the active lanes, and the machine with the choice made and nothing
else done. -/
structure Iss where
  cu : Cur := {}
  c : Crew := {}
  act : Mask := 0
  w0 : Work := {}

/-- How the effect of an instruction ends: done, a precise fault with nothing performed, or a wait with the
instruction to issue again. -/
inductive Res where
  | ok (w : Work)
  | fault (f : FaultInfo)
  | again (w : Work) (cond : Cond)

/-- The next part of an effect, where the first part is done. -/
def Res.bind (r : Res) (k : Work → Res) : Res :=
  match r with
  | .ok w => k w
  | .fault f => .fault f
  | .again w c => .again w c

/-! ## Faults of an issue -/

/-- The record of a fault of a crew's instruction (R404): handler crews are ENGINE 17 (R373). -/
def Crew.fault (c : Crew) (reason : Reason) (iaddr : Word) (lns : Mask) : FaultInfo :=
  { reason := reason, engine := if c.handler then .handler else .issue, tower := c.place.tower, unit := c.place.core,
    crew := c.place.gid, iaddr := iaddr, lanes := lns }

/-- A fault of the instruction being issued. -/
def Iss.fault (i : Iss) (reason : Reason) : FaultInfo := i.c.fault reason i.cu.addr i.act

/-- An illegal-instruction trap (R377): EXTRA holds the class in [3:0] and the word in [35:4], 0 for classes 5 and 6. -/
def Crew.illegal (c : Crew) (cls : Illegal) (word : Nat) (iaddr : Word) (lns : Mask) : FaultInfo :=
  { c.fault .illegal iaddr lns with
    extra := BitVec.ofNat 64 (cls.code + (if cls == .header || cls == .badAddress then 0 else word % 2 ^ 32 * 16)) }

/-- An illegal-instruction trap of the instruction being issued. -/
def Iss.illegal (i : Iss) (cls : Illegal) : FaultInfo := i.c.illegal cls i.cu.word i.cu.addr i.act

/-- A record that names the lowest of a list of registers (R404). -/
def FaultInfo.atReg (f : FaultInfo) (rs : List Nat) : FaultInfo :=
  { f with aform := 4, addr := BitVec.ofNat 64 (rs.foldl Nat.min 255) }

/-! ## The checks made at issue -/

/-- A violation of R240: an active thread touches a pending register among the first LA instructions. -/
def Crew.violates (c : Crew) (act : Mask) (u : Use) : Bool :=
  c.pend.any fun p => u.touches p.reg && (maskLanes act).any fun l => 2 ≤ p.left.getD l 0

/-- The first rule of R240: a thread of the group has issued LA instructions and a register is still pending. -/
def Crew.mustWait (c : Crew) (group : Mask) : Bool :=
  c.pend.any fun p => (maskLanes group).any fun l => p.left.getD l 0 == 1

/-- Whether a register is allotted (R201). -/
def Crew.allotted (c : Crew) (r : Nat) : Bool := decide (r < 64) && c.allot.getLsbD r

/-- Whether the slot of a crew may issue an instruction (R250, R369). -/
def Slots.permits (k : Slots) (c : Crew) : Bool :=
  match k with
  | .all => true
  | .kernel => !c.handler
  | .handler => c.handler

/-- What the checks made at issue say. -/
inductive Gate where
  | go
  | hold
  | stop (f : FaultInfo)

/-- The G count an instruction with late destinations would leave (R204). -/
def Crew.wouldExceed (c : Crew) (u : Use) : Bool :=
  decide (c.gbud < ((List.range 64).filter fun k => c.allot.getLsbD k && ((c.reg k).isGen
    || c.pend.any (fun p => p.reg == k) || c.reserved.contains k || u.writes.contains k)).length)

/-- Whether an instruction meets an uncorrectable error in a register: it reads the register, or writes a part of it (R75, R76). -/
def Crew.meetsBad (c : Crew) (u : Use) (act : Mask) (r : Nat) : Bool := c.badRegs.contains r && (u.reads.contains r || !c.full act)

/-- The checks in order: the slot and what is illegal (R250), the crew timer (R207), lookahead (R240), the allotment (R201), errors of
its registers (R75), what a landed crew may issue (R195), and the G-budget for destinations written later (R204). -/
def Crew.gate (c : Crew) (cu : Cur) (u : Use) (act : Mask) (trial : Bool) : Gate :=
  if !u.slots.permits c then .stop (c.illegal .slot cu.word cu.addr act)
  else if u.refused then .stop (c.illegal .badValue cu.word cu.addr act)
  else if c.sp.ctmrFault then .stop (c.fault .crewTimer cu.addr act)
  else if c.violates act u then .stop ((c.fault .lookahead cu.addr act).atReg
    ((u.reads ++ u.writes).filter fun r => c.pend.any fun p => p.reg == r && (maskLanes act).any fun l => 2 ≤ p.left.getD l 0))
  else if c.mustWait cu.group && !trial then .hold
  else if (u.reads ++ u.writes).any fun r => !c.allotted r then
    .stop ((c.fault .beyondAllotment cu.addr act).atReg ((u.reads ++ u.writes).filter fun r => !c.allotted r))
  else if (u.reads ++ u.writes).any (c.meetsBad u act) then
    .stop ((c.fault .uncorrectable cu.addr act).atReg ((u.reads ++ u.writes).filter (c.meetsBad u act)))
  else if act == 0 then .go
  else if u.home && c.landed then .stop (c.fault .landed cu.addr act)
  else if u.pends && c.wouldExceed u then .stop (c.fault .shapeOverflow cu.addr act)
  else .go

/-! ## The course of an issue -/

/-- The choice made (R178): the skip counts it leaves. -/
def Crew.choose (c : Crew) (cu : Cur) : Crew :=
  { c with threads := c.threads.mapIdx fun l t => { t with skip := cu.skips.getD l t.skip } }

/-- The lookahead counts of the group's threads run down by one (R241). -/
def Crew.countDown (c : Crew) (group : Mask) : Crew :=
  { c with pend := c.pend.map fun p =>
      { p with left := p.left.mapIdx fun l n => if group.getLsbD l && decide (1 < n) then n - 1 else n } }

/-- The instruction issues for its group: lookahead counts, PCs past it (R177), REPI (R246), the hold (R235), the first issue (R417). -/
def Crew.advance (c : Crew) (cu : Cur) : Crew :=
  let c := if cu.counts then (c.countDown cu.group) else c
  let c := c.setPc cu.group cu.ret
  let n := c.holdCount + cu.weight
  let ended := decide (24 ≤ n) || cu.runEnd
  { c with
    repi := cu.repi.getD c.repi
    repGroup := if cu.repi == some 0 then 0 else c.repGroup
    held := !ended
    holdCount := if ended then 0 else n
    issued := true }

/-- The age a crew gets when a hold of it ends: younger than every other (R393). -/
def Dev.youngest (d : Dev) : Nat := d.crews.foldl (fun m c => Nat.max m (c.age + 1)) 0

/-- The run-overflow count of the core when a hold ends at 24 instructions without RUNEND, and the crew's new
age when a hold ends (R235, R393). -/
def Work.endHold (w : Work) (cu : Cur) (before : Crew) : Work :=
  match w.d.crew cu.crew with
  | none => w
  | some c =>
    if c.held then w else
      let ended := decide (24 ≤ before.holdCount + cu.weight) && !cu.runEnd
      w.mod fun d =>
        let d := d.modCrew cu.crew fun c => { c with age := d.youngest }
        if ended then d.modCore before.place.tower before.place.core fun k => { k with runOverflow := k.runOverflow + 1 }
        else d

/-- The machine with the choice made. -/
def State.chosen (s : State) (cu : Cur) (c : Crew) : Work := (s.work).mod fun d => d.setCrew (c.choose cu)

/-- The machine with the instruction issued for its group and its effect still to come. -/
def State.begun (s : State) (cu : Cur) (c : Crew) : Work :=
  (s.work).mod fun d => d.setCrew ((c.choose cu).advance cu)

/-- The issue over: complete holds are released (R180), the run hold is accounted (R235), and the faults of results
already written are taken, after code 1 where the instruction is code 0 of a dictionary word (R223, R244). -/
def State.finish (s : State) (cu : Cur) (c : Crew) (w : Work) : State :=
  let w := (w.mod fun d => d.modCrew cu.crew Crew.release).endHold cu c
  match s.cont with
  | none => s.done { w.raiseAll w.late with late := [] }
  | some k => { s.done { w with late := [] } with cont := some { k with late := k.late ++ w.late } }

/-- A precise fault (R398): nothing performed, PCs on the instruction; in a dictionary word neither code has any
effect (R244). -/
def State.stop (s : State) (cu : Cur) (f : FaultInfo) : State :=
  let w : Work := match s.cont with
    | some k => { fx := s.fx, mem := k.before.mem, d := k.before.dev }
    | none => s.work
  let w := w.mod fun d => d.modCrew cu.crew fun c =>
    { c.choose cu with held := false, holdCount := 0, walkFails := [], age := w.d.youngest,
                       checking := if (c.checking.map fun x => x.1 &&& cu.group != 0).getD false then none else c.checking,
                       repGroup := if c.repi == 0 then 0 else c.repGroup,
                       sp := if f.reason == .crewTimer then { c.sp with ctmrFault := false } else c.sp }
  { ({ s with mem := w.mem } : State).done (w.raise f) with cont := none }

/-- A wait entered with the instruction to issue again (R182): the group's PCs stay on it. Code 1 of a dictionary word whose
code 0 has issued is what issues when that wait ends, and the traps of code 0 are taken after it (R244). -/
def State.waitAgain (s : State) (cu : Cur) (w : Work) (cond : Cond) (dests : List Nat) : State :=
  let half := match s.cont with
    | some (k : Cont) => if k.phase == UnitPhase.second then some k else none
    | none => none
  let wait : Wait := match half with
    | some k => { mask := cu.group, cond := cond, again := false, next := k.next, addr := cu.addr, second := k.second, dests := dests
                  ran := true, late := k.late, runEnd := k.runEnd }
    | none => { mask := cu.group, cond := cond, again := true, addr := cu.addr }
  let w := w.mod fun d => d.modCrew cu.crew fun c =>
    { c with waits := c.waits ++ [wait], held := false, holdCount := 0, age := d.youngest }
  { s.done w with cont := none }

/-- Whether a wait stands in the way of a check of an instruction, its pages (R29, R45). -/
def Cond.isCheck (c : Cond) : Bool :=
  match c with
  | .walk _ => true
  | .held _ => true
  | _ => false

/-- Whether code 1 of a dictionary word cannot be checked yet, so that neither code issues (R244). -/
def State.unchecked (s : State) (cond : Cond) : Bool :=
  cond.isCheck && s.cont.any fun k => !k.resumed && (k.phase == .second || k.phase == .trial)

/-- A dictionary word whose code 1 waits for a check of its pages: as before the word, but for the walk that is asked for (R244). -/
def State.checkAgain (s : State) (cu : Cur) (w : Work) (cond : Cond) : State :=
  match s.cont with
  | none => s
  | some k =>
    let walks (d : Dev) : Dev := w.d.towers.foldl (fun d e => d.modTower e.1 fun z => { z with walks := e.2.walks, waitingWalks := e.2.waitingWalks }) d
    let d := { (walks k.before.dev) with nextId := w.d.nextId, cur := none }
    { s with
      mem := k.before.mem, cont := none
      d := d.modCrew cu.crew fun c =>
        { c with waits := c.waits ++ [{ mask := k.group, cond := cond, again := true, addr := k.addr }], held := false, holdCount := 0
                 age := d.youngest, checking := (w.d.crew cu.crew).bind (·.checking) } }

/-- The crew held back by the first rule of R240, which is no wait and ends no hold (R235). Code 1 of a dictionary word is then only
checked (R244). -/
def State.heldBack (s : State) (cu : Cur) : State :=
  let d := { s.d with cur := none }
  match s.cont with
  | some k =>
    if k.phase == .second then { s with d := d, cont := some { k with phase := .trial, after := some { mem := s.mem, dev := d } } }
    else { s with d := d.modCrew cu.crew fun c => { c with stalled := true }, cont := none }
  | none => { s with d := d.modCrew cu.crew fun c => { c with stalled := true } }

/-- The check of code 1 passed while code 0 waits or a register is pending: the machine is as code 0 left it, and
code 1 issues when the wait ends. Its destinations count as G meanwhile (R244). -/
def State.endTrial (s : State) (cu : Cur) (u : Use) : State :=
  match s.cont with
  | none => s
  | some k =>
    match k.after with
    | none => { s with cont := none }
    | some a =>
      let d := a.dev.modCrew cu.crew fun c =>
        let mine := fun (x : Wait) => !x.again && x.mask &&& cu.group != 0
        if c.waits.any mine then
          { c with waits := c.waits.map fun x =>
              if mine x then { x with second := k.second, dests := x.dests ++ u.writes, late := k.late, runEnd := k.runEnd } else x }
        else { c with
          waits := c.waits ++ [{ mask := cu.group, cond := .registers, again := false, next := k.next, addr := k.addr, second := k.second, dests := u.writes
                                 ran := true, late := k.late, runEnd := k.runEnd }] }
      { s with mem := a.mem, d := { d with cur := none }, cont := none }

/-- Whether code 1 of a dictionary word is only being checked. -/
def State.trial (s : State) : Bool :=
  match s.cont with
  | some k => k.phase == .trial
  | none => false

/-- Whether a register that an instruction reads is still to be written (R240, R244). -/
def Crew.unknown (c : Crew) (u : Use) : Bool := u.reads.any fun r => c.pend.any (fun p => p.reg == r) || c.reserved.contains r

/-- A crew whose pending registers are tagged as they will be (R204). -/
def Crew.settled (c : Crew) : Crew :=
  { c with regs := c.regs.mapIdx fun k v => if c.pend.any (fun p => p.reg == k) then .gen v.all else v }

/-- One instruction of a crew: its guard (`none` for an instruction without one), what it touches, and its effect on
the work in which the group has already been advanced. With no crew chosen nothing happens. An issue group with no
active lane performs no operation, but its threads advance (R177). -/
def issue (s : State) (g : Guard) (u : Use) (body : Iss → Work → Res) : Out :=
  match s.d.cur with
  | none => .next s
  | some cu =>
    match s.d.crew cu.crew with
    | none => .next s
    | some c =>
      let act := cu.group &&& c.guard g
      match c.gate cu u act s.trial with
      | .stop f => .next (s.stop cu f)
      | .hold => .next (s.heldBack cu)
      | .go =>
        if s.trial && !(u.pure || (u.values && !c.unknown u)) then .next (s.endTrial cu u)
        else if act == 0 then
          if s.trial then .next (s.endTrial cu u) else .next (s.finish cu c (s.begun cu c))
        else
          match body { cu := cu, c := if s.trial then c.settled else c, act := act, w0 := s.chosen cu c } (s.begun cu c) with
          | .fault f => .next (s.stop cu f)
          | .again w cond =>
            if s.unchecked cond then .next (s.checkAgain cu w cond)
            else if s.trial then .next (s.endTrial cu u) else .next (s.waitAgain cu w cond u.writes)
          | .ok w => if s.trial then .next (s.endTrial cu u) else .next (s.finish cu c w)

/-! ## Parts of an effect -/

/-- The issuing crew as the work has it. -/
def Iss.crew (i : Iss) (w : Work) : Crew := (w.d.crew i.cu.crew).getD i.c

/-- The issuing crew changed. -/
def Iss.mod (i : Iss) (w : Work) (f : Crew → Crew) : Work := w.mod fun d => d.modCrew i.cu.crew f

/-- The crew changed, with the G-budget checked on what the change leaves (R204). -/
def Iss.write (i : Iss) (w : Work) (f : Crew → Crew) : Res :=
  if (f (i.crew w)).overBudget then .fault (i.fault .shapeOverflow) else .ok (i.mod w f)

/-- A register written at issue in the active lanes (R203, R204). -/
def Iss.put (i : Iss) (w : Work) (r : Nat) (v : RegVal) : Res := i.write w fun c => c.put r v i.act

/-- A predicate written in the active lanes; p7 is refused by the decoder (R200). -/
def Iss.putPred (i : Iss) (w : Work) (p : Nat) (m : Mask) : Work := i.mod w fun c => c.putPred p m i.act

/-- Exception flags raised by a one-word instruction (R207, R223): ORed into FSTAT, and where an enable of
CMR.TRAPEN is set, a floating-point exception taken after the results are written. Its record gives the code of a dictionary word in EXTRA
(R244; assumption 55). -/
def Iss.flags (i : Iss) (w : Work) (f : BitVec 5) : Work :=
  let w := i.mod w fun c => c.orFlags f
  let en := Flags.trapped f (w.d.cmr i.c)
  if en == 0 then w else { w with late := w.late ++ [{ i.fault .floatException with detail := en.toNat, extra := BitVec.ofNat 64 i.cu.code }] }

/-- A wait entered by the group with the instruction issued (R182): the PCs stay on it until the wait ends, and the hold ends (R235). -/
def Iss.wait (i : Iss) (w : Work) (cond : Cond) (acquire : Option Nat := none) (dests : List Nat := []) : Work :=
  i.mod w fun c => { c.setPc i.cu.group i.cu.addr with
    waits := c.waits ++ [{ mask := i.cu.group, cond := cond, again := false, next := i.cu.ret, addr := i.cu.addr,
                           acquire := acquire, dests := dests }]
    held := false, holdCount := 0 }

/-- A lane value of a register as the instruction reads it. -/
def Iss.val (i : Iss) (r l : Nat) : Word := i.c.val r l

/-- The lowest active lane. -/
def Iss.l0 (i : Iss) : Nat := lowLane i.act

end Sys2Proof.Machine
end

