-- ==== Sys2Proof/Machine/Addr.lean ====
section
/-! DEFINITION. Addr: the four spaces, translation, the checks of an access, tensor tiles and home places
(01_address_spaces.md, R13 to R42). -/

namespace Sys2Proof.Machine

/-! ## Page-table entries (R21 to R26) -/

/-- What an access is, by the ACCESS codes of R32. -/
inductive Acc where
  | load | store | atomic | fetch | copySrc | copyDst
deriving DecidableEq, Repr

/-- The ACCESS code (R32). Code 6, a walk, is never written: a failed walk is logged under the access that needed it
(assumption 38). -/
def Acc.code (a : Acc) : Nat := a.ctorIdx

/-- Bits of the page offset of a leaf of a level (R21). -/
def pageBits (level : Nat) : Nat := if level == 1 then 34 else if level == 2 then 25 else 16

/-- The index of a virtual address at a level (R21). -/
def levelIndex (level va : Nat) : Nat := va / 2 ^ (43 - 9 * level) % 512

/-- KIND of a leaf (R23). -/
def leafKind (e : Nat) : Nat := bits 7 6 e

/-- Whether an entry with V = 1 is malformed (R24). -/
def malformed (level e : Nat) : Bool :=
  if !bit 1 e then level == 3 || bits 63 40 e != 0 || bits 11 2 e != 0
  else
    level == 0 || bits 59 40 e != 0 || bits 15 8 e != 0 || leafKind e == 3
      || bits (pageBits level - 1) 16 (if pageBits level == 16 then 0 else e) != 0 || (bit 39 e && leafKind e != 1)

/-- The check of a leaf for an access (R26): the reason of R33 it fails with. -/
def leafRefuses (a : Acc) (e : Nat) : Option Nat :=
  match a with
  | .store => if bit 2 e then none else some 3
  | .copyDst => if bit 2 e then none else some 3
  | .atomic => if !bit 2 e then some 3 else if !bit 4 e then some 4 else none
  | .fetch => if bit 3 e then none else some 5
  | _ => none

/-- A translated page: its leaf and the bits of its offset. -/
structure Xlat where
  leaf : Nat
  off : Nat

/-- The physical address of a virtual one under a leaf (R21, R23). -/
def Xlat.pa (x : Xlat) (va : Nat) : Nat := bits 39 16 x.leaf * 2 ^ 16 + va % 2 ^ x.off

/-! ## Physical targets (R18 to R20) -/

/-- The populated part of a tower's HBM window (R18): 48 GiB. -/
def hbmSize : Nat := 0xC00000000

/-- Whether an address is populated HBM of a partition's towers (R18, R20). -/
def Part.hbm (p : Part) (pa : Nat) : Bool :=
  decide (pa < 2 ^ 39) && decide (pa % 2 ^ 36 < hbmSize) && p.towers.contains (pa / 2 ^ 36)

/-- The vault mask of a tower in a partition (R15). -/
def Part.vaultMask (p : Part) (t : Nat) : BitVec 48 := getA p.vaults t 0

/-- Whether a 32-bit vault address lies in an allotted vault of the partition (R15) and outside its tower's bin
store (R388); transport accesses are held to the same. `bin` is tower.binVault: 0 none, else 1 + VAULT · 8 + MIB. -/
def Dev.vaultOk (d : Dev) (p : Part) (a : Nat) : Bool :=
  let t := bits 31 29 a
  let v := bits 28 23 a
  let bin := (d.tower t).binVault
  decide (v < 48) && p.towers.contains t && (p.vaultMask t).getLsbD v
    && !(bin != 0 && v == (bin - 1) / 8 && bits 22 20 a == (bin - 1) % 8)

/-- The check of a physical target (R20): reason 6 of R33 where it fails. `port` says that the accessor is the partition's handler
crew or the transport, which reach its partition areas (R19). -/
def Dev.physRefuses (d : Dev) (p : Part) (port : Bool) (pa : Nat) : Option Nat :=
  if pa < 2 ^ 39 then (if p.hbm pa then none else some 6)
  else match bits 38 36 pa with
    | 0 => if bits 35 32 pa != 0 then some 6 else if d.vaultOk p (pa % 2 ^ 32) then none else some 6
    | 1 =>
      if bits 35 20 pa != 0 then some 6
      else if decide (p.hostBase ≤ pa % 2 ^ 20) && decide (pa % 2 ^ 20 < p.hostBase + p.hostSize) then none else some 6
    | 3 => if port && bits 35 33 pa == p.low && bits 32 28 pa ≤ 3 then none else some 6
    | _ => some 6

/-! ## The TLBs and walks (R27 to R30) -/

/-- A TLB entry that maps a page of a context (R27). -/
def TlbEntry.maps (e : TlbEntry) (ctx va : Nat) : Bool :=
  (e.ctx == ctx || bit 5 e.leaf.toNat) && e.vpn == va / 2 ^ pageBits e.level

/-- A page as the TLBs of a core and its cluster hold it (R29). -/
def Dev.tlbLook (d : Dev) (t k ctx va : Nat) : Option Xlat :=
  match ((d.core t k).tlb ++ (d.cluster t (clusterOf k)).tlb).find? fun e => e.maps ctx va with
  | some e => some { leaf := e.leaf.toNat, off := pageBits e.level }
  | none => none

/-- The capacity of the two TLBs (R29). -/
def l1TlbSize : Nat := 128
/-- See `l1TlbSize`. -/
def clusterTlbSize : Nat := 4096

/-- A walk's answer entered in the TLBs of a core and its cluster, newest first (R27, R30). -/
def Dev.tlbFill (d : Dev) (t k : Nat) (e : TlbEntry) : Dev :=
  (d.modCore t k fun c => { c with tlb := (e :: c.tlb).take l1TlbSize }).modCluster t (clusterOf k) fun c =>
    { c with tlb := (e :: c.tlb).take clusterTlbSize }

/-- One step of a walk (R21, R28): the entry read, then a node to go on with, a leaf, or a reason of R33. -/
inductive WalkStep where
  | node (pa : Nat)
  | leaf (e : Nat)
  | fail (why : Nat)

/-- Whether a byte's location holds an uncorrectable error (R76). -/
def Dev.isBad (d : Dev) (key : Nat) : Bool := d.bad.any fun s => s.contains key

/-- The entry of a node at a level, judged (R22 to R24, R20); one that holds an uncorrectable error answers none (R75, R76). -/
def Work.walkStep (w : Work) (p : Part) (level node va : Nat) : WalkStep :=
  if !p.hbm node then .fail 10
  else if w.d.isBad (node + 8 * levelIndex level va) then .fail (walkLost (node + 8 * levelIndex level va))
  else
    let e := w.num (node + 8 * levelIndex level va) 8
    if !bit 0 e then .fail 0
    else if malformed level e then .fail 1
    else if bit 1 e then .leaf e
    else .node (bits 39 12 e * 2 ^ 12)

/-- A whole walk at once, from a level on, as an engine, a fetch or the transport makes it: the leaf and its level. -/
def Work.walkNow (w : Work) (p : Part) (va : Nat) : Nat → Nat → Nat → Except Nat (Nat × Nat)
  | 0, _, _ => .error 1
  | n + 1, level, node =>
    match w.walkStep p level node va with
    | .fail y => .error y
    | .leaf e => .ok (e, level)
    | .node pa => w.walkNow p va n (level + 1) pa

/-- A page translated at once: by the TLBs where they hold it, else by a walk. -/
def Work.xlatNow (w : Work) (p : Part) (x : Ctx) (t k va : Nat) : Except Nat Xlat :=
  match w.d.tlbLook t k x.ctxid va with
  | some y => .ok y
  | none =>
    match w.walkNow p va 4 0 x.root with
    | .error y => .error y
    | .ok (e, level) => .ok { leaf := e, off := pageBits level }

/-! ## Tensors and tiles (R34 to R39) -/

/-- The fields of a tensor descriptor (R34). -/
structure Desc where
  base : Nat
  rows : Nat
  pitch : Nat
  rowbytes : Nat
  shape : Nat
  home : Nat
  tower : Nat

/-- A descriptor's fields. -/
def Desc.ofNat (v : Nat) : Desc :=
  { base := bits 63 0 v, rows := bits 95 64 v, pitch := bits 127 96 v, rowbytes := bits 191 160 v,
    shape := bits 198 196 v, home := bits 200 199 v, tower := bits 203 201 v }

/-- Tile height and width (R35). -/
def Desc.tileH (d : Desc) : Nat := 2 ^ d.shape
/-- See `Desc.tileH`. -/
def Desc.tileW (d : Desc) : Nat := 256 / d.tileH

/-- Whether a descriptor is valid (R35). -/
def descValid (v : Nat) : Bool :=
  let d := Desc.ofNat v
  bit 255 v && bits 254 204 v == 0 && d.home != 3 && d.shape ≤ 4 && bits 195 192 v ≤ 3 && bits 159 128 v == 0
    && decide (d.base < 2 ^ 52) && d.base % 256 == 0 && decide (1 ≤ d.rows) && d.pitch != 0 && d.pitch % d.tileW == 0
    && decide (d.base + d.rows * d.pitch ≤ 2 ^ 52)

/-- The end of a tensor's extent (R35). -/
def Desc.stop (d : Desc) : Nat := d.base + d.rows * d.pitch

/-- The loaded range a virtual address lies in (R37): tensor id and descriptor. -/
def Ctx.tensorAt (x : Ctx) (va : Nat) : Option (Nat × Desc) :=
  match x.ranges.find? fun r => r.1 ≤ va && va < r.2.1 with
  | some (_, _, id, v) => some (id, Desc.ofNat v)
  | none => none

/-- The tile and the position of a byte of a tensor (R36). -/
def Desc.tileOf (d : Desc) (id va : Nat) : Tag × Nat :=
  let off := va - d.base
  let row := off / d.pitch
  let col := off % d.pitch
  ({ tensor := id, row := row / d.tileH, col := col / d.tileW }, row % d.tileH * d.tileW + col % d.tileW)

/-- The virtual addresses of a tile's segments; those past the last row are inert (R36). -/
def Desc.segments (d : Desc) (t : Tag) : List Nat :=
  ((List.range d.tileH).filter fun r => decide (t.row * d.tileH + r < d.rows)).map fun r =>
    d.base + (t.row * d.tileH + r) * d.pitch + t.col * d.tileW

/-- The virtual address of a position of a tile, unless it is inert (R36). -/
def Desc.addrOf (d : Desc) (t : Tag) (pos : Nat) : Option Nat :=
  let r := t.row * d.tileH + pos / d.tileW
  if r < d.rows then some (d.base + r * d.pitch + t.col * d.tileW + pos % d.tileW) else none

/-- The tag of a flat line (R33 introduction): tile row PA[39:8]. -/
def flatTag (pa : Nat) : Tag := { row := pa / 256 }

/-- The home tower of a line (R39): the backing tower of a flat line; for a tensor by HOME, `hint` and `pa` being
the HINT of the leaf that maps the first segment and the physical address that leaf gives it. -/
def homeTower (p : Part) (x : Ctx) (t : Tag) (hint pa : Nat) : Nat :=
  let back := pa / 2 ^ 36 % 8
  match (x.ranges.find? fun r => r.2.2.1 == t.tensor) with
  | none => back
  | some (_, _, _, v) =>
    let d := Desc.ofNat v
    match d.home with
    | 0 => if p.towers.contains hint then hint else back
    | 1 => if p.towers.contains d.tower then d.tower else back
    | _ => p.towers.getD ((t.row * (d.pitch / d.tileW) + t.col) % p.towers.length) 0

/-- The home slice of a line (R40): a fixed hash that software must not depend on, left open in `Config`. -/
def homeSlice (t : Tag) : Nat := Config.sliceHash t.tensor t.row t.col % 48

/-! ## One access -/

/-- What locating an access answers: its bytes, a violation (reason of R33 and tensor id), pages still to be
walked, or a hold by a shootdown (R44). -/
inductive Look where
  | ok (refs : List BRef)
  | bad (why tensor : Nat)
  | miss (pages : List Nat)
  | held

/-- How pages are translated for an accessor. -/
inductive Via where
  /-- By the TLBs of a core: a crew's access (R29). -/
  | tlb
  /-- At once: an engine of a core or a fetch. -/
  | now
  /-- At once, under the entries in memory: a scheduler, the security processor or the transport. -/
  | walk
deriving DecidableEq, Repr

/-- A page for an accessor: `none` where a walk is still to be made. -/
def Work.page (w : Work) (via : Via) (p : Part) (x : Ctx) (t k va : Nat) (fails : List (Nat × Nat)) : Option (Except Nat Xlat) :=
  match via with
  | .now => some (w.xlatNow p x t k va)
  | .walk => some ((w.walkNow p va 4 0 x.root).map fun e => { leaf := e.1, off := pageBits e.2 })
  | .tlb =>
    match w.d.tlbLook t k x.ctxid va with
    | some y => some (.ok y)
    | none => (fails.find? fun f => f.1 == va / 2 ^ 16).map fun f => .error f.2

/-- Who makes an access: the partition, its context, the core, whether a handler crew, and the pages whose walk
failed for it. -/
structure Who where
  p : Part
  x : Ctx
  t : Nat
  k : Nat
  via : Via := .now
  handler : Bool := false
  /-- A transport command, which reaches partition areas too (R19). -/
  transport : Bool := false
  fails : List (Nat × Nat) := []

/-- Whether a shootdown holds new translations of a page (R44 step 1). -/
def Dev.shot (d : Dev) (ctx va : Nat) : Bool :=
  d.shootdowns.any fun s => s.ctx == ctx && 1 ≤ s.step && s.step ≤ 4 && (s.pages == 0 || (s.start ≤ va && va < s.start + s.pages * 2 ^ 16))

/-- Whether an access is tagged by the range table (R37): the loads, stores, atomics and copy traffic of a core; of a scheduler, the
security processor or the transport only an atomic, and no fetch. -/
def Who.tags (q : Who) (a : Acc) : Bool :=
  match a with
  | .fetch => false
  | .load => q.via != .walk
  | .store => q.via != .walk
  | _ => true

/-- The loaded range the address of an access lies in, where the access is tagged (R37). -/
def Who.tensorAt (q : Who) (a : Acc) (va : Nat) : Option (Nat × Desc) := if q.tags a then q.x.tensorAt va else none

/-- Whether an accessor reaches the partition areas (R19). -/
def Who.port (q : Who) : Bool := q.transport || q.handler

/-- The check of one page for an access: its translation, or why not, in the order of assumption 9. `tensor` pages must have
KIND 0 (R25). -/
def Who.check (q : Who) (d : Dev) (a : Acc) (tensor : Bool) (va : Nat) (y : Xlat) : Option Nat :=
  match leafRefuses a y.leaf with
  | some r => some r
  | none =>
    if tensor && leafKind y.leaf != 0 then some 11 else d.physRefuses q.p q.port (y.pa va)

/-- The pages a list of virtual addresses touches. -/
def pagesOf (vas : List Nat) : List Nat := (distinct (vas.map (· / 2 ^ 16))).map (· * 2 ^ 16)

/-- A global virtual access of `n` bytes located (R21 to R42). -/
def Work.locateGlobal (w : Work) (q : Who) (a : Acc) (ea n : Nat) : Look :=
  if 2 ^ 52 < ea + n then .bad 2 0
  else
    let vas := (List.range n).map (ea + ·)
    let tens := distinct (vas.filterMap fun v => (q.tensorAt a v).map fun r => (r.2.tileOf r.1 v).1)
    let id := (tens.map (·.tensor)).headD 0
    let segs := tens.flatMap fun tg => match q.x.ranges.find? fun r => r.2.2.1 == tg.tensor with
      | some (_, _, _, v) => (Desc.ofNat v).segments tg
      | none => []
    let first := (if n == 0 then [ea] else [ea, ea + n - 1])
    let plain := pagesOf first
    let all := distinct (plain ++ pagesOf segs)
    if q.via != .walk && all.any (w.d.shot q.x.ctxid) then .held
    else
      let got := all.map fun v => (v, w.page q.via q.p q.x q.t q.k v q.fails)
      let miss := got.filterMap fun g => if g.2.isNone then some g.1 else none
      if !miss.isEmpty then .miss miss
      else
        let judge := got.filterMap fun g => match g.2 with
          | some (.error r) => some r
          | some (.ok y) => q.check w.d a (segs.any fun s => s / 2 ^ 16 == g.1 / 2 ^ 16) (if g.1 ≤ ea && ea < g.1 + 2 ^ 16 then ea else g.1) y
          | none => none
        match judge with
        | r :: _ => .bad r id
        | [] =>
          let refs := vas.map fun v =>
            match got.find? fun g => g.1 == v / 2 ^ 16 * 2 ^ 16 with
            | some (_, some (.ok y)) =>
              let pa := y.pa v
              match q.tensorAt a v with
              | some (tid, d) => let tp := d.tileOf tid v; { key := pa, tag := tp.1, pos := tp.2, cached := true, alloc := true, va := v }
              | none => { key := pa, tag := flatTag pa, pos := pa % 256, cached := leafKind y.leaf == 0, alloc := leafKind y.leaf != 1, va := v }
            | _ => { key := ea }
          match refs.findSome? fun (r : BRef) => w.d.physRefuses q.p q.port r.key with
          | some r => .bad r id
          | none => .ok refs

/-- A handler's physical access located (R14, R20). -/
def Work.locatePhys (w : Work) (q : Who) (ea n : Nat) : Look :=
  if bits 62 40 ea != 0 then .bad 2 0
  else
    let pa := ea % 2 ^ 40
    match w.d.physRefuses q.p true pa, w.d.physRefuses q.p true (pa + n - 1) with
    | some r, _ => .bad r 0
    | _, some r => .bad r 0
    | _, _ => .ok ((List.range n).map fun i => { key := pa + i, tag := flatTag (pa + i), pos := (pa + i) % 256 })

/-- Refs of uncached bytes at consecutive keys. -/
def plainRefs (f : Nat → Nat) (n : Nat) : List BRef := (List.range n).map fun i => { key := f i }

/-- The landing allotment's first granule (R53): granules 240 to 255. -/
def landingGranule : Nat := 240

/-- The local allotment an accessor's local addresses refer to (R16): the granules, empty for a handler crew (R407). -/
def Dev.localGranules (d : Dev) (c : Crew) : List Nat :=
  if c.handler then [] else if c.landed then (List.range 16).map (landingGranule + ·)
  else match d.teamOf c with
    | some t => t.gran
    | none => []

/-- The key of a local offset under an allotment. -/
def granKey (t k : Nat) (gran : List Nat) (off : Nat) : Nat := localKey t k (gran.getD (off / 1024) 0 * 1024 + off % 1024)

/-- An access located in its space (R13 to R17). -/
def Work.locate (w : Work) (q : Who) (gran : List Nat) (a : Acc) (space ea n : Nat) : Look :=
  match space with
  | 0 => if q.handler && decide (2 ^ 63 ≤ ea) then w.locatePhys q ea n else w.locateGlobal q a ea n
  | 1 =>
    if 2 ^ 32 < ea + n then .bad 2 0
    else if w.d.vaultOk q.p ea && w.d.vaultOk q.p (ea + n - 1) then .ok (plainRefs (fun i => vaultKey (ea + i)) n)
    else .bad 7 0
  | 2 =>
    if gran.length * 1024 < ea + n then .bad 8 0
    else .ok (plainRefs (fun i => granKey q.t q.k gran (ea + i)) n)
  | _ =>
    if q.p.hostSize < ea + n then .bad 9 0 else .ok (plainRefs (fun i => hostKey (q.p.hostBase + ea + i)) n)

/-- The accessor a crew is. -/
def Dev.who (d : Dev) (c : Crew) : Option Who :=
  match d.part c.place.tower with
  | none => none
  | some p => (p.ctx.bind d.ctx).map fun x =>
      { p := p, x := x, t := c.place.tower, k := c.place.core, via := .tlb, handler := c.handler, fails := c.walkFails }

/-- The AFORM code of an address in a space (R404). -/
def aformOf (space : Nat) (ea : Nat) : Nat :=
  match space with
  | 0 => if 2 ^ 63 ≤ ea then 2 else 1
  | 1 => 5
  | 2 => 3
  | _ => 6

/-- The device place a key stands for: 0 HBM, 1 vault, 2 host window, 3 partition area, 4 local memory. -/
def placeOf (key : Nat) : Nat :=
  if localBase ≤ key then 4 else if key < 2 ^ 39 then 0
  else match bits 38 36 key with
    | 0 => 1
    | 1 => 2
    | _ => 3

/-! ## Starting walks (R30) -/

/-- The walks a tower runs at once (R30). -/
def walkSlots : Nat := 128

/-- A walk for a page asked for by a core: merged with one for the same page, else begun or queued (R30). -/
def Work.askWalk (w : Work) (t k ctx root va : Nat) : Nat × Work :=
  let tw := w.d.tower t
  let same := fun (x : Walk) => x.ctx == ctx && x.vpn == va / 2 ^ 16
  match (tw.walks ++ tw.waitingWalks).find? same with
  | some x =>
    let add := fun (l : List Walk) => l.map fun y => if y.id == x.id && !y.cores.contains k then { y with cores := y.cores ++ [k] } else y
    (x.id, w.mod fun d => d.modTower t fun z => { z with walks := add z.walks, waitingWalks := add z.waitingWalks })
  | none =>
    let (id, w) := w.newId
    let x : Walk := { id := id, ctx := ctx, vpn := va / 2 ^ 16, node := root, cores := [k] }
    (id, w.mod fun d => d.modTower t fun z =>
      if z.walks.length < walkSlots then { z with walks := z.walks ++ [x] } else { z with waitingWalks := z.waitingWalks ++ [x] })

/-- Walks for a list of pages; the number of the last. -/
def Work.askWalks (w : Work) (t k ctx root : Nat) : List Nat → Nat × Work
  | [] => (0, w)
  | [va] => w.askWalk t k ctx root va
  | va :: r => (w.askWalk t k ctx root va).2.askWalks t k ctx root r

end Sys2Proof.Machine
end

