-- ==== Sys2Proof/Machine/Operands.lean ====
section
/-! DEFINITION. Operands: sub-elements of a lane (R183, R215), result tags of register instructions (R203), and the
shared forms of the instructions that work on registers and predicates alone. -/

namespace Sys2Proof.Machine

/-! ## Elements of a lane -/

/-- Sub-element `s` of width `w` (R183, R215). -/
def elem (w : Nat) (v : Word) (s : Nat) : Nat := v.toNat / 2 ^ (w * s) % 2 ^ w

/-- Elements of width `w` packed from the low bits up. -/
def pack (w : Nat) : List Nat → Nat
  | [] => 0
  | x :: r => x % 2 ^ w + 2 ^ w * pack w r

/-- A lane computed element by element. -/
def eachElem (w : Nat) (f : Nat → Nat) : Word := BitVec.ofNat 64 (pack w ((List.range (64 / w)).map f))

/-- Element results with the OR of their flags. -/
def packRes (w : Nat) (rs : List FRes) : Word × Flags :=
  (BitVec.ofNat 64 (pack w (rs.map fun r => r.bits)), rs.foldl (fun f r => f ||| r.fl) fNone)

/-- A lane computed element by element, with flags. -/
def eachElemF (w : Nat) (f : Nat → FRes) : Word × Flags := packRes w ((List.range (64 / w)).map f)

/-- The element width of a WID code: 64, 32, 16, 8 (R263). -/
def widOf (c : BitVec 2) : Nat := 64 / 2 ^ c.toNat

/-- An immediate sign-extended to 64 bits. -/
def sext {n : Nat} (x : BitVec n) : Word := x.signExtend 64

/-! ## Result tags (R203) -/

/-- The result of a lane-wise instruction: U where every source is U, computed once; otherwise G, computed in the
active lanes. -/
def Iss.spread (i : Iss) (srcs : List Nat) (f : Nat → Word) : RegVal :=
  if srcs.all fun r => (i.c.reg r).isUni then .uni (f i.l0)
  else .gen (lanes.map fun l => if i.act.getLsbD l then f l else 0)

/-- As `spread`, with the OR of the active lanes' flags. -/
def Iss.spreadF (i : Iss) (srcs : List Nat) (f : Nat → Word × Flags) : RegVal × Flags :=
  if srcs.all fun r => (i.c.reg r).isUni then let x := f i.l0; (.uni x.1, x.2)
  else
    let xs := lanes.map fun l => if i.act.getLsbD l then f l else (0, fNone)
    (.gen (xs.map fun x => x.1), xs.foldl (fun a x => a ||| x.2) fNone)

/-- The result tagged G whatever its sources. -/
def Iss.general (i : Iss) (f : Nat → Word) : RegVal :=
  .gen (lanes.map fun l => if i.act.getLsbD l then f l else 0)

/-- The affine cases of addition. -/
def RegVal.addv (a b : RegVal) : Option RegVal :=
  match a, b with
  | .aff x s, .uni u => some (.aff (x + u) s)
  | .uni u, .aff x s => some (.aff (u + x) s)
  | .aff x s, .aff y t => some (.aff (x + y) (s + t))
  | _, _ => none

/-- The affine cases of subtraction. -/
def RegVal.subv (a b : RegVal) : Option RegVal :=
  match a, b with
  | .aff x s, .uni u => some (.aff (x - u) s)
  | .uni u, .aff x s => some (.aff (u - x) (0 - s))
  | .aff x s, .aff y t => some (.aff (x - y) (s - t))
  | _, _ => none

/-- The affine cases of multiplication. -/
def RegVal.mulv (a b : RegVal) : Option RegVal :=
  match a, b with
  | .aff x s, .uni u => some (.aff (x * u) (s * u))
  | .uni u, .aff x s => some (.aff (u * x) (u * s))
  | _, _ => none

/-- The affine case of a left shift. -/
def RegVal.shlv (a b : RegVal) : Option RegVal :=
  match a, b with
  | .aff x s, .uni u => some (.aff (x <<< u.toNat) (s <<< u.toNat))
  | _, _ => none

/-- No affine case. -/
def RegVal.nov (_ _ : RegVal) : Option RegVal := none

/-! ## Forms -/

/-- Registers vd ← f(lanes of the sources), tagged by R203. -/
def laneOp (s : State) (g : Guard) (srcs : List Reg) (d : Reg) (f : Crew → Nat → Word) : Out :=
  issue s g { reads := srcs.map (·.toNat), writes := [d.toNat], pure := true } fun i w =>
    i.put w d.toNat (i.spread (srcs.map (·.toNat)) (f i.c))

/-- As `laneOp` with two sources and the affine cases of R203. -/
def affOp (s : State) (g : Guard) (a b d : Reg) (aff : RegVal → RegVal → Option RegVal) (f : Word → Word → Word) : Out :=
  issue s g { reads := [a.toNat, b.toNat], writes := [d.toNat], pure := true } fun i w =>
    i.put w d.toNat ((aff (i.c.reg a.toNat) (i.c.reg b.toNat)).getD
      (i.spread [a.toNat, b.toNat] fun l => f (i.val a.toNat l) (i.val b.toNat l)))

/-- Two sources, lane by lane. -/
def binOp (s : State) (o : OpRR) (f : Word → Word → Word) : Out :=
  laneOp s o.g [o.a, o.b] o.d fun c l => f (c.val o.a.toNat l) (c.val o.b.toNat l)

/-- One source, lane by lane. -/
def unOp (s : State) (g : Guard) (a d : Reg) (f : Word → Word) : Out :=
  laneOp s g [a] d fun c l => f (c.val a.toNat l)

/-- A source and an immediate that counts as U, with the affine cases of R203 (R266). -/
def immOp (s : State) (g : Guard) (a d : Reg) (imm : Word) (aff : RegVal → RegVal → Option RegVal)
    (f : Word → Word → Word) : Out :=
  issue s g { reads := [a.toNat], writes := [d.toNat], pure := true } fun i w =>
    i.put w d.toNat ((aff (i.c.reg a.toNat) (.uni imm)).getD (i.spread [a.toNat] fun l => f (i.val a.toNat l) imm))

/-- A register result tagged G (R203). -/
def genOp (s : State) (g : Guard) (srcs : List Reg) (d : Reg) (f : Iss → Nat → Word) : Out :=
  issue s g { reads := srcs.map (·.toNat), writes := [d.toNat], pure := true } fun i w => i.put w d.toNat (i.general (f i))

/-- A floating-point result with flags (R273): the controls are those of the CMR. -/
def floatOp (s : State) (g : Guard) (srcs : List Reg) (d : Reg) (f : FCtl → Crew → Nat → Word × Flags) : Out :=
  issue s g { reads := srcs.map (·.toNat), writes := [d.toNat], pure := true } fun i w =>
    let r := i.spreadF (srcs.map (·.toNat)) (f (.ofCmr (w.d.cmr i.c)) i.c)
    (i.put w d.toNat r.1).bind fun w => .ok (i.flags w r.2)

/-- A predicate result in the active lanes, computed from the crew and the lane. -/
def predOp (s : State) (g : Guard) (srcs : List Reg) (q : Pred) (f : Iss → Nat → Bool) : Out :=
  issue s g { reads := srcs.map (·.toNat), pure := true } fun i w => .ok (i.putPred w q.toNat (maskOf (f i)))

/-- The value of a predicate source: the predicate, negated when `neg` (R271). -/
def Crew.predSrc (c : Crew) (neg : Bool) (p : Pred) (l : Nat) : Bool := (c.pred p.toNat).getLsbD l != neg

end Sys2Proof.Machine
end

