-- ==== Sys2Proof/Machine/Mem.lean ====
section
/-! DEFINITION. Mem: the L1, the store queue and the cluster merge buffer as an instruction meets them, the order of
a crew's accesses, and the loads, stores, prefetch, flush, invalidate and race declarations
(02_memory_hierarchy.md, 03_consistency_model.md, 14_isa_memory_and_sync.md). -/

namespace Sys2Proof.Machine

/-! ## The L1 and the store queue (R48 to R51) -/

/-- Sets, ways, and protected ways of an L1. -/
def l1Sets : Nat := 128
/-- See `l1Sets`. -/
def l1Ways : Nat := 10
/-- See `l1Sets`. -/
def l1Keeps : Nat := 5

/-- The L1 set of a line (assumption 10). -/
def l1Set (t : Tag) : Nat := Config.l1Hash t.tensor t.row t.col % l1Sets

/-- The byte an entry of the store queue holds for a position of a line. -/
def SqEntry.byte (e : SqEntry) (t : Tag) (pos : Nat) : Option Byte :=
  match e with
  | .store _ _ tag bytes _ _ => if tag == t then (bytes.find? fun b => b.1.pos == pos).map (·.2) else none
  | .marker _ => none

/-- Whether an entry of the store queue is a store to a line. -/
def SqEntry.onLine (e : SqEntry) (t : Tag) : Bool :=
  match e with
  | .store _ _ tag _ _ _ => tag == t
  | .marker _ => false

/-- The newest byte of the store queue at a position of a line (R50). -/
def Core.sqByte (k : Core) (t : Tag) (pos : Nat) : Option Byte := k.sq.reverse.findSome? fun e => e.byte t pos

/-- The byte a load of the core finds before any fill: of the store queue, else valid in the L1 (R49, R50). -/
def Core.l1Byte (k : Core) (t : Tag) (pos : Nat) : Option Byte :=
  match k.sqByte t pos with
  | some b => some b
  | none => (k.l1.find? fun l => l.tag == t).bind fun l => (l.valid.find? fun v => v.1 == pos).map (·.2)

/-- A line with bytes written by a store. -/
def L1Line.store (l : L1Line) (bs : List LineByte) : L1Line :=
  { l with valid := bs ++ l.valid.filter fun v => !bs.any fun b => b.1 == v.1 }

/-- Whether the aligned 8 B unit of a position is valid whole. -/
def L1Line.whole (l : L1Line) (pos : Nat) : Bool := (List.range 8).all fun i => l.valid.any fun v => v.1 == pos / 8 * 8 + i

/-- A line with the bytes of a fill, which sets the positions still invalid; `own` stands over it: the bytes of the core's store
queue (R49, R50). -/
def L1Line.fill (l : L1Line) (bs : List LineByte) (own : Nat → Option Byte) : L1Line :=
  { l with valid := l.valid ++ (bs.filter fun b => !l.valid.any fun v => v.1 == b.1).map fun b => (b.1, (own b.1).getD b.2) }

/-- Whether a fill would set the rest of an aligned 8 B unit beside a valid byte that is no longer in the store queue and is not what the
fill brings for it, so that a read of the unit would be torn (R80; assumption 39). -/
def L1Line.torn (l : L1Line) (bs : List LineByte) (own : Nat → Option Byte) : Bool :=
  l.valid.any fun v => (own v.1).isNone && !l.whole v.1 && bs.any fun b => b.1 == v.1 && b.2 != v.2

/-- A way freed in the set of a line: the least recently used one, unprotected lines first (R48). -/
def Core.l1Room (k : Core) (t : Tag) : Core :=
  let ways := k.l1.filter fun l => l1Set l.tag == l1Set t
  if ways.length < l1Ways then k
  else
    match (ways.reverse.filter fun l => l.keep.isNone) ++ ways.reverse with
    | v :: _ => { k with l1 := k.l1.filter fun l => l.tag != v.tag }
    | [] => k

/-- A line made the most recently used one and changed, allocated by the hint where it is absent (R48, R49). -/
def Core.l1Use (k : Core) (t : Tag) (hint grid : Nat) (vas : List Nat) (f : L1Line → L1Line) : Core :=
  match k.l1.find? fun l => l.tag == t with
  | some l => { k with l1 := { f l with vas := distinct (l.vas ++ vas) } :: k.l1.filter fun x => x.tag != t }
  | none =>
    let k := k.l1Room t
    let kept := (k.l1.filter fun l => l1Set l.tag == l1Set t && l.keep.isSome).length
    let l := f { tag := t, vas := vas, keep := if hint == 2 && decide (kept < l1Keeps) then some grid else none }
    { k with l1 := if hint == 1 then k.l1 ++ [l] else l :: k.l1 }

/-- Lines dropped from the L1 (R51). Bytes whose store has not reached the CMB are forwarded from the store queue (R50), and a fill
on its way brings what stands below the L1 when it arrives. -/
def Core.l1Drop (k : Core) (p : L1Line → Bool) : Core := { k with l1 := k.l1.filter fun l => !p l }

/-- Lines dropped from an L1. -/
def Work.dropL1 (w : Work) (t k : Nat) (tags : List Tag) : Work :=
  if tags.isEmpty then w
  else w.mod fun d => d.modCore t k fun x => x.l1Drop fun l => tags.contains l.tag

/-- An acquire of a core at a scope: at cluster or wider it invalidates every line of the L1 (R51, R91). -/
def Work.acquire (w : Work) (t k scope : Nat) : Work :=
  if scope < 2 then w else w.mod fun d => d.modCore t k fun x => x.l1Drop fun _ => true

/-! ## The cluster merge buffer (R55 to R58) -/

/-- Whether a line of a CMB is dirty. -/
def Cluster.line (c : Cluster) (t : Tag) : Option CmbLine := c.cmb.find? fun l => l.tag == t

/-- The byte a read finds dirty at a position of a CMB line. Once the home has applied a drain of the line, its bytes are read there, but
for those written since (R56, R57, R86). -/
def CmbLine.byte (l : CmbLine) (pos : Nat) : Option Byte :=
  if l.applied && !l.fresh.contains pos then none else (l.dirty.find? fun b => b.1.pos == pos).map (·.2)

/-- The byte a cluster's CMB holds for a position of a line. -/
def Cluster.byte (c : Cluster) (t : Tag) (pos : Nat) : Option Byte := (c.line t).bind fun l => l.byte pos

/-- A byte of a KIND 0 page as a cluster reads it below the L1: its CMB's dirty byte, else the home's (R47, R56). -/
def Work.nearByte (w : Work) (t k : Nat) (r : BRef) : Byte :=
  ((if r.cached then (w.d.cluster t (clusterOf k)).byte r.tag r.pos else none)).getD (w.get r.key)

/-- The line of a cluster's CMB, holding an uncorrectable error, that a read of some bytes below the L1 meets (R75). -/
def Dev.nearBad (d : Dev) (t k : Nat) (refs : List BRef) : Option CmbLine :=
  refs.findSome? fun r => if r.cached then ((d.cluster t (clusterOf k)).line r.tag).filter (·.bad) else none

/-- A line of a CMB changed, in its place. -/
def Dev.modLine (d : Dev) (t cl : Nat) (tag : Tag) (f : CmbLine → CmbLine) : Dev :=
  d.modCluster t cl fun c => { c with cmb := c.cmb.map fun l => if l.tag == tag then f l else l }

/-- The trigger codes of R410. -/
def Trigger.code (x : Trigger) : Nat :=
  match x with
  | .fence => 0
  | .flush => 1
  | .atomic => 2
  | .occupancy => 3
  | .age => 4
  | .halt => 5
  | .switch => 6
  | .shootdown => 7
  | .rangeTable => 8
  | .direct => 9

/-- The 32 bytes of a version cell and its extension (R160). -/
def cellRefs (key : Nat) : List BRef :=
  (List.range 32).map fun i => { key := key + i, tag := flatTag (key + i), pos := (key + i) % 256 }

/-- The bytes an operation has still to access at their executing place, of lanes that are not done. -/
def OpKind.directRefs (k : OpKind) : List BRef :=
  match k with
  | .load accs _ _ l1 cmb _ _ =>
    if l1 || cmb then [] else (accs.filter fun a => !a.done).flatMap (·.refs)
  | .store _ accs => (accs.filter fun a => !a.done).flatMap (·.refs)
  | .atomic _ _ _ _ ls _ _ => (ls.filter fun a => !a.done).flatMap (·.refs)
  | .ring _ _ ls _ => (ls.filter fun a => a.state == 0).flatMap (·.refs)
  | .version _ key _ _ _ _ state _ _ => if state == 0 then cellRefs key else []
  | _ => []

/-- The lines of a list of references that lie in HBM. -/
def lineTags (refs : List BRef) : List Tag := distinct ((refs.filter fun r => decide (r.key < 2 ^ 39)).map (·.tag))

/-- The trigger by which an operation drains lines (R57). -/
def OpKind.trigger (k : OpKind) : Trigger :=
  match k with
  | .atomic .. => .atomic
  | .ring .. => .atomic
  | .version .. => .atomic
  | _ => .direct

/-- Which instruction requires the drain of a line, with its trigger: the oldest fence, release, FLUSH, atomic or
access of the cluster that waits for it (R410); otherwise the trigger given. -/
def Dev.drainCause (d : Dev) (t cl : Nat) (tag : Tag) (x : Trigger) : Trigger × Option (Nat × Word) :=
  let fs := (d.fences.filter fun f => f.tower == t && f.cluster == cl && f.lines.contains tag && f.trigger.code ≤ 2).map
    fun f => (f.id, f.trigger, f.crew, f.iaddr)
  let os := (d.ops.filter fun o => !o.done && (o.kind.directRefs.any fun r => r.tag == tag) &&
    (match d.crew o.crew with | some c => c.place.tower == t && clusterOf c.place.core == cl | none => false)).map
    fun o => (o.id, o.kind.trigger, o.crew, o.iaddr)
  match sortOn (·.1) (fs ++ os) with
  | (_, y, crew, ia) :: _ => (y, some (crew, ia))
  | [] => (x, none)

/-- The check of one segment of a dirty line before it drains (R57, R410): the reason of R33 it fails with. -/
def Work.segRefuses (w : Work) (t cl : Nat) (l : CmbLine) (va : Word) : Option Nat :=
  match w.d.part t, w.d.ctx l.ctx with
  | some p, some x =>
    let y : Except Nat (Nat × Nat) := match (w.d.cluster t cl).tlb.find? fun e => e.maps l.ctx va.toNat with
      | some e => .ok (e.leaf.toNat, e.level)
      | none => w.walkNow p va.toNat 4 0 x.root
    match y with
    | .error r => some r
    | .ok (e, level) =>
      let q : Who := { p := p, x := x, t := t, k := 0 }
      q.check w.d .store (l.tag.tensor != 0) va.toNat { leaf := e, off := pageBits level }
  | _, _ => none

/-- The fault of a line whose check fails (R410). -/
def Dev.writeBackFault (d : Dev) (t cl : Nat) (l : CmbLine) (x : Trigger) (va : Word) (why : Nat) : FaultInfo :=
  let c := d.drainCause t cl l.tag x
  let f : FaultInfo :=
    { reason := .deferredWriteBack, engine := .cmb, tower := t, unit := cl, aform := 1, addr := va,
      detail := l.tag.row * 2 ^ 64 + l.tag.col * 2 ^ 32 + l.tag.tensor,
      extra := BitVec.ofNat 64 (c.1.code * 16 + l.writers % 16),
      viol := some { tensor := l.tag.tensor, why := why, access := 1, space := 0 } }
  match c.2 with
  | some (crew, ia) => { f with crew := ((d.crew crew).map fun c => c.place.gid).getD 0xFFFFFF, iaddr := ia }
  | none => f

/-- The fault of a line that holds an uncorrectable error, which writes nothing below (R75). -/
def Dev.badLineFault (d : Dev) (t cl : Nat) (l : CmbLine) (x : Trigger) : FaultInfo :=
  { d.writeBackFault t cl l x (l.segs.headD 0) 0 with reason := .uncorrectable, viol := none }

/-- A drain of a dirty line sent to its home slice once every segment has passed its check; a line that fails, or that holds an
uncorrectable error, stays with a fault (R57, R75, R410). A line whose drain is on its way, or that has failed, is left as it
is. -/
def Work.drain (w : Work) (t cl : Nat) (x : Trigger) (tag : Tag) : Work :=
  match (w.d.cluster t cl).line tag with
  | none => w
  | some l =>
    if l.draining || l.failed.isSome then w
    else
      let fail := fun (f : FaultInfo) => (w.raise f).mod fun d =>
        d.modLine t cl tag fun l => { l with failed := some (w.d.drainCause t cl tag x).1 }
      match l.segs.filterMap fun va => (w.segRefuses t cl l va).map fun y => (va, y) with
      | (va, y) :: _ => fail (w.d.writeBackFault t cl l x va y)
      | [] =>
        if l.bad then fail (w.d.badLineFault t cl l x)
        else
          let (id, w) := w.newId
          w.mod fun d => d.modLine t cl tag fun l => { l with draining := true, sent := id, arrived := false, fresh := [], applied := false }

/-- A list of lines drained. -/
def Work.drains (w : Work) (t cl : Nat) (x : Trigger) : List Tag → Work
  | [] => w
  | g :: r => (w.drain t cl x g).drains t cl x r

/-- The lines of a CMB that a drain of everything waits for; a line written again since its drain reached its home drains twice. -/
def Cluster.dirtyTags (c : Cluster) (ranges : List (Nat × Nat)) : List Tag :=
  (c.cmb.filter fun l => ranges.isEmpty || l.dirty.any fun b => ranges.any fun r => r.1 ≤ b.1.va && decide (b.1.va < r.1 + r.2)).flatMap
    fun l => if l.arrived && !l.fresh.isEmpty then [l.tag, l.tag] else [l.tag]

/-! ## Operations (R114, R115, R240) -/

/-- The counter of a class. -/
def Crew.count (c : Crew) (cls : Nat) : Nat := c.cnt.getD (cls - 1) 0

/-- A class's counter changed. -/
def Crew.modCount (c : Crew) (cls : Nat) (f : Nat → Nat) : Crew := { c with cnt := setNth 0 c.cnt (cls - 1) f }

/-- Memory requests a core may have outstanding (R3). -/
def coreRequests : Nat := 2048

/-- The memory requests of a core that are outstanding: the operations of GLD and GST that its crews have in flight (R3;
assumption 40). -/
def Dev.requests (d : Dev) (t k : Nat) : Nat :=
  (d.ops.filter fun o => !o.done && decide (o.cls ≤ 2) &&
    match d.crew o.crew with | some c => c.place.tower == t && c.place.core == k | none => false).length

/-- Whether a core has room for the memory requests of a list of operations (R3). -/
def Dev.takesRequests (d : Dev) (t k : Nat) (ops : List Op) : Bool :=
  decide (d.requests t k + (ops.filter fun o => !o.done && decide (o.cls ≤ 2)).length ≤ coreRequests)

/-- An instruction that would take a counter past 127, or its core past its memory requests, is withheld (R3, R117). -/
def Iss.room (i : Iss) (w : Work) (cls n : Nat) : Res :=
  if 127 < (i.crew w).count cls + n then .again i.w0 (.counterRoom cls n)
  else if cls ≤ 2 && decide (coreRequests ≤ w.d.requests i.c.place.tower i.c.place.core) then .again i.w0 .requests
  else .ok w

/-- An operation of the instruction: counted, and its destinations pending in the active lanes (R114, R240) and tagged G
(R204, R205). `done` says that it is complete at once. -/
def Iss.newOp (i : Iss) (w : Work) (cls : Nat) (kind : OpKind) (regs : List Nat) (la : Nat) (done : Bool := false)
    (after : List Nat := []) : Nat × Work :=
  let (id, w) := w.newId
  let o : Op := { id := id, crew := i.cu.crew, cls := cls, iaddr := i.cu.addr, lanes := i.act, kind := kind, done := done, after := after }
  let left := lanes.map fun l => if i.act.getLsbD l then la + 1 else 0
  let w := w.mod fun d => { d with ops := d.ops ++ [o] }
  (id, i.mod w fun c =>
    { c.modCount cls (· + 1) with
      pend := c.pend ++ regs.map fun r => { reg := r, op := id, left := left, la := la }
      regs := regs.foldl (fun l r => setNth (.uni 0) l r fun old => .gen old.all) c.regs })

/-- A register written by an operation in its lanes; it is pending no more (R203, R240). -/
def Work.writeLate (w : Work) (o : Op) (reg : Nat) (f : Nat → Word) : Work :=
  w.mod fun d => d.modCrew o.crew fun c =>
    { c.put reg (.gen (lanes.map f)) o.lanes with
      pend := c.pend.filter fun p => !(p.op == o.id && p.reg == reg), stalled := false }

/-- An operation complete: what it left unwritten is pending no more. -/
def Work.opDone (w : Work) (id : Nat) : Work :=
  w.mod fun d => { d with
    ops := d.ops.map fun o => if o.id == id then { o with done := true } else o
    crews := d.crews.map fun (c : Crew) =>
      if c.pend.any (fun p => p.op == id) then { c with pend := c.pend.filter (fun p => p.op != id), stalled := false } else c }

/-- An operation's work changed. -/
def Work.setKind (w : Work) (id : Nat) (k : OpKind) : Work := w.mod fun d => d.modOp id fun o => { o with kind := k }

/-! ## The order of a crew's accesses (R81, R84, R91, R297) -/

/-- Whether an operation is an acquire, so that what follows it in its threads waits for it (R91, R96). -/
def OpKind.acquires (k : OpKind) : Bool :=
  match k with
  | .load _ _ _ _ _ _ acq => acq.isSome
  | .atomic _ _ _ _ _ _ acq => acq.isSome
  | .ring op _ _ _ => op == .claim || op == .await
  | .version op _ _ _ _ _ _ _ _ => op == .get || op == .wait
  | _ => false

/-- The threads of an earlier memory instruction of the crew that has not passed its checks, while any of them still stands on it
(R29, R85). -/
def Crew.checksLeft (c : Crew) : Mask :=
  match c.checking with
  | some (m, pc) => maskOf fun l => m.getLsbD l && !(c.thread l).exited && (c.thread l).pc == pc
  | none => 0

/-- Memory, atomic, async, matrix, sampler and task instructions are withheld while a fence of the group is incomplete (R297), and while
an earlier memory instruction of another group has not passed its checks (R85). -/
def Iss.admitted (i : Iss) (w : Work) : Res :=
  if (i.crew w).checksLeft &&& ~~~ i.cu.group != 0 then .again i.w0 .checks
  else match w.d.fences.find? fun f => f.crew == i.cu.crew && !f.done && f.mask &&& i.cu.group != 0 with
  | some f => .again i.w0 (.fence f.id)
  | none => .ok w

/-- The acquires of the group's threads that have not bound (R91). -/
def Iss.acquiring (i : Iss) (w : Work) : List Nat :=
  (w.d.ops.filter fun o => o.crew == i.cu.crew && !o.done && o.kind.acquires && o.lanes &&& i.cu.group != 0).map (·.id)

/-- An instruction whose accesses are made at issue is withheld too while an acquire of its threads has not bound (R91). -/
def Iss.ready (i : Iss) (w : Work) : Res :=
  (i.admitted w).bind fun w =>
    match i.acquiring w with
    | id :: _ => .again i.w0 (.result id)
    | [] => .ok w

/-- The keys an operation has still to access for a lane, so far as later accesses of its thread wait for it: all but the bytes of
a store that stand in the L1, and none of a ring operation that waits at its executing place (R135, R310). -/
def OpKind.keysOf (k : OpKind) (l : Nat) : List Nat :=
  match k with
  | .load accs _ _ _ _ _ _ => (accs.filter fun a => a.lane == l && !a.done).flatMap fun a => a.refs.map (·.key)
  | .store _ accs => (accs.filter fun a => a.lane == l && !a.done).flatMap fun a => a.refs.map (·.key)
  | .atomic _ _ _ _ ls _ _ => (ls.filter fun a => a.lane == l && !a.done).flatMap fun a => a.refs.map (·.key)
  | .arrival key _ _ _ => (List.range 16).map (key + ·)
  | .ring _ _ ls _ => (ls.filter fun a => a.lane == l && a.state == 0).flatMap fun a => a.refs.map (·.key)
  | .version _ key _ _ _ _ state _ _ => if state < 2 then (cellRefs key).map (·.key) else []
  | _ => []

/-- Where one lane's access stands: lane, effective address, bytes. -/
structure LaneAt where
  lane : Nat
  ea : Nat
  refs : List BRef

/-- An access whose bytes overlap those of an older access of its thread waits for that one (R81, R84). -/
def Iss.clash (i : Iss) (w : Work) (ls : List LaneAt) : Res :=
  match w.d.ops.find? fun o => o.crew == i.cu.crew && !o.done &&
      ls.any fun a => (o.kind.keysOf a.lane).any fun k => a.refs.any fun r => r.key == k with
  | some o => .again i.w0 (.result o.id)
  | none => .ok w

/-- Whether an operation is a ring operation: asynchronous, so that a fence takes its issue for a write of the thread and its own
accesses for another agent's (R97). -/
def OpKind.isRing (k : OpKind) : Bool :=
  match k with
  | .ring .. => true
  | _ => false

/-- Whether a release at a scope, or with `none` an acquire, waits for an earlier operation of its threads: reads bind before it, and before
a release writes take effect, those on version cells among them, but not a ring operation (R89, R90, R91, R97). A FLUSH completes before a release at system scope (R102). -/
def Op.owedBy (o : Op) (rel : Option Nat) : Bool :=
  !o.kind.isRing && match o.kind, rel with
  | .flush, some scope => decide (5 ≤ scope)
  | .version _ _ _ _ _ _ state _ _, some _ => decide (state < 2)
  | _, some _ => o.cls == 1 || o.cls == 2
  | _, none => o.cls == 1

/-- The operations of some lanes of the crew that a release or an acquire waits for. -/
def Iss.owed (i : Iss) (w : Work) (rel : Option Nat) (lns : Mask) : List Nat :=
  (w.d.ops.filter fun o => o.crew == i.cu.crew && !o.done && o.owedBy rel && o.lanes &&& lns != 0).map (·.id)

/-- Whether an address lies in one of a list of ranges. -/
def inRanges (rs : List (Nat × Nat)) (va : Nat) : Bool := rs.any fun r => r.1 ≤ va && decide (va < r.1 + r.2)

/-- Whether an entry of the store queue holds a byte of a range. -/
def SqEntry.inRange (e : SqEntry) (rs : List (Nat × Nat)) : Bool :=
  match e with
  | .store _ _ _ bs _ _ => bs.any fun b => inRanges rs b.1.va
  | .marker _ => false

/-- Whether the operations a fence waits for are complete. -/
def FenceRec.opsDone (f : FenceRec) (d : Dev) : Bool := f.ops.all fun id => match d.op id with | some o => o.done | none => true

/-- The dirty lines of its cluster that a fence waits for. -/
def FenceRec.dirty (f : FenceRec) (d : Dev) : List Tag :=
  let c := d.cluster f.tower f.cluster
  if f.drains then (c.dirtyTags f.ranges).filter fun g => !(f.eret && ((c.line g).map (·.failed.isSome)).getD false) else []

/-- A fence changed. -/
def Dev.modFence (d : Dev) (id : Nat) (g : FenceRec → FenceRec) : Dev :=
  { d with fences := d.fences.map fun f => if f.id == id then g f else f }

/-- What a fence waits for named: its marker takes its place in the core's store queue where that holds anything for it; else the
dirty lines of its cluster drain (R57, R58, R95). -/
def Work.nameFence (w : Work) (f : FenceRec) : Work :=
  if f.queue && (w.d.core f.tower f.core).sq.any fun e => f.ranges.isEmpty || e.inRange f.ranges then
    w.mod fun d => (d.modFence f.id fun x => { x with marker := true }).modCore f.tower f.core fun k => { k with sq := k.sq ++ [.marker f.id] }
  else
    let lines := f.dirty w.d
    (w.mod fun d => d.modFence f.id fun x => { x with marker := false, lines := lines }).drains f.tower f.cluster f.trigger lines

/-- A fence, release or flush begun (R90, R91, R95, R136): what it waits for. `drains` says that the CMB drains, and
`queue` that the store queue must have passed; with operations to wait for both are named again when these are complete. -/
def Iss.beginFence (i : Iss) (w : Work) (trig : Trigger) (mask : Mask) (ops : List Nat) (queue drains : Bool)
    (ranges : List (Nat × Nat)) (acq : Option Nat) (op : Option Nat) (retry : Bool := false) (eret : Bool := false) : Nat × Work :=
  let (id, w) := w.newId
  let t := i.c.place.tower
  let k := i.c.place.core
  let f : FenceRec :=
    { id := id, crew := i.cu.crew, mask := mask, iaddr := i.cu.addr, core := k, cluster := clusterOf k, tower := t, trigger := trig,
      marker := false, acquire := acq, op := op, ops := ops, ranges := ranges, queue := queue, drains := drains,
      again := (queue || drains) && !ops.isEmpty, eret := eret, retry := retry }
  (id, (w.mod fun d => { d with fences := d.fences ++ [f] }).nameFence f)

/-- Whether a fence waits for nothing. -/
def FenceRec.over (f : FenceRec) (d : Dev) : Bool := !f.again && !f.marker && f.lines.isEmpty && f.opsDone d

/-- Whether a fence, release or flush would wait for nothing: no operation, no entry of the store queue, no line of the CMB but
one that is left out. -/
def Iss.nothingOwed (i : Iss) (w : Work) (ops : List Nat) (queue drains : Bool) (ranges : List (Nat × Nat))
    (out : Tag → Bool := fun _ => false) : Bool :=
  let t := i.c.place.tower
  let k := i.c.place.core
  ops.isEmpty && (!queue || (w.d.core t k).sq.isEmpty) &&
    (!drains || ((w.d.cluster t (clusterOf k)).dirtyTags ranges).all out)

/-- The release of some threads of the crew at a scope, before the instruction's own write (R90): where anything is still to arrive,
the group waits and the instruction issues again after it. An ERET does not wait for a line whose write-back has failed,
since its disposition is read only at the resumption (R374, R406). -/
def Iss.releaseOf (i : Iss) (w : Work) (lns : Mask) (scope : Nat) (eret : Bool := false) : Res :=
  let mine := fun (f : FenceRec) => f.crew == i.cu.crew && f.iaddr == i.cu.addr && f.done
  let drop := fun (w : Work) => w.mod fun d => { d with fences := d.fences.filter fun f => !mine f }
  let cl := clusterOf i.c.place.core
  let stuck := fun (d : Dev) (g : Tag) => eret && (((d.cluster i.c.place.tower cl).line g).map (·.failed.isSome)).getD false
  let owed := i.owed w (some scope) lns
  if w.d.fences.any (fun f => mine f && i.cu.group &&& ~~~ f.mask == 0) then .ok (drop w)
  else if i.nothingOwed w owed true (decide (3 ≤ scope)) [] (stuck w.d) then .ok (drop w)
  else
    let (id, w1) := i.beginFence (drop i.w0) .fence i.cu.group owed true (decide (3 ≤ scope)) [] none none true eret
    .again w1 (.fence id)

/-- The release of an instruction's own lanes. -/
def Iss.release (i : Iss) (w : Work) (scope : Nat) : Res := i.releaseOf w i.act scope

/-- The release of a posted atomic, which issues without waiting for it: the fence that must be over before it is sent (R90, R147). -/
def Iss.releaseAfter (i : Iss) (w : Work) (scope : Nat) : List Nat × Work :=
  let owed := i.owed w (some scope) i.act
  if i.nothingOwed w owed true (decide (3 ≤ scope)) [] then ([], w)
  else
    let (id, w) := i.beginFence w .fence 0 owed true (decide (3 ≤ scope)) [] none none
    ([id], w)

/-! ## Locating a crew's access (R13 to R33) -/

/-- The accesses of lanes located, and their continuation; a failure of any lane is a violation of the instruction (R31),
a missing translation or a hold lets the group wait, and later memory instructions of the crew with it (R29, R44, R85). -/
def Iss.find (i : Iss) (w : Work) (a : Acc) (space n : Nat) (eas : List (Nat × Nat)) (k : List LaneAt → Work → Res) : Res :=
  match w.d.who (i.crew w) with
  | none => .ok w
  | some q =>
    let looks := eas.map fun e => (e, w.locate q (w.d.localGranules i.c) a space e.2 n)
    let miss := looks.flatMap fun x => match x.2 with
      | .miss ps => ps
      | _ => []
    let here := some (i.cu.group, i.cu.addr)
    if !miss.isEmpty then
      let (id, w1) := i.w0.askWalks q.t q.k q.x.ctxid q.x.root (distinct miss)
      .again (i.mod w1 fun c => { c with checking := here }) (.walk id)
    else if looks.any fun x => match x.2 with | .held => true | _ => false then
      .again (i.mod i.w0 fun c => { c with walkFails := [], checking := here }) (.held q.x.ctxid)
    else
      let bad := looks.filterMap fun x => match x.2 with
        | .bad why tensor => some (x.1, why, tensor)
        | _ => none
      match bad with
      | ((_, ea), why, tensor) :: _ =>
        .fault { i.fault .violation with
          aform := aformOf space ea, addr := BitVec.ofNat 64 ea, lanes := maskOf fun l => bad.any fun b => b.1.1 == l
          viol := some { tensor := tensor, why := why, access := a.code, space := space } }
      | [] =>
        k (looks.filterMap fun x => match x.2 with
            | .ok refs => some { lane := x.1.1, ea := x.1.2, refs := refs }
            | _ => none)
          (i.mod w fun c => { c with walkFails := [], checking := none })

/-- A misaligned access or atomic (R290, R139): no lane accesses and no violation is logged. -/
def Iss.misaligned (i : Iss) (reason : Reason) (space : Nat) (bad : List (Nat × Nat)) : FaultInfo :=
  let ea := (bad.head?.map (·.2)).getD 0
  { i.fault reason with
    aform := aformOf space ea, addr := BitVec.ofNat 64 ea, lanes := maskOf fun l => bad.any fun b => b.1 == l }

/-- The effective addresses of the active lanes (R288). -/
def Iss.eas (i : Iss) (a : Nat) (off : Word) : List (Nat × Nat) := (maskLanes i.act).map fun l => (l, (i.val a l + off).toNat)

/-- The grid that protects the lines a crew takes (R48). -/
def Dev.gridId (d : Dev) (c : Crew) : Nat := ((d.gridOf c).map (·.id)).getD 0

/-- The 256 B block of an address. -/
def block (va : Nat) : Nat := va / 256 * 256

/-! ## Race checks (R154) -/

/-- The epoch of a crew's team (R156). -/
def Dev.teamEpoch (d : Dev) (c : Crew) : Nat := ((d.teamOf c).map (·.epoch)).getD 0

/-- The race check of an access sent to the home slice: each sector of an enabled KIND 0 page, for every lane. -/
def Iss.race (i : Iss) (w : Work) (kind space : Nat) (ls : List LaneAt) : Work :=
  match w.d.who (i.crew w) with
  | none => w
  | some q =>
    if space != 0 || q.handler || q.x.raceMode == 0 then w
    else
      let sect := ls.flatMap fun a => (distinct ((a.refs.filter (·.cached)).map fun r => (r.key / 32 * 32, r.va / 32 * 32))).map
        fun s => (a.lane, s.1, BitVec.ofNat 64 s.2)
      let on := sect.filter fun s => match w.d.tlbLook q.t q.k q.x.ctxid s.2.2.toNat with
        | some y => bit 63 y.leaf
        | none => false
      if on.isEmpty then w
      else
        let (id, w) := w.newId
        let r : RaceReq :=
          { id := id, crew := i.cu.crew, gid := i.c.place.gid, team := i.c.team, te := w.d.teamEpoch i.c, ge := i.c.ep.grid,
            peers := i.c.ep.peers, kind := kind, iaddr := i.cu.addr, lanes := on }
        w.mod fun d => { d with races := d.races ++ [r] }

/-! ## Loads (R288 to R293) -/

/-- The bytes of a lane's access bound by a function, for the references that meet a test: all of them or none, but of a misaligned
access each that is at hand (R80, R290). -/
def LaneAcc.take (a : LaneAcc) (sel : BRef → Bool) (f : BRef → Option Byte) : LaneAcc :=
  let want := (a.refs.mapIdx fun i r => (i, r)).filter fun x => sel x.2 && !a.got.any fun g => g.1 == x.1
  let vals := want.filterMap fun x => (f x.2).map fun b => (x.1, b)
  if a.loose || vals.length == want.length then
    let got := a.got ++ vals
    { a with got := got, done := got.length == a.refs.length }
  else a

/-- The value of byte `n` to `n + m − 1` of a lane's access. -/
def LaneAcc.value (a : LaneAcc) (n m : Nat) : Nat := leNat ((List.range m).map fun i => getA a.got (n + i) 0)

/-- The register values of a lane (R289). -/
def LoadForm.word (f : LoadForm) (a : LaneAcc) : Word :=
  let v := a.value 0 (Nat.min f.size 8)
  BitVec.ofNat 64 (if f.signed then ofSigned 64 (toSigned (8 * f.size) v) else v)

/-- A load whose lanes are all bound: its registers are written, its acquire is made, and it is complete (R91, R99). -/
def Work.endLoad (w : Work) (o : Op) : Work :=
  match o.kind with
  | .load accs form reg _ _ _ acq =>
    if accs.all (·.done) then
      let lane := fun (l : Nat) => (accs.find? fun a => a.lane == l).getD { lane := l }
      let w := w.writeLate o reg fun l => form.word (lane l)
      let w := if form.double then w.writeLate o (reg + 1) fun l => BitVec.ofNat 64 ((lane l).value 8 8) else w
      let w := match acq, w.d.crew o.crew with
        | some s, some c => w.acquire c.place.tower c.place.core s
        | _, _ => w
      w.opDone o.id
    else w
  | _ => w

/-- The memory key of each position of a line whose pages the TLBs hold (R36, R42), but for those that a shootdown holds (R44). -/
def Work.lineRefs (w : Work) (q : Who) (t : Tag) : List (Nat × Nat) :=
  match q.x.ranges.find? fun r => r.2.2.1 == t.tensor with
  | some (_, _, _, v) =>
    let d := Desc.ofNat v
    (List.range 256).filterMap fun pos => ((d.addrOf t pos).filter fun va => !w.d.shot q.x.ctxid va).bind fun va =>
      match w.xlatNow q.p q.x q.t q.k va with
      | .ok y => some (pos, y.pa va)
      | .error _ => none
  | none => (List.range 256).map fun pos => (pos, t.row * 256 + pos)

/-- A fill of a line asked for, unless one is outstanding (R49); one that would stop at the home slice goes on to the L1 (R294). -/
def Work.askFill (w : Work) (q : Who) (hint grid : Nat) (vas : List Nat) (t : Tag) (homeOnly : Bool := false) : Work :=
  if (w.d.core q.t q.k).fills.any fun f => f.tag == t then
    if homeOnly then w
    else w.mod fun d => d.modCore q.t q.k fun x => { x with fills := x.fills.map fun f =>
      if f.tag == t && f.homeOnly then { f with homeOnly := false, hint := hint, grid := grid, vas := vas } else f }
  else
    let (id, w) := w.newId
    let f : Fill := { tag := t, refs := w.lineRefs q t, hint := hint, grid := grid, vas := vas, homeOnly := homeOnly, sent := id }
    w.mod fun d => d.modCore q.t q.k fun x => { x with fills := x.fills ++ [f] }

/-- The fills of a list of lines asked for. -/
def Work.askFills (w : Work) (q : Who) (hint grid : Nat) (homeOnly : Bool := false) : List (Tag × List Nat) → Work
  | [] => w
  | x :: r => (w.askFill q hint grid x.2 x.1 homeOnly).askFills q hint grid homeOnly r

/-- The lines of a list of references, each with the blocks of virtual addresses that named it. -/
def linesOf (rs : List BRef) : List (Tag × List Nat) :=
  (distinct (rs.map (·.tag))).map fun t => (t, distinct ((rs.filter fun r => r.tag == t).map fun r => block r.va))

/-- What distinguishes the load instructions (R289): bytes per lane, whether an access may be misaligned, whether it
moves one line among the lanes, and whether its own access may take L1 bytes and CMB bytes. -/
structure LoadSpec where
  form : LoadForm
  loose : Bool := false
  tile : Bool := false
  l1 : Bool := true
  cmb : Bool := true

/-- The lane addresses of an access of one line (R292): lane l takes positions 8l to 8l + 7, and a lane whose positions
are inert none; `none` where the lowest active lane does not name the line's position 0. -/
def Iss.tileEas (i : Iss) (w : Work) (space : Nat) (a : Nat) (off : Word) : Option (List (Nat × Nat)) :=
  let ea := (i.val a i.l0 + off).toNat
  let ten := if space == 0 then (w.d.who (i.crew w)).bind fun q => q.x.tensorAt ea else none
  match ten with
  | some (id, d) =>
    let tp := d.tileOf id ea
    if tp.2 != 0 then none
    else some ((maskLanes i.act).filterMap fun l => (d.addrOf tp.1 (8 * l)).map fun va => (l, va))
  | none => if ea % 256 != 0 then none else some ((maskLanes i.act).map fun l => (l, ea + 8 * l))

/-- The lane addresses of a load or store, or the lanes that are misaligned (R290, R292). -/
def Iss.lanesAt (i : Iss) (w : Work) (tile loose : Bool) (size space order : Nat) (a : Nat) (off : Word) :
    Except (List (Nat × Nat)) (List (Nat × Nat)) :=
  if tile then
    match i.tileEas w space a off with
    | some l => .ok l
    | none => .error [(i.l0, (i.val a i.l0 + off).toNat)]
  else
    let es := i.eas a off
    let bad := es.filter fun e => e.2 % size != 0
    if bad.isEmpty || (loose && order == 0 && space != 3) then .ok es else .error bad

/-- The accesses made to be checked: of the lanes, or, where the positions of every active lane of an LDT or STT are inert, of the
line's own address, so that its pages are checked all the same (R42, R292). -/
def Iss.anchored (i : Iss) (a : Nat) (off : Word) (es : List (Nat × Nat)) : List (Nat × Nat) :=
  if es.isEmpty then [(i.l0, (i.val a i.l0 + off).toNat)] else es

/-- Those of the located accesses that lanes make. -/
def lanesOf (es : List (Nat × Nat)) (ls : List LaneAt) : List LaneAt := if es.isEmpty then [] else ls

/-- Lines drained from the issuing cluster's CMB before an access at the executing place (R57, R293). -/
def Iss.drainFor (i : Iss) (w : Work) (x : Trigger) (refs : List BRef) : Work :=
  w.drains i.c.place.tower (clusterOf i.c.place.core) x (lineTags refs)

/-- A load issued with its lanes located: bytes of the core are bound, fills are asked for the rest. -/
def Iss.startLoad (i : Iss) (w : Work) (p : LoadSpec) (o : OpLd) (ls : List LaneAt) : Work :=
  let k := w.d.core i.c.place.tower i.c.place.core
  let acq := if o.order == 1 then some o.scope.toNat else none
  let accs := (maskLanes i.act).map fun l =>
    match ls.find? fun a => a.lane == l with
    | some a =>
      let x : LaneAcc := { lane := l, refs := a.refs, loose := p.loose && a.ea % p.form.size != 0, hint := o.hint.toNat }
      if p.l1 then x.take (·.cached) fun r => k.l1Byte r.tag r.pos else x
    | none => { lane := l, done := true }
  let hits := (accs.filter fun (a : LaneAcc) => p.l1 && a.done).flatMap (·.refs)
  let miss := (accs.filter fun (a : LaneAcc) => p.l1 && !a.done).flatMap fun a => a.refs.filter (·.cached)
  let g := w.d.gridId i.c
  let w := w.mod fun d => d.modCore i.c.place.tower i.c.place.core fun x =>
    (linesOf hits).foldl (fun x l => if x.l1.any (fun y => y.tag == l.1) then x.l1Use l.1 0 g l.2 id else x) x
  let w := match w.d.who (i.crew w) with
    | some q => w.askFills q o.hint.toNat g false (linesOf miss)
    | none => w
  let w := i.race w 0 o.space.toNat ls
  let regs := if p.form.double then [o.d.toNat, o.d.toNat + 1] else [o.d.toNat]
  let w := (i.newOp w 1 (.load accs p.form o.d.toNat p.l1 p.cmb o.hint.toNat acq) regs o.la.toNat).2
  if p.l1 || p.cmb then w else
    i.drainFor (w.dropL1 i.c.place.tower i.c.place.core (lineTags (ls.flatMap (·.refs)))) .direct (ls.flatMap (·.refs))

/-- A load instruction (R288 to R293). Its result is written when its response is taken. -/
def loadOp (p : LoadSpec) (o : OpLd) (s : State) : Out :=
  let regs := if p.form.double then [o.d.toNat, o.d.toNat + 1] else [o.d.toNat]
  issue s o.g { reads := [o.a.toNat], writes := regs, pends := true , values := true } fun i w =>
    (i.ready w).bind fun w => (i.room w 1 1).bind fun w =>
      match i.lanesAt w p.tile p.loose p.form.size o.space.toNat o.order.toNat o.a.toNat (sext o.off) with
      | .error bad => .fault (i.misaligned .misaligned o.space.toNat bad)
      | .ok es => i.find w .load o.space.toNat p.form.size (i.anchored o.a.toNat (sext o.off) es) fun ls w =>
          let ls := lanesOf es ls
          (i.clash w ls).bind fun w => .ok (i.startLoad w p o ls)

/-- LD8U (R289). -/
def execLd8u (o : OpLd) (s : State) : Out := loadOp { form := { size := 1 } } o s
/-- LD8S (R289). -/
def execLd8s (o : OpLd) (s : State) : Out := loadOp { form := { size := 1, signed := true } } o s
/-- LD16U (R289). -/
def execLd16u (o : OpLd) (s : State) : Out := loadOp { form := { size := 2 }, loose := true } o s
/-- LD16S (R289). -/
def execLd16s (o : OpLd) (s : State) : Out := loadOp { form := { size := 2, signed := true }, loose := true } o s
/-- LD32U (R289). -/
def execLd32u (o : OpLd) (s : State) : Out := loadOp { form := { size := 4 }, loose := true } o s
/-- LD32S (R289). -/
def execLd32s (o : OpLd) (s : State) : Out := loadOp { form := { size := 4, signed := true }, loose := true } o s
/-- LD64 (R289). -/
def execLd64 (o : OpLd) (s : State) : Out := loadOp { form := { size := 8 }, loose := true } o s
/-- LD128 (R289). -/
def execLd128 (o : OpLd) (s : State) : Out := loadOp { form := { size := 16, double := true } } o s
/-- LDT (R292). -/
def execLdt (o : OpLd) (s : State) : Out := loadOp { form := { size := 8 }, tile := true } o s
/-- LDNC (R293): at the executing place, after its line has drained. -/
def execLdnc (o : OpLd) (s : State) : Out := loadOp { form := { size := 8 }, l1 := false, cmb := false } o s
/-- LDAQ (R293): never from the L1. -/
def execLdaq (o : OpLd) (s : State) : Out := loadOp { form := { size := 8 }, l1 := false } o s
/-- LDAQ32 (R293). -/
def execLdaq32 (o : OpLd) (s : State) : Out := loadOp { form := { size := 4 }, l1 := false } o s

/-- PREF (R294): fills of the lines that can be located at once, with hint 3 as far as their home slices; any other lane is dropped. -/
def execPref (o : OpAd) (s : State) : Out :=
  issue s o.g { reads := [o.a.toNat] , values := true } fun i w =>
    (i.ready w).bind fun w =>
      match w.d.who (i.crew w) with
      | none => .ok w
      | some q =>
        if o.space != 0 then .ok w
        else
          let refs := (i.eas o.a.toNat (sext o.off)).flatMap fun e =>
            match w.locate q [] .load 0 e.2 1 with
            | .ok rs => rs.filter (·.cached)
            | _ => []
          let k := w.d.core q.t q.k
          let home := o.hint == 3
          let need := refs.filter fun r => home || (k.l1Byte r.tag r.pos).isNone
          .ok (w.askFills q o.hint.toNat (w.d.gridId i.c) home (linesOf need))

/-! ## Stores (R288, R291 to R295) -/

/-- What distinguishes the store instructions (R295): bytes per lane, whether an access may be misaligned, whether it
moves one line among the lanes, whether it is performed at the executing place, and whether two registers are
stored. -/
structure StoreSpec where
  size : Nat
  loose : Bool := false
  tile : Bool := false
  direct : Bool := false
  double : Bool := false

/-- The bytes a lane stores. -/
def Iss.storeData (i : Iss) (p : StoreSpec) (b l : Nat) : List Byte :=
  if p.double then natLe 8 (i.val b l).toNat ++ natLe 8 (i.val (b + 1) l).toNat else natLe p.size (i.val b l).toNat

/-- The 64 KiB-aligned virtual addresses of a line's segments (R55). -/
def Ctx.segPages (x : Ctx) (t : Tag) (va : Nat) : List Word :=
  let vs := match x.ranges.find? fun r => r.2.2.1 == t.tensor with
    | some (_, _, _, v) => (Desc.ofNat v).segments t
    | none => [va]
  (pagesOf vs).map (BitVec.ofNat 64)

/-- The bytes stored to one line, the highest lane's value where lanes meet (R78). -/
def lineBytes (t : Tag) (bs : List (BRef × Byte)) : List (BRef × Byte) :=
  (bs.filter fun b => b.1.tag == t).foldl (fun acc b => acc.filter (fun c => c.1.pos != b.1.pos) ++ [b]) []

/-- One line's bytes written through: into the L1 and into the store queue (R49). -/
def Iss.storeLine (i : Iss) (w : Work) (op : Nat) (hint : Nat) (x : Ctx) (t : Tag) (bs : List (BRef × Byte)) : Work :=
  let va := (bs.head?.map fun b => b.1.va).getD 0
  let e : SqEntry := .store op i.cu.crew t bs (x.segPages t va) x.ctxid
  let g := w.d.gridId i.c
  w.mod fun d => d.modCore i.c.place.tower i.c.place.core fun k =>
    let k := k.l1Use t (if hint == 3 then 0 else hint) g (distinct (bs.map fun b => block b.1.va)) fun l =>
      l.store (bs.map fun b => (b.1.pos, b.2))
    { k with sq := k.sq ++ [e] }

/-- The bytes of a store of KIND 0 lines as the entries they take in the store queue: one for each line; where an access is misaligned,
one for each of its bytes, the lanes in turn (R78, R290). -/
def Iss.storeEntries (i : Iss) (p : StoreSpec) (b : Nat) (ls : List LaneAt) : List (Tag × List (BRef × Byte)) :=
  let of := fun (ls : List LaneAt) => ls.flatMap fun a => (a.refs.zip (i.storeData p b a.lane)).filter fun x => x.1.cached && !p.direct
  let lines := fun (ps : List (BRef × Byte)) => (distinct (ps.map fun x => x.1.tag)).map fun t => (t, lineBytes t ps)
  if p.loose && ls.any fun a => a.ea % p.size != 0 then
    ls.flatMap fun a => if a.ea % p.size != 0 then (of [a]).map fun x => (x.1.tag, [x]) else lines (of [a])
  else lines (of ls)

/-- A store issued with its lanes located: KIND 0 bytes enter the L1 and the store queue, the others go to their
executing place (R49, R86). -/
def Iss.startStore (i : Iss) (w : Work) (p : StoreSpec) (o : OpSt) (ls : List LaneAt) : Work :=
  let accs := ls.filterMap fun a =>
    let far := (a.refs.zip (i.storeData p o.b.toNat a.lane)).filter fun x => !(x.1.cached && !p.direct)
    if far.isEmpty then none else
      some ({ lane := a.lane, refs := far.map (·.1), data := far.map (·.2), loose := p.loose && a.ea % p.size != 0, hint := o.hint.toNat } : LaneAcc)
  let new := i.storeEntries p o.b.toNat ls
  let w := i.race w 1 o.space.toNat ls
  let (id, w) := i.newOp w 2 (.store new.length accs) [] 0 (new.isEmpty && accs.isEmpty)
  let w := if p.direct then
      let refs := accs.flatMap (·.refs)
      i.drainFor (w.dropL1 i.c.place.tower i.c.place.core (lineTags refs)) .direct refs
    else w
  match w.d.who (i.crew w) with
  | some q => new.foldl (fun w e => i.storeLine w id o.hint.toNat q.x e.1 e.2) w
  | none => w

/-- Entries of a core's store queue; the spec gives no number (R58; assumption 40). -/
def storeQueue : Nat := Config.storeQueue + 1

/-- Every store of a core waits while its store queue is full (R58). -/
def Iss.queueRoom (i : Iss) (w : Work) : Res :=
  if storeQueue ≤ (w.d.core i.c.place.tower i.c.place.core).sq.length then .again i.w0 .storeRoom else .ok w

/-- A store instruction (R288, R291 to R295). -/
def storeOp (p : StoreSpec) (o : OpSt) (s : State) : Out :=
  let srcs := if p.double then [o.b.toNat, o.b.toNat + 1] else [o.b.toNat]
  issue s o.g { reads := o.a.toNat :: srcs , values := true } fun i w =>
    (i.ready w).bind fun w => (i.room w 2 1).bind fun w =>
      match i.lanesAt w p.tile p.loose p.size o.space.toNat o.order.toNat o.a.toNat (sext o.off) with
      | .error bad => .fault (i.misaligned .misaligned o.space.toNat bad)
      | .ok es => i.find w .store o.space.toNat p.size (i.anchored o.a.toNat (sext o.off) es) fun ls w =>
          let ls := lanesOf es ls
          (i.clash w ls).bind fun w => (i.queueRoom w).bind fun w =>
            (if o.order == 2 then i.release w o.scope.toNat else .ok w).bind fun w => .ok (i.startStore w p o ls)

/-- ST8 (R295). -/
def execSt8 (o : OpSt) (s : State) : Out := storeOp { size := 1 } o s
/-- ST16 (R295). -/
def execSt16 (o : OpSt) (s : State) : Out := storeOp { size := 2, loose := true } o s
/-- ST32 (R295). -/
def execSt32 (o : OpSt) (s : State) : Out := storeOp { size := 4, loose := true } o s
/-- ST64 (R295). -/
def execSt64 (o : OpSt) (s : State) : Out := storeOp { size := 8, loose := true } o s
/-- ST128 (R295). -/
def execSt128 (o : OpSt) (s : State) : Out := storeOp { size := 16, double := true } o s
/-- STT (R292). -/
def execStt (o : OpSt) (s : State) : Out := storeOp { size := 8, tile := true } o s
/-- STNC (R293). -/
def execStnc (o : OpSt) (s : State) : Out := storeOp { size := 8, direct := true } o s
/-- STRL (R293): performed as STNC, and a release at its scope. -/
def execStrl (o : OpSt) (s : State) : Out := storeOp { size := 8, direct := true } o s
/-- STRL32 (R293). -/
def execStrl32 (o : OpSt) (s : State) : Out := storeOp { size := 4, direct := true } o s

/-! ## Flush, invalidate and race declarations (R136, R137, R158, R303, R304) -/

/-- The ranges the active lanes name (R303): start and length, cut off at 2^52 in global space. -/
def Iss.ranges (i : Iss) (a b : Nat) (off : Word) : List (Nat × Nat) :=
  (i.eas a off).filterMap fun e =>
    let n := (i.val b e.1).toNat
    if n == 0 then none else some (e.2, n)

/-- The device place that a space's addresses name (R13): vault, local memory, host window. -/
def spacePlace (space : Nat) : Nat := [0, 1, 4, 2].getD space 0

/-- Whether a FLUSH waits for an earlier operation of its threads: in global space for its reads and writes of bytes of the ranges, elsewhere
for its writes to the space, arrival operations among them (R89, R136). A ring operation's accesses are another agent's (R97). -/
def OpKind.flushed (k : OpKind) (space : Nat) (rs : List (Nat × Nat)) : Bool :=
  let on := fun (refs : List BRef) => refs.any fun r =>
    if space == 0 then placeOf r.key != 4 && inRanges rs r.va else placeOf r.key == spacePlace space
  match k with
  | .load accs .. => space == 0 && accs.any fun a => !a.done && on a.refs
  | .store _ accs => accs.any fun a => !a.done && on a.refs
  | .atomic _ _ _ _ ls _ _ => ls.any fun a => !a.done && on a.refs
  | .arrival .. => space == 2
  | .version _ _ va _ _ _ state _ _ => space == 0 && decide (state < 2) && (List.range 32).any fun n => inRanges rs (va + n)
  | _ => false

/-- FLUSH (R136, R303): it completes when the bytes of its ranges that stand in the store queue and the CMB have
drained and the threads' earlier writes at their executing places have been applied; in global space what its earlier loads have
observed counts too (R89). -/
def execFlush (o : OpSt) (s : State) : Out :=
  issue s o.g { reads := [o.a.toNat, o.b.toNat] , values := true } fun i w =>
    (i.ready w).bind fun w => (i.room w 2 1).bind fun w =>
      let rs := i.ranges o.a.toNat o.b.toNat (sext o.off)
      let ops := (w.d.ops.filter fun x => x.crew == i.cu.crew && !x.done && x.lanes &&& i.act != 0 && x.kind.flushed o.space.toNat rs).map (·.id)
      let q := o.space == 0 && (w.d.core i.c.place.tower i.c.place.core).sq.any fun e => e.inRange rs
      if rs.isEmpty || i.nothingOwed w ops q (o.space == 0) rs then .ok (i.newOp w 2 .flush [] 0 true).2
      else
        let (id, w) := i.newOp w 2 .flush [] 0
        .ok (i.beginFence w .flush 0 ops (o.space == 0) (o.space == 0) rs none (some id)).2

/-- INVAL (R137, R303): the lines of the core's L1 that were named by a byte of the ranges are dropped. -/
def execInval (o : OpSt) (s : State) : Out :=
  issue s o.g { reads := [o.a.toNat, o.b.toNat] , values := true } fun i w =>
    (i.ready w).bind fun w => (i.room w 2 1).bind fun w =>
      let rs := i.ranges o.a.toNat o.b.toNat (sext o.off)
      let hit := fun (vas : List Nat) => vas.any fun v => rs.any fun r => decide (r.1 < v + 256) && decide (v < r.1 + r.2)
      let w := (i.newOp w 2 .instant [] 0 true).2
      let t := i.c.place.tower
      let k := i.c.place.core
      let core := w.d.core t k
      let ten := fun (g : Tag) => match w.d.who (i.crew w) with
        | none => false
        | some q => match q.x.ranges.find? fun r => r.2.2.1 == g.tensor with
          | some (_, _, _, v) => ((Desc.ofNat v).segments g).any fun s => rs.any fun r => decide (r.1 < s + (Desc.ofNat v).tileW) && decide (s < r.1 + r.2)
          | none => false
      let tags := (core.l1.filter fun l => hit l.vas || ten l.tag).map (·.tag) ++ (core.fills.filter fun f => hit f.vas || ten f.tag).map (·.tag)
      .ok (if o.space == 0 then w.dropL1 t k tags else w)

/-- RDET (R158, R304): the declaration table of the context, most recently used first, and the crew's peers. -/
def execRdet (o : OpAd) (s : State) : Out :=
  issue s o.g { reads := [o.a.toNat] , values := true } fun i w =>
    (i.ready w).bind fun w =>
      match w.d.who (i.crew w) with
      | none => .ok w
      | some q =>
        if q.x.raceMode == 0 then .ok w
        else
          let addr := i.val o.a.toNat i.l0 + sext o.off
          if o.order == 2 then
            .ok (w.mod fun d => d.modCtx q.x.ctxid fun x =>
              { x with decls := ((addr, i.c.place.gid) :: x.decls.filter fun e => e.1 != addr).take 64 })
          else
            match q.x.decls.find? fun e => e.1 == addr with
            | none => .ok w
            | some e =>
              let w := w.mod fun d => d.modCtx q.x.ctxid fun x => { x with decls := e :: x.decls.filter fun y => y.1 != addr }
              .ok (i.mod w fun c =>
                let ps := c.ep.peers ++ [e.2]
                { c with ep := { c.ep with peers := ps.drop (ps.length - 4) } })

end Sys2Proof.Machine
end

