-- ==== Sys2Proof/Machine/Hier.lean ====
section
/-! DEFINITION. Hier: completion and retirement of operations and fences (R99, R115, R297), and the steps of the
memory hierarchy: walks, fills, the cluster merge buffers, home slices, gateway caches and the executing places
(01_address_spaces.md R30, 02_memory_hierarchy.md, 03_consistency_model.md R86). -/

namespace Sys2Proof.Machine

/-! ## Retirement (R115, R207, R223) -/

/-- The ENGINE of an operation's floating-point exception (R405). -/
def OpKind.engine (k : OpKind) (o : Op) : Engine :=
  match k with
  | .matrix => .matrix
  | .sampler => if o.cls == 5 then .slip else .issue
  | _ => .issue

/-- The operations that retire now, in order: complete, with no older one of their crew and class left (R115). -/
def retiring : List Op → List (Nat × Nat) → List Op
  | [], _ => []
  | o :: r, held =>
    if o.done && !held.contains (o.crew, o.cls) then o :: retiring r held
    else retiring r ((o.crew, o.cls) :: held)

/-- A fault of an operation taken: one of a pair's product names the other end, and the other end's engine records the pair too (R341,
R404). -/
def Work.raisePaired (w : Work) (o : Option Op) (f : FaultInfo) : Work :=
  match o.bind (·.partner) with
  | none => w.raise f
  | some (crew, iaddr, lns) =>
    match w.d.crew crew with
    | none => w.raise f
    | some c => w.raiseAll [{ f with peer := c.place.gid },
        { reason := .none, engine := .matrix, tower := c.place.tower, unit := c.place.core, crew := c.place.gid, peer := f.crew, iaddr := iaddr, lanes := lns,
          isFault := false }]

/-- One operation retired: its counter falls by one, its flags are ORed in, and an enabled flag of a matrix or sampler
operation faults (R115, R146, R223). -/
def Work.retire (w : Work) (o : Op) : Work :=
  let w := w.mod fun d => { d with ops := d.ops.filter fun x => x.id != o.id }
  match w.d.crew o.crew with
  | none => w
  | some c =>
    let w := w.mod fun d => d.modCrew o.crew fun c => (c.modCount o.cls (· - 1)).orFlags o.flags
    let en := Flags.trapped o.flags (w.d.cmr c)
    let traps := match o.kind with
      | .atomic .. => false
      | _ => true
    if en == 0 || !traps then w
    else w.raisePaired (some o) { c.fault .floatException o.iaddr o.lanes with engine := o.kind.engine o, detail := en.toNat }

/-- Every operation that can retire retired. -/
def Work.retires (w : Work) : Work := (retiring w.d.ops []).foldl (fun w o => w.retire o) w

/-- Whether an operation waits for a fence or operations before it is sent (R147). -/
def Dev.gated (d : Dev) (o : Op) : Bool :=
  o.after.any fun id => d.ops.any (fun x => x.id == id && !x.done) || d.fences.any fun f => f.id == id

/-- An operation's accesses sent at a number, those whose bytes meet a test. -/
def OpKind.stamp (k : OpKind) (on : List BRef → Bool) (n : Nat) : OpKind :=
  let acc := fun (a : LaneAcc) => if on a.refs then { a with sent := n } else a
  match k with
  | .load _ _ _ false true _ _ => k
  | .load accs f r l1 cmb h q => .load (accs.map acc) f r l1 cmb h q
  | .store left accs => .store left (accs.map acc)
  | .atomic m y c r ls g q => .atomic m y c r (ls.map fun a => if on a.refs then { a with sent := n } else a) g q
  | .ring o r ls sc => .ring o r (ls.map fun a => if on a.refs then { a with sent := n } else a) sc
  | .version o key va arg r p state since buf => .version o key va arg r p state (if state == 0 && on (cellRefs key) then n else since) buf
  | x => x

/-- The acquire a complete fence makes for its core (R91, R95). -/
def Work.fenceDone (w : Work) (f : FenceRec) : Work :=
  let w := match f.acquire with
    | some s => w.acquire f.tower f.core s
    | none => w
  let w := match f.op with
    | some o => w.opDone o
    | none => w
  let kept := fun (x : FenceRec) => if x.id == f.id then { x with done := true } else x
  w.mod fun d => { d with fences := if f.retry then d.fences.map kept else d.fences.filter fun x => x.id != f.id }

/-- Fences whose operations are complete name what these have observed (R90, R95). -/
def Work.fencesAgain (w : Work) : Work :=
  (w.d.fences.filter fun f => f.again && !f.marker && f.opsDone w.d).foldl
    (fun w f => (w.mod fun d => d.modFence f.id fun x => { x with again := false }).nameFence f) w

/-- Fences, releases and flushes that wait for nothing more completed. -/
def Work.fencesDone (w : Work) : Work :=
  let w := w.fencesAgain
  (w.d.fences.filter fun f => !f.done && f.over w.d).foldl (fun w f => w.fenceDone f) w

/-- Operations that waited for a release or an acquire that is now over, sent (R62, R90, R91). -/
def Work.ungate (w : Work) : Work :=
  if w.d.ops.all fun o => o.after.isEmpty || w.d.gated o then w
  else
    let (id, w) := w.newId
    w.mod fun d => { d with ops := d.ops.map fun o =>
      if o.after.isEmpty || d.gated o then o else { o with after := [], kind := o.kind.stamp (fun _ => true) id } }

/-- What follows from an operation's completion: fences that waited for it and operations behind them, then retirements. -/
def Work.settle (w : Work) : Work := w.fencesDone.ungate.retires

/-! ## Walks (R21, R28, R30) -/

/-- A walk taken out of its tower, the next waiting one begun (R30). -/
def Dev.endWalk (d : Dev) (t id : Nat) : Dev :=
  d.modTower t fun z =>
    let rest := z.walks.filter fun x => x.id != id
    { z with walks := rest ++ z.waitingWalks.take (walkSlots - rest.length), waitingWalks := z.waitingWalks.drop (walkSlots - rest.length) }

/-- The crews of a tower that wait for a walk told why it failed (R28, R33). -/
def Dev.failWalk (d : Dev) (x : Walk) (why : Nat) : Dev :=
  { d with crews := d.crews.map fun (c : Crew) =>
      if c.waits.any fun y => y.cond == .walk x.id then { c with walkFails := c.walkFails ++ [(x.vpn, why)] } else c }

/-- The prefix of a page's address that names a walk-cache entry of a level. -/
def walkPrefix (level vpn : Nat) : Nat := vpn / 2 ^ (27 - 9 * level)

/-- The keys of the bytes of a registered tensor's tile, in the context that runs on a tower (R36). -/
def Work.tileKeys (w : Work) (t : Nat) (tag : Tag) : List Nat :=
  match w.d.part t, w.d.ctxOf t with
  | some p, some x =>
    match x.ranges.find? fun r => r.2.2.1 == tag.tensor with
    | some (_, _, _, v) => (List.range 256).filterMap fun pos => ((Desc.ofNat v).addrOf tag pos).bind fun va =>
        match w.walkNow p va 4 0 x.root with
        | .ok e => some (({ leaf := e.1, off := pageBits e.2 } : Xlat).pa va)
        | .error _ => none
    | none => []
  | _, _ => []

/-- The location that an uncorrectable error at a byte stands in, by the keys of its bytes, which must be overwritten whole to clear
it: a tensor's home line, a 256 B block of other HBM, an 8 B word of a vault or local memory; a write of the home line of a tile that no
slice holds clears the tile's part of a block (`Dev.mended`). The rule names no unit for the host window: the model takes the 8 B word there
too (R76; assumption 61). -/
def Work.spot (w : Work) (key : Nat) : List Nat :=
  if key < 2 ^ 39 then
    match (w.d.homes.filter fun h => h.tag.tensor != 0).findSome? fun h =>
        let ks := w.tileKeys h.home h.tag
        if ks.contains key then some ks else none with
    | some ks => ks
    | none => (List.range 256).map (key / 256 * 256 + ·)
  else (List.range 8).map (key / 8 * 8 + ·)

/-- A count of telemetry raised, saturating (R73). -/
def bumpCell (c : Cells) (i : Nat) : Cells := putA c i (Nat.min (getA c i 0 + 1) (2 ^ 32 - 1))

/-- A corrected soft error counted (R73): structure and tower. -/
def Dev.softened (d : Dev) (structureCode t : Nat) : Dev :=
  { d with tele := { d.tele with soft := bumpCell d.tele.soft (t * 16 + structureCode) } }

/-- A recovered error counted (R74): structure and tower. -/
def Dev.recovered (d : Dev) (structureCode t : Nat) : Dev :=
  { d with tele := { d.tele with recovered := bumpCell d.tele.recovered (t * 16 + structureCode) } }

/-- The place of a key as a stop record names it (R405): engine, tower, unit, address form and address. -/
def placeFault (key : Nat) (tag : Tag) (t k : Nat) : FaultInfo :=
  let f : FaultInfo := { reason := .uncorrectable, tower := t }
  match placeOf key with
  | 0 => { f with engine := .slice, tower := key / 2 ^ 36 % 8, unit := homeSlice tag, aform := 2, addr := physForm key }
  | 1 => { f with engine := .vault, tower := bits 31 29 key, unit := bits 28 23 key, aform := 5, addr := BitVec.ofNat 64 (key % 2 ^ 32) }
  | 2 => { f with engine := .hostWindow, aform := 6, addr := BitVec.ofNat 64 (key % 2 ^ 20) }
  | 3 => { f with engine := .slice, aform := 2, addr := physForm key }
  | _ => { f with engine := .issue, unit := k, aform := 3, addr := BitVec.ofNat 64 ((key - localBase) % 2 ^ 18) }

/-! ## Home slices and gateway caches (R59 to R65) -/

/-- Ways of a set of a home slice and of a gateway cache, and how many of them may be protected (R48, R59, R64). -/
def homeWays : Nat := 16
/-- See `homeWays`. -/
def homeKeeps : Nat := 8

/-- Sets of a home slice and of a gateway cache (R3, R64). -/
def sliceSets : Nat := 512
/-- See `sliceSets`. -/
def gatewaySets : Nat := 1024

/-- Whether two lines share a set, of so many sets. -/
def sameSet (n : Nat) (a b : Tag) : Bool := Config.cacheSet a.tensor a.row a.col % n == Config.cacheSet b.tensor b.row b.col % n

/-- The home tower and slice of a line a core of a tower asks for (R39, R40). -/
def Work.homeOf (w : Work) (t k : Nat) (tag : Tag) (key : Nat) : Nat × Nat :=
  match w.d.part t, w.d.ctxOf t with
  | some p, some x =>
    let first := match x.ranges.find? fun r => r.2.2.1 == tag.tensor with
      | some (_, _, _, v) =>
        match (Desc.ofNat v).segments tag with
        | va :: _ => match w.xlatNow p x t k va with
          | .ok y => (bits 62 60 y.leaf, y.pa va)
          | .error _ => (key / 2 ^ 36 % 8, key)
        | [] => (key / 2 ^ 36 % 8, key)
      | none => (key / 2 ^ 36 % 8, key)
    (homeTower p x tag first.1 first.2, homeSlice tag)
  | _, _ => (key / 2 ^ 36 % 8, homeSlice tag)

/-- Whether two towers belong to one partition. -/
def Dev.samePart (d : Dev) (a b : Nat) : Bool := a == b || d.parts.any fun p => p.towers.contains a && p.towers.contains b

/-- The directory of a line of a tower's partition that is present in its home slice. -/
def Dev.home (d : Dev) (t : Nat) (tag : Tag) : Option HomeLine := d.homes.find? fun h => h.tag == tag && d.samePart h.home t

/-- The directory of a line changed. -/
def Dev.modHome (d : Dev) (t : Nat) (tag : Tag) (f : HomeLine → HomeLine) : Dev :=
  { d with homes := d.homes.map fun h => if h.tag == tag && d.samePart h.home t then f h else h }

/-- Whether the directory of its home line names a copy. -/
def Dev.copyHeld (d : Dev) (c : CopyLine) : Bool :=
  match d.home c.tower c.tag with
  | some h => if c.gateway then h.gateways.contains (c.tower, c.at_) else h.sectors.contains c.at_
  | none => false

/-- A copy taken out of the directory of its home line. -/
def Dev.unlist (d : Dev) (c : CopyLine) : Dev :=
  d.modHome c.tower c.tag fun h =>
    if c.gateway then { h with gateways := h.gateways.filter fun g => g != (c.tower, c.at_) }
    else { h with sectors := h.sectors.filter fun x => x != c.at_ }

/-- A line that takes a way of a slice or gateway cache. -/
inductive Way where
  | home (h : HomeLine)
  | copy (c : CopyLine)

/-- When a way was last used. -/
def Way.used : Way → Nat
  | .home h => h.used
  | .copy c => c.used

/-- Whether a way is protected (R48). -/
def Way.kept : Way → Bool
  | .home h => h.keep.isSome
  | .copy c => c.keep.isSome

/-- The ways in use of a line's set in a slice of a tower: home lines, and copies of lines of its other sectors (R59). -/
def Dev.sliceWays (d : Dev) (t slice : Nat) (tag : Tag) : List Way :=
  ((d.homes.filter fun h => h.home == t && h.slice == slice && sameSet sliceSets h.tag tag).map .home)
    ++ (d.copies.filter fun c => !c.gateway && c.tower == t && 16 * c.at_ + homeSlice c.tag % 16 == slice && sameSet sliceSets c.tag tag
        && d.copyHeld c).map .copy

/-- The ways in use of a line's set in the gateway cache of a port (R64). -/
def Dev.gatewayWays (d : Dev) (t port : Nat) (tag : Tag) : List Way :=
  (d.copies.filter fun c => c.gateway && c.tower == t && c.at_ == port && sameSet gatewaySets c.tag tag && d.copyHeld c).map .copy

/-- A way freed in a full set: the least recently used one, unprotected ones first; the copies of a home line go with it (R48, R60). -/
def Dev.freeWay (d : Dev) (ways : List Way) : Dev :=
  if ways.length < homeWays then d
  else
    match sortOn Way.used (ways.filter fun x => !x.kept) ++ sortOn Way.used ways with
    | .home h :: _ => { d with homes := d.homes.filter fun x => x != h }
    | .copy c :: _ => { (d.unlist c) with copies := d.copies.filter fun x => x != c }
    | [] => d

/-- The grid that protects a line allocated by a hint, where the set takes another protected line (R48). -/
def keptBy (ways : List Way) (hint grid : Nat) : Option Nat :=
  if hint == 2 && decide ((ways.filter Way.kept).length < homeKeeps) then some grid else none

/-- A line used in its home slice: allocated where it is absent, at the position of the hint (R48, R59). -/
def Work.homeUse (w : Work) (tag : Tag) (home slice hint grid : Nat) : Work :=
  let (id, w) := w.newId
  match w.d.home home tag with
  | some _ => w.mod fun d => d.modHome home tag fun h => { h with used := id }
  | none =>
    let ways := w.d.sliceWays home slice tag
    let h : HomeLine := { tag := tag, home := home, slice := slice, keep := keptBy ways hint grid, used := if hint == 1 then 0 else id }
    w.mod fun d => { (d.freeWay ways) with homes := (d.freeWay ways).homes ++ [h] }

/-- A copy of a home line used: allocated where it is not held, and named by the directory (R48, R59, R60, R64). -/
def Work.copyUse (w : Work) (c : CopyLine) (hint grid : Nat) : Work :=
  let (id, w) := w.newId
  let same := fun (x : CopyLine) => x.tag == c.tag && x.tower == c.tower && x.gateway == c.gateway && x.at_ == c.at_
  if w.d.copyHeld c then w.mod fun d => { d with copies := d.copies.map fun x => if same x then { x with used := id } else x }
  else
    let w := w.mod fun d => { d with copies := d.copies.filter fun x => d.copyHeld x }
    let ways := if c.gateway then w.d.gatewayWays c.tower c.at_ c.tag else w.d.sliceWays c.tower (16 * c.at_ + homeSlice c.tag % 16) c.tag
    let c := { c with keep := keptBy ways hint grid, used := if hint == 1 then 0 else id }
    w.mod fun d =>
      let d := d.freeWay ways
      ({ d with copies := d.copies ++ [c] } : Dev).modHome c.tower c.tag fun h =>
        if c.gateway then { h with gateways := h.gateways ++ [(c.tower, c.at_)] } else { h with sectors := h.sectors ++ [c.at_] }

/-- Every copy of the lines of some bytes gone (R60, R61). -/
def Dev.dropCopies (d : Dev) (refs : List BRef) : Dev :=
  { d with homes := d.homes.map fun h =>
      if refs.any fun r => decide (r.key < 2 ^ 39) && r.tag == h.tag && d.samePart h.home (r.key / 2 ^ 36) then { h with sectors := [], gateways := [] }
      else h }

/-- Whether a write of some bytes covers the whole line of one of them, a registered tensor's (R36, R76). -/
def Dev.wholeLine (d : Dev) (refs : List BRef) (r : BRef) : Bool :=
  match (d.ctxOf (r.key / 2 ^ 36 % 8)).bind fun x => x.ranges.find? fun e => e.2.2.1 == r.tag.tensor with
  | some (_, _, _, v) => decide (r.key < 2 ^ 39) && (List.range 256).all fun pos =>
      ((Desc.ofNat v).addrOf r.tag pos).isNone || refs.any fun x => x.tag == r.tag && x.pos == pos
  | none => false

/-- The errors that stand after a write: gone from a location it covers whole, and from the bytes of a line it covers whole (R76). -/
def Dev.mended (d : Dev) (refs : List BRef) : List (List Nat) :=
  let left := d.bad.filter fun s => !s.all fun k => refs.any fun r => r.key == k
  (left.map fun s => s.filter fun k => !refs.any fun r => r.key == k && d.wholeLine refs r).filter fun s => !s.isEmpty

/-- Bytes applied at their executing place: copies of their lines are gone, and an error standing in a location that is
overwritten whole is cleared (R60, R76). -/
def Work.apply (w : Work) (bs : List (BRef × Byte)) : Work :=
  let w := w.putAt (bs.map fun b => (b.1.key, b.2))
  let w := if w.d.homes.isEmpty then w else w.mod fun d => d.dropCopies (bs.map (·.1))
  if w.d.bad.isEmpty then w else w.mod fun d => { d with bad := d.mended (bs.map (·.1)) }

/-- The first byte of an access that meets an uncorrectable error; a write meets none in a location it overwrites whole
(R75, R76). -/
def Dev.meetsBad (d : Dev) (write : Bool) (refs : List BRef) : Option BRef :=
  if d.bad.isEmpty then none
  else refs.find? fun r => d.bad.any fun s => s.contains r.key && !(write && (d.wholeLine refs r || s.all fun k => refs.any fun x => x.key == k))

/-- The port at which the route from a tower to another leaves it (R63): 0 north, 1 east, 2 south, 3 west. -/
def firstPort (a b : Nat) : Nat :=
  if a % 4 < b % 4 then 1 else if b % 4 < a % 4 then 3 else if b < a then 0 else 2

/-- The first bytes of the lines a list of references touches. -/
def lineHeads (refs : List BRef) : List BRef :=
  (distinct (refs.map (·.tag))).filterMap fun g => refs.find? fun r => r.tag == g

/-- A message logged by the checkpointed towers it leaves or enters (R420). -/
def Dev.logMessage (d : Dev) (src dst addr size : Nat) : Dev :=
  let log := fun (c : Checkpoint) =>
    if c.taken && src != dst && (c.tower == src || c.tower == dst) then
      { c with log := c.log ++ [{ out := c.tower == src, peer := if c.tower == src then dst else src, addr := addr, size := size }], used := c.used + size }
    else c
  { d with checkpoints := d.checkpoints.map log }

/-- The tower of the executing place of a byte, as an agent of a core reaches it; 8 is the I/O die. -/
def Work.placeTower (w : Work) (t k : Nat) (r : BRef) : Nat :=
  match placeOf r.key with
  | 0 => (w.homeOf t k r.tag r.key).1
  | 1 => bits 31 29 r.key
  | 2 => 8
  | _ => t

/-- The messages of an access from `src` to the lines it names, and of its responses, logged (R420). -/
def Work.logAccess (w : Work) (src t k : Nat) (refs : List BRef) : Work :=
  if w.d.checkpoints.isEmpty then w
  else (lineHeads refs).foldl (fun w r =>
    let dst := w.placeTower t k r
    let n := (refs.filter fun x => x.tag == r.tag).length
    w.mod fun d => (d.logMessage src dst r.key n).logMessage dst src r.key n) w

/-- What an access at its executing place does to the lines of HBM it touches beside its bytes: a line of KIND 0 or 2 is allocated in its
home slice, unless a load of hint 3 misses there, and the copy in the gateway cache that the access passes is invalidated (R25, R48, R59,
R64). -/
def Work.touch (w : Work) (t k hint grid : Nat) (refs : List BRef) (load : Bool := false) : Work :=
  let w := w.logAccess t t k refs
  (lineHeads (refs.filter fun r => decide (r.key < 2 ^ 39))).foldl (fun w r =>
    let (home, slice) := w.homeOf t k r.tag r.key
    let w := if r.alloc && !(load && hint == 3 && (w.d.home t r.tag).isNone) then w.homeUse r.tag home slice hint grid else w
    if home == t || w.d.homes.isEmpty then w
    else w.mod fun d => d.unlist { tag := r.tag, tower := t, gateway := true, at_ := firstPort t home }) w

/-- Bytes written at their executing places by an agent of a tower that is no core (R59, R60). -/
def Work.agentWrite (w : Work) (t : Nat) (refs : List BRef) (bytes : List Byte) : Work := (w.touch t 0 0 0 refs).apply (refs.zip bytes)

/-! ## The order of messages (R62, R63, R66; assumption 42) -/

/-- The path from a core to the executing place of a byte, by its two ends, where messages along it arrive in the order sent: from tower to
tower, between two stops of a ring, or from a core to a vault. -/
def Work.path (w : Work) (t k : Nat) (r : BRef) : Option (Nat × Nat) :=
  let stop := 3 * t + sectorOf k
  let tower := 4096 + t
  match placeOf r.key with
  | 0 =>
    let (home, slice) := w.homeOf t k r.tag r.key
    if home != t then some (tower, 64 * home + slice) else if slice / 16 != sectorOf k then some (stop, 64 * home + slice) else none
  | 1 => some (if bits 31 29 r.key != t then tower else 8192 + coreKey t k, 1024 + r.key % 2 ^ 32 / 2 ^ 23)
  | 2 => some (if t % 4 != 0 then tower else stop, 2048)
  | _ => none

/-- The copy of a line that a load of a core makes on its way: in the gateway cache at the first port toward another tower, or in a slice
of the core's sector where the home lies in another (R59, R64). -/
def copyFor (t k home slice : Nat) (tag : Tag) : Option CopyLine :=
  if home != t then some { tag := tag, tower := t, gateway := true, at_ := firstPort t home }
  else if slice / 16 != sectorOf k then some { tag := tag, tower := t, gateway := false, at_ := sectorOf k } else none

/-- The first bytes of the lines of which a core's store queue and cluster do not hold every byte named: what an LDAQ reads below (R293). -/
def Work.farHeads (w : Work) (t k : Nat) (refs : List BRef) : List BRef :=
  lineHeads (refs.filter fun r => r.cached && ((w.d.core t k).sqByte r.tag r.pos).isNone && ((w.d.cluster t (clusterOf k)).byte r.tag r.pos).isNone)

/-- Those of the lines that no copy on the way holds, so that the request goes to the home. -/
def Work.homeHeads (w : Work) (t k : Nat) (refs : List BRef) : List BRef :=
  (w.farHeads t k refs).filter fun r =>
    let (home, slice) := w.homeOf t k r.tag r.key
    !((copyFor t k home slice r.tag).map w.d.copyHeld).getD false

/-- The messages of an operation that have not arrived: a byte of each line of each lane, and when it was sent. -/
def OpKind.messages (k : OpKind) (id : Nat) : List (BRef × Nat) :=
  match k with
  | .load accs _ _ l1 cmb _ _ => (accs.filter fun a => !a.done).flatMap fun a =>
      (lineHeads (a.refs.filter fun r => !(r.cached && (l1 || cmb)))).map fun r => (r, Nat.max id a.sent)
  | .store _ accs => (accs.filter fun a => !a.done).flatMap fun a => (lineHeads a.refs).map fun r => (r, Nat.max id a.sent)
  | .atomic _ _ _ _ ls _ _ => (ls.filter fun a => !a.done && !a.accepted && !a.returned).flatMap fun a =>
      (lineHeads a.refs).map fun r => (r, Nat.max id a.sent)
  | .ring _ _ ls _ => (ls.filter fun a => a.state == 0).flatMap fun a => (lineHeads a.refs).map fun r => (r, Nat.max id a.sent)
  | .version _ key _ _ _ _ state since _ => if state == 0 then (lineHeads (cellRefs key)).map fun r => (r, Nat.max id since) else []
  | _ => []

/-- Whether older stores to the lines of an access still stand between the core and their home: in its store queue or
dirty in its CMB (R51, R57, R293). -/
def Dev.linesPending (d : Dev) (c : Crew) (refs : List BRef) : Bool :=
  refs.any fun r => decide (r.key < 2 ^ 39) &&
    ((d.core c.place.tower c.place.core).sq.any (fun e => e.onLine r.tag)
      || ((d.cluster c.place.tower (clusterOf c.place.core)).line r.tag).isSome)

/-- A byte of the line a fill asks its home for. -/
def Fill.head (f : Fill) : BRef := { key := (f.refs.head?.map (·.2)).getD 0, tag := f.tag }

/-- The messages on their way, each with its path and when it was sent: accesses, requests for a line, and drains. -/
def Work.messages (w : Work) : List ((Nat × Nat) × Nat) :=
  let ops := w.d.ops.flatMap fun o => if o.done || w.d.gated o then [] else match w.d.crew o.crew with
    | none => []
    | some c =>
      let t := c.place.tower
      let k := c.place.core
      let aq := match o.kind with
        | .load accs _ _ false true _ _ => (w.homeHeads t k ((accs.filter fun a => !a.done).flatMap (·.refs))).map fun r => (r, o.id)
        | _ => []
      (aq ++ (o.kind.messages o.id).filter fun m => !w.d.linesPending c [m.1]).filterMap fun m => (w.path t k m.1).map fun p => (p, m.2)
  let fills := w.d.cores.flatMap fun e => e.2.fills.filterMap fun f =>
    let t := e.1 / 48
    let k := e.1 % 48
    let sent := if (w.homeOf t k f.tag f.head.key).1 == t then
        f.state == .requested && !w.d.copyHeld { tag := f.tag, tower := t, gateway := false, at_ := sectorOf k }
      else f.state == .atGateway
    if sent then (w.path t k f.head).map fun p => (p, f.sent) else none
  let drains := w.d.clusters.flatMap fun e => e.2.cmb.filterMap fun l =>
    if l.draining && !l.arrived then
      (l.dirty.head?).bind fun b => (w.path (e.1 / 12) (4 * (e.1 % 12)) b.1).map fun p => (p, l.sent)
    else none
  ops ++ fills ++ drains

/-- Whether a message of a core that was sent at a number would overtake an older one on its path. -/
def Work.overtakes (w : Work) (t k sent : Nat) (refs : List BRef) : Bool :=
  (lineHeads refs).any fun r => match w.path t k r with
    | none => false
    | some p => w.messages.any fun m => m.1 == p && decide (m.2 < sent)

/-- Whether a request made and answered in one step would overtake a message on its path: an engine's, which is never on its way between
steps. -/
def Work.passes (w : Work) (t k : Nat) (refs : List BRef) : Bool := w.overtakes t k w.d.nextId refs

/-- WALK_NODE_READ (R21, R28, R30): a walk takes its next node from a walk cache or reads one entry at its home slice.
`err` says that the walk-cache entry is found uncorrectable and is dropped (R74). A walk that meets an uncorrectable node
faults and is over: the crews that wait for it issue again and ask anew. -/
def execWalkNodeRead (t id : Nat) (err : Bool) (s : State) : Out :=
  event s fun w =>
    match (w.d.tower t).walks.find? fun x => x.id == id, w.d.part t with
    | some x, some p =>
      if w.d.shot x.ctx (x.vpn * 2 ^ 16) then none
      else
        let step := fun (f : Walk → Walk) (d : Dev) =>
          d.modTower t fun z => { z with walks := z.walks.map fun y => if y.id == id then f y else y }
        let hit := (w.d.tower t).walkCache.find? fun e => e.ctx == x.ctx && e.level == x.level && e.index == walkPrefix x.level x.vpn
        match hit with
        | some e =>
          if err then
            some (w.mod fun d => (d.recovered 9 t).modTower t fun z => { z with walkCache := z.walkCache.filter fun y => y != e })
          else some (w.mod (step fun y => { y with level := y.level + 1, node := e.node }))
        | none =>
          let at8 := x.node + 8 * levelIndex x.level (x.vpn * 2 ^ 16)
          let w := if p.hbm x.node then w.touch t 0 0 0 [{ key := at8, tag := flatTag at8, alloc := true }] else w
          if p.hbm x.node && w.d.isBad at8 then some ((w.mod fun d => d.endWalk t id).raise (placeFault at8 (flatTag at8) t 0))
          else
            match w.walkStep p x.level x.node (x.vpn * 2 ^ 16) with
            | .node pa =>
              let e : WalkCacheEntry := { ctx := x.ctx, level := x.level, index := walkPrefix x.level x.vpn, node := pa }
              some (w.mod fun d => (step (fun y => { y with level := y.level + 1, node := pa }) d).modTower t fun z =>
                { z with walkCache := e :: z.walkCache })
            | .leaf v =>
              let e : TlbEntry := { ctx := x.ctx, vpn := x.vpn * 2 ^ 16 / 2 ^ pageBits x.level, level := x.level, leaf := BitVec.ofNat 64 v }
              some (w.mod fun d => x.cores.foldl (fun d k => d.tlbFill t k e) (d.endWalk t id))
            | .fail why => some (w.mod fun d => (d.failWalk x why).endWalk t id)
    | _, _ => none

/-- The fault of an uncorrectable error met by an operation at its place (R75). -/
def Work.raiseAt (w : Work) (o : Op) (key : Nat) (tag : Tag) (lns : Mask) : Work :=
  match w.d.crew o.crew with
  | none => w
  | some c => w.raise { placeFault key tag c.place.tower c.place.core with crew := c.place.gid, iaddr := o.iaddr, lanes := lns }

/-- An operation ended by an error: its entries of the outbox are free, and what it has not performed it does not perform (R75, R147,
R288). -/
def Work.endFailed (w : Work) (o : Op) : Work :=
  match w.d.crew o.crew with
  | none => w.opDone o.id
  | some c => (w.mod fun d => d.modCore c.place.tower c.place.core fun k => { k with outbox := k.outbox.filter fun e => e.1 != o.id }).opDone o.id

/-- An uncorrectable error met by an operation at its place (R75): the operation ends having performed nothing more, and
the fault names its instruction. -/
def Work.opError (w : Work) (o : Op) (key : Nat) (tag : Tag) (lns : Mask) : Work := (w.endFailed o).raiseAt o key tag lns

/-- An uncorrectable error of a merge buffer's line met by a load (R75). -/
def Work.opLineError (w : Work) (o : Op) (t cl : Nat) (l : CmbLine) : Work :=
  match w.d.crew o.crew with
  | none => w.opDone o.id
  | some c => (w.opDone o.id).raise { w.d.badLineFault t cl l .direct with crew := c.place.gid, iaddr := o.iaddr, lanes := o.lanes }

/-- The loads of a core that still need bytes of a line. -/
def Dev.loadsOn (d : Dev) (t k : Nat) (tag : Tag) : List Op :=
  d.ops.filter fun o => !o.done && (match d.crew o.crew, o.kind with
    | some c, .load accs _ _ l1 _ _ _ => c.place.tower == t && c.place.core == k && l1 &&
        accs.any fun a => !a.done && a.refs.any fun r => r.cached && r.tag == tag
    | _, _ => false)

/-- The bytes of a line as a cluster reads them below the L1: dirty bytes of its CMB, then the home's (R56). -/
def Work.lineBytes (w : Work) (t k : Nat) (tag : Tag) (refs : List (Nat × Nat)) : List LineByte :=
  refs.map fun r => (r.1, ((w.d.cluster t (clusterOf k)).byte tag r.1).getD (w.get r.2))

/-- A fill's state changed. -/
def Dev.setFill (d : Dev) (t k : Nat) (tag : Tag) (x : FillState) : Dev :=
  d.modCore t k fun c => { c with fills := c.fills.map fun f => if f.tag == tag then { f with state := x } else f }

/-- A fill dropped. -/
def Dev.dropFill (d : Dev) (t k : Nat) (tag : Tag) : Dev :=
  d.modCore t k fun c => { c with fills := c.fills.filter fun f => f.tag != tag }

/-- A fill that meets an uncorrectable error, of its cluster's merge buffer or of its home, ends with the loads that wait for it (R75). -/
def Work.fillError (w : Work) (t k : Nat) (f : Fill) : Option Work :=
  let gone := fun (w : Work) => (w.mod fun d => d.dropFill t k f.tag).settle
  match (w.d.cluster t (clusterOf k)).line f.tag, f.refs.find? fun r => w.d.isBad r.2 with
  | some l, bad =>
    if l.bad then some (gone ((w.d.loadsOn t k f.tag).foldl (fun w o => w.opLineError o t (clusterOf k) l) w))
    else bad.map fun r => gone ((w.d.loadsOn t k f.tag).foldl (fun w o => w.opError o r.2 f.tag o.lanes) w)
  | none, some r => some (gone ((w.d.loadsOn t k f.tag).foldl (fun w o => w.opError o r.2 f.tag o.lanes) w))
  | none, none => none

/-- What a work does to the lines of slices and gateway caches alone. -/
def Work.inCaches (w : Work) (f : Work → Work) : Work :=
  w.mod fun d => { d with homes := (f w).d.homes, copies := (f w).d.copies, nextId := d.nextId + 2 }

/-- A line read below the CMBs for a core: from the copy on the way where one is held, else from its home slice, which allocates the line
and names the copy that the read makes; with hint 3 nothing is allocated (R48, R59, R60, R64). -/
def Work.lineRead (w : Work) (t k : Nat) (tag : Tag) (hint grid home slice : Nat) : Work :=
  let c := copyFor t k home slice tag
  match c.filter w.d.copyHeld with
  | some c => w.copyUse c hint grid
  | none =>
    if hint == 3 then (if (w.d.home t tag).isSome then w.homeUse tag home slice hint grid else w)
    else
      let w := w.homeUse tag home slice hint grid
      match c with
      | some c => w.copyUse c hint grid
      | none => w

/-- A fill served (R59, R64); one that a PREF of hint 3 asked for brings the line into its home slice alone, as a normal one (R294). -/
def Work.serve (w : Work) (t k : Nat) (f : Fill) (home slice : Nat) : Work :=
  match w.fillError t k f with
  | some w => w
  | none =>
    let w := w.logAccess t t k [f.head]
    let w := if f.homeOnly then w.homeUse f.tag home slice 0 f.grid else w.lineRead t k f.tag f.hint f.grid home slice
    w.mod fun d => d.setFill t k f.tag .served

/-- Whether a write of a line waits at its home for copies to go, so that no new copy is given out (R60). -/
def Dev.writing (d : Dev) (t : Nat) (tag : Tag) : Bool := d.homeWrites.any fun h => h.tag == tag && d.samePart h.tower t && !h.applied

/-- A copy found uncorrectable: it is dropped and the event counted (R74). -/
def Dev.copyLost (d : Dev) (c : CopyLine) : Dev := (d.unlist c).recovered (if c.gateway then 7 else 6) c.tower

/-- SLICE_LOAD_REQUEST (R59): a fill is served at its home slice or a remote-sector copy, or goes to HBM. `err` says
that a remote-sector copy is found uncorrectable: it is dropped and the home is read (R74). -/
def execSliceLoadRequest (t k i : Nat) (err : Bool) (s : State) : Out :=
  event s fun w =>
    match (w.d.core t k).fills[i]? with
    | none => none
    | some f =>
      let (home, slice) := w.homeOf t k f.tag f.head.key
      let ready := if home == t then f.state == .requested else f.state == .atGateway
      let c : CopyLine := { tag := f.tag, tower := t, gateway := false, at_ := sectorOf k }
      if !ready || w.d.writing t f.tag || w.overtakes t k f.sent [f.head] then none
      else
        let w := if err && home == t && w.d.copyHeld c then w.mod fun d => d.copyLost c else w
        match w.d.home t f.tag with
        | some _ => some (w.serve t k f home slice)
        | none => some (w.mod fun d => d.setFill t k f.tag .atHbm)

/-- GATEWAY_LOAD (R64): a fill of a line homed on another tower looks up the gateway cache at the first port of its
route. `err` says that the copy is found uncorrectable and is dropped (R74). -/
def execGatewayLoad (t k i : Nat) (err : Bool) (s : State) : Out :=
  event s fun w =>
    match (w.d.core t k).fills[i]? with
    | none => none
    | some f =>
      let (home, slice) := w.homeOf t k f.tag f.head.key
      if home == t || f.state != .requested then none
      else
        let c : CopyLine := { tag := f.tag, tower := t, gateway := true, at_ := firstPort t home }
        if w.d.copyHeld c && !err && !w.d.writing t f.tag then some (w.serve t k f home slice)
        else
          let w := if err && w.d.copyHeld c then w.mod fun d => d.copyLost c else w
          some (w.mod fun d => d.setFill t k f.tag .atGateway)

/-- HBM_FILL_RETURN (R59, R68): the line enters its home slice and the fill is served. -/
def execHbmFillReturn (t k i : Nat) (s : State) : Out :=
  event s fun w =>
    match (w.d.core t k).fills[i]? with
    | none => none
    | some f =>
      if f.state != .atHbm || w.d.writing t f.tag then none
      else
        let (home, slice) := w.homeOf t k f.tag f.head.key
        some (w.serve t k f home slice)

/-- The loads of a core take the bytes now at hand: of the L1 and store queue, and of a fill that arrives without an
allocation (R48, R49). -/
def Work.bindLoads (w : Work) (t k : Nat) (fill : Option (Tag × List LineByte)) : Work :=
  let core := w.d.core t k
  let byte := fun (r : BRef) =>
    match core.l1Byte r.tag r.pos, fill with
    | some b, _ => some b
    | none, some (tag, bs) => if r.tag == tag then (bs.find? fun b => b.1 == r.pos).map (·.2) else none
    | none, none => none
  let on := fun (r : BRef) => r.cached && (match fill with
    | some (tag, _) => r.tag == tag
    | none => true)
  let bind := fun (d : Dev) (o : Op) =>
    match d.crew o.crew, o.kind with
    | some c, .load accs form reg true cmb hint acq =>
      if c.place.tower == t && c.place.core == k && !o.done then
        { o with kind := .load (accs.map fun a => if a.done then a else a.take on byte) form reg true cmb hint acq }
      else o
    | _, _ => o
  w.mod fun d => { d with ops := d.ops.map (bind d) }

/-- L1_FILL_ARRIVE (R49): a served fill brings the bytes of its line as the cluster reads them below the L1, its dirty bytes before the
home's (R56), and sets those still invalid; where that would tear an aligned 8 B unit the line is evicted first (R80; assumption 39). With
hint 3 it allocates no line (R48), and a PREF's of hint 3 ends at the home slice (R294). Waiting loads take their bytes. -/
def execL1FillArrive (t k i : Nat) (s : State) : Out :=
  event s fun w =>
    match (w.d.core t k).fills[i]? with
    | none => none
    | some f =>
      if f.state != .served then none
      else
        match w.fillError t k f with
        | some w => some w
        | none =>
          let bs := w.lineBytes t k f.tag f.refs
          let w := w.mod fun d => d.modCore t k fun c =>
            let c := { c with fills := c.fills.filter fun x => x.tag != f.tag }
            let tear := !f.homeOnly && c.l1.any fun l => l.tag == f.tag && l.torn bs (c.sqByte f.tag)
            let c := if tear then c.l1Drop fun l => l.tag == f.tag else c
            if f.homeOnly || f.hint == 3 && !c.l1.any (fun l => l.tag == f.tag) then c
            else c.l1Use f.tag f.hint f.grid f.vas fun l => l.fill bs (c.sqByte f.tag)
          some (w.bindLoads t k (some (f.tag, bs)))

/-! ## Responses (R87, R91, R99, R293) -/

/-- The byte an LDAQ takes: its store queue, its cluster's dirty bytes, else the home's (R56, R293). -/
def Work.aqByte (w : Work) (t k : Nat) (r : BRef) : Byte :=
  match (w.d.core t k).sqByte r.tag r.pos with
  | some b => b
  | none => w.nearByte t k r

/-- The lines an LDAQ reads below the CMBs used there (R25, R59, R64). -/
def Work.aqRead (w : Work) (t k grid : Nat) (rs : List BRef) : Work :=
  (w.farHeads t k rs).foldl (fun w r =>
    let (home, slice) := w.homeOf t k r.tag r.key
    w.lineRead t k r.tag 0 grid home slice) w

/-- An LDAQ's lines allocated in the L1 at the most-recently-used position with the bytes of its store queue and below it (R50, R293). -/
def Work.aqAlloc (w : Work) (t k grid : Nat) (q : Who) (rs : List BRef) : Work :=
  (linesOf rs).foldl (fun w l =>
    let bs := w.lineBytes t k l.1 (w.lineRefs q l.1)
    (w.dropL1 t k [l.1]).mod fun d => d.modCore t k fun c => c.l1Use l.1 0 grid l.2 fun x => x.fill bs (c.sqByte l.1)) w

/-- Whether an LDAQ waits: a write of a line it reads below waits at its home for copies to go (R60), or an older message is before its
request (R62, R63). -/
def Work.aqHeld (w : Work) (t k op : Nat) (refs : List BRef) : Bool :=
  (w.farHeads t k refs).any (fun r => w.d.writing t r.tag) || w.overtakes t k op (w.homeHeads t k refs)

/-- LOAD_RESPONSE (R87, R99): a load takes the bytes at hand, and once every lane is bound its registers are written; a
line that has left the L1 is asked for again. `err` says that its L1 lines are found uncorrectable: they are dropped
and fetched again (R74). -/
def execLoadResponse (op : Nat) (err : Bool) (s : State) : Out :=
  event s fun w =>
    match w.d.op op with
    | none => none
    | some o =>
      match w.d.crew o.crew, o.kind with
      | some c, .load accs form reg l1 cmb hint acq =>
        if o.done then none
        else
          let t := c.place.tower
          let k := c.place.core
          let pendingRefs := (accs.filter fun (a : LaneAcc) => !a.done).flatMap fun a => a.refs.filter (·.cached)
          let lost := distinct (pendingRefs.map (·.tag))
          let w := if err && (w.d.core t k).l1.any (fun l => lost.contains l.tag) then (w.dropL1 t k lost).mod fun d => d.recovered 1 t else w
          if l1 then
            let w := w.bindLoads t k none
            match w.d.op op with
            | none => none
            | some o' =>
              match o'.kind with
              | .load accs' .. =>
                let miss := (accs'.filter fun (a : LaneAcc) => !a.done).flatMap fun a => a.refs.filter (·.cached)
                let w := match w.d.who c with
                  | some q => w.askFills q hint (w.d.gridId c) false (linesOf miss)
                  | none => w
                some ((w.endLoad o').settle)
              | _ => none
          else if cmb then
            if w.aqHeld t k op pendingRefs then none
            else match w.d.meetsBad false pendingRefs, w.d.nearBad t k pendingRefs with
            | _, some l => some (w.opLineError o t (clusterOf k) l).settle
            | some r, none => some (w.opError o r.key r.tag o.lanes).settle
            | none, none =>
              let accs' := accs.map fun (a : LaneAcc) => if a.done then a else a.take (·.cached) fun r => some (w.aqByte t k r)
              let o' := { o with kind := .load accs' form reg l1 cmb hint acq }
              let w := w.setKind op o'.kind
              if !accs'.all (·.done) then some w
              else
                let refs := (accs'.flatMap (·.refs)).filter (·.cached)
                let w := ((w.aqRead t k (w.d.gridId c) pendingRefs).endLoad o').settle
                match w.d.who c with
                | some q => some (w.aqAlloc t k (w.d.gridId c) q refs)
                | none => some w
          else if accs.all (·.done) then some (w.endLoad o).settle else none
      | _, _ => none

/-! ## The executing places (R47, R66, R69, R86) -/

/-- The links of the host-window route of a tower (R63, R405). -/
def hostRoute (t : Nat) : List Nat := (List.range (t % 4)).map fun i => if t < 4 then i else 3 + i

/-- A link of a tower's host-window route that is down (R70). -/
def Dev.hostDown (d : Dev) (t : Nat) : Option Nat :=
  (hostRoute t).find? fun l => (d.links.getD l {}).width == 0

/-- The link of a core's host-window route that is down, for an access of the host window (R70). -/
def Dev.linkFor (d : Dev) (t : Nat) (refs : List BRef) : Option Nat :=
  if refs.any fun r => placeOf r.key == 2 then d.hostDown t else none

/-- An access of a lane that meets a host-window route that is down (R70). -/
def Work.linkError (w : Work) (o : Op) (c : Crew) (link lane : Nat) : Work :=
  (w.endFailed o).raise { c.fault .linkDown o.iaddr (maskOf fun l => l == lane) with engine := .link, unit := link }

/-- The bytes of a lane's access that are accessed in one step: all of them, but of a misaligned access one, in no order that the spec
fixes (R80, R290; assumption 41). -/
def LaneAcc.now (a : LaneAcc) (refs : List BRef) (free : Nat) : List BRef :=
  if a.loose then (refs[Config.byteOrder free % refs.length]?).toList else refs

/-- The lane's part of a load or store that is performed at the executing place, with the places it may be at: once older stores to its
lines have drained, and no older message is still before it on its path. An error ends the whole instruction (R288). -/
def Work.placeAccess (w : Work) (op lane : Nat) (area : Bool) : Option Work :=
  match w.d.op op with
  | none => none
  | some o =>
    match w.d.crew o.crew with
    | none => none
    | some c =>
      let t := c.place.tower
      let k := c.place.core
      let g := w.d.gridId c
      let fits := fun (refs : List BRef) (sent : Nat) => !o.done && !refs.isEmpty && refs.all (fun r => (placeOf r.key == 3) == area)
        && !w.d.linesPending c refs && !w.overtakes t k (Nat.max op sent) refs
      let one := maskOf fun l => l == lane
      match o.kind with
      | .load accs form reg l1 cmb hint acq =>
        match accs.find? fun a => a.lane == lane && !a.done with
        | none => none
        | some a =>
          let far := fun (r : BRef) => !(r.cached && (l1 || cmb))
          let left := (a.refs.mapIdx fun i r => (i, r)).filter fun x => far x.2 && !a.got.any fun y => y.1 == x.1
          let (n, w) := if a.loose then w.freeAt else (0, w)
          let refs := a.now (left.map (·.2)) n
          if !fits (a.refs.filter far) a.sent then none
          else if refs.any (fun r => placeOf r.key == 2) && (w.d.hostDown t).isSome then
            some (w.linkError o c ((w.d.hostDown t).getD 0) lane).settle
          else
            match w.d.meetsBad false refs with
            | some r => some (w.opError o r.key r.tag one).settle
            | none =>
              let w := (w.touch t k a.hint g refs true).dropL1 t k (lineTags (refs.filter (·.cached)))
              some (w.setKind op (.load (accs.map fun x =>
                if x.lane == lane then x.take (fun r => far r && refs.any fun y => y.va == r.va && y.key == r.key) fun r => some (w.get r.key) else x)
                form reg l1 cmb hint acq))
      | .store left accs =>
        match accs.find? fun a => a.lane == lane && !a.done with
        | none => none
        | some a =>
          let lower := accs.any fun (x : LaneAcc) => decide (x.lane < lane) && !x.done && x.refs.any fun r => a.refs.any fun y => y.key == r.key
          let (n, w) := if a.loose then w.freeAt else (0, w)
          let refs := a.now a.refs n
          if !fits a.refs a.sent || lower then none
          else if refs.any (fun r => placeOf r.key == 2) && (w.d.hostDown t).isSome then
            some (w.linkError o c ((w.d.hostDown t).getD 0) lane).settle
          else
            match w.d.meetsBad true refs with
            | some r => some (w.opError o r.key r.tag one).settle
            | none =>
              let part := (a.refs.zip a.data).filter fun b => refs.any fun r => r.key == b.1.key
              let rest := (a.refs.zip a.data).filter fun b => !refs.any fun r => r.key == b.1.key
              let accs' := accs.map fun x => if x.lane != lane then x else
                if a.loose && !rest.isEmpty then { x with refs := rest.map (·.1), data := rest.map (·.2) } else { x with done := true }
              let w := ((w.touch t k a.hint g refs).apply part).dropL1 t k (lineTags refs)
              let w := w.setKind op (.store left accs')
              some (if left == 0 && accs'.all (·.done) then (w.opDone op).settle else w)
      | _ => none

/-! ## Where the engines of a core stop (R241, R356, R368, R401) -/

/-- A generation test (R131). -/
def genReached (gen want : Nat) : Bool := decide ((gen + 2 ^ 32 - want % 2 ^ 32) % 2 ^ 32 < 2 ^ 31)

/-- Whether a matrix operation writes registers, which is done before the halt lets the handler run (R241). -/
def MxKind.writesRegs (k : MxKind) : Bool :=
  match k with
  | .rstat .. => true
  | _ => false

/-- Whether a KSWP. -/
def KilnKind.isSweep (k : KilnKind) : Bool :=
  match k with
  | .sweep .. => true
  | _ => false

/-- Whether every binding holds a snapshot that is recent enough (R353). -/
def Kiln.fresh (x : Kiln) : Bool := x.bindings.all fun b => b.snaps.any fun s => genReached s.1 (x.swp + 2 ^ 32 - b.stale)

/-- Whether a fault that names an operation stands in the present halt: the operation goes on only after it. -/
def Dev.faulted (d : Dev) (t op : Nat) : Bool :=
  match d.part t with
  | some p => p.halt.phase != .running && p.halt.records.any fun r => r.info.item == op && r.info.isFault
  | none => false

/-- Whether a Kiln array may stop where it stands: its queue holds sweeps alone, or the sweep at its head waits itself, for snapshots, for a
publish to retire or for its fault's disposition. A sweep with another operation behind it goes on (R356; assumption 53). -/
def Dev.kilnWaits (d : Dev) (t k : Nat) : Bool :=
  let x := (d.core t k).kiln
  match x.queue with
  | [] => true
  | q :: rest => q.kind.isSweep && (x.wstalled || x.closing.isSome || (x.windowEnd && d.faulted t q.op)
      || (x.phase.isNone && !x.windowEnd && !x.fresh) || rest.all fun y => y.kind.isSweep)

/-- Whether a GRUN. -/
def SlipKind.isRun (k : SlipKind) : Bool :=
  match k with
  | .run .. => true
  | _ => false

/-- Whether a run stands where a halt may stop it: in emulation after any step, else between sample periods (R368, R401). -/
def Slip.atPeriod (x : Slip) (q : SlipKind) : Bool :=
  match q with
  | .run _ settle period .. => x.mode != 0 || decide (x.t ≤ settle) || (x.t - settle) % period == 0
  | _ => true

/-- The same of a Slip tile (R368; assumption 53). -/
def Dev.slipWaits (d : Dev) (t k : Nat) : Bool :=
  let x := (d.core t k).slip
  match x.queue with
  | [] => true
  | q :: rest => q.kind.isRun && (x.wstalled || x.closing.isSome || (x.windowEnd && d.faulted t q.op)
      || (x.atPeriod q.kind && rest.all fun y => y.kind.isRun))

/-- Whether an engine of a core whose tower is debug-halted has still to come to where it stops, the registers that its operations write being
written first (R401, R418). -/
def Dev.skids (d : Dev) (t k : Nat) (e : Engine) : Bool :=
  match e with
  | .matrix => (d.core t k).mxq.any fun x => x.kind.writesRegs
  | .kiln => !d.kilnWaits t k
  | .slip => !d.slipWaits t k
  | _ => false

/-- Whether an engine of a core or tower runs: its partition is not halted, or the halt has not reached it yet, its tower is
not debug-halted, or it has still to come to where it stops for that (R241, R418, R419), and no warm reset of it has failed (R400, R401, R418, R421); issue pauses for a checkpoint (R420), and
samplers rest while the image of their context is written (R356, R368). -/
def Dev.engineRuns (d : Dev) (t k : Nat) (e : Engine) : Bool :=
  match d.part t with
  | none => false
  | some p =>
    let switching := match p.ctx.bind d.ctx with
      | some x => x.switch == .cmbs || x.switch == .image
      | none => false
    (!p.debugHalted.contains t || d.skids t k e) && !(d.checkpoints.any fun c => c.tower == t && (c.failed || (c.taking && e == .issue)))
      && !(switching && (e == .kiln || e == .slip)) && (match p.halt.phase with
    | .running => true
    | .stopping => !p.halt.stopped.contains (t, k, e.code)
    | .handling => false)

/-! ## The CMBs and home slices (R55 to R60) -/

/-- Lines of a CMB, and the occupancy that starts and ends a drain (R57). -/
def cmbLines : Nat := 256
/-- See `cmbLines`. -/
def cmbHigh : Nat := 192
/-- See `cmbLines`. -/
def cmbLow : Nat := 160

/-- A store merged into or allocated in a CMB as its latest write (R55). The page of a segment is the one its first write recorded. -/
def Cluster.merge (c : Cluster) (k : Nat) (tag : Tag) (bs : List (BRef × Byte)) (segs : List Word) (ctx : Nat) : Cluster :=
  let l := (c.line tag).getD { tag := tag, segs := segs, ctx := ctx }
  let l := { l with
    dirty := l.dirty.filter (fun x => !bs.any fun b => b.1.pos == x.1.pos) ++ bs
    writers := Nat.lor l.writers (2 ^ (k % 4))
    fresh := if l.arrived then distinct (l.fresh ++ bs.map fun b => b.1.pos) else []
    bad := l.bad && decide ((distinct (bs.map fun b => b.1.pos)).length < 256) }
  { c with cmb := c.cmb.filter (fun x => x.tag != tag) ++ [l] }

/-- One part of a store through the L1 has entered the CMB (R99). -/
def Work.storePart (w : Work) (op : Nat) : Work :=
  match w.d.op op with
  | some o =>
    match o.kind with
    | .store left accs =>
      let w := w.setKind op (.store (left - 1) accs)
      if left ≤ 1 && accs.all (·.done) then w.opDone op else w
    | _ => w
  | none => w

/-- CMB_STORE_ARRIVE (R55, R57, R58): the oldest entry of a core's store queue reaches the CMB: a store merges or takes
a free line, and above 192 lines the least recently written drain; a fence's marker names the lines it waits for. -/
def execCmbStoreArrive (t k : Nat) (s : State) : Out :=
  event s fun w =>
    let cl := clusterOf k
    match (w.d.core t k).sq with
    | [] => none
    | .store op _ tag bs segs ctx :: r =>
      let c := w.d.cluster t cl
      if (c.line tag).isNone && decide (cmbLines ≤ c.cmb.length) then none
      else
        let w := w.mod fun d => (d.modCore t k fun x => { x with sq := r }).modCluster t cl fun c => c.merge k tag bs segs ctx
        let w := (w.storePart op).settle
        let c := w.d.cluster t cl
        some (if cmbHigh < c.cmb.length then w.drains t cl .occupancy ((c.cmb.take (c.cmb.length - cmbLow)).map (·.tag)) else w)
    | .marker id :: r =>
      let w := w.mod fun d => d.modCore t k fun x => { x with sq := r }
      match w.d.fences.find? fun f => f.id == id with
      | none => some w
      | some f =>
        let lines := f.dirty w.d
        some ((w.mod fun d => d.modFence id fun x => { x with marker := false, lines := lines }).drains t cl f.trigger lines).settle

/-- CMB_AGE_DRAIN (R57, R88): a line of a CMB drains, by its age or because a trigger names it. -/
def execCmbAgeDrain (t cl i : Nat) (s : State) : Out :=
  event s fun w => ((w.d.cluster t cl).cmb[i]?).map fun l => w.drain t cl .age l.tag

/-- The bytes of a drain applied at the home (R60), or none where the line holds an error it does not overwrite (R75). The cluster reads
them there from now on (R86). -/
def Work.homeApply (w : Work) (h : HomeWrite) : Work :=
  let w := match w.d.meetsBad true (h.bytes.map (·.1)) with
    | some r => w.raise (placeFault r.key h.tag h.tower 0)
    | none => w.apply h.bytes
  w.mod fun d => (({ d with homeWrites := d.homeWrites.map fun x => if x.id == h.id then { x with applied := true } else x } : Dev)).modLine
    h.tower h.cluster h.tag fun l => { l with applied := true }

/-- CMB_DRAIN_ARRIVE (R59, R60): the home slice receives a drain with the dirty bytes of the line, allocates the line and tells every copy
to go; with no copy it applies the bytes at once. -/
def execCmbDrainArrive (t cl i : Nat) (s : State) : Out :=
  event s fun w =>
    match (w.d.cluster t cl).cmb[i]? with
    | none => none
    | some l =>
      let head := (l.dirty.head?.map (·.1)).getD { key := 0 }
      if !l.draining || l.arrived || w.overtakes t (4 * cl) l.sent [head] || w.d.homeWrites.any fun h => h.tag == l.tag && h.tower == t && h.cluster == cl then none
      else
        let (home, slice) := w.homeOf t (4 * cl) l.tag head.key
        let w := ((w.logAccess t t (4 * cl) (l.dirty.map (·.1))).homeUse l.tag home slice 0 0).mod fun d => d.modLine t cl l.tag fun l => { l with arrived := true, fresh := [], applied := false }
        let w := if home == t then w else w.mod fun d => d.unlist { tag := l.tag, tower := t, gateway := true, at_ := firstPort t home }
        let (id, w) := w.newId
        let h := (w.d.home t l.tag).getD { tag := l.tag, home := home, slice := slice }
        let hw : HomeWrite :=
          { id := id, tag := l.tag, bytes := l.dirty, sectors := h.sectors.map fun x => (x, false),
            gateways := h.gateways.map fun g => (g.1, g.2, false), cluster := cl, tower := t }
        let w := w.mod fun d => { d with homeWrites := d.homeWrites ++ [hw] }
        some (if hw.sectors.isEmpty && hw.gateways.isEmpty then w.homeApply hw else w)

/-- COPY_INVALIDATE (R60, R65): one copy named by a waiting write is invalidated and acknowledged. -/
def execCopyInvalidate (id i : Nat) (s : State) : Out :=
  event s fun w =>
    match w.d.homeWrites.find? fun h => h.id == id with
    | none => none
    | some h =>
      let n := h.sectors.length
      let h' := if i < n then { h with sectors := modNth h.sectors i fun x => (x.1, true) }
        else { h with gateways := modNth h.gateways (i - n) fun x => (x.1, x.2.1, true) }
      some (w.mod fun d => ({ d with homeWrites := d.homeWrites.map fun x => if x.id == id then h' else x } : Dev).modHome h.tower h.tag fun x =>
        if i < n then { x with sectors := x.sectors.filter fun y => some y != (h.sectors[i]?).map (·.1) }
        else { x with gateways := x.gateways.filter fun y => some y != (h.gateways[i - n]?).map fun g => (g.1, g.2.1) })

/-- INVALIDATE_ACK (R60): with every copy gone the home applies the write. -/
def execInvalidateAck (id : Nat) (s : State) : Out :=
  event s fun w =>
    match w.d.homeWrites.find? fun h => h.id == id with
    | none => none
    | some h =>
      if !h.applied && h.sectors.all (·.2) && h.gateways.all (fun g => g.2.2) then some (w.homeApply h) else none

/-- A fence's wait for one drain of a line ended. -/
def FenceRec.drained (f : FenceRec) (t cl : Nat) (tag : Tag) : FenceRec :=
  if f.tower == t && f.cluster == cl then { f with lines := f.lines.erase tag } else f

/-- An operation whose access waited for a line to drain sent at a number (R57, R62). -/
def OpKind.sentAt (k : OpKind) (tag : Tag) (n : Nat) : OpKind := k.stamp (fun refs => refs.any fun r => r.tag == tag) n

/-- A dirty line gone from its CMB or kept for the bytes written meanwhile, and told to the fences that waited for it, which have the rest
drained, and to the accesses of its cluster that are sent after it (R57). -/
def Work.drainOver (w : Work) (t cl : Nat) (tag : Tag) : Work :=
  let rest := fun (l : CmbLine) =>
    if l.tag != tag then some l
    else if l.fresh.isEmpty then none
    else some { l with dirty := l.dirty.filter (fun b => l.fresh.contains b.1.pos), draining := false, arrived := false, fresh := [], applied := false }
  let (id, w) := w.newId
  let here := fun (d : Dev) (o : Op) => match d.crew o.crew with
    | some c => c.place.tower == t && clusterOf c.place.core == cl
    | none => false
  let w := w.mod fun d =>
    let d := d.modCluster t cl fun c => { c with cmb := c.cmb.filterMap rest }
    { d with
      fences := d.fences.map fun f => f.drained t cl tag
      ops := d.ops.map fun o => if !o.done && here d o then { o with kind := o.kind.sentAt tag id } else o }
  let w := if w.d.fences.any (fun f => f.tower == t && f.cluster == cl && f.lines.contains tag) then w.drain t cl .fence tag else w
  w.settle

/-- DRAIN_ACK (R57): the home's acknowledgement frees the CMB line; bytes written since the drain was sent stay dirty. -/
def execDrainAck (t cl i : Nat) (s : State) : Out :=
  event s fun w =>
    match (w.d.cluster t cl).cmb[i]? with
    | none => none
    | some l =>
      let mine := fun (h : HomeWrite) => h.tag == l.tag && h.tower == t && h.cluster == cl
      if !(l.draining && w.d.homeWrites.any fun h => mine h && h.applied) then none
      else
        let w := w.mod fun d => { d with homeWrites := d.homeWrites.filter fun h => !mine h }
        some (w.drainOver t cl l.tag)

/-- PATROL_SCRUB (R73, R75): the patrol engine visits a location of its slices (0), vaults (1) or HBM (2). `found` is
0 for no error, 1 for a corrected one, which is counted, and 2 for an uncorrectable one, which faults. -/
def execPatrolScrub (unit key found : Nat) (s : State) : Out :=
  event s fun w =>
    let t := if unit == 1 then bits 31 29 key else key / 2 ^ 36 % 8
    let code := if unit == 0 then 6 else if unit == 1 then 10 else 12
    match found with
    | 0 => some w
    | 1 => some (w.mod fun d => d.softened code t)
    | _ =>
      let w := w.mod fun d => { d with bad := distinct (d.bad ++ [w.spot key]) }
      some (w.raise { placeFault key (flatTag key) t 0 with engine := .patrol, tower := t, unit := unit })

end Sys2Proof.Machine
end

