-- ==== Sys2Proof/Machine/Error.lean ====
section
/-! DEFINITION. Error: the errors of storage structures that the world decides: soft errors corrected on a read, clean copies that are
lost, and locations that become uncorrectable (02_memory_hierarchy.md R73 to R76; assumption 50). -/

namespace Sys2Proof.Machine

/-- Clean copies of a tower lost to an uncorrectable error, where there were any: they are fetched again when they are next needed, and the
event is counted (R74). -/
def Dev.lose (d : Dev) (lost : Bool) (structureCode t : Nat) (f : Dev → Dev) : Dev := if lost then (f d).recovered structureCode t else d

/-- A word of an instruction cache lies in a 256 B block of a context's addresses. -/
def inFetchLine (ctx block : Nat) (e : Nat × Word × Nat) : Bool := e.1 == ctx && e.2.1.toNat / 256 == block

/-- What an error does to the device (R73 to R75): a soft error is counted; a clean copy is dropped; anything else holds an error, which the
next access to it meets, until it is overwritten whole. -/
def Dev.strike (d : Dev) (w : Work) (e : ErrorEvent) : Dev :=
  match e with
  | .soft code t => if t < 8 && (code < 13 || (code == 13 && t == 0)) then d.softened code t else d
  | .l1Line t k i => d.lose (decide (i < (d.core t k).l1.length)) 1 t fun d => d.modCore t k fun c => { c with l1 := c.l1.eraseIdx i }
  | .fetchLine t k ctx block =>
    d.lose ((d.core t k).icache.any (inFetchLine ctx block)) 3 t fun d => d.modCore t k fun c => { c with icache := c.icache.filter fun e => !inFetchLine ctx block e }
  | .coreTlb t k i => d.lose (decide (i < (d.core t k).tlb.length)) 8 t fun d => d.modCore t k fun c => { c with tlb := c.tlb.eraseIdx i }
  | .clusterTlb t cl i =>
    d.lose (decide (i < (d.cluster t cl).tlb.length)) 8 t fun d => d.modCluster t cl fun c => { c with tlb := c.tlb.eraseIdx i }
  | .location key => { d with bad := distinct (d.bad ++ [w.spot key]) }
  | .register crew reg => d.modCrew crew fun c => if c.allotted reg then { c with badRegs := distinct (c.badRegs ++ [reg]) } else c
  | .cmbLine t cl i => d.modCluster t cl fun c => { c with cmb := c.cmb.modify i fun l => { l with bad := true } }
  | .dictEntry t k i => d.modCore t k fun c => if i < c.dict.length then { c with badDict := distinct (c.badDict ++ [i]) } else c
  | .tile t k i => d.modCore t k fun c => if i < 64 then { c with badAcc := distinct (c.badAcc ++ [i]) } else c

/-- An error strikes (R73 to R75). -/
def State.strike (s : State) (e : ErrorEvent) : State := { s with d := s.d.strike s.work e }

end Sys2Proof.Machine
end

