-- ==== Sys2Proof/Machine/Atomic.lean ====
section
/-! DEFINITION. Atomic: atomics at their executing places, ordered atomics and horizons, and the race detector
(06_slice_atomics_and_races.md). -/

namespace Sys2Proof.Machine

/-! ## What an atomic computes (R144 to R146) -/

/-- Bytes of an operation of a type (R142). -/
def atomSize (typ : Nat) : Nat := [4, 8, 16, 2, 4, 8, 4, 8].getD typ 4

/-- The element format of a floating type (R141). -/
def atomFmt (typ : Nat) : Fmt :=
  match typ with
  | 3 => .bf16
  | 6 => .bf16
  | 5 => .fp64
  | _ => .fp32

/-- The new value of an integer atomic (R144): 0 AADD to 8 ASWP, 13 AINC, 14 ADEC. -/
def atomInt (minor w old b : Nat) : Nat :=
  let s := toSigned w
  match minor with
  | 0 => (old + b) % 2 ^ w
  | 1 => if s old ≤ s b then old else b
  | 2 => if s old ≤ s b then b else old
  | 3 => Nat.min old b
  | 4 => Nat.max old b
  | 5 => Nat.land old b
  | 6 => Nat.lor old b
  | 7 => Nat.xor old b
  | 8 => b
  | 13 => if b ≤ old then 0 else old + 1
  | _ => if old == 0 || decide (b < old) then b else old - 1

/-- The new value of one element of a floating atomic, with its flags (R146). -/
def atomElem (c : FCtl) (f : Fmt) (minor old b : Nat) : FRes :=
  match minor with
  | 10 => fadd c f (f.input c old) (f.input c b)
  | 11 => fminmax c f false true (f.input c old) (f.input c b) true
  | _ => fminmax c f true true (f.input c old) (f.input c b) true

/-- The controls of a floating atomic: CMR bits 4 and 12:8 do not apply (R146). -/
def atomCtl (cmr : BitVec 32) : FCtl := { FCtl.ofCmr cmr with nsat := false }

/-- The new value of an atomic and its flags (R143 to R146). -/
def atomNew (minor typ : Nat) (cmr : BitVec 32) (old b new_ : Nat) : Nat × Flags :=
  if minor == 9 then (if old == b then new_ else old, fNone)
  else if typ ≤ 2 then (atomInt minor (8 * atomSize typ) old b, fNone)
  else
    let f := atomFmt typ
    let w := f.width
    let rs := (List.range (8 * atomSize typ / w)).map fun e =>
      atomElem (atomCtl cmr) f minor (old / 2 ^ (w * e) % 2 ^ w) (b / 2 ^ (w * e) % 2 ^ w)
    (pack w (rs.map (·.bits)), rs.foldl (fun a r => a ||| r.fl) fNone)

/-! ## Order tags and horizons (R149, R150) -/

/-- Lexicographic order of tags (R149). -/
def OrderTag.lt (a b : OrderTag) : Bool :=
  let key := fun (t : OrderTag) => [t.gw, t.team, t.tw, t.crew, t.seq, t.lane]
  decide (key a < key b)

/-- The position of an exited crew: above every tag. -/
def OrderTag.inf : OrderTag := { gw := 2 ^ 40, team := 0, tw := 0, crew := 0, seq := 0, lane := 0 }

/-- Every non-exited thread is held or in a group that waits on one of the given conditions. -/
def Crew.allAt (c : Crew) (p : Cond → Bool) : Bool :=
  let m := (c.waits.filter fun x => p x.cond).foldr (fun x m => x.mask ||| m) 0
  (maskLanes c.live).all fun l => (c.thread l).held || m.getLsbD l

/-- A crew's position (R150). -/
def Crew.position (c : Crew) (team : Nat) : OrderTag :=
  if c.live == 0 then .inf
  else
    let atBar := (List.range 16).any fun b => c.bar.getLsbD b && c.allAt fun x => x == .barrier b
    let atGrid := c.gpend && c.allAt fun x => x == .gridBarrier
    { gw := if atGrid then c.gw + 1 else c.gw, team := team, tw := if atBar then c.tw + 1 else c.tw, crew := c.index,
      seq := c.seq, lane := 0 }

/-- The lower of two tags. -/
def OrderTag.min (a b : OrderTag) : OrderTag := if b.lt a then b else a

/-- A crew's horizon: its position, or the tag of its oldest ordered lane not yet accepted (R150). -/
def Dev.horizonOf (d : Dev) (c : Crew) (team : Nat) : OrderTag :=
  (d.ops.filter fun o => o.crew == c.id).foldl (fun h o => match o.kind with
    | .atomic _ _ _ _ ls (some t) _ =>
      (ls.filter fun a => !a.accepted).foldl (fun h a => OrderTag.min h { t with lane := a.lane }) h
    | _ => h) (c.position team)

/-- A grid's horizon H (R150): the lowest over its crews, saved ones included, and its lowest team not yet launched. -/
def Dev.horizon (d : Dev) (g : Grid) : OrderTag :=
  let teams := d.teams.filter fun t => t.grid == g.id
  let crews := teams.flatMap fun t =>
    ((d.crews.filter fun (c : Crew) => c.team == t.id && !c.handler) ++ t.image).map fun c => d.horizonOf c t.index
  let rest := if g.admitted < g.launch.teams then [{ gw := 0, team := g.admitted, tw := 0, crew := 0, seq := 0, lane := 0 }] else []
  (crews ++ rest).foldl OrderTag.min .inf

/-- The H that a tower's places hold for a grid; 8 names the value last computed from the reports. -/
def Dev.heldH (d : Dev) (t g : Nat) : Option OrderTag := (d.horizons.find? fun h => h.1 == t && h.2.1 == g).map (·.2.2)

/-- Every place's value of a grid's H brought down to the current one: a place never holds a value above it (R150). -/
def Dev.capH (d : Dev) (g : Grid) : Dev :=
  { d with horizons := d.horizons.map fun x => if x.2.1 == g.id then (x.1, g.id, OrderTag.min x.2.2 (d.horizon g)) else x }

/-- The place's value of H replaced by a higher one. -/
def Dev.setH (d : Dev) (t g : Nat) (h : OrderTag) : Dev :=
  match d.heldH t g with
  | some old => if old.lt h then { d with horizons := d.horizons.map fun x => if x.1 == t && x.2.1 == g then (t, g, h) else x } else d
  | none => { d with horizons := d.horizons ++ [(t, g, h)] }

/-- HORIZON_REPORT (R150): the reports of a grid's cores and of the scheduler give a new H. -/
def execHorizonReport (grid : Nat) (s : State) : Out :=
  event s fun w => (w.d.grid grid).map fun g => w.mod fun d => d.setH 8 grid (d.horizon g)

/-- HORIZON_UPDATE (R150): the computed H reaches a tower's executing places. -/
def execHorizonUpdate (t grid : Nat) (s : State) : Out :=
  event s fun w => (w.d.heldH 8 grid).map fun h => w.mod fun d => d.setH t grid h

/-! ## Issue of atomics (R139 to R143, R147) -/

/-- The operands of a lane (R142): the operand or compare value, and the new value of a compare-and-swap. -/
def Iss.atomOperands (i : Iss) (minor typ : Nat) (b : Nat) (d : Option Nat) (l : Nat) : Nat × Nat :=
  let n := 2 ^ (8 * atomSize typ)
  let two := fun (r : Nat) => (i.val r l).toNat + (if typ == 2 then 2 ^ 64 * (i.val (r + 1) l).toNat else 0)
  (two b % n, match d with
    | some r => if minor == 9 then two r % n else 0
    | none => 0)

/-- The number of outbox entries of a core (R147). -/
def outboxSize : Nat := 4096

/-- The lane operations of an atomic issued: its lines leave the L1 and drain, it takes its order tag, its outbox
entries and its count (R51, R57, R142, R147, R149). -/
def Iss.startAtomic (i : Iss) (w : Work) (minor typ b : Nat) (d : Option Nat) (ord : Bool) (acq : Option Nat) (space la : Nat)
    (ls : List LaneAt) (after : List Nat := []) : Work :=
  let t := i.c.place.tower
  let k := i.c.place.core
  let lns := ls.map fun a =>
    let x := i.atomOperands minor typ b d a.lane
    ({ lane := a.lane, refs := a.refs, opnd := x.1, newv := x.2 } : AtomicLane)
  let refs := ls.flatMap (·.refs)
  let w := i.race w 2 space ls
  let tag := if ord then some ({ gw := i.c.gw, team := ((w.d.teamOf i.c).map (·.index)).getD 0, tw := i.c.tw, crew := i.c.index, seq := i.c.seq, lane := 0 } : OrderTag) else none
  let w := if ord then i.mod w fun c => { c with seq := c.seq + 1 } else w
  let regs := match d with
    | some r => if typ == 2 then [r, r + 1] else [r]
    | none => []
  let (id, w) := i.newOp w (if d.isSome then 1 else 2) (.atomic minor typ (w.d.cmr i.c) d lns tag acq) regs la false after
  let w := if d.isSome then w else w.mod fun dv => dv.modCore t k fun x => { x with outbox := x.outbox ++ lns.map fun a => (id, a.lane) }
  i.drainFor (w.dropL1 t k (lineTags refs)) .atomic refs

/-- Whether an atomic is ordered: by its ORD bit, or, for types 3 to 7, by determinism mode (R149, R423). -/
def Iss.ordered (i : Iss) (w : Work) (ordBit : Bool) (typ : Nat) : Bool :=
  !i.c.handler && (ordBit || (decide (3 ≤ typ) && (w.d.cmr i.c).getLsbD 6))

/-- The checks of an atomic and its start (R139 to R149). A posted one waits for no response: its release and the acquires before it hold it
back from its place, and an older access of its thread to its bytes comes before it there (R81, R90, R91, R147; see `Work.inTurn`). -/
def Iss.atomic (i : Iss) (w : Work) (minor : Nat) (d : Option Nat) (a b : Nat) (space scope order typ la : Nat) (ordBit : Bool)
    (off : Word) : Res :=
  let cls := if d.isSome then 1 else 2
  let ord := i.ordered w ordBit typ
  (if d.isSome then i.ready w else i.admitted w).bind fun w => (i.room w cls 1).bind fun w =>
    let used := (w.d.core i.c.place.tower i.c.place.core).outbox.length
    if d.isNone && decide (outboxSize < used + maskCount i.act) then .again i.w0 (.outboxRoom (maskCount i.act))
    else
      let es := i.eas a off
      let bad := es.filter fun e => e.2 % atomSize typ != 0
      if !bad.isEmpty then .fault (i.misaligned .misalignedAtomic space bad)
      else i.find w .atomic space (atomSize typ) es fun ls w =>
        let wrong := ls.filter fun x => decide (2 ≤ typ) && x.refs.any fun r => placeOf r.key == 2 || placeOf r.key == 3
        if !wrong.isEmpty then .fault (i.misaligned .atomicType space (wrong.map fun x => (x.lane, x.ea)))
        else if ord && i.c.seq == 2 ^ 32 - 1 then .fault (i.fault .orderedTagExhausted)
        else if d.isNone then
          let (after, w) := if 2 ≤ order then i.releaseAfter w scope else ([], w)
          .ok (i.startAtomic w minor typ b d ord none space la ls (i.acquiring w ++ after))
        else (i.clash w ls).bind fun w => (if 2 ≤ order then i.release w scope else .ok w).bind fun w =>
            .ok (i.startAtomic w minor typ b d ord (if order % 2 == 1 then some scope else none) space la ls)

/-- A returning atomic (R140 to R146). -/
def atomicOp (minor : Nat) (o : OpAt) (s : State) : Out :=
  let hi := o.typ == 2
  let cas := if minor == 9 then (if hi then [o.d.toNat, o.d.toNat + 1] else [o.d.toNat]) else []
  let regs := if hi then [o.d.toNat, o.d.toNat + 1] else [o.d.toNat]
  issue s o.g { reads := o.a.toNat :: o.b.toNat :: (if hi then [o.b.toNat + 1] else []) ++ cas, writes := regs, pends := true , values := true } fun i w =>
    i.atomic w minor (some o.d.toNat) o.a.toNat o.b.toNat o.space.toNat o.scope.toNat o.order.toNat o.typ.toNat o.la.toNat o.ord (sext o.off)

/-- A posted atomic (R147, R148). -/
def postedOp (minor : Nat) (o : OpAtn) (s : State) : Out :=
  issue s o.g { reads := [o.a.toNat, o.b.toNat] , values := true } fun i w =>
    i.atomic w minor none o.a.toNat o.b.toNat o.space.toNat o.scope.toNat o.order.toNat o.typ.toNat 0 o.ord (sext o.off)

/-- AADD (R141). -/
def execAadd (o : OpAt) (s : State) : Out := atomicOp 0 o s
/-- AMIN (R141). -/
def execAmin (o : OpAt) (s : State) : Out := atomicOp 1 o s
/-- AMAX (R141). -/
def execAmax (o : OpAt) (s : State) : Out := atomicOp 2 o s
/-- AMINU (R141). -/
def execAminu (o : OpAt) (s : State) : Out := atomicOp 3 o s
/-- AMAXU (R141). -/
def execAmaxu (o : OpAt) (s : State) : Out := atomicOp 4 o s
/-- AAND (R141). -/
def execAand (o : OpAt) (s : State) : Out := atomicOp 5 o s
/-- AOR (R141). -/
def execAor (o : OpAt) (s : State) : Out := atomicOp 6 o s
/-- AXOR (R141). -/
def execAxor (o : OpAt) (s : State) : Out := atomicOp 7 o s
/-- ASWP (R141). -/
def execAswp (o : OpAt) (s : State) : Out := atomicOp 8 o s
/-- ACAS (R141). -/
def execAcas (o : OpAt) (s : State) : Out := atomicOp 9 o s
/-- AFADD (R141). -/
def execAfadd (o : OpAt) (s : State) : Out := atomicOp 10 o s
/-- AFMIN (R141). -/
def execAfmin (o : OpAt) (s : State) : Out := atomicOp 11 o s
/-- AFMAX (R141). -/
def execAfmax (o : OpAt) (s : State) : Out := atomicOp 12 o s
/-- AINC (R141). -/
def execAinc (o : OpAt) (s : State) : Out := atomicOp 13 o s
/-- ADEC (R141). -/
def execAdec (o : OpAt) (s : State) : Out := atomicOp 14 o s
/-- AADD, posted (R148). -/
def execAaddN (o : OpAtn) (s : State) : Out := postedOp 0 o s
/-- AMIN, posted (R148). -/
def execAminN (o : OpAtn) (s : State) : Out := postedOp 1 o s
/-- AMAX, posted (R148). -/
def execAmaxN (o : OpAtn) (s : State) : Out := postedOp 2 o s
/-- AMINU, posted (R148). -/
def execAminuN (o : OpAtn) (s : State) : Out := postedOp 3 o s
/-- AMAXU, posted (R148). -/
def execAmaxuN (o : OpAtn) (s : State) : Out := postedOp 4 o s
/-- AAND, posted (R148). -/
def execAandN (o : OpAtn) (s : State) : Out := postedOp 5 o s
/-- AOR, posted (R148). -/
def execAorN (o : OpAtn) (s : State) : Out := postedOp 6 o s
/-- AXOR, posted (R148). -/
def execAxorN (o : OpAtn) (s : State) : Out := postedOp 7 o s
/-- ASWP, posted (R148). -/
def execAswpN (o : OpAtn) (s : State) : Out := postedOp 8 o s
/-- AFADD, posted (R148). -/
def execAfaddN (o : OpAtn) (s : State) : Out := postedOp 10 o s
/-- AFMIN, posted (R148). -/
def execAfminN (o : OpAtn) (s : State) : Out := postedOp 11 o s
/-- AFMAX, posted (R148). -/
def execAfmaxN (o : OpAtn) (s : State) : Out := postedOp 12 o s
/-- AINC, posted (R148). -/
def execAincN (o : OpAtn) (s : State) : Out := postedOp 13 o s
/-- ADEC, posted (R148). -/
def execAdecN (o : OpAtn) (s : State) : Out := postedOp 14 o s

/-! ## At the executing place (R143, R148, R151, R153) -/

/-- An atomic whose lanes are all done: its result registers, its acquire, its completion (R91, R142). -/
def Work.endAtomic (w : Work) (id : Nat) : Work :=
  match w.d.op id with
  | some o =>
    match o.kind with
    | .atomic _ typ _ reg ls _ acq =>
      if !ls.all (·.done) then w
      else
        let old := fun (l : Nat) => ((ls.find? fun a => a.lane == l).map (·.old)).getD 0
        let w := match reg with
          | some r =>
            let w := w.writeLate o r fun l => BitVec.ofNat 64 (old l)
            if typ == 2 then w.writeLate o (r + 1) fun l => BitVec.ofNat 64 (old l / 2 ^ 64) else w
          | none => w
        let w := match acq, w.d.crew o.crew with
          | some s, some c => w.acquire c.place.tower c.place.core s
          | _, _ => w
        (w.opDone id).settle
    | _ => w
  | none => w

/-- One lane of an atomic changed. -/
def Work.modLane (w : Work) (id lane : Nat) (f : AtomicLane → AtomicLane) : Work :=
  w.mod fun d => d.modOp id fun o => match o.kind with
    | .atomic m t c r ls g q => { o with kind := .atomic m t c r (ls.map fun a => if a.lane == lane then f a else a) g q }
    | _ => o

/-- Whether an older access of the same thread to bytes of a lane's atomic is still to be made (R81); among ordered atomics the tags order
them (R151). -/
def Dev.olderOn (d : Dev) (o : Op) (ordered : Bool) (a : AtomicLane) : Bool :=
  let isOrdered := fun (x : Op) => match x.kind with
    | .atomic _ _ _ _ _ g _ => g.isSome
    | _ => false
  d.ops.any fun x => x.crew == o.crew && !x.done && decide (x.id < o.id) && !(ordered && isOrdered x)
    && (x.kind.keysOf a.lane).any fun k => a.refs.any fun r => r.key == k

/-- Whether a lane's atomic may arrive at its place: it waits for no release or acquire (R90, R91), its lines have drained from the cluster
(R57), older accesses of its thread to its bytes are made (R81), and no older message is before it on its path (R62, R63, R66). -/
def Work.inTurn (w : Work) (o : Op) (c : Crew) (ordered : Bool) (a : AtomicLane) : Bool :=
  !w.d.gated o && !w.d.linesPending c a.refs && !w.d.olderOn o ordered a && !w.overtakes c.place.tower c.place.core (Nat.max o.id a.sent) a.refs

/-- The lane's entry of the outbox freed (R147). -/
def Work.freeOutbox (w : Work) (c : Crew) (id lane : Nat) : Work :=
  w.mod fun d => d.modCore c.place.tower c.place.core fun k => { k with outbox := k.outbox.filter fun e => e != (id, lane) }

/-- One lane of an atomic performed as one step (R143): old value read, new value written, the flags of a returning
one kept for its retirement (R146). -/
def Work.performLane (w : Work) (o : Op) (c : Crew) (minor typ : Nat) (cmr : BitVec 32) (reg : Option Nat) (a : AtomicLane) : Work :=
  let bytes := a.refs.map fun r => w.get r.key
  let old := leNat bytes
  let r := atomNew minor typ cmr old a.opnd a.newv
  let w := w.touch c.place.tower c.place.core 0 (w.d.gridId c) a.refs
  let w := (w.apply (a.refs.zip (natLe a.refs.length r.1))).dropL1 c.place.tower c.place.core (lineTags a.refs)
  let w := w.modLane o.id a.lane fun x => { x with old := old, done := true }
  let w := if reg.isSome then w.mod fun d => d.modOp o.id fun x => { x with flags := x.flags ||| r.2 } else w
  (w.freeOutbox c o.id a.lane).endAtomic o.id

/-- ATOMIC_AT_PLACE (R139, R143): one lane of an unordered atomic is applied at its executing place in its turn, lower lanes of the
same bytes before it (R78). An error ends the whole instruction (R288, R296). -/
def execAtomicAtPlace (op lane : Nat) (s : State) : Out :=
  event s fun w =>
    match w.d.op op with
    | none => none
    | some o =>
      match w.d.crew o.crew, o.kind with
      | some c, .atomic minor typ cmr reg ls none _ =>
        match ls.find? fun a => a.lane == lane && !a.done with
        | none => none
        | some a =>
          let lower := ls.any fun (x : AtomicLane) => decide (x.lane < lane) && !x.done && x.refs.any fun r => a.refs.any fun y => y.key == r.key
          if o.done || lower || !w.inTurn o c false a then none
          else
            match w.d.linkFor c.place.tower a.refs, w.d.meetsBad false a.refs with
            | some l, _ => some (w.linkError o c l lane).settle
            | none, some r => some (w.opError o r.key r.tag (maskOf fun l => l == lane)).settle
            | none, none => some (w.performLane o c minor typ cmr reg a)
      | _, _ => none

/-- The reorder queue a lane's operation goes to (R151): tower, place within it, and the line: a tile line of global memory, elsewhere an
aligned 256 B block (R81). -/
def Work.reorderPlace (w : Work) (c : Crew) (refs : List BRef) : Nat × Nat × Tag :=
  let r := refs.headD { key := 0 }
  match placeOf r.key with
  | 0 =>
    let h := w.homeOf c.place.tower c.place.core r.tag r.key
    (h.1, h.2, r.tag)
  | 1 => (bits 31 29 r.key, 48 + bits 28 23 r.key, flatTag r.key)
  | 4 => (c.place.tower, 97 + c.place.core, flatTag r.key)
  | _ => (0, 96, flatTag r.key)

/-- Entries of a reorder queue (R151). -/
def reorderSize : Nat := 64

/-- ORDERED_ATOMIC_ACCEPT (R151): a lane enters the reorder queue of its place; into a full one only by displacing the
highest-tagged entry that has not faulted, which is sent back, takes no entry of the outbox again (assumption 43) and counts toward its
crew's horizon again (R150); otherwise it is itself sent back. A faulted entry keeps its place (R153). -/
def execOrderedAtomicAccept (op lane : Nat) (s : State) : Out :=
  event s fun w =>
    match w.d.op op with
    | none => none
    | some o =>
      match w.d.crew o.crew, o.kind with
      | some c, .atomic _ _ _ _ ls (some tag) _ =>
        match ls.find? fun a => a.lane == lane && !a.done && !a.accepted && !a.returned with
        | none => none
        | some a =>
          if !w.inTurn o c true a then none
          else
            let (t, place, line) := w.reorderPlace c a.refs
            let tag := { tag with lane := lane }
            let grid := ((w.d.gridOf c).map (·.id)).getD 0
            let e : Held := { place := place, line := line, tag := tag, grid := grid, op := op, lane := lane }
            let here := (w.d.tower t).held.filter fun h => h.place == place
            let enter := fun (w : Work) =>
              ((w.modLane op lane fun x => { x with accepted := true }).freeOutbox c op lane).mod fun d =>
                d.modTower t fun z => { z with held := z.held ++ [e] }
            if here.length < reorderSize then some (enter w)
            else
              match (here.filter fun h => !h.faulted).foldl (fun m h => match m with
                  | none => some h
                  | some x => if x.tag.lt h.tag then some h else some x) none with
              | some top =>
                if tag.lt top.tag then
                  let w := w.modLane top.op top.lane fun x => { x with accepted := false, returned := true }
                  let w := enter (w.mod fun d => d.modTower t fun z => { z with held := z.held.filter fun h => h != top })
                  some (match w.d.grid top.grid with
                    | some g => w.mod fun d => d.capH g
                    | none => w)
                else some (w.modLane op lane fun x => { x with returned := true })
              | none => some (w.modLane op lane fun x => { x with returned := true })
      | _, _ => none

/-- ORDERED_ATOMIC_RESEND (R151): a lane that was sent back is sent again. -/
def execOrderedAtomicResend (op lane : Nat) (s : State) : Out :=
  event s fun w =>
    match w.d.op op with
    | some o =>
      match o.kind with
      | .atomic _ _ _ _ ls _ _ =>
        if ls.any fun a => a.lane == lane && a.returned then
          let (id, w) := w.newId
          some (w.modLane op lane fun x => { x with returned := false, sent := id })
        else none
      | _ => none
    | none => none

/-- The record of a faulted ordered atomic (R153, R404). -/
def FaultInfo.ordered (f : FaultInfo) (t : OrderTag) : FaultInfo :=
  { f with
    detail := t.gw * 2 ^ 96 + t.tw * 2 ^ 64 + t.seq * 2 ^ 32 + t.crew * 2 ^ 27 + t.lane * 2 ^ 22
    extra := BitVec.ofNat 64 t.team }

/-- ORDERED_ATOMIC_APPLY (R151, R153): the lowest-tagged held operation of its line, below H, is applied; one that meets
an error keeps its place, marked faulted, and holds the line. -/
def execOrderedAtomicApply (op lane : Nat) (s : State) : Out :=
  event s fun w =>
    match w.d.op op with
    | none => none
    | some o =>
      match w.d.crew o.crew, o.kind with
      | some c, .atomic minor typ cmr reg ls (some _) _ =>
        match ls.find? fun a => a.lane == lane && !a.done && a.accepted with
        | none => none
        | some a =>
          let (t, place, _) := w.reorderPlace c a.refs
          match (w.d.tower t).held.find? fun h => h.place == place && h.op == op && h.lane == lane with
          | none => none
          | some e =>
            let line := (w.d.tower t).held.filter fun h => h.place == place && h.line == e.line
            let low := line.all fun h => h == e || h.grid != e.grid || e.tag.lt h.tag
            let below := match w.d.heldH t e.grid with
              | some h => e.tag.lt h
              | none => false
            if !low || !below || line.any (·.faulted) then none
            else
              let drop := fun (w : Work) => w.mod fun d => d.modTower t fun z => { z with held := z.held.filter fun h => h != e }
              if e.cancelled then
                some (((drop w).modLane op lane fun x =>
                  { x with old := leNat (a.refs.map fun r => w.get r.key), done := true }).endAtomic op)
              else
                let fail := fun (f : FaultInfo) =>
                  (w.mod fun d => d.modTower t fun z => { z with held := z.held.map fun h => if h == e then { h with faulted := true } else h }).raise
                    ({ f with crew := c.place.gid, iaddr := o.iaddr, lanes := maskOf fun l => l == lane, item := op * 32 + lane }.ordered e.tag)
                match w.d.linkFor c.place.tower a.refs, w.d.meetsBad false a.refs with
                | some l, _ => some (fail { reason := .linkDown, engine := .link, tower := c.place.tower, unit := l })
                | none, some r => some (fail (placeFault r.key r.tag c.place.tower c.place.core))
                | none, none => some ((drop w).performLane o c minor typ cmr reg a)
      | _, _ => none

/-! ## The race detector (R154 to R159) -/

/-- The shadow word's key of a physical address, or `none` where no base is set (R155). -/
def Dev.shadowKey (d : Dev) (pa : Nat) : Nat := (d.tower (pa / 2 ^ 36 % 8)).sbase + pa % 2 ^ 36 / 32 * 8

/-- One check and update of a shadow word (R157): the reports (0 read-after-write, 1 write-after-write, 2
write-after-read, with WCREW for the first two) and the new word. A crew is compared by the id it has now (assumption 64). -/
def raceStep (v : Nat) (r : RaceReq) (sameTeam : Bool) : List (Nat × Nat) × Nat :=
  let wcrew := bits 63 40 v
  let te := r.te % 256
  let ge := r.ge % 256
  let wsync := ge != bits 31 24 v || (sameTeam && te != bits 39 32 v) || r.peers.contains wcrew
  let rsync := ge != bits 15 8 v || (bit 2 v && sameTeam && te != bits 23 16 v)
  let a := if bit 0 v && wcrew != r.gid && !wsync then [(if r.kind == 0 then 0 else 1, wcrew)] else []
  let b := if r.kind != 0 && bit 1 v && !rsync then [(2, 0xFFFFFF)] else []
  let v' :=
    if r.kind == 1 then r.gid * 2 ^ 40 + te * 2 ^ 32 + ge * 2 ^ 24 + bits 23 8 v * 2 ^ 8 + 4 + 1
    else if r.kind == 0 && wcrew != r.gid then
      let rte := if sameTeam then te else bits 23 16 v
      bits 63 24 v * 2 ^ 24 + rte * 2 ^ 16 + ge * 2 ^ 8 + (if bit 2 v && sameTeam then 4 else 0) + 2 + (if bit 0 v then 1 else 0)
    else v
  (a ++ b, v')

/-- Whether a recorded writer's crew belongs to the accessor's team, under the id it has or under one it had before it ended, migrated or
was saved; a migrated crew belongs to none (R156, R157). -/
def Dev.sameTeam (d : Dev) (r : RaceReq) (wcrew : Nat) : Bool :=
  (match d.crew r.crew with | some c => !c.landed | none => true) &&
    match d.crews.find? fun (c : Crew) => c.place.gid == wcrew && !c.handler && !c.landed with
    | some c => c.team == r.team
    | none => d.teams.any fun (t : Team) => t.id == r.team && t.gone.contains wcrew

/-- The checks of the lanes in turn, with what they report: kind, other crew, lane, sector's virtual address. -/
def Work.raceLanes (w : Work) (r : RaceReq) : List (Nat × Nat × Word) → List (Nat × Nat × Nat × Word) × Work
  | [] => ([], w)
  | (l, pa, va) :: rest =>
    let k := w.d.shadowKey pa
    let v := w.num k 8
    let x := raceStep v r (w.d.sameTeam r (bits 63 40 v))
    let y := (if x.2 == v then w else w.putNum k 8 x.2).raceLanes r rest
    (x.1.map (fun e => (e.1, e.2, l, va)) ++ y.1, y.2)

/-- RACE_LOG_APPEND (R159): one entry for an instruction's reports. The rule fixes ADDR by the lowest reported lane; KIND and OTHER are those
of that lane's first report, a read-after-write or write-after-write before a write-after-read (assumption 44). -/
def Work.logRace (w : Work) (low : Nat) (r : RaceReq) (reps : List (Nat × Nat × Nat × Word)) : Work :=
  match sortOn (fun e => e.2.2.1) reps with
  | [] => w
  | (kind, other, _, va) :: _ =>
    let count := w.num (areaKey low 3 0) 4
    let ls := maskOf fun l => reps.any fun e => e.2.2.1 == l
    let entry := 2 ^ 255 + count % 2 ^ 15 * 2 ^ 240 + kind * 2 ^ 232 + other * 2 ^ 208 + r.ge % 256 * 2 ^ 200
      + r.te % 256 * 2 ^ 192 + r.gid * 2 ^ 160 + ls.toNat * 2 ^ 128 + r.iaddr.toNat * 2 ^ 64 + va.toNat
    (w.putNum (areaKey low 3 (64 + 32 * (count % 1024))) 32 entry).putNum (areaKey low 3 0) 4 (count + 1)

/-- RACE_CHECK (R154 to R159): an access's check reaches the home slice; reports are logged, and in trap mode fault. Where a shadow word
is unreachable none of the instruction's checks is made, and the record names its first checked lane (assumption 44). -/
def execRaceCheck (id : Nat) (s : State) : Out :=
  event s fun w =>
    match w.d.races.find? fun r => r.id == id with
    | none => none
    | some r =>
      let w := w.mod fun d => { d with races := d.races.filter fun x => x.id != id }
      match r.lanes with
      | [] => some w
      | (_, pa0, va0) :: _ =>
        let t := ((w.d.crew r.crew).map (·.place.tower)).getD (r.gid / 2 ^ 21)
        match w.d.part t, w.d.ctxOf t with
        | some p, some x =>
          let f : FaultInfo :=
            { reason := .raceShadow, engine := .slice, tower := pa0 / 2 ^ 36 % 8, unit := homeSlice (flatTag pa0),
              crew := r.gid, iaddr := r.iaddr, aform := 1, addr := va0, lanes := maskOf fun l => r.lanes.any fun y => y.1 == l }
          if r.lanes.any fun y => !p.hbm (w.d.shadowKey y.2.1) then some (w.raise f)
          else
            let (reps, w) := w.raceLanes r r.lanes
            if reps.isEmpty || x.raceMode == 0 then some w
            else
              let w := w.logRace p.low r reps
              some (if x.raceMode == 2 then w.raise { f with reason := .raceDetected, lanes := maskOf fun l => reps.any fun e => e.2.2.1 == l } else w)
        | _, _ => some w

end Sys2Proof.Machine
end

