-- ==== Sys2Proof/Decode.lean ====
section
/-! DEFINITION. Decode: the decoder of the instruction words (R236 to R239, R249, R250), total, rejecting by
the class names of R377, and the encoder written from the same tables. Fields are cut out of the words here,
once. -/

noncomputable section

namespace Sys2Proof

/-- The `n` bits of `w` that begin at bit `lo`. -/
def bits (w lo n : Nat) : Nat := w / 2 ^ lo % 2 ^ n

/-- Bit `i` of `w`. -/
def bitAt (w i : Nat) : Bool := w / 2 ^ i % 2 == 1

/-- The value `v` placed at bit `lo`. -/
def put (v lo : Nat) : Nat := v * 2 ^ lo

/-- A flag placed at bit `lo`. -/
def flag (b : Bool) (lo : Nat) : Nat := if b then 2 ^ lo else 0

/-- The guard in bits 3 to 0 of a first word (R236). -/
def Guard.read (w : Nat) : Guard := { neg := bitAt w 3, p := .ofNat 3 (bits w 0 3) }

/-- The bits of a guard (R236). -/
def Guard.word (g : Guard) : Nat := g.p.toNat + flag g.neg 3

/-- Reads the fields of `OpG`. -/
def OpG.read (w : Nat) : OpG :=
  { g := Guard.read w }
/-- The first-word bits of `OpG`. -/
def OpG.word (o : OpG) : Nat :=
  o.g.word

/-- Reads the fields of `OpWaitc`. -/
def OpWaitc.read (w : Nat) : OpWaitc :=
  { cls := .ofNat 3 (bits w 16 3), thr := .ofNat 7 (bits w 10 6 + bits w 4 1 * 2 ^ 6), g := Guard.read w }
/-- The first-word bits of `OpWaitc`. -/
def OpWaitc.word (o : OpWaitc) : Nat :=
  put o.cls.toNat 16 + put (o.thr.toNat % 2 ^ 6) 10 + put (o.thr.toNat / 2 ^ 6) 4 + o.g.word

/-- Reads the fields of `OpSrd`. -/
def OpSrd.read (w : Nat) : OpSrd :=
  { d := .ofNat 6 (bits w 16 6), num := .ofNat 6 (bits w 10 6), g := Guard.read w }
/-- The first-word bits of `OpSrd`. -/
def OpSrd.word (o : OpSrd) : Nat :=
  put o.d.toNat 16 + put o.num.toNat 10 + o.g.word

/-- Reads the fields of `OpB`. -/
def OpB.read (w : Nat) : OpB :=
  { b := .ofNat 6 (bits w 4 6), g := Guard.read w }
/-- The first-word bits of `OpB`. -/
def OpB.word (o : OpB) : Nat :=
  put o.b.toNat 4 + o.g.word

/-- Reads the fields of `OpCode`. -/
def OpCode.read (w : Nat) : OpCode :=
  { code := .ofNat 12 (bits w 4 12), g := Guard.read w }
/-- The first-word bits of `OpCode`. -/
def OpCode.word (o : OpCode) : Nat :=
  put o.code.toNat 4 + o.g.word

/-- Reads the fields of `OpBar`. -/
def OpBar.read (w : Nat) : OpBar :=
  { n := .ofNat 6 (bits w 4 6), bar := .ofNat 4 (bits w 10 4), g := Guard.read w }
/-- The first-word bits of `OpBar`. -/
def OpBar.word (o : OpBar) : Nat :=
  put o.n.toNat 4 + put o.bar.toNat 10 + o.g.word

/-- Reads the fields of `OpBarw`. -/
def OpBarw.read (w : Nat) : OpBarw :=
  { bar := .ofNat 4 (bits w 10 4), g := Guard.read w }
/-- The first-word bits of `OpBarw`. -/
def OpBarw.word (o : OpBarw) : Nat :=
  put o.bar.toNat 10 + o.g.word

/-- Reads the fields of `OpFence`. -/
def OpFence.read (w : Nat) : OpFence :=
  { kind := .ofNat 2 (bits w 19 2), scope := .ofNat 3 (bits w 16 3), g := Guard.read w }
/-- The first-word bits of `OpFence`. -/
def OpFence.word (o : OpFence) : Nat :=
  put o.kind.toNat 19 + put o.scope.toNat 16 + o.g.word

/-- Reads the fields of `OpDA`. -/
def OpDA.read (w : Nat) : OpDA :=
  { d := .ofNat 6 (bits w 16 6), a := .ofNat 6 (bits w 10 6), g := Guard.read w }
/-- The first-word bits of `OpDA`. -/
def OpDA.word (o : OpDA) : Nat :=
  put o.d.toNat 16 + put o.a.toNat 10 + o.g.word

/-- Reads the fields of `OpRR`. -/
def OpRR.read (w : Nat) : OpRR :=
  { d := .ofNat 6 (bits w 16 6), a := .ofNat 6 (bits w 10 6), b := .ofNat 6 (bits w 4 6), g := Guard.read w }
/-- The first-word bits of `OpRR`. -/
def OpRR.word (o : OpRR) : Nat :=
  put o.d.toNat 16 + put o.a.toNat 10 + put o.b.toNat 4 + o.g.word

/-- Reads the fields of `OpDAW`. -/
def OpDAW.read (w : Nat) : OpDAW :=
  { d := .ofNat 6 (bits w 16 6), a := .ofNat 6 (bits w 10 6), w := .ofNat 2 (bits w 4 2), g := Guard.read w }
/-- The first-word bits of `OpDAW`. -/
def OpDAW.word (o : OpDAW) : Nat :=
  put o.d.toNat 16 + put o.a.toNat 10 + put o.w.toNat 4 + o.g.word

/-- Reads the fields of `OpIcmp`. -/
def OpIcmp.read (w : Nat) : OpIcmp :=
  { cond := .ofNat 4 (bits w 22 4), w32 := bitAt w 21, comb := .ofNat 2 (bits w 19 2), q := .ofNat 3 (bits w 16 3), a := .ofNat 6 (bits w 10 6), b := .ofNat 6 (bits w 4 6), g := Guard.read w }
/-- The first-word bits of `OpIcmp`. -/
def OpIcmp.word (o : OpIcmp) : Nat :=
  put o.cond.toNat 22 + flag o.w32 21 + put o.comb.toNat 19 + put o.q.toNat 16 + put o.a.toNat 10 + put o.b.toNat 4 + o.g.word

/-- Reads the fields of `OpRI`. -/
def OpRI.read (w : Nat) : OpRI :=
  { d := .ofNat 6 (bits w 20 6), a := .ofNat 6 (bits w 14 6), imm := .ofNat 10 (bits w 4 10), g := Guard.read w }
/-- The first-word bits of `OpRI`. -/
def OpRI.word (o : OpRI) : Nat :=
  put o.d.toNat 20 + put o.a.toNat 14 + put o.imm.toNat 4 + o.g.word

/-- Reads the fields of `OpShi`. -/
def OpShi.read (w : Nat) : OpShi :=
  { d := .ofNat 6 (bits w 20 6), a := .ofNat 6 (bits w 14 6), w := .ofNat 2 (bits w 10 2), cnt := .ofNat 6 (bits w 4 6), g := Guard.read w }
/-- The first-word bits of `OpShi`. -/
def OpShi.word (o : OpShi) : Nat :=
  put o.d.toNat 20 + put o.a.toNat 14 + put o.w.toNat 10 + put o.cnt.toNat 4 + o.g.word

/-- Reads the fields of `OpCmpi`. -/
def OpCmpi.read (w : Nat) : OpCmpi :=
  { cond := .ofNat 3 (bits w 23 3), q := .ofNat 3 (bits w 20 3), a := .ofNat 6 (bits w 14 6), imm := .ofNat 10 (bits w 4 10), g := Guard.read w }
/-- The first-word bits of `OpCmpi`. -/
def OpCmpi.word (o : OpCmpi) : Nat :=
  put o.cond.toNat 23 + put o.q.toNat 20 + put o.a.toNat 14 + put o.imm.toNat 4 + o.g.word

/-- Reads the fields of `OpMovi`. -/
def OpMovi.read (w : Nat) : OpMovi :=
  { d := .ofNat 6 (bits w 20 6), imm := .ofNat 16 (bits w 4 16), g := Guard.read w }
/-- The first-word bits of `OpMovi`. -/
def OpMovi.word (o : OpMovi) : Nat :=
  put o.d.toNat 20 + put o.imm.toNat 4 + o.g.word

/-- Reads the fields of `OpLea`. -/
def OpLea.read (w : Nat) : OpLea :=
  { sh := .ofNat 4 (bits w 22 4), d := .ofNat 6 (bits w 16 6), a := .ofNat 6 (bits w 10 6), b := .ofNat 6 (bits w 4 6), g := Guard.read w }
/-- The first-word bits of `OpLea`. -/
def OpLea.word (o : OpLea) : Nat :=
  put o.sh.toNat 22 + put o.d.toNat 16 + put o.a.toNat 10 + put o.b.toNat 4 + o.g.word

/-- Reads the fields of `OpF8`. -/
def OpF8.read (w : Nat) : OpF8 :=
  { e5m2 := bitAt w 25, d := .ofNat 6 (bits w 16 6), a := .ofNat 6 (bits w 10 6), b := .ofNat 6 (bits w 4 6), g := Guard.read w }
/-- The first-word bits of `OpF8`. -/
def OpF8.word (o : OpF8) : Nat :=
  flag o.e5m2 25 + put o.d.toNat 16 + put o.a.toNat 10 + put o.b.toNat 4 + o.g.word

/-- Reads the fields of `OpFcmp`. -/
def OpFcmp.read (w : Nat) : OpFcmp :=
  { cond := .ofNat 4 (bits w 22 4), fmt := .ofNat 2 (bits w 20 2), conj := bitAt w 19, q := .ofNat 3 (bits w 16 3), a := .ofNat 6 (bits w 10 6), b := .ofNat 6 (bits w 4 6), g := Guard.read w }
/-- The first-word bits of `OpFcmp`. -/
def OpFcmp.word (o : OpFcmp) : Nat :=
  put o.cond.toNat 22 + put o.fmt.toNat 20 + flag o.conj 19 + put o.q.toNat 16 + put o.a.toNat 10 + put o.b.toNat 4 + o.g.word

/-- Reads the fields of `OpCvt`. -/
def OpCvt.read (w : Nat) : OpCvt :=
  { dst := .ofNat 4 (bits w 22 4), d := .ofNat 6 (bits w 16 6), a := .ofNat 6 (bits w 10 6), sat := bitAt w 8, src := .ofNat 4 (bits w 4 4), g := Guard.read w }
/-- The first-word bits of `OpCvt`. -/
def OpCvt.word (o : OpCvt) : Nat :=
  put o.dst.toNat 22 + put o.d.toNat 16 + put o.a.toNat 10 + flag o.sat 8 + put o.src.toNat 4 + o.g.word

/-- Reads the fields of `OpCvts`. -/
def OpCvts.read (w : Nat) : OpCvts :=
  { slot := .ofNat 3 (bits w 22 3), d := .ofNat 6 (bits w 16 6), a := .ofNat 6 (bits w 10 6), b := .ofNat 6 (bits w 4 6), g := Guard.read w }
/-- The first-word bits of `OpCvts`. -/
def OpCvts.word (o : OpCvts) : Nat :=
  put o.slot.toNat 22 + put o.d.toNat 16 + put o.a.toNat 10 + put o.b.toNat 4 + o.g.word

/-- Reads the fields of `OpLane`. -/
def OpLane.read (w : Nat) : OpLane :=
  { d := .ofNat 6 (bits w 16 6), a := .ofNat 6 (bits w 10 6), k := .ofNat 5 (bits w 4 5), g := Guard.read w }
/-- The first-word bits of `OpLane`. -/
def OpLane.word (o : OpLane) : Nat :=
  put o.d.toNat 16 + put o.a.toNat 10 + put o.k.toNat 4 + o.g.word

/-- Reads the fields of `OpRed`. -/
def OpRed.read (w : Nat) : OpRed :=
  { d := .ofNat 6 (bits w 16 6), a := .ofNat 6 (bits w 10 6), fn := .ofNat 4 (bits w 6 4), t := .ofNat 2 (bits w 4 2), g := Guard.read w }
/-- The first-word bits of `OpRed`. -/
def OpRed.word (o : OpRed) : Nat :=
  put o.d.toNat 16 + put o.a.toNat 10 + put o.fn.toNat 6 + put o.t.toNat 4 + o.g.word

/-- Reads the fields of `OpMatch`. -/
def OpMatch.read (w : Nat) : OpMatch :=
  { d := .ofNat 6 (bits w 16 6), a := .ofNat 6 (bits w 10 6), k32 := bitAt w 4, g := Guard.read w }
/-- The first-word bits of `OpMatch`. -/
def OpMatch.word (o : OpMatch) : Nat :=
  put o.d.toNat 16 + put o.a.toNat 10 + flag o.k32 4 + o.g.word

/-- Reads the fields of `OpBallot`. -/
def OpBallot.read (w : Nat) : OpBallot :=
  { d := .ofNat 6 (bits w 16 6), neg := bitAt w 9, q := .ofNat 3 (bits w 4 3), g := Guard.read w }
/-- The first-word bits of `OpBallot`. -/
def OpBallot.word (o : OpBallot) : Nat :=
  put o.d.toNat 16 + flag o.neg 9 + put o.q.toNat 4 + o.g.word

/-- Reads the fields of `OpVote`. -/
def OpVote.read (w : Nat) : OpVote :=
  { q := .ofNat 3 (bits w 16 3), mode := .ofNat 2 (bits w 10 2), neg := bitAt w 9, s := .ofNat 3 (bits w 4 3), g := Guard.read w }
/-- The first-word bits of `OpVote`. -/
def OpVote.word (o : OpVote) : Nat :=
  put o.q.toNat 16 + put o.mode.toNat 10 + flag o.neg 9 + put o.s.toNat 4 + o.g.word

/-- Reads the fields of `OpD`. -/
def OpD.read (w : Nat) : OpD :=
  { d := .ofNat 6 (bits w 16 6), g := Guard.read w }
/-- The first-word bits of `OpD`. -/
def OpD.word (o : OpD) : Nat :=
  put o.d.toNat 16 + o.g.word

/-- Reads the fields of `OpPset`. -/
def OpPset.read (w : Nat) : OpPset :=
  { q := .ofNat 3 (bits w 16 3), a := .ofNat 6 (bits w 10 6), bit := .ofNat 6 (bits w 4 6), g := Guard.read w }
/-- The first-word bits of `OpPset`. -/
def OpPset.word (o : OpPset) : Nat :=
  put o.q.toNat 16 + put o.a.toNat 10 + put o.bit.toNat 4 + o.g.word

/-- Reads the fields of `OpPP`. -/
def OpPP.read (w : Nat) : OpPP :=
  { q := .ofNat 3 (bits w 16 3), neg1 := bitAt w 15, s1 := .ofNat 3 (bits w 10 3), neg2 := bitAt w 9, s2 := .ofNat 3 (bits w 4 3), g := Guard.read w }
/-- The first-word bits of `OpPP`. -/
def OpPP.word (o : OpPP) : Nat :=
  put o.q.toNat 16 + flag o.neg1 15 + put o.s1.toNat 10 + flag o.neg2 9 + put o.s2.toNat 4 + o.g.word

/-- Reads the fields of `OpPnot`. -/
def OpPnot.read (w : Nat) : OpPnot :=
  { q := .ofNat 3 (bits w 16 3), neg1 := bitAt w 15, s1 := .ofNat 3 (bits w 10 3), g := Guard.read w }
/-- The first-word bits of `OpPnot`. -/
def OpPnot.word (o : OpPnot) : Nat :=
  put o.q.toNat 16 + flag o.neg1 15 + put o.s1.toNat 10 + o.g.word

/-- Reads the fields of `OpTagr`. -/
def OpTagr.read (w : Nat) : OpTagr :=
  { d := .ofNat 6 (bits w 16 6), h := bitAt w 4, g := Guard.read w }
/-- The first-word bits of `OpTagr`. -/
def OpTagr.word (o : OpTagr) : Nat :=
  put o.d.toNat 16 + flag o.h 4 + o.g.word

/-- Reads the fields of `OpBr`. -/
def OpBr.read (w : Nat) : OpBr :=
  { disp := .ofNat 22 (bits w 4 22), g := Guard.read w }
/-- The first-word bits of `OpBr`. -/
def OpBr.word (o : OpBr) : Nat :=
  put o.disp.toNat 4 + o.g.word

/-- Reads the fields of `OpA`. -/
def OpA.read (w : Nat) : OpA :=
  { a := .ofNat 6 (bits w 10 6), g := Guard.read w }
/-- The first-word bits of `OpA`. -/
def OpA.word (o : OpA) : Nat :=
  put o.a.toNat 10 + o.g.word

/-- Reads the fields of `OpRep`. -/
def OpRep.read (w : Nat) : OpRep :=
  { cnt := .ofNat 6 (bits w 20 6), stepD := bitAt w 19, stepA := bitAt w 18, stepB := bitAt w 17, step := .ofNat 4 (bits w 13 4) }
/-- The first-word bits of `OpRep`. -/
def OpRep.word (o : OpRep) : Nat :=
  put o.cnt.toNat 20 + flag o.stepD 19 + flag o.stepA 18 + flag o.stepB 17 + put o.step.toNat 13

/-- Reads the fields of `OpMovx`. -/
def OpMovx.read (w x : Nat) : OpMovx :=
  { d := .ofNat 6 (bits w 16 6), la := .ofNat 4 (bits x 28 4), imm := .ofNat 28 (bits x 0 28), g := Guard.read w }
/-- The first-word bits of `OpMovx`. -/
def OpMovx.word (o : OpMovx) : Nat :=
  put o.d.toNat 16 + o.g.word
/-- The extension bits of `OpMovx`. -/
def OpMovx.ext (o : OpMovx) : Nat :=
  put o.la.toNat 28 + put o.imm.toNat 0

/-- Reads the fields of `OpMovxHi`. -/
def OpMovxHi.read (w x : Nat) : OpMovxHi :=
  { d := .ofNat 6 (bits w 16 6), la := .ofNat 4 (bits x 28 4), imm := .ofNat 8 (bits x 0 8), g := Guard.read w }
/-- The first-word bits of `OpMovxHi`. -/
def OpMovxHi.word (o : OpMovxHi) : Nat :=
  put o.d.toNat 16 + o.g.word
/-- The extension bits of `OpMovxHi`. -/
def OpMovxHi.ext (o : OpMovxHi) : Nat :=
  put o.la.toNat 28 + put o.imm.toNat 0

/-- Reads the fields of `OpBfxi`. -/
def OpBfxi.read (w x : Nat) : OpBfxi :=
  { d := .ofNat 6 (bits w 16 6), a := .ofNat 6 (bits w 10 6), la := .ofNat 4 (bits x 28 4), wid := .ofNat 7 (bits x 8 7), off := .ofNat 6 (bits x 0 6), g := Guard.read w }
/-- The first-word bits of `OpBfxi`. -/
def OpBfxi.word (o : OpBfxi) : Nat :=
  put o.d.toNat 16 + put o.a.toNat 10 + o.g.word
/-- The extension bits of `OpBfxi`. -/
def OpBfxi.ext (o : OpBfxi) : Nat :=
  put o.la.toNat 28 + put o.wid.toNat 8 + put o.off.toNat 0

/-- Reads the fields of `OpLd`. -/
def OpLd.read (w x : Nat) : OpLd :=
  { d := .ofNat 6 (bits w 16 6), a := .ofNat 6 (bits w 10 6), la := .ofNat 4 (bits x 28 4), space := .ofNat 3 (bits x 25 3), scope := .ofNat 3 (bits x 22 3), order := .ofNat 2 (bits x 20 2), hint := .ofNat 2 (bits x 18 2), off := .ofNat 18 (bits x 0 18), g := Guard.read w }
/-- The first-word bits of `OpLd`. -/
def OpLd.word (o : OpLd) : Nat :=
  put o.d.toNat 16 + put o.a.toNat 10 + o.g.word
/-- The extension bits of `OpLd`. -/
def OpLd.ext (o : OpLd) : Nat :=
  put o.la.toNat 28 + put o.space.toNat 25 + put o.scope.toNat 22 + put o.order.toNat 20 + put o.hint.toNat 18 + put o.off.toNat 0

/-- Reads the fields of `OpSt`. -/
def OpSt.read (w x : Nat) : OpSt :=
  { a := .ofNat 6 (bits w 10 6), b := .ofNat 6 (bits w 4 6), la := .ofNat 4 (bits x 28 4), space := .ofNat 3 (bits x 25 3), scope := .ofNat 3 (bits x 22 3), order := .ofNat 2 (bits x 20 2), hint := .ofNat 2 (bits x 18 2), off := .ofNat 18 (bits x 0 18), g := Guard.read w }
/-- The first-word bits of `OpSt`. -/
def OpSt.word (o : OpSt) : Nat :=
  put o.a.toNat 10 + put o.b.toNat 4 + o.g.word
/-- The extension bits of `OpSt`. -/
def OpSt.ext (o : OpSt) : Nat :=
  put o.la.toNat 28 + put o.space.toNat 25 + put o.scope.toNat 22 + put o.order.toNat 20 + put o.hint.toNat 18 + put o.off.toNat 0

/-- Reads the fields of `OpAd`. -/
def OpAd.read (w x : Nat) : OpAd :=
  { a := .ofNat 6 (bits w 10 6), la := .ofNat 4 (bits x 28 4), space := .ofNat 3 (bits x 25 3), scope := .ofNat 3 (bits x 22 3), order := .ofNat 2 (bits x 20 2), hint := .ofNat 2 (bits x 18 2), off := .ofNat 18 (bits x 0 18), g := Guard.read w }
/-- The first-word bits of `OpAd`. -/
def OpAd.word (o : OpAd) : Nat :=
  put o.a.toNat 10 + o.g.word
/-- The extension bits of `OpAd`. -/
def OpAd.ext (o : OpAd) : Nat :=
  put o.la.toNat 28 + put o.space.toNat 25 + put o.scope.toNat 22 + put o.order.toNat 20 + put o.hint.toNat 18 + put o.off.toNat 0

/-- Reads the fields of `OpDabExt`. -/
def OpDabExt.read (w x : Nat) : OpDabExt :=
  { d := .ofNat 6 (bits w 16 6), a := .ofNat 6 (bits w 10 6), b := .ofNat 6 (bits w 4 6), la := .ofNat 4 (bits x 28 4), space := .ofNat 3 (bits x 25 3), scope := .ofNat 3 (bits x 22 3), order := .ofNat 2 (bits x 20 2), hint := .ofNat 2 (bits x 18 2), off := .ofNat 18 (bits x 0 18), g := Guard.read w }
/-- The first-word bits of `OpDabExt`. -/
def OpDabExt.word (o : OpDabExt) : Nat :=
  put o.d.toNat 16 + put o.a.toNat 10 + put o.b.toNat 4 + o.g.word
/-- The extension bits of `OpDabExt`. -/
def OpDabExt.ext (o : OpDabExt) : Nat :=
  put o.la.toNat 28 + put o.space.toNat 25 + put o.scope.toNat 22 + put o.order.toNat 20 + put o.hint.toNat 18 + put o.off.toNat 0

/-- Reads the fields of `OpTileMem`. -/
def OpTileMem.read (w x : Nat) : OpTileMem :=
  { tile := .ofNat 6 (bits w 16 6), a := .ofNat 6 (bits w 10 6), b := .ofNat 6 (bits w 4 6), la := .ofNat 4 (bits x 28 4), space := .ofNat 3 (bits x 25 3), scope := .ofNat 3 (bits x 22 3), order := .ofNat 2 (bits x 20 2), hint := .ofNat 2 (bits x 18 2), off := .ofNat 18 (bits x 0 18), g := Guard.read w }
/-- The first-word bits of `OpTileMem`. -/
def OpTileMem.word (o : OpTileMem) : Nat :=
  put o.tile.toNat 16 + put o.a.toNat 10 + put o.b.toNat 4 + o.g.word
/-- The extension bits of `OpTileMem`. -/
def OpTileMem.ext (o : OpTileMem) : Nat :=
  put o.la.toNat 28 + put o.space.toNat 25 + put o.scope.toNat 22 + put o.order.toNat 20 + put o.hint.toNat 18 + put o.off.toNat 0

/-- Reads the fields of `OpAt`. -/
def OpAt.read (w x : Nat) : OpAt :=
  { d := .ofNat 6 (bits w 16 6), a := .ofNat 6 (bits w 10 6), b := .ofNat 6 (bits w 4 6), la := .ofNat 4 (bits x 28 4), space := .ofNat 3 (bits x 25 3), scope := .ofNat 3 (bits x 22 3), order := .ofNat 2 (bits x 20 2), ord := bitAt x 19, typ := .ofNat 3 (bits x 16 3), off := .ofNat 16 (bits x 0 16), g := Guard.read w }
/-- The first-word bits of `OpAt`. -/
def OpAt.word (o : OpAt) : Nat :=
  put o.d.toNat 16 + put o.a.toNat 10 + put o.b.toNat 4 + o.g.word
/-- The extension bits of `OpAt`. -/
def OpAt.ext (o : OpAt) : Nat :=
  put o.la.toNat 28 + put o.space.toNat 25 + put o.scope.toNat 22 + put o.order.toNat 20 + flag o.ord 19 + put o.typ.toNat 16 + put o.off.toNat 0

/-- Reads the fields of `OpAtn`. -/
def OpAtn.read (w x : Nat) : OpAtn :=
  { a := .ofNat 6 (bits w 10 6), b := .ofNat 6 (bits w 4 6), la := .ofNat 4 (bits x 28 4), space := .ofNat 3 (bits x 25 3), scope := .ofNat 3 (bits x 22 3), order := .ofNat 2 (bits x 20 2), ord := bitAt x 19, typ := .ofNat 3 (bits x 16 3), off := .ofNat 16 (bits x 0 16), g := Guard.read w }
/-- The first-word bits of `OpAtn`. -/
def OpAtn.word (o : OpAtn) : Nat :=
  put o.a.toNat 10 + put o.b.toNat 4 + o.g.word
/-- The extension bits of `OpAtn`. -/
def OpAtn.ext (o : OpAtn) : Nat :=
  put o.la.toNat 28 + put o.space.toNat 25 + put o.scope.toNat 22 + put o.order.toNat 20 + flag o.ord 19 + put o.typ.toNat 16 + put o.off.toNat 0

/-- Reads the fields of `OpTkDA`. -/
def OpTkDA.read (w x : Nat) : OpTkDA :=
  { d := .ofNat 6 (bits w 16 6), a := .ofNat 6 (bits w 10 6), la := .ofNat 4 (bits x 28 4), off := .ofNat 18 (bits x 0 18), g := Guard.read w }
/-- The first-word bits of `OpTkDA`. -/
def OpTkDA.word (o : OpTkDA) : Nat :=
  put o.d.toNat 16 + put o.a.toNat 10 + o.g.word
/-- The extension bits of `OpTkDA`. -/
def OpTkDA.ext (o : OpTkDA) : Nat :=
  put o.la.toNat 28 + put o.off.toNat 0

/-- Reads the fields of `OpTkAB`. -/
def OpTkAB.read (w x : Nat) : OpTkAB :=
  { a := .ofNat 6 (bits w 10 6), b := .ofNat 6 (bits w 4 6), la := .ofNat 4 (bits x 28 4), off := .ofNat 18 (bits x 0 18), g := Guard.read w }
/-- The first-word bits of `OpTkAB`. -/
def OpTkAB.word (o : OpTkAB) : Nat :=
  put o.a.toNat 10 + put o.b.toNat 4 + o.g.word
/-- The extension bits of `OpTkAB`. -/
def OpTkAB.ext (o : OpTkAB) : Nat :=
  put o.la.toNat 28 + put o.off.toNat 0

/-- Reads the fields of `OpTkDAB`. -/
def OpTkDAB.read (w x : Nat) : OpTkDAB :=
  { d := .ofNat 6 (bits w 16 6), a := .ofNat 6 (bits w 10 6), b := .ofNat 6 (bits w 4 6), la := .ofNat 4 (bits x 28 4), off := .ofNat 18 (bits x 0 18), g := Guard.read w }
/-- The first-word bits of `OpTkDAB`. -/
def OpTkDAB.word (o : OpTkDAB) : Nat :=
  put o.d.toNat 16 + put o.a.toNat 10 + put o.b.toNat 4 + o.g.word
/-- The extension bits of `OpTkDAB`. -/
def OpTkDAB.ext (o : OpTkDAB) : Nat :=
  put o.la.toNat 28 + put o.off.toNat 0

/-- Reads the fields of `OpTkDB`. -/
def OpTkDB.read (w x : Nat) : OpTkDB :=
  { d := .ofNat 6 (bits w 16 6), b := .ofNat 6 (bits w 4 6), la := .ofNat 4 (bits x 28 4), off := .ofNat 18 (bits x 0 18), g := Guard.read w }
/-- The first-word bits of `OpTkDB`. -/
def OpTkDB.word (o : OpTkDB) : Nat :=
  put o.d.toNat 16 + put o.b.toNat 4 + o.g.word
/-- The extension bits of `OpTkDB`. -/
def OpTkDB.ext (o : OpTkDB) : Nat :=
  put o.la.toNat 28 + put o.off.toNat 0

/-- Reads the fields of `OpTkQA`. -/
def OpTkQA.read (w x : Nat) : OpTkQA :=
  { q := .ofNat 3 (bits w 16 3), a := .ofNat 6 (bits w 10 6), la := .ofNat 4 (bits x 28 4), off := .ofNat 18 (bits x 0 18), g := Guard.read w }
/-- The first-word bits of `OpTkQA`. -/
def OpTkQA.word (o : OpTkQA) : Nat :=
  put o.q.toNat 16 + put o.a.toNat 10 + o.g.word
/-- The extension bits of `OpTkQA`. -/
def OpTkQA.ext (o : OpTkQA) : Nat :=
  put o.la.toNat 28 + put o.off.toNat 0

/-- Reads the fields of `OpTkA`. -/
def OpTkA.read (w x : Nat) : OpTkA :=
  { a := .ofNat 6 (bits w 10 6), la := .ofNat 4 (bits x 28 4), off := .ofNat 18 (bits x 0 18), g := Guard.read w }
/-- The first-word bits of `OpTkA`. -/
def OpTkA.word (o : OpTkA) : Nat :=
  put o.a.toNat 10 + o.g.word
/-- The extension bits of `OpTkA`. -/
def OpTkA.ext (o : OpTkA) : Nat :=
  put o.la.toNat 28 + put o.off.toNat 0

/-- Reads the fields of `OpTkRel`. -/
def OpTkRel.read (w x : Nat) : OpTkRel :=
  { a := .ofNat 6 (bits w 10 6), buf := bitAt x 20, la := .ofNat 4 (bits x 28 4), off := .ofNat 18 (bits x 0 18), g := Guard.read w }
/-- The first-word bits of `OpTkRel`. -/
def OpTkRel.word (o : OpTkRel) : Nat :=
  put o.a.toNat 10 + o.g.word
/-- The extension bits of `OpTkRel`. -/
def OpTkRel.ext (o : OpTkRel) : Nat :=
  flag o.buf 20 + put o.la.toNat 28 + put o.off.toNat 0

/-- Reads the fields of `OpTkG`. -/
def OpTkG.read (w x : Nat) : OpTkG :=
  { la := .ofNat 4 (bits x 28 4), off := .ofNat 18 (bits x 0 18), g := Guard.read w }
/-- The first-word bits of `OpTkG`. -/
def OpTkG.word (o : OpTkG) : Nat :=
  o.g.word
/-- The extension bits of `OpTkG`. -/
def OpTkG.ext (o : OpTkG) : Nat :=
  put o.la.toNat 28 + put o.off.toNat 0

/-- Reads the fields of `OpMma`. -/
def OpMma.read (w x : Nat) : OpMma :=
  { a := .ofNat 6 (bits w 10 6), b := .ofNat 6 (bits w 4 6), la := .ofNat 4 (bits x 28 4), aslot := .ofNat 3 (bits x 25 3), bslot := .ofNat 3 (bits x 22 3), tile := .ofNat 6 (bits x 16 6), km1 := .ofNat 12 (bits x 4 12), clr := bitAt x 2, skip := bitAt x 1, cplx := bitAt x 0, g := Guard.read w }
/-- The first-word bits of `OpMma`. -/
def OpMma.word (o : OpMma) : Nat :=
  put o.a.toNat 10 + put o.b.toNat 4 + o.g.word
/-- The extension bits of `OpMma`. -/
def OpMma.ext (o : OpMma) : Nat :=
  put o.la.toNat 28 + put o.aslot.toNat 25 + put o.bslot.toNat 22 + put o.tile.toNat 16 + put o.km1.toNat 4 + flag o.clr 2 + flag o.skip 1 + flag o.cplx 0

/-- Reads the fields of `OpMmap`. -/
def OpMmap.read (w x : Nat) : OpMmap :=
  { d := .ofNat 6 (bits w 16 6), a := .ofNat 6 (bits w 10 6), b := .ofNat 6 (bits w 4 6), la := .ofNat 4 (bits x 28 4), aslot := .ofNat 3 (bits x 25 3), bslot := .ofNat 3 (bits x 22 3), tile := .ofNat 6 (bits x 16 6), km1 := .ofNat 10 (bits x 6 10), dir := .ofNat 2 (bits x 4 2), clr := bitAt x 2, skip := bitAt x 1, cplx := bitAt x 0, g := Guard.read w }
/-- The first-word bits of `OpMmap`. -/
def OpMmap.word (o : OpMmap) : Nat :=
  put o.d.toNat 16 + put o.a.toNat 10 + put o.b.toNat 4 + o.g.word
/-- The extension bits of `OpMmap`. -/
def OpMmap.ext (o : OpMmap) : Nat :=
  put o.la.toNat 28 + put o.aslot.toNat 25 + put o.bslot.toNat 22 + put o.tile.toNat 16 + put o.km1.toNat 6 + put o.dir.toNat 4 + flag o.clr 2 + flag o.skip 1 + flag o.cplx 0

/-- Reads the fields of `OpMmapP`. -/
def OpMmapP.read (w x : Nat) : OpMmapP :=
  { d := .ofNat 6 (bits w 16 6), a := .ofNat 6 (bits w 10 6), b := .ofNat 6 (bits w 4 6), la := .ofNat 4 (bits x 28 4), aslot := .ofNat 3 (bits x 25 3), bslot := .ofNat 3 (bits x 22 3), km1 := .ofNat 10 (bits x 6 10), dir := .ofNat 2 (bits x 4 2), skip := bitAt x 1, cplx := bitAt x 0, g := Guard.read w }
/-- The first-word bits of `OpMmapP`. -/
def OpMmapP.word (o : OpMmapP) : Nat :=
  put o.d.toNat 16 + put o.a.toNat 10 + put o.b.toNat 4 + o.g.word
/-- The extension bits of `OpMmapP`. -/
def OpMmapP.ext (o : OpMmapP) : Nat :=
  put o.la.toNat 28 + put o.aslot.toNat 25 + put o.bslot.toNat 22 + put o.km1.toNat 6 + put o.dir.toNat 4 + flag o.skip 1 + flag o.cplx 0

/-- Reads the fields of `OpMacz`. -/
def OpMacz.read (w x : Nat) : OpMacz :=
  { tile := .ofNat 6 (bits w 16 6), la := .ofNat 4 (bits x 28 4), ntm1 := .ofNat 3 (bits x 0 3), g := Guard.read w }
/-- The first-word bits of `OpMacz`. -/
def OpMacz.word (o : OpMacz) : Nat :=
  put o.tile.toNat 16 + o.g.word
/-- The extension bits of `OpMacz`. -/
def OpMacz.ext (o : OpMacz) : Nat :=
  put o.la.toNat 28 + put o.ntm1.toNat 0

/-- Reads the fields of `OpRstat`. -/
def OpRstat.read (w x : Nat) : OpRstat :=
  { d := .ofNat 6 (bits w 16 6), la := .ofNat 4 (bits x 28 4), tile := .ofNat 6 (bits x 0 6), g := Guard.read w }
/-- The first-word bits of `OpRstat`. -/
def OpRstat.word (o : OpRstat) : Nat :=
  put o.d.toNat 16 + o.g.word
/-- The extension bits of `OpRstat`. -/
def OpRstat.ext (o : OpRstat) : Nat :=
  put o.la.toNat 28 + put o.tile.toNat 0

/-- Reads the fields of `OpXA`. -/
def OpXA.read (w x : Nat) : OpXA :=
  { a := .ofNat 6 (bits w 10 6), la := .ofNat 4 (bits x 28 4), g := Guard.read w }
/-- The first-word bits of `OpXA`. -/
def OpXA.word (o : OpXA) : Nat :=
  put o.a.toNat 10 + o.g.word
/-- The extension bits of `OpXA`. -/
def OpXA.ext (o : OpXA) : Nat :=
  put o.la.toNat 28

/-- Reads the fields of `OpXG`. -/
def OpXG.read (w x : Nat) : OpXG :=
  { la := .ofNat 4 (bits x 28 4), g := Guard.read w }
/-- The first-word bits of `OpXG`. -/
def OpXG.word (o : OpXG) : Nat :=
  o.g.word
/-- The extension bits of `OpXG`. -/
def OpXG.ext (o : OpXG) : Nat :=
  put o.la.toNat 28

/-- Reads the fields of `OpBpass`. -/
def OpBpass.read (w x : Nat) : OpBpass :=
  { la := .ofNat 4 (bits x 28 4), expl := bitAt x 5, tgt := .ofNat 5 (bits x 0 5), g := Guard.read w }
/-- The first-word bits of `OpBpass`. -/
def OpBpass.word (o : OpBpass) : Nat :=
  o.g.word
/-- The extension bits of `OpBpass`. -/
def OpBpass.ext (o : OpBpass) : Nat :=
  put o.la.toNat 28 + flag o.expl 5 + put o.tgt.toNat 0

/-- Reads the fields of `OpNls`. -/
def OpNls.read (w x : Nat) : OpNls :=
  { a := .ofNat 6 (bits w 10 6), la := .ofNat 4 (bits x 28 4), dir := .ofNat 2 (bits x 0 2), g := Guard.read w }
/-- The first-word bits of `OpNls`. -/
def OpNls.word (o : OpNls) : Nat :=
  put o.a.toNat 10 + o.g.word
/-- The extension bits of `OpNls`. -/
def OpNls.ext (o : OpNls) : Nat :=
  put o.la.toNat 28 + put o.dir.toNat 0

/-- Reads the fields of `OpNlr`. -/
def OpNlr.read (w x : Nat) : OpNlr :=
  { d := .ofNat 6 (bits w 16 6), la := .ofNat 4 (bits x 28 4), dir := .ofNat 2 (bits x 0 2), g := Guard.read w }
/-- The first-word bits of `OpNlr`. -/
def OpNlr.word (o : OpNlr) : Nat :=
  put o.d.toNat 16 + o.g.word
/-- The extension bits of `OpNlr`. -/
def OpNlr.ext (o : OpNlr) : Nat :=
  put o.la.toNat 28 + put o.dir.toNat 0

/-- Reads the fields of `OpMscl`. -/
def OpMscl.read (w x : Nat) : OpMscl :=
  { sa := .ofNat 6 (bits w 10 6), sb := .ofNat 6 (bits w 4 6), la := .ofNat 4 (bits x 28 4), g := Guard.read w }
/-- The first-word bits of `OpMscl`. -/
def OpMscl.word (o : OpMscl) : Nat :=
  put o.sa.toNat 10 + put o.sb.toNat 4 + o.g.word
/-- The extension bits of `OpMscl`. -/
def OpMscl.ext (o : OpMscl) : Nat :=
  put o.la.toNat 28

/-- Reads the fields of `OpKcpl`. -/
def OpKcpl.read (w x : Nat) : OpKcpl :=
  { a := .ofNat 6 (bits w 10 6), b := .ofNat 6 (bits w 4 6), la := .ofNat 4 (bits x 28 4), space := .ofNat 3 (bits x 25 3), row0 := .ofNat 8 (bits x 8 8), nm1 := .ofNat 8 (bits x 0 8), g := Guard.read w }
/-- The first-word bits of `OpKcpl`. -/
def OpKcpl.word (o : OpKcpl) : Nat :=
  put o.a.toNat 10 + put o.b.toNat 4 + o.g.word
/-- The extension bits of `OpKcpl`. -/
def OpKcpl.ext (o : OpKcpl) : Nat :=
  put o.la.toNat 28 + put o.space.toNat 25 + put o.row0.toNat 8 + put o.nm1.toNat 0

/-- Reads the fields of `OpKbias`. -/
def OpKbias.read (w x : Nat) : OpKbias :=
  { a := .ofNat 6 (bits w 10 6), b := .ofNat 6 (bits w 4 6), la := .ofNat 4 (bits x 28 4), space := .ofNat 3 (bits x 25 3), bonly := bitAt x 24, g := Guard.read w }
/-- The first-word bits of `OpKbias`. -/
def OpKbias.word (o : OpKbias) : Nat :=
  put o.a.toNat 10 + put o.b.toNat 4 + o.g.word
/-- The extension bits of `OpKbias`. -/
def OpKbias.ext (o : OpKbias) : Nat :=
  put o.la.toNat 28 + put o.space.toNat 25 + flag o.bonly 24

/-- Reads the fields of `OpXAB`. -/
def OpXAB.read (w x : Nat) : OpXAB :=
  { a := .ofNat 6 (bits w 10 6), b := .ofNat 6 (bits w 4 6), la := .ofNat 4 (bits x 28 4), g := Guard.read w }
/-- The first-word bits of `OpXAB`. -/
def OpXAB.word (o : OpXAB) : Nat :=
  put o.a.toNat 10 + put o.b.toNat 4 + o.g.word
/-- The extension bits of `OpXAB`. -/
def OpXAB.ext (o : OpXAB) : Nat :=
  put o.la.toNat 28

/-- Reads the fields of `OpXB`. -/
def OpXB.read (w x : Nat) : OpXB :=
  { b := .ofNat 6 (bits w 4 6), la := .ofNat 4 (bits x 28 4), g := Guard.read w }
/-- The first-word bits of `OpXB`. -/
def OpXB.word (o : OpXB) : Nat :=
  put o.b.toNat 4 + o.g.word
/-- The extension bits of `OpXB`. -/
def OpXB.ext (o : OpXB) : Nat :=
  put o.la.toNat 28

/-- Reads the fields of `OpKswp`. -/
def OpKswp.read (w x : Nat) : OpKswp :=
  { a := .ofNat 6 (bits w 10 6), b := .ofNat 6 (bits w 4 6), la := .ofNat 4 (bits x 28 4), nm1 := .ofNat 16 (bits x 12 16), pub := bitAt x 11, fin := bitAt x 10, g := Guard.read w }
/-- The first-word bits of `OpKswp`. -/
def OpKswp.word (o : OpKswp) : Nat :=
  put o.a.toNat 10 + put o.b.toNat 4 + o.g.word
/-- The extension bits of `OpKswp`. -/
def OpKswp.ext (o : OpKswp) : Nat :=
  put o.la.toNat 28 + put o.nm1.toNat 12 + flag o.pub 11 + flag o.fin 10

/-- Reads the fields of `OpKcnt`. -/
def OpKcnt.read (w x : Nat) : OpKcnt :=
  { d := .ofNat 6 (bits w 16 6), la := .ofNat 4 (bits x 28 4), clr := bitAt x 0, g := Guard.read w }
/-- The first-word bits of `OpKcnt`. -/
def OpKcnt.word (o : OpKcnt) : Nat :=
  put o.d.toNat 16 + o.g.word
/-- The extension bits of `OpKcnt`. -/
def OpKcnt.ext (o : OpKcnt) : Nat :=
  put o.la.toNat 28 + flag o.clr 0

/-- Reads the fields of `OpXD`. -/
def OpXD.read (w x : Nat) : OpXD :=
  { d := .ofNat 6 (bits w 16 6), la := .ofNat 4 (bits x 28 4), g := Guard.read w }
/-- The first-word bits of `OpXD`. -/
def OpXD.word (o : OpXD) : Nat :=
  put o.d.toNat 16 + o.g.word
/-- The extension bits of `OpXD`. -/
def OpXD.ext (o : OpXD) : Nat :=
  put o.la.toNat 28

/-- Reads the fields of `OpKinj`. -/
def OpKinj.read (w x : Nat) : OpKinj :=
  { la := .ofNat 4 (bits x 28 4), bias := .ofNat 16 (bits x 0 16), g := Guard.read w }
/-- The first-word bits of `OpKinj`. -/
def OpKinj.word (o : OpKinj) : Nat :=
  o.g.word
/-- The extension bits of `OpKinj`. -/
def OpKinj.ext (o : OpKinj) : Nat :=
  put o.la.toNat 28 + put o.bias.toNat 0

/-- Reads the fields of `OpKbnd`. -/
def OpKbnd.read (w x : Nat) : OpKbnd :=
  { a := .ofNat 6 (bits w 10 6), b := .ofNat 6 (bits w 4 6), la := .ofNat 4 (bits x 28 4), s := .ofNat 3 (bits x 25 3), g0 := .ofNat 5 (bits x 20 5), nm1 := .ofNat 5 (bits x 15 5), g := Guard.read w }
/-- The first-word bits of `OpKbnd`. -/
def OpKbnd.word (o : OpKbnd) : Nat :=
  put o.a.toNat 10 + put o.b.toNat 4 + o.g.word
/-- The extension bits of `OpKbnd`. -/
def OpKbnd.ext (o : OpKbnd) : Nat :=
  put o.la.toNat 28 + put o.s.toNat 25 + put o.g0.toNat 20 + put o.nm1.toNat 15

/-- Reads the fields of `OpKunb`. -/
def OpKunb.read (w x : Nat) : OpKunb :=
  { la := .ofNat 4 (bits x 28 4), g0 := .ofNat 5 (bits x 20 5), nm1 := .ofNat 5 (bits x 15 5), g := Guard.read w }
/-- The first-word bits of `OpKunb`. -/
def OpKunb.word (o : OpKunb) : Nat :=
  o.g.word
/-- The extension bits of `OpKunb`. -/
def OpKunb.ext (o : OpKunb) : Nat :=
  put o.la.toNat 28 + put o.g0.toNat 20 + put o.nm1.toNat 15

/-- Reads the fields of `OpGcpl`. -/
def OpGcpl.read (w x : Nat) : OpGcpl :=
  { a := .ofNat 6 (bits w 10 6), b := .ofNat 6 (bits w 4 6), la := .ofNat 4 (bits x 28 4), space := .ofNat 3 (bits x 25 3), row0 := .ofNat 6 (bits x 8 6), nm1 := .ofNat 6 (bits x 0 6), g := Guard.read w }
/-- The first-word bits of `OpGcpl`. -/
def OpGcpl.word (o : OpGcpl) : Nat :=
  put o.a.toNat 10 + put o.b.toNat 4 + o.g.word
/-- The extension bits of `OpGcpl`. -/
def OpGcpl.ext (o : OpGcpl) : Nat :=
  put o.la.toNat 28 + put o.space.toNat 25 + put o.row0.toNat 8 + put o.nm1.toNat 0

/-- Reads the fields of `OpGbias`. -/
def OpGbias.read (w x : Nat) : OpGbias :=
  { a := .ofNat 6 (bits w 10 6), b := .ofNat 6 (bits w 4 6), la := .ofNat 4 (bits x 28 4), tonly := bitAt x 27, g := Guard.read w }
/-- The first-word bits of `OpGbias`. -/
def OpGbias.word (o : OpGbias) : Nat :=
  put o.a.toNat 10 + put o.b.toNat 4 + o.g.word
/-- The extension bits of `OpGbias`. -/
def OpGbias.ext (o : OpGbias) : Nat :=
  put o.la.toNat 28 + flag o.tonly 27

/-- Reads the fields of `OpGrun`. -/
def OpGrun.read (w x : Nat) : OpGrun :=
  { a := .ofNat 6 (bits w 10 6), b := .ofNat 6 (bits w 4 6), la := .ofNat 4 (bits x 28 4), nwm1 := .ofNat 16 (bits x 12 16), pub := bitAt x 11, fin := bitAt x 10, cum := bitAt x 9, cov := bitAt x 8, g := Guard.read w }
/-- The first-word bits of `OpGrun`. -/
def OpGrun.word (o : OpGrun) : Nat :=
  put o.a.toNat 10 + put o.b.toNat 4 + o.g.word
/-- The extension bits of `OpGrun`. -/
def OpGrun.ext (o : OpGrun) : Nat :=
  put o.la.toNat 28 + put o.nwm1.toNat 12 + flag o.pub 11 + flag o.fin 10 + flag o.cum 9 + flag o.cov 8

/-- Reads the fields of `OpGrdm`. -/
def OpGrdm.read (w x : Nat) : OpGrdm :=
  { d := .ofNat 6 (bits w 16 6), la := .ofNat 4 (bits x 28 4), sel := .ofNat 2 (bits x 0 2), g := Guard.read w }
/-- The first-word bits of `OpGrdm`. -/
def OpGrdm.word (o : OpGrdm) : Nat :=
  put o.d.toNat 16 + o.g.word
/-- The extension bits of `OpGrdm`. -/
def OpGrdm.ext (o : OpGrdm) : Nat :=
  put o.la.toNat 28 + put o.sel.toNat 0

/-- Reads the fields of `OpGrdc`. -/
def OpGrdc.read (w x : Nat) : OpGrdc :=
  { d := .ofNat 6 (bits w 16 6), la := .ofNat 4 (bits x 28 4), row := .ofNat 6 (bits x 0 6), g := Guard.read w }
/-- The first-word bits of `OpGrdc`. -/
def OpGrdc.word (o : OpGrdc) : Nat :=
  put o.d.toNat 16 + o.g.word
/-- The extension bits of `OpGrdc`. -/
def OpGrdc.ext (o : OpGrdc) : Nat :=
  put o.la.toNat 28 + put o.row.toNat 0

/-- Reads the fields of `OpGres`. -/
def OpGres.read (w x : Nat) : OpGres :=
  { d := .ofNat 6 (bits w 16 6), b := .ofNat 6 (bits w 4 6), la := .ofNat 4 (bits x 28 4), sc := .ofNat 6 (bits x 0 6), g := Guard.read w }
/-- The first-word bits of `OpGres`. -/
def OpGres.word (o : OpGres) : Nat :=
  put o.d.toNat 16 + put o.b.toNat 4 + o.g.word
/-- The extension bits of `OpGres`. -/
def OpGres.ext (o : OpGres) : Nat :=
  put o.la.toNat 28 + put o.sc.toNat 0

/-- What a raw field reading answers: an instruction, or the class of R377 that rejects the word. -/
abbrev Raw := Except Illegal Instr

/-- Major 0x00 (R249). -/
def rawMajor00 (w : Nat) : Raw :=
  match bits w 22 4 with
  | 0 => .ok (.nop (.read w))
  | 1 => .ok (.waitc (.read w))
  | 2 => .ok (.yield (.read w))
  | 3 => .ok (.srd (.read w))
  | 4 => match bits w 10 6 with
    | 1 => .ok (.swrFstat (.read w))
    | 3 => .ok (.swrCtmr (.read w))
    | 5 => .ok (.swrGangr (.read w))
    | 6 => .ok (.swrKey0 (.read w))
    | 7 => .ok (.swrKey1 (.read w))
    | _ => if bits w 16 6 = 0 then .error .registerAccess else .error .zeroField
  | 5 => .ok (.trap (.read w))
  | 6 => .ok (.bkpt (.read w))
  | 7 => .ok (.exit (.read w))
  | 8 => .ok (.bar (.read w))
  | 9 => .ok (.bara (.read w))
  | 10 => .ok (.barw (.read w))
  | 11 => .ok (.fence (.read w))
  | 12 => .ok (.eret (.read w))
  | 13 => .ok (.winr (.read w))
  | 14 => .ok (.winw (.read w))
  | _ => .error .badMinor

/-- Major 0x01 (R249). -/
def rawMajor01 (w : Nat) : Raw :=
  match bits w 22 4 with
  | 0 => .ok (.i64Add (.read w))
  | 1 => .ok (.i64Sub (.read w))
  | 2 => .ok (.i64Mul (.read w))
  | 3 => .ok (.i64Mulh (.read w))
  | 4 => .ok (.i64Mulhu (.read w))
  | 5 => .ok (.i64Min (.read w))
  | 6 => .ok (.i64Max (.read w))
  | 7 => .ok (.i64Minu (.read w))
  | 8 => .ok (.i64Maxu (.read w))
  | 9 => .ok (.i64And (.read w))
  | 10 => .ok (.i64Or (.read w))
  | 11 => .ok (.i64Xor (.read w))
  | 12 => .ok (.i64Shl (.read w))
  | 13 => .ok (.i64Shr (.read w))
  | 14 => .ok (.i64Sar (.read w))
  | _ => .ok (.i64Addsat (.read w))

/-- Major 0x02 (R249). -/
def rawMajor02 (w : Nat) : Raw :=
  match bits w 22 4 with
  | 0 => .ok (.i32Add (.read w))
  | 1 => .ok (.i32Sub (.read w))
  | 2 => .ok (.i32Mul (.read w))
  | 3 => .ok (.i32Mulh (.read w))
  | 4 => .ok (.i32Mulhu (.read w))
  | 5 => .ok (.i32Min (.read w))
  | 6 => .ok (.i32Max (.read w))
  | 7 => .ok (.i32Minu (.read w))
  | 8 => .ok (.i32Maxu (.read w))
  | 9 => .ok (.i32And (.read w))
  | 10 => .ok (.i32Or (.read w))
  | 11 => .ok (.i32Xor (.read w))
  | 12 => .ok (.i32Shl (.read w))
  | 13 => .ok (.i32Shr (.read w))
  | 14 => .ok (.i32Sar (.read w))
  | _ => .ok (.i32Addsat (.read w))

/-- Major 0x03 (R249). -/
def rawMajor03 (w : Nat) : Raw :=
  match bits w 22 4 with
  | 0 => .ok (.i16Add (.read w))
  | 1 => .ok (.i16Sub (.read w))
  | 2 => .ok (.i16Mul (.read w))
  | 3 => .ok (.i16Mulh (.read w))
  | 4 => .ok (.i16Mulhu (.read w))
  | 5 => .ok (.i16Min (.read w))
  | 6 => .ok (.i16Max (.read w))
  | 7 => .ok (.i16Minu (.read w))
  | 8 => .ok (.i16Maxu (.read w))
  | 9 => .ok (.i16And (.read w))
  | 10 => .ok (.i16Or (.read w))
  | 11 => .ok (.i16Xor (.read w))
  | 12 => .ok (.i16Shl (.read w))
  | 13 => .ok (.i16Shr (.read w))
  | 14 => .ok (.i16Sar (.read w))
  | _ => .ok (.i16Addsat (.read w))

/-- Major 0x04 (R249). -/
def rawMajor04 (w : Nat) : Raw :=
  match bits w 22 4 with
  | 0 => .ok (.i8Add (.read w))
  | 1 => .ok (.i8Sub (.read w))
  | 2 => .ok (.i8Mul (.read w))
  | 3 => .ok (.i8Mulh (.read w))
  | 4 => .ok (.i8Mulhu (.read w))
  | 5 => .ok (.i8Min (.read w))
  | 6 => .ok (.i8Max (.read w))
  | 7 => .ok (.i8Minu (.read w))
  | 8 => .ok (.i8Maxu (.read w))
  | 9 => .ok (.i8And (.read w))
  | 10 => .ok (.i8Or (.read w))
  | 11 => .ok (.i8Xor (.read w))
  | 12 => .ok (.i8Shl (.read w))
  | 13 => .ok (.i8Shr (.read w))
  | 14 => .ok (.i8Sar (.read w))
  | _ => .ok (.i8Addsat (.read w))

/-- Major 0x05 (R249). -/
def rawMajor05 (w : Nat) : Raw :=
  match bits w 22 4 with
  | 0 => .ok (.iunNeg (.read w))
  | 1 => .ok (.iunAbs (.read w))
  | 2 => .ok (.iunNot (.read w))
  | 3 => .ok (.iunClz (.read w))
  | 4 => .ok (.iunCtz (.read w))
  | 5 => .ok (.iunPopc (.read w))
  | 6 => .ok (.iunBrev (.read w))
  | 7 => .ok (.iunBswap (.read w))
  | 8 => .ok (.iunSxt (.read w))
  | 9 => .ok (.iunZxt (.read w))
  | _ => .error .badMinor

/-- Major 0x06 (R249). -/
def rawMajor06 (w : Nat) : Raw :=
  if bits w 22 4 < 12 then .ok (.icmp (.read w)) else .error .badMinor

/-- Major 0x07 (R249). -/
def rawMajor07 (w : Nat) : Raw :=
  .ok (.addi (.read w))

/-- Major 0x08 (R249). -/
def rawMajor08 (w : Nat) : Raw :=
  .ok (.andi (.read w))

/-- Major 0x09 (R249). -/
def rawMajor09 (w : Nat) : Raw :=
  .ok (.ori (.read w))

/-- Major 0x0A (R249). -/
def rawMajor0A (w : Nat) : Raw :=
  .ok (.xori (.read w))

/-- Major 0x0B (R249). -/
def rawMajor0B (w : Nat) : Raw :=
  match bits w 12 2 with
  | 0 => .ok (.shli (.read w))
  | 1 => .ok (.shri (.read w))
  | 2 => .ok (.sari (.read w))
  | _ => .ok (.rori (.read w))

/-- Major 0x0C (R249). -/
def rawMajor0C (w : Nat) : Raw :=
  .ok (.cmpi (.read w))

/-- Major 0x0D (R249). -/
def rawMajor0D (w : Nat) : Raw :=
  .ok (.movi (.read w))

/-- Major 0x0E (R249). -/
def rawMajor0E (w : Nat) : Raw :=
  .ok (.lea (.read w))

/-- Major 0x0F (R249). -/
def rawMajor0F (w : Nat) : Raw :=
  match bits w 22 4 with
  | 0 => .ok (.bfxu (.read w))
  | 1 => .ok (.bfxs (.read w))
  | 2 => .ok (.bfi (.read w))
  | 3 => .ok (.bfm (.read w))
  | _ => .error .badMinor

/-- Major 0x10 (R249). -/
def rawMajor10 (w : Nat) : Raw :=
  match bits w 22 4 with
  | 0 => .ok (.f64Fadd (.read w))
  | 1 => .ok (.f64Fsub (.read w))
  | 2 => .ok (.f64Fmul (.read w))
  | 3 => .ok (.f64Fma (.read w))
  | 4 => .ok (.f64Fms (.read w))
  | 5 => .ok (.f64Fnma (.read w))
  | 6 => .ok (.f64Fmin (.read w))
  | 7 => .ok (.f64Fmax (.read w))
  | 8 => .ok (.f64Fminnm (.read w))
  | 9 => .ok (.f64Fmaxnm (.read w))
  | 10 => .ok (.f64Fabd (.read w))
  | 11 => .ok (.f64Fscale (.read w))
  | 12 => .ok (.f64Fdiv (.read w))
  | 13 => .ok (.f64Fcpys (.read w))
  | _ => .error .badMinor

/-- Major 0x11 (R249). -/
def rawMajor11 (w : Nat) : Raw :=
  match bits w 22 4 with
  | 0 => .ok (.f32Fadd (.read w))
  | 1 => .ok (.f32Fsub (.read w))
  | 2 => .ok (.f32Fmul (.read w))
  | 3 => .ok (.f32Fma (.read w))
  | 4 => .ok (.f32Fms (.read w))
  | 5 => .ok (.f32Fnma (.read w))
  | 6 => .ok (.f32Fmin (.read w))
  | 7 => .ok (.f32Fmax (.read w))
  | 8 => .ok (.f32Fminnm (.read w))
  | 9 => .ok (.f32Fmaxnm (.read w))
  | 10 => .ok (.f32Fabd (.read w))
  | 11 => .ok (.f32Fscale (.read w))
  | 12 => .ok (.f32Fdiv (.read w))
  | 13 => .ok (.f32Fcpys (.read w))
  | _ => .error .badMinor

/-- Major 0x12 (R249). -/
def rawMajor12 (w : Nat) : Raw :=
  match bits w 22 4 with
  | 0 => .ok (.f16Fadd (.read w))
  | 1 => .ok (.f16Fsub (.read w))
  | 2 => .ok (.f16Fmul (.read w))
  | 3 => .ok (.f16Fma (.read w))
  | 4 => .ok (.f16Fms (.read w))
  | 5 => .ok (.f16Fnma (.read w))
  | 6 => .ok (.f16Fmin (.read w))
  | 7 => .ok (.f16Fmax (.read w))
  | 8 => .ok (.f16Fminnm (.read w))
  | 9 => .ok (.f16Fmaxnm (.read w))
  | 10 => .ok (.f16Fabd (.read w))
  | 11 => .ok (.f16Fscale (.read w))
  | 12 => .ok (.f16Fdiv (.read w))
  | 13 => .ok (.f16Fcpys (.read w))
  | _ => .error .badMinor

/-- Major 0x13 (R249). -/
def rawMajor13 (w : Nat) : Raw :=
  match bits w 22 4 with
  | 0 => .ok (.b16Fadd (.read w))
  | 1 => .ok (.b16Fsub (.read w))
  | 2 => .ok (.b16Fmul (.read w))
  | 3 => .ok (.b16Fma (.read w))
  | 4 => .ok (.b16Fms (.read w))
  | 5 => .ok (.b16Fnma (.read w))
  | 6 => .ok (.b16Fmin (.read w))
  | 7 => .ok (.b16Fmax (.read w))
  | 8 => .ok (.b16Fminnm (.read w))
  | 9 => .ok (.b16Fmaxnm (.read w))
  | 10 => .ok (.b16Fabd (.read w))
  | 11 => .ok (.b16Fscale (.read w))
  | 12 => .ok (.b16Fdiv (.read w))
  | 13 => .ok (.b16Fcpys (.read w))
  | _ => .error .badMinor

/-- Major 0x14 (R249). -/
def rawMajor14 (w : Nat) : Raw :=
  match bits w 22 3 with
  | 0 => .ok (.f8Fadd (.read w))
  | 1 => .ok (.f8Fsub (.read w))
  | 2 => .ok (.f8Fmul (.read w))
  | 3 => .ok (.f8Fmin (.read w))
  | 4 => .ok (.f8Fmax (.read w))
  | _ => .error .badMinor

/-- Major 0x15 (R249). -/
def rawMajor15 (w : Nat) : Raw :=
  if bits w 22 4 < 8 then .ok (.fcmp (.read w)) else .error .badMinor

/-- Major 0x16 (R249). -/
def rawMajor16 (w : Nat) : Raw :=
  match bits w 22 4 with
  | 0 => .ok (.fsqrt (.read w))
  | 1 => .ok (.frcp (.read w))
  | 2 => .ok (.frsq (.read w))
  | 3 => .ok (.fexp2 (.read w))
  | 4 => .ok (.flog2 (.read w))
  | 5 => .ok (.fsin (.read w))
  | 6 => .ok (.fcos (.read w))
  | 7 => .ok (.ftanh (.read w))
  | 8 => .ok (.fsigm (.read w))
  | 9 => .ok (.frint (.read w))
  | 10 => .ok (.ffloor (.read w))
  | 11 => .ok (.fceil (.read w))
  | 12 => .ok (.ftrunc (.read w))
  | 13 => .ok (.fneg (.read w))
  | 14 => .ok (.fabs (.read w))
  | _ => .ok (.fclass (.read w))

/-- Major 0x17 (R249). -/
def rawMajor17 (w : Nat) : Raw :=
  .ok (.cvt (.read w))

/-- Major 0x18 (R249). -/
def rawMajor18 (w : Nat) : Raw :=
  if bitAt w 25 then .ok (.cvtsUnpack (.read w)) else .ok (.cvtsPack (.read w))

/-- Major 0x19 (R249). -/
def rawMajor19 (w : Nat) : Raw :=
  match bits w 22 4 with
  | 0 => .ok (.dot8s (.read w))
  | 1 => .ok (.dot8u (.read w))
  | 2 => .ok (.dot4s (.read w))
  | 3 => .ok (.dot4u (.read w))
  | 4 => .ok (.dote4 (.read w))
  | 5 => .ok (.dote5 (.read w))
  | 6 => .ok (.dotb (.read w))
  | 7 => .ok (.doth (.read w))
  | 8 => .ok (.dot2s (.read w))
  | _ => .error .badMinor

/-- Major 0x1A (R249). -/
def rawMajor1A (w : Nat) : Raw :=
  match bits w 22 4 with
  | 0 => .ok (.shfl64 (.read w))
  | 1 => .ok (.shfl32 (.read w))
  | 2 => .ok (.shfl16 (.read w))
  | 3 => .ok (.shfl8 (.read w))
  | 4 => .ok (.bcast (.read w))
  | 5 => .ok (.xorl (.read w))
  | 6 => .ok (.rotl (.read w))
  | 7 => .ok (.red (.read w))
  | 8 => .ok (.scan (.read w))
  | 9 => .ok (.laneMatch (.read w))
  | 10 => .ok (.ballot (.read w))
  | 11 => .ok (.vote (.read w))
  | 12 => .ok (.sperm (.read w))
  | 13 => .ok (.actv (.read w))
  | 14 => .ok (.segred (.read w))
  | _ => .error .badMinor

/-- Major 0x1B (R249). -/
def rawMajor1B (w : Nat) : Raw :=
  match bits w 22 4 with
  | 0 => .ok (.mov (.read w))
  | 1 => .ok (.sel (.read w))
  | 2 => .ok (.movp (.read w))
  | 3 => .ok (.pset (.read w))
  | 4 => .ok (.pand (.read w))
  | 5 => .ok (.por (.read w))
  | 6 => .ok (.pxor (.read w))
  | 7 => .ok (.pnot (.read w))
  | 8 => .ok (.setu (.read w))
  | 9 => .ok (.seta (.read w))
  | 10 => .ok (.tagr (.read w))
  | 11 => .ok (.clrv (.read w))
  | _ => .error .badMinor

/-- Major 0x1C (R249). -/
def rawMajor1C (w : Nat) : Raw :=
  match bits w 22 4 with
  | 0 => .ok (.rng64 (.read w))
  | 1 => .ok (.rngu (.read w))
  | 2 => .ok (.rngb (.read w))
  | _ => .error .badMinor

/-- Major 0x20 (R249). -/
def rawMajor20 (w : Nat) : Raw :=
  .ok (.br (.read w))

/-- Major 0x21 (R249). -/
def rawMajor21 (w : Nat) : Raw :=
  .ok (.call (.read w))

/-- Major 0x22 (R249). -/
def rawMajor22 (w : Nat) : Raw :=
  match bits w 22 4 with
  | 0 => .ok (.jmp (.read w))
  | 1 => .ok (.callr (.read w))
  | 2 => .ok (.ret (.read w))
  | _ => .error .badMinor

/-- Major 0x23 (R249). -/
def rawMajor23 (w : Nat) : Raw :=
  .ok (.setm (.read w))

/-- Major 0x24 (R249). -/
def rawMajor24 (w : Nat) : Raw :=
  match bits w 22 4 with
  | 0 => .ok (.getm (.read w))
  | 1 => .ok (.putm (.read w))
  | 2 => .ok (.clrm (.read w))
  | _ => .error .badMinor

/-- Major 0x25 (R249). -/
def rawMajor25 (w : Nat) : Raw :=
  .ok (.rep (.read w))

/-- Major 0x36 (R249): first word `w`, extension `x`. -/
def rawMajor36 (w x : Nat) : Raw :=
  match bits w 22 4 with
  | 0 => .ok (.movxLo (.read w x))
  | 1 => .ok (.movxMid (.read w x))
  | 2 => .ok (.movxHi (.read w x))
  | _ => .error .badMinor

/-- Major 0x37 (R249): first word `w`, extension `x`. -/
def rawMajor37 (w x : Nat) : Raw :=
  match bits w 22 4 with
  | 0 => .ok (.bfxiBfxu (.read w x))
  | 1 => .ok (.bfxiBfxs (.read w x))
  | 2 => .ok (.bfxiBfi (.read w x))
  | _ => .error .badMinor

/-- Major 0x38 (R249): first word `w`, extension `x`. -/
def rawMajor38 (w x : Nat) : Raw :=
  match bits w 22 4 with
  | 0 => .ok (.ld8u (.read w x))
  | 1 => .ok (.ld8s (.read w x))
  | 2 => .ok (.ld16u (.read w x))
  | 3 => .ok (.ld16s (.read w x))
  | 4 => .ok (.ld32u (.read w x))
  | 5 => .ok (.ld32s (.read w x))
  | 6 => .ok (.ld64 (.read w x))
  | 7 => .ok (.ld128 (.read w x))
  | 8 => .ok (.ldt (.read w x))
  | 9 => .ok (.ldnc (.read w x))
  | 10 => .ok (.pref (.read w x))
  | 11 => .ok (.ldaq (.read w x))
  | 12 => .ok (.ldaq32 (.read w x))
  | _ => .error .badMinor

/-- Major 0x39 (R249): first word `w`, extension `x`. -/
def rawMajor39 (w x : Nat) : Raw :=
  match bits w 22 4 with
  | 0 => .ok (.st8 (.read w x))
  | 1 => .ok (.st16 (.read w x))
  | 2 => .ok (.st32 (.read w x))
  | 3 => .ok (.st64 (.read w x))
  | 4 => .ok (.st128 (.read w x))
  | 5 => .ok (.stt (.read w x))
  | 6 => .ok (.stnc (.read w x))
  | 7 => .ok (.strl (.read w x))
  | 8 => .ok (.strl32 (.read w x))
  | _ => .error .badMinor

/-- Major 0x3A (R249): first word `w`, extension `x`. -/
def rawMajor3A (w x : Nat) : Raw :=
  match bits w 22 4 with
  | 0 => .ok (.aadd (.read w x))
  | 1 => .ok (.amin (.read w x))
  | 2 => .ok (.amax (.read w x))
  | 3 => .ok (.aminu (.read w x))
  | 4 => .ok (.amaxu (.read w x))
  | 5 => .ok (.aand (.read w x))
  | 6 => .ok (.aor (.read w x))
  | 7 => .ok (.axor (.read w x))
  | 8 => .ok (.aswp (.read w x))
  | 9 => .ok (.acas (.read w x))
  | 10 => .ok (.afadd (.read w x))
  | 11 => .ok (.afmin (.read w x))
  | 12 => .ok (.afmax (.read w x))
  | 13 => .ok (.ainc (.read w x))
  | 14 => .ok (.adec (.read w x))
  | _ => .error .badMinor

/-- Major 0x3B (R249): first word `w`, extension `x`. -/
def rawMajor3B (w x : Nat) : Raw :=
  match bits w 22 4 with
  | 0 => .ok (.aaddN (.read w x))
  | 1 => .ok (.aminN (.read w x))
  | 2 => .ok (.amaxN (.read w x))
  | 3 => .ok (.aminuN (.read w x))
  | 4 => .ok (.amaxuN (.read w x))
  | 5 => .ok (.aandN (.read w x))
  | 6 => .ok (.aorN (.read w x))
  | 7 => .ok (.axorN (.read w x))
  | 8 => .ok (.aswpN (.read w x))
  | 10 => .ok (.afaddN (.read w x))
  | 11 => .ok (.afminN (.read w x))
  | 12 => .ok (.afmaxN (.read w x))
  | 13 => .ok (.aincN (.read w x))
  | 14 => .ok (.adecN (.read w x))
  | _ => .error .badMinor

/-- Major 0x3C (R249): first word `w`, extension `x`. -/
def rawMajor3C (w x : Nat) : Raw :=
  match bits w 22 4 with
  | 0 => .ok (.kick (.read w x))
  | 1 => .ok (.arrs (.read w x))
  | 2 => .ok (.arra (.read w x))
  | 3 => .ok (.arrw (.read w x))
  | 4 => .ok (.rclm (.read w x))
  | 5 => .ok (.rcmt (.read w x))
  | 6 => .ok (.rawt (.read w x))
  | 7 => .ok (.rret (.read w x))
  | 8 => .ok (.flush (.read w x))
  | 9 => .ok (.inval (.read w x))
  | 10 => .ok (.rdet (.read w x))
  | 11 => .ok (.digb (.read w x))
  | 12 => .ok (.dige (.read w x))
  | _ => .error .badMinor

/-- Major 0x3D (R249): first word `w`, extension `x`. -/
def rawMajor3D (w x : Nat) : Raw :=
  match bits w 22 4 with
  | 0 => .ok (.mma (.read w x))
  | 1 => if bitAt x 3 then .ok (.mmapPartner (.read w x)) else .ok (.mmap (.read w x))
  | 2 => .ok (.macl (.read w x))
  | 3 => .ok (.macs (.read w x))
  | 4 => .ok (.macz (.read w x))
  | 5 => .ok (.rstat (.read w x))
  | 6 => .ok (.gang (.read w x))
  | 7 => .ok (.btake (.read w x))
  | 8 => .ok (.bpass (.read w x))
  | 9 => .ok (.nls (.read w x))
  | 10 => .ok (.nlr (.read w x))
  | 11 => .ok (.mscl (.read w x))
  | _ => .error .badMinor

/-- Major 0x3E (R249): first word `w`, extension `x`. -/
def rawMajor3E (w x : Nat) : Raw :=
  match bits w 22 4 with
  | 0 => .ok (.kcpl (.read w x))
  | 1 => .ok (.kbias (.read w x))
  | 2 => if bitAt x 0 then .ok (.kclmpStates (.read w x)) else .ok (.kclmp (.read w x))
  | 3 => .ok (.kcol (.read w x))
  | 4 => .ok (.kswp (.read w x))
  | 5 => .ok (.kcnt (.read w x))
  | 6 => .ok (.krds (.read w x))
  | 7 => match bits x 26 2 with
    | 0 => .ok (.kmodeConfigure (.read w x))
    | 1 => .ok (.kmodeQuar (.read w x))
    | 2 => .ok (.kmodeFree (.read w x))
    | _ => .ok (.kmodeInject (.read w x))
  | 8 => if !bitAt x 14 then .ok (.kbnd (.read w x)) else if bits x 25 3 = 0 then .ok (.kbndUnbind (.read w x)) else .error .badValue
  | 9 => .ok (.gcpl (.read w x))
  | 10 => .ok (.gbias (.read w x))
  | 11 => .ok (.grun (.read w x))
  | 12 => .ok (.grdm (.read w x))
  | 13 => .ok (.grdc (.read w x))
  | 14 => match bits x 26 2 with
    | 0 => .ok (.gmodeConfigure (.read w x))
    | 1 => .ok (.gmodeSetState (.read w x))
    | _ => .error .badValue
  | _ => .ok (.gres (.read w x))

/-- Major 0x3F (R249): first word `w`, extension `x`. -/
def rawMajor3F (w x : Nat) : Raw :=
  match bits w 22 4 with
  | 0 => .ok (.lnch (.read w x))
  | 1 => .ok (.binp (.read w x))
  | 2 => .ok (.vpub (.read w x))
  | 3 => .ok (.vfin (.read w x))
  | 4 => .ok (.vget (.read w x))
  | 5 => .ok (.vrel (.read w x))
  | 6 => .ok (.vwait (.read w x))
  | 7 => .ok (.stopref (.read w x))
  | 8 => .ok (.vsub (.read w x))
  | 9 => .ok (.migr (.read w x))
  | 10 => .ok (.gsync (.read w x))
  | 11 => .ok (.prdr (.read w x))
  | _ => .error .badMinor

/-- The instruction whose fields are read from first word `w` and extension `x`, by major opcode (R249). -/
def decodeRaw (w x : Nat) : Raw :=
  match bits w 26 6 with
  | 0 => rawMajor00 w
  | 1 => rawMajor01 w
  | 2 => rawMajor02 w
  | 3 => rawMajor03 w
  | 4 => rawMajor04 w
  | 5 => rawMajor05 w
  | 6 => rawMajor06 w
  | 7 => rawMajor07 w
  | 8 => rawMajor08 w
  | 9 => rawMajor09 w
  | 10 => rawMajor0A w
  | 11 => rawMajor0B w
  | 12 => rawMajor0C w
  | 13 => rawMajor0D w
  | 14 => rawMajor0E w
  | 15 => rawMajor0F w
  | 16 => rawMajor10 w
  | 17 => rawMajor11 w
  | 18 => rawMajor12 w
  | 19 => rawMajor13 w
  | 20 => rawMajor14 w
  | 21 => rawMajor15 w
  | 22 => rawMajor16 w
  | 23 => rawMajor17 w
  | 24 => rawMajor18 w
  | 25 => rawMajor19 w
  | 26 => rawMajor1A w
  | 27 => rawMajor1B w
  | 28 => rawMajor1C w
  | 32 => rawMajor20 w
  | 33 => rawMajor21 w
  | 34 => rawMajor22 w
  | 35 => rawMajor23 w
  | 36 => rawMajor24 w
  | 37 => rawMajor25 w
  | 54 => rawMajor36 w x
  | 55 => rawMajor37 w x
  | 56 => rawMajor38 w x
  | 57 => rawMajor39 w x
  | 58 => rawMajor3A w x
  | 59 => rawMajor3B w x
  | 60 => rawMajor3C w x
  | 61 => rawMajor3D w x
  | 62 => rawMajor3E w x
  | 63 => rawMajor3F w x
  | _ => .error .reservedMajor

/-- The words of an instruction, written from the encoding tables of R236, R239, R249 and the instruction
chapters: a first word, and an extension for the two-word majors. The device steps have no words. -/
def encode : Instr → Option (Nat × Option Nat)
  | .nop o => some (0x00000000 + o.word, none)
  | .waitc o => some (0x00400000 + o.word, none)
  | .yield o => some (0x00800000 + o.word, none)
  | .srd o => some (0x00C00000 + o.word, none)
  | .swrFstat o => some (0x01000400 + o.word, none)
  | .swrCtmr o => some (0x01000C00 + o.word, none)
  | .swrGangr o => some (0x01001400 + o.word, none)
  | .swrKey0 o => some (0x01001800 + o.word, none)
  | .swrKey1 o => some (0x01001C00 + o.word, none)
  | .trap o => some (0x01400000 + o.word, none)
  | .bkpt o => some (0x01800000 + o.word, none)
  | .exit o => some (0x01C00000 + o.word, none)
  | .bar o => some (0x02000000 + o.word, none)
  | .bara o => some (0x02400000 + o.word, none)
  | .barw o => some (0x02800000 + o.word, none)
  | .fence o => some (0x02C00000 + o.word, none)
  | .eret o => some (0x03000000 + o.word, none)
  | .winr o => some (0x03400000 + o.word, none)
  | .winw o => some (0x03800000 + o.word, none)
  | .i64Add o => some (0x04000000 + o.word, none)
  | .i64Sub o => some (0x04400000 + o.word, none)
  | .i64Mul o => some (0x04800000 + o.word, none)
  | .i64Mulh o => some (0x04C00000 + o.word, none)
  | .i64Mulhu o => some (0x05000000 + o.word, none)
  | .i64Min o => some (0x05400000 + o.word, none)
  | .i64Max o => some (0x05800000 + o.word, none)
  | .i64Minu o => some (0x05C00000 + o.word, none)
  | .i64Maxu o => some (0x06000000 + o.word, none)
  | .i64And o => some (0x06400000 + o.word, none)
  | .i64Or o => some (0x06800000 + o.word, none)
  | .i64Xor o => some (0x06C00000 + o.word, none)
  | .i64Shl o => some (0x07000000 + o.word, none)
  | .i64Shr o => some (0x07400000 + o.word, none)
  | .i64Sar o => some (0x07800000 + o.word, none)
  | .i64Addsat o => some (0x07C00000 + o.word, none)
  | .i32Add o => some (0x08000000 + o.word, none)
  | .i32Sub o => some (0x08400000 + o.word, none)
  | .i32Mul o => some (0x08800000 + o.word, none)
  | .i32Mulh o => some (0x08C00000 + o.word, none)
  | .i32Mulhu o => some (0x09000000 + o.word, none)
  | .i32Min o => some (0x09400000 + o.word, none)
  | .i32Max o => some (0x09800000 + o.word, none)
  | .i32Minu o => some (0x09C00000 + o.word, none)
  | .i32Maxu o => some (0x0A000000 + o.word, none)
  | .i32And o => some (0x0A400000 + o.word, none)
  | .i32Or o => some (0x0A800000 + o.word, none)
  | .i32Xor o => some (0x0AC00000 + o.word, none)
  | .i32Shl o => some (0x0B000000 + o.word, none)
  | .i32Shr o => some (0x0B400000 + o.word, none)
  | .i32Sar o => some (0x0B800000 + o.word, none)
  | .i32Addsat o => some (0x0BC00000 + o.word, none)
  | .i16Add o => some (0x0C000000 + o.word, none)
  | .i16Sub o => some (0x0C400000 + o.word, none)
  | .i16Mul o => some (0x0C800000 + o.word, none)
  | .i16Mulh o => some (0x0CC00000 + o.word, none)
  | .i16Mulhu o => some (0x0D000000 + o.word, none)
  | .i16Min o => some (0x0D400000 + o.word, none)
  | .i16Max o => some (0x0D800000 + o.word, none)
  | .i16Minu o => some (0x0DC00000 + o.word, none)
  | .i16Maxu o => some (0x0E000000 + o.word, none)
  | .i16And o => some (0x0E400000 + o.word, none)
  | .i16Or o => some (0x0E800000 + o.word, none)
  | .i16Xor o => some (0x0EC00000 + o.word, none)
  | .i16Shl o => some (0x0F000000 + o.word, none)
  | .i16Shr o => some (0x0F400000 + o.word, none)
  | .i16Sar o => some (0x0F800000 + o.word, none)
  | .i16Addsat o => some (0x0FC00000 + o.word, none)
  | .i8Add o => some (0x10000000 + o.word, none)
  | .i8Sub o => some (0x10400000 + o.word, none)
  | .i8Mul o => some (0x10800000 + o.word, none)
  | .i8Mulh o => some (0x10C00000 + o.word, none)
  | .i8Mulhu o => some (0x11000000 + o.word, none)
  | .i8Min o => some (0x11400000 + o.word, none)
  | .i8Max o => some (0x11800000 + o.word, none)
  | .i8Minu o => some (0x11C00000 + o.word, none)
  | .i8Maxu o => some (0x12000000 + o.word, none)
  | .i8And o => some (0x12400000 + o.word, none)
  | .i8Or o => some (0x12800000 + o.word, none)
  | .i8Xor o => some (0x12C00000 + o.word, none)
  | .i8Shl o => some (0x13000000 + o.word, none)
  | .i8Shr o => some (0x13400000 + o.word, none)
  | .i8Sar o => some (0x13800000 + o.word, none)
  | .i8Addsat o => some (0x13C00000 + o.word, none)
  | .iunNeg o => some (0x14000000 + o.word, none)
  | .iunAbs o => some (0x14400000 + o.word, none)
  | .iunNot o => some (0x14800000 + o.word, none)
  | .iunClz o => some (0x14C00000 + o.word, none)
  | .iunCtz o => some (0x15000000 + o.word, none)
  | .iunPopc o => some (0x15400000 + o.word, none)
  | .iunBrev o => some (0x15800000 + o.word, none)
  | .iunBswap o => some (0x15C00000 + o.word, none)
  | .iunSxt o => some (0x16000000 + o.word, none)
  | .iunZxt o => some (0x16400000 + o.word, none)
  | .icmp o => some (0x18000000 + o.word, none)
  | .addi o => some (0x1C000000 + o.word, none)
  | .andi o => some (0x20000000 + o.word, none)
  | .ori o => some (0x24000000 + o.word, none)
  | .xori o => some (0x28000000 + o.word, none)
  | .shli o => some (0x2C000000 + o.word, none)
  | .shri o => some (0x2C001000 + o.word, none)
  | .sari o => some (0x2C002000 + o.word, none)
  | .rori o => some (0x2C003000 + o.word, none)
  | .cmpi o => some (0x30000000 + o.word, none)
  | .movi o => some (0x34000000 + o.word, none)
  | .lea o => some (0x38000000 + o.word, none)
  | .bfxu o => some (0x3C000000 + o.word, none)
  | .bfxs o => some (0x3C400000 + o.word, none)
  | .bfi o => some (0x3C800000 + o.word, none)
  | .bfm o => some (0x3CC00000 + o.word, none)
  | .f64Fadd o => some (0x40000000 + o.word, none)
  | .f64Fsub o => some (0x40400000 + o.word, none)
  | .f64Fmul o => some (0x40800000 + o.word, none)
  | .f64Fma o => some (0x40C00000 + o.word, none)
  | .f64Fms o => some (0x41000000 + o.word, none)
  | .f64Fnma o => some (0x41400000 + o.word, none)
  | .f64Fmin o => some (0x41800000 + o.word, none)
  | .f64Fmax o => some (0x41C00000 + o.word, none)
  | .f64Fminnm o => some (0x42000000 + o.word, none)
  | .f64Fmaxnm o => some (0x42400000 + o.word, none)
  | .f64Fabd o => some (0x42800000 + o.word, none)
  | .f64Fscale o => some (0x42C00000 + o.word, none)
  | .f64Fdiv o => some (0x43000000 + o.word, none)
  | .f64Fcpys o => some (0x43400000 + o.word, none)
  | .f32Fadd o => some (0x44000000 + o.word, none)
  | .f32Fsub o => some (0x44400000 + o.word, none)
  | .f32Fmul o => some (0x44800000 + o.word, none)
  | .f32Fma o => some (0x44C00000 + o.word, none)
  | .f32Fms o => some (0x45000000 + o.word, none)
  | .f32Fnma o => some (0x45400000 + o.word, none)
  | .f32Fmin o => some (0x45800000 + o.word, none)
  | .f32Fmax o => some (0x45C00000 + o.word, none)
  | .f32Fminnm o => some (0x46000000 + o.word, none)
  | .f32Fmaxnm o => some (0x46400000 + o.word, none)
  | .f32Fabd o => some (0x46800000 + o.word, none)
  | .f32Fscale o => some (0x46C00000 + o.word, none)
  | .f32Fdiv o => some (0x47000000 + o.word, none)
  | .f32Fcpys o => some (0x47400000 + o.word, none)
  | .f16Fadd o => some (0x48000000 + o.word, none)
  | .f16Fsub o => some (0x48400000 + o.word, none)
  | .f16Fmul o => some (0x48800000 + o.word, none)
  | .f16Fma o => some (0x48C00000 + o.word, none)
  | .f16Fms o => some (0x49000000 + o.word, none)
  | .f16Fnma o => some (0x49400000 + o.word, none)
  | .f16Fmin o => some (0x49800000 + o.word, none)
  | .f16Fmax o => some (0x49C00000 + o.word, none)
  | .f16Fminnm o => some (0x4A000000 + o.word, none)
  | .f16Fmaxnm o => some (0x4A400000 + o.word, none)
  | .f16Fabd o => some (0x4A800000 + o.word, none)
  | .f16Fscale o => some (0x4AC00000 + o.word, none)
  | .f16Fdiv o => some (0x4B000000 + o.word, none)
  | .f16Fcpys o => some (0x4B400000 + o.word, none)
  | .b16Fadd o => some (0x4C000000 + o.word, none)
  | .b16Fsub o => some (0x4C400000 + o.word, none)
  | .b16Fmul o => some (0x4C800000 + o.word, none)
  | .b16Fma o => some (0x4CC00000 + o.word, none)
  | .b16Fms o => some (0x4D000000 + o.word, none)
  | .b16Fnma o => some (0x4D400000 + o.word, none)
  | .b16Fmin o => some (0x4D800000 + o.word, none)
  | .b16Fmax o => some (0x4DC00000 + o.word, none)
  | .b16Fminnm o => some (0x4E000000 + o.word, none)
  | .b16Fmaxnm o => some (0x4E400000 + o.word, none)
  | .b16Fabd o => some (0x4E800000 + o.word, none)
  | .b16Fscale o => some (0x4EC00000 + o.word, none)
  | .b16Fdiv o => some (0x4F000000 + o.word, none)
  | .b16Fcpys o => some (0x4F400000 + o.word, none)
  | .f8Fadd o => some (0x50000000 + o.word, none)
  | .f8Fsub o => some (0x50400000 + o.word, none)
  | .f8Fmul o => some (0x50800000 + o.word, none)
  | .f8Fmin o => some (0x50C00000 + o.word, none)
  | .f8Fmax o => some (0x51000000 + o.word, none)
  | .fcmp o => some (0x54000000 + o.word, none)
  | .fsqrt o => some (0x58000000 + o.word, none)
  | .frcp o => some (0x58400000 + o.word, none)
  | .frsq o => some (0x58800000 + o.word, none)
  | .fexp2 o => some (0x58C00000 + o.word, none)
  | .flog2 o => some (0x59000000 + o.word, none)
  | .fsin o => some (0x59400000 + o.word, none)
  | .fcos o => some (0x59800000 + o.word, none)
  | .ftanh o => some (0x59C00000 + o.word, none)
  | .fsigm o => some (0x5A000000 + o.word, none)
  | .frint o => some (0x5A400000 + o.word, none)
  | .ffloor o => some (0x5A800000 + o.word, none)
  | .fceil o => some (0x5AC00000 + o.word, none)
  | .ftrunc o => some (0x5B000000 + o.word, none)
  | .fneg o => some (0x5B400000 + o.word, none)
  | .fabs o => some (0x5B800000 + o.word, none)
  | .fclass o => some (0x5BC00000 + o.word, none)
  | .cvt o => some (0x5C000000 + o.word, none)
  | .cvtsPack o => some (0x60000000 + o.word, none)
  | .cvtsUnpack o => some (0x62000000 + o.word, none)
  | .dot8s o => some (0x64000000 + o.word, none)
  | .dot8u o => some (0x64400000 + o.word, none)
  | .dot4s o => some (0x64800000 + o.word, none)
  | .dot4u o => some (0x64C00000 + o.word, none)
  | .dote4 o => some (0x65000000 + o.word, none)
  | .dote5 o => some (0x65400000 + o.word, none)
  | .dotb o => some (0x65800000 + o.word, none)
  | .doth o => some (0x65C00000 + o.word, none)
  | .dot2s o => some (0x66000000 + o.word, none)
  | .shfl64 o => some (0x68000000 + o.word, none)
  | .shfl32 o => some (0x68400000 + o.word, none)
  | .shfl16 o => some (0x68800000 + o.word, none)
  | .shfl8 o => some (0x68C00000 + o.word, none)
  | .bcast o => some (0x69000000 + o.word, none)
  | .xorl o => some (0x69400000 + o.word, none)
  | .rotl o => some (0x69800000 + o.word, none)
  | .red o => some (0x69C00000 + o.word, none)
  | .scan o => some (0x6A000000 + o.word, none)
  | .laneMatch o => some (0x6A400000 + o.word, none)
  | .ballot o => some (0x6A800000 + o.word, none)
  | .vote o => some (0x6AC00000 + o.word, none)
  | .sperm o => some (0x6B000000 + o.word, none)
  | .actv o => some (0x6B400000 + o.word, none)
  | .segred o => some (0x6B800000 + o.word, none)
  | .mov o => some (0x6C000000 + o.word, none)
  | .sel o => some (0x6C400000 + o.word, none)
  | .movp o => some (0x6C800000 + o.word, none)
  | .pset o => some (0x6CC00000 + o.word, none)
  | .pand o => some (0x6D000000 + o.word, none)
  | .por o => some (0x6D400000 + o.word, none)
  | .pxor o => some (0x6D800000 + o.word, none)
  | .pnot o => some (0x6DC00000 + o.word, none)
  | .setu o => some (0x6E000000 + o.word, none)
  | .seta o => some (0x6E400000 + o.word, none)
  | .tagr o => some (0x6E800000 + o.word, none)
  | .clrv o => some (0x6EC00000 + o.word, none)
  | .rng64 o => some (0x70000000 + o.word, none)
  | .rngu o => some (0x70400000 + o.word, none)
  | .rngb o => some (0x70800000 + o.word, none)
  | .br o => some (0x80000000 + o.word, none)
  | .call o => some (0x84000000 + o.word, none)
  | .setm o => some (0x8C000000 + o.word, none)
  | .jmp o => some (0x88000000 + o.word, none)
  | .callr o => some (0x88400000 + o.word, none)
  | .ret o => some (0x88800000 + o.word, none)
  | .getm o => some (0x90000000 + o.word, none)
  | .putm o => some (0x90400000 + o.word, none)
  | .clrm o => some (0x90800000 + o.word, none)
  | .rep o => some (0x94000000 + o.word, none)
  | .movxLo o => some (0xD8000000 + o.word, some (o.ext))
  | .movxMid o => some (0xD8400000 + o.word, some (o.ext))
  | .movxHi o => some (0xD8800000 + o.word, some (o.ext))
  | .bfxiBfxu o => some (0xDC000000 + o.word, some (o.ext))
  | .bfxiBfxs o => some (0xDC400000 + o.word, some (o.ext))
  | .bfxiBfi o => some (0xDC800000 + o.word, some (o.ext))
  | .ld8u o => some (0xE0000000 + o.word, some (o.ext))
  | .ld8s o => some (0xE0400000 + o.word, some (o.ext))
  | .ld16u o => some (0xE0800000 + o.word, some (o.ext))
  | .ld16s o => some (0xE0C00000 + o.word, some (o.ext))
  | .ld32u o => some (0xE1000000 + o.word, some (o.ext))
  | .ld32s o => some (0xE1400000 + o.word, some (o.ext))
  | .ld64 o => some (0xE1800000 + o.word, some (o.ext))
  | .ld128 o => some (0xE1C00000 + o.word, some (o.ext))
  | .ldt o => some (0xE2000000 + o.word, some (o.ext))
  | .ldnc o => some (0xE2400000 + o.word, some (o.ext))
  | .pref o => some (0xE2800000 + o.word, some (o.ext))
  | .ldaq o => some (0xE2C00000 + o.word, some (o.ext))
  | .ldaq32 o => some (0xE3000000 + o.word, some (o.ext))
  | .st8 o => some (0xE4000000 + o.word, some (o.ext))
  | .st16 o => some (0xE4400000 + o.word, some (o.ext))
  | .st32 o => some (0xE4800000 + o.word, some (o.ext))
  | .st64 o => some (0xE4C00000 + o.word, some (o.ext))
  | .st128 o => some (0xE5000000 + o.word, some (o.ext))
  | .stt o => some (0xE5400000 + o.word, some (o.ext))
  | .stnc o => some (0xE5800000 + o.word, some (o.ext))
  | .strl o => some (0xE5C00000 + o.word, some (o.ext))
  | .strl32 o => some (0xE6000000 + o.word, some (o.ext))
  | .aadd o => some (0xE8000000 + o.word, some (o.ext))
  | .amin o => some (0xE8400000 + o.word, some (o.ext))
  | .amax o => some (0xE8800000 + o.word, some (o.ext))
  | .aminu o => some (0xE8C00000 + o.word, some (o.ext))
  | .amaxu o => some (0xE9000000 + o.word, some (o.ext))
  | .aand o => some (0xE9400000 + o.word, some (o.ext))
  | .aor o => some (0xE9800000 + o.word, some (o.ext))
  | .axor o => some (0xE9C00000 + o.word, some (o.ext))
  | .aswp o => some (0xEA000000 + o.word, some (o.ext))
  | .acas o => some (0xEA400000 + o.word, some (o.ext))
  | .afadd o => some (0xEA800000 + o.word, some (o.ext))
  | .afmin o => some (0xEAC00000 + o.word, some (o.ext))
  | .afmax o => some (0xEB000000 + o.word, some (o.ext))
  | .ainc o => some (0xEB400000 + o.word, some (o.ext))
  | .adec o => some (0xEB800000 + o.word, some (o.ext))
  | .aaddN o => some (0xEC000000 + o.word, some (o.ext))
  | .aminN o => some (0xEC400000 + o.word, some (o.ext))
  | .amaxN o => some (0xEC800000 + o.word, some (o.ext))
  | .aminuN o => some (0xECC00000 + o.word, some (o.ext))
  | .amaxuN o => some (0xED000000 + o.word, some (o.ext))
  | .aandN o => some (0xED400000 + o.word, some (o.ext))
  | .aorN o => some (0xED800000 + o.word, some (o.ext))
  | .axorN o => some (0xEDC00000 + o.word, some (o.ext))
  | .aswpN o => some (0xEE000000 + o.word, some (o.ext))
  | .afaddN o => some (0xEE800000 + o.word, some (o.ext))
  | .afminN o => some (0xEEC00000 + o.word, some (o.ext))
  | .afmaxN o => some (0xEF000000 + o.word, some (o.ext))
  | .aincN o => some (0xEF400000 + o.word, some (o.ext))
  | .adecN o => some (0xEF800000 + o.word, some (o.ext))
  | .kick o => some (0xF0000000 + o.word, some (o.ext))
  | .arrs o => some (0xF0400000 + o.word, some (o.ext))
  | .arra o => some (0xF0800000 + o.word, some (o.ext))
  | .arrw o => some (0xF0C00000 + o.word, some (o.ext))
  | .rclm o => some (0xF1000000 + o.word, some (o.ext))
  | .rcmt o => some (0xF1400000 + o.word, some (o.ext))
  | .rawt o => some (0xF1800000 + o.word, some (o.ext))
  | .rret o => some (0xF1C00000 + o.word, some (o.ext))
  | .flush o => some (0xF2000000 + o.word, some (o.ext))
  | .inval o => some (0xF2400000 + o.word, some (o.ext))
  | .rdet o => some (0xF2800000 + o.word, some (o.ext))
  | .digb o => some (0xF2C00000 + o.word, some (o.ext))
  | .dige o => some (0xF3000000 + o.word, some (o.ext))
  | .lnch o => some (0xFC000000 + o.word, some (o.ext))
  | .binp o => some (0xFC400000 + o.word, some (o.ext))
  | .vpub o => some (0xFC800000 + o.word, some (o.ext))
  | .vfin o => some (0xFCC00000 + o.word, some (o.ext))
  | .vget o => some (0xFD000000 + o.word, some (o.ext))
  | .vrel o => some (0xFD400000 + o.word, some (o.ext))
  | .vwait o => some (0xFD800000 + o.word, some (o.ext))
  | .stopref o => some (0xFDC00000 + o.word, some (o.ext))
  | .vsub o => some (0xFE000000 + o.word, some (o.ext))
  | .migr o => some (0xFE400000 + o.word, some (o.ext))
  | .gsync o => some (0xFE800000 + o.word, some (o.ext))
  | .prdr o => some (0xFEC00000 + o.word, some (o.ext))
  | .mma o => some (0xF4000000 + o.word, some (o.ext))
  | .mmap o => some (0xF4400000 + o.word, some (o.ext))
  | .mmapPartner o => some (0xF4400000 + o.word, some (0x00000008 + o.ext))
  | .macl o => some (0xF4800000 + o.word, some (o.ext))
  | .macs o => some (0xF4C00000 + o.word, some (o.ext))
  | .macz o => some (0xF5000000 + o.word, some (o.ext))
  | .rstat o => some (0xF5400000 + o.word, some (o.ext))
  | .gang o => some (0xF5800000 + o.word, some (o.ext))
  | .btake o => some (0xF5C00000 + o.word, some (o.ext))
  | .bpass o => some (0xF6000000 + o.word, some (o.ext))
  | .nls o => some (0xF6400000 + o.word, some (o.ext))
  | .nlr o => some (0xF6800000 + o.word, some (o.ext))
  | .mscl o => some (0xF6C00000 + o.word, some (o.ext))
  | .kcpl o => some (0xF8000000 + o.word, some (o.ext))
  | .kbias o => some (0xF8400000 + o.word, some (o.ext))
  | .kclmp o => some (0xF8800000 + o.word, some (o.ext))
  | .kclmpStates o => some (0xF8800000 + o.word, some (0x00000001 + o.ext))
  | .kcol o => some (0xF8C00000 + o.word, some (o.ext))
  | .kswp o => some (0xF9000000 + o.word, some (o.ext))
  | .kcnt o => some (0xF9400000 + o.word, some (o.ext))
  | .krds o => some (0xF9800000 + o.word, some (o.ext))
  | .kmodeConfigure o => some (0xF9C00000 + o.word, some (o.ext))
  | .kmodeQuar o => some (0xF9C00000 + o.word, some (0x04000000 + o.ext))
  | .kmodeFree o => some (0xF9C00000 + o.word, some (0x08000000 + o.ext))
  | .kmodeInject o => some (0xF9C00000 + o.word, some (0x0C000000 + o.ext))
  | .kbnd o => some (0xFA000000 + o.word, some (o.ext))
  | .kbndUnbind o => some (0xFA000000 + o.word, some (0x00004000 + o.ext))
  | .gcpl o => some (0xFA400000 + o.word, some (o.ext))
  | .gbias o => some (0xFA800000 + o.word, some (o.ext))
  | .grun o => some (0xFAC00000 + o.word, some (o.ext))
  | .grdm o => some (0xFB000000 + o.word, some (o.ext))
  | .grdc o => some (0xFB400000 + o.word, some (o.ext))
  | .gmodeConfigure o => some (0xFB800000 + o.word, some (o.ext))
  | .gmodeSetState o => some (0xFB800000 + o.word, some (0x04000000 + o.ext))
  | .gres o => some (0xFBC00000 + o.word, some (o.ext))
  | .dictIssueUnit _ => none
  | .walkNodeRead _ _ _ => none
  | .l1FillArrive _ _ _ => none
  | .cmbStoreArrive _ _ => none
  | .cmbAgeDrain _ _ _ => none
  | .cmbDrainArrive _ _ _ => none
  | .copyInvalidate _ _ => none
  | .invalidateAck _ => none
  | .drainAck _ _ _ => none
  | .sliceLoadRequest _ _ _ _ => none
  | .gatewayLoad _ _ _ _ => none
  | .hbmFillReturn _ _ _ => none
  | .loadResponse _ _ => none
  | .accessAtExecutingPlace _ _ => none
  | .partitionAreaAccess _ _ => none
  | .atomicAtPlace _ _ => none
  | .orderedAtomicAccept _ _ => none
  | .orderedAtomicApply _ _ => none
  | .orderedAtomicResend _ _ => none
  | .horizonReport _ => none
  | .horizonUpdate _ _ => none
  | .raceCheck _ => none
  | .patrolScrub _ _ _ => none
  | .copyRequestStart _ => none
  | .copyGranule _ _ _ => none
  | .ringOpAtPlace _ _ => none
  | .ringOpResend _ _ => none
  | .versionOpAtSlice _ => none
  | .subscriptionDelivery _ => none
  | .cancellationRequest _ => none
  | .engineWindowEnd _ _ _ => none
  | .rangeTableLoad _ => none
  | .cmrChange _ => none
  | .dealTeam _ => none
  | .dispatchEvaluate _ _ _ => none
  | .evictTeam _ => none
  | .restoreTeam _ _ => none
  | .binPush _ => none
  | .binTimerExpire _ _ => none
  | .binLaunchDecision _ _ => none
  | .crewEnd _ => none
  | .teamEnd _ => none
  | .settleWordUpdate _ => none
  | .digestCompute _ => none
  | .completionWordAtomic _ => none
  | .gridRetire _ => none
  | .mxOperationComplete _ _ => none
  | .nlEntryArrive _ _ => none
  | .nlCreditReturn _ _ _ => none
  | .kilnOperationExecute _ _ => none
  | .kilnSweep _ _ => none
  | .snapshotArrive _ _ _ => none
  | .subscriberRegister _ _ _ => none
  | .coneWindowEnd _ _ => none
  | .slipOperationExecute _ _ => none
  | .slipStep _ _ => none
  | .migrationRequest _ => none
  | .migrationResend _ => none
  | .migrationLand _ => none
  | .ctmrExpire _ => none
  | .pairWatchdogExpire _ => none
  | .preemptDeadlineExpire _ => none
  | .engineHaltStop _ _ _ => none
  | .haltComplete _ => none
  | .frameReceive _ _ _ _ => none
  | .acknowledgementFrame _ _ _ _ => none
  | .retransmitTimeout _ _ => none
  | .sessionEstablish _ _ _ _ => none
  | .sessionRekey _ => none
  | .launch _ _ => none
  | .read _ _ => none
  | .write _ _ => none
  | .transportFlush _ _ => none
  | .transportInvalidate _ _ => none
  | .shootdown _ _ => none
  | .shootdownStep _ => none
  | .setSplit _ _ => none
  | .setVaultAllotment _ _ => none
  | .vaultZeroingComplete _ => none
  | .setHostWindowRegion _ _ => none
  | .setRaceMode _ _ => none
  | .setConeWindow _ _ => none
  | .setHandlerEntry _ _ => none
  | .setSaveAreaSize _ _ => none
  | .setBinStoreVault _ _ => none
  | .setCheckpointRegion _ _ => none
  | .quarantineClear _ _ => none
  | .contextCreate _ _ _ _ => none
  | .contextDestroy _ _ => none
  | .switchOut _ _ => none
  | .contextSwitchStep _ => none
  | .contextRestore _ _ => none
  | .telemetry _ _ => none
  | .haltTower _ _ => none
  | .resumeTower _ _ => none
  | .debugReadItem _ _ => none
  | .debugWriteItem _ _ => none
  | .endHandlerCrew _ _ => none
  | .checkpointTake _ _ => none
  | .checkpointIntervalExpire _ => none
  | .warmReset _ _ => none
  | .attest _ _ => none
  | .firmwareChunk _ _ => none
  | .setIpv4 _ _ => none
  | .setIpv6 _ _ => none
  | .enrolHostKey _ _ => none
  | .revokeHostKey _ _ => none
  | .releaseOwnership _ _ => none
  | .listKeys _ _ => none
  | .unknownCommand _ _ => none
  | .mgmtStatusQuery _ _ => none
  | .mgmtFailrecQuery _ _ => none
  | .powerUp _ _ _ => none
  | .flitReplay _ => none
  | .linkRetrain _ => none
  | .linkDown _ => none
  | .neighbourLinkError _ _ _ => none
  | .arrayClockChange _ _ => none
  | .skipdChange _ _ => none
  | .powerSample _ _ _ => none
  | .warmResetLimitExpire _ => none
  | .checkpointComplete _ => none
  | .powerLoss => none

/-- The words with the extension 0 where there is none. -/
def encodeWords (i : Instr) : Option (Nat × Nat) := (encode i).map fun p => (p.1, p.2.getD 0)

/-- True when the major of `w` is that of a two-word instruction (R243). -/
def isTwoWord (w : Nat) : Bool := 0x36 ≤ bits w 26 6

/-- Whether the fields that a form of an instruction shows as zero are zero where another form uses them: the operands of
a publication that is not made, and the addresses of KBIAS .b and GBIAS .t (R350, R359). -/
def Instr.unusedZero (i : Instr) : Bool :=
  match i with
  | .kbias o => !o.bonly || (o.space == 0 && o.a == 0)
  | .kswp o => o.pub || (o.a == 0 && o.b == 0)
  | .gbias o => !o.tonly || o.a == 0
  | .grun o => o.pub || o.a == 0
  | _ => true

/-- Decodes a first word `w` and, for a two-word major, its extension `x`. A word is rejected for its major,
its minor, a non-zero zero field (a bit the encoder does not give back), or a field value declared illegal
(R238, R249, R250, R377). -/
def decodeWord (w x : Nat) : Except Illegal Instr :=
  match decodeRaw w x with
  | .error e => .error e
  | .ok i =>
    if encodeWords i = some (w, if isTwoWord w then x else 0) then
      if i.wellFormed then .ok i else if i.unusedZero then .error .badValue else .error .zeroField
    else .error .zeroField

/-- A 32-bit word from four bytes, least significant first (R10). -/
def word32 (b0 b1 b2 b3 : Nat) : Nat := b0 + 256 * b1 + 65536 * b2 + 16777216 * b3

/-- The bytes of a 32-bit word as they lie in memory, least significant first (R10). -/
def wordBytes (w : Nat) : List Nat := [w % 256, w / 256 % 256, w / 65536 % 256, w / 16777216 % 256]

/-- Decodes the instruction at the front of a list of bytes and answers the bytes after it. Fewer bytes than
the instruction needs are no instruction. -/
def decodeBytes : List Nat → Except Illegal (Instr × List Nat)
  | b0 :: b1 :: b2 :: b3 :: r =>
    let w := word32 b0 b1 b2 b3
    if isTwoWord w then
      match r with
      | c0 :: c1 :: c2 :: c3 :: r' => (decodeWord w (word32 c0 c1 c2 c3)).map fun i => (i, r')
      | _ => .error .header
    else (decodeWord w 0).map fun i => (i, r)
  | _ => .error .header

/-- The instruction the decoder reads from the bits `w` of an opcode-table row: the first word in bits 31 to 0
and the extension in bits 63 to 32, laid out as bytes. `nbits` says how many bits the table gives the row; the
bits above are zero. -/
def decodeTableWord (nbits w : Nat) : Option Instr :=
  let v := w % 2 ^ nbits
  match decodeBytes (wordBytes (v % 2 ^ 32) ++ wordBytes (v / 2 ^ 32 % 2 ^ 32)) with
  | .ok (i, _) => some i
  | .error _ => none

end Sys2Proof

end
end

