-- ==== Sys2Proof/Machine/Integer.lean ====
section
/-! DEFINITION. Integer: the integer, comparison, immediate, bit-field, move and predicate instructions
(12_isa_control_and_integer.md, R255 to R272). -/

namespace Sys2Proof.Machine

/-! ## Element functions (R262, R263) -/

/-- The integer functions in minor order (R261). -/
inductive IFn where
  | add | sub | mul | mulh | mulhu | min | max | minu | maxu | and | or | xor | shl | shr | sar | addsat
deriving DecidableEq, Repr

/-- Arithmetic shift right of a `w`-bit pattern; counts of w or more give copies of the sign (R262). -/
def sarBits (w a n : Nat) : Nat := ofSigned w (toSigned w a / 2 ^ Nat.min n w)

/-- A signed value clamped to `w` bits. -/
def clampSigned (w : Nat) (v : Int) : Int := max (-2 ^ (w - 1)) (min v (2 ^ (w - 1) - 1))

/-- F(a, b) on w-bit patterns (R262). -/
def IFn.apply (fn : IFn) (w a b : Nat) : Nat :=
  match fn with
  | .add => (a + b) % 2 ^ w
  | .sub => (a + 2 ^ w - b) % 2 ^ w
  | .mul => a * b % 2 ^ w
  | .mulh => ofSigned w (toSigned w a * toSigned w b / 2 ^ w)
  | .mulhu => a * b / 2 ^ w
  | .min => if toSigned w a ≤ toSigned w b then a else b
  | .max => if toSigned w a ≤ toSigned w b then b else a
  | .minu => Nat.min a b
  | .maxu => Nat.max a b
  | .and => Nat.land a b
  | .or => Nat.lor a b
  | .xor => Nat.xor a b
  | .shl => if w ≤ b then 0 else a * 2 ^ b % 2 ^ w
  | .shr => if w ≤ b then 0 else a / 2 ^ b
  | .sar => sarBits w a b
  | .addsat => ofSigned w (clampSigned w (toSigned w a + toSigned w b))

/-- An integer function on every element of two lanes (R261). -/
def IFn.lane (fn : IFn) (w : Nat) (a b : Word) : Word := eachElem w fun s => fn.apply w (elem w a s) (elem w b s)

/-- Only 64-bit ADD, SUB, MUL and SHL have affine cases (R203, R262). -/
def IFn.aff (fn : IFn) (w : Nat) : RegVal → RegVal → Option RegVal :=
  if w != 64 then RegVal.nov else
    match fn with
    | .add => RegVal.addv
    | .sub => RegVal.subv
    | .mul => RegVal.mulv
    | .shl => RegVal.shlv
    | _ => RegVal.nov

/-- An integer instruction of width `w` (R261, R262). -/
def intOp (w : Nat) (fn : IFn) (o : OpRR) (s : State) : Out := affOp s o.g o.a o.b o.d (fn.aff w) (fn.lane w)

/-- The number of leading zero bits of a w-bit pattern (R263). -/
def clzBits (w a : Nat) : Nat := if a == 0 then w else w - 1 - Nat.log2 a

/-- The number of trailing zero bits (R263). -/
def ctzBits (w a : Nat) : Nat := ((List.range w).find? fun i => bit i a).getD w

/-- The number of one bits (R263). -/
def popBits (w a : Nat) : Nat := ((List.range w).filter fun i => bit i a).length

/-- Bit i becomes bit w − 1 − i (R263). -/
def brevBits (w a : Nat) : Nat := (List.range w).foldl (fun r i => 2 * r + (if bit i a then 1 else 0)) 0

/-- Byte i becomes byte w/8 − 1 − i (R263). -/
def bswapBits (w a : Nat) : Nat := (List.range (w / 8)).foldl (fun r i => 256 * r + a / 256 ^ i % 256) 0

/-- A one-operand element function on every element (R263). -/
def iunOp (f : Nat → Nat → Nat) (o : OpDAW) (s : State) : Out :=
  let w := widOf o.w
  unOp s o.g o.a o.d fun v => eachElem w fun i => f w (elem w v i)

/-! ## Comparison (R264, R265) -/

/-- The conditions in their code order (R264). -/
def icond (c : Nat) (w a b : Nat) : Bool :=
  match c with
  | 0 => a == b
  | 1 => a != b
  | 2 => decide (toSigned w a < toSigned w b)
  | 3 => decide (toSigned w a ≤ toSigned w b)
  | 4 => decide (toSigned w b < toSigned w a)
  | 5 => decide (toSigned w b ≤ toSigned w a)
  | 6 => decide (a < b)
  | 7 => decide (a ≤ b)
  | 8 => decide (b < a)
  | 9 => decide (b ≤ a)
  | 10 => Nat.land a b != 0
  | _ => Nat.land a b == 0

/-! ## Bit fields (R270) -/

/-- OFF and WID of a BF operand (R270). -/
def bfOff (b : Word) : Nat := b.toNat % 64
/-- WID of a BF operand, at most 64 (R270). -/
def bfWid (b : Word) : Nat := Nat.min (b.toNat / 256 % 128) 64

/-- BFXU (R270): bits past 63 read 0. -/
def bfxuVal (a : Word) (off wid : Nat) : Word := BitVec.ofNat 64 (a.toNat / 2 ^ off % 2 ^ wid)

/-- BFXS (R270): bits past 63 read as bit 63, and the field is sign-extended. -/
def bfxsVal (a : Word) (off wid : Nat) : Word :=
  if wid == 0 then 0 else
    BitVec.ofInt 64 (toSigned wid (ofSigned wid (toSigned 64 a.toNat / 2 ^ off)))

/-- BFM (R270): the field deposited into zeros. -/
def bfmVal (a : Word) (off wid : Nat) : Word := BitVec.ofNat 64 (a.toNat % 2 ^ wid * 2 ^ off)

/-- BFI (R270): the field deposited into vd. -/
def bfiVal (d a : Word) (off wid : Nat) : Word :=
  let m := bfmVal (BitVec.allOnes 64) off wid
  (d &&& ~~~ m) ||| bfmVal a off wid

/-! ## Majors 0x01 to 0x04 (R261, R262) -/

/-- I64 ADD (R262). -/
def execI64Add (o : OpRR) (s : State) : Out := intOp 64 .add o s

/-- I64 SUB (R262). -/
def execI64Sub (o : OpRR) (s : State) : Out := intOp 64 .sub o s

/-- I64 MUL (R262). -/
def execI64Mul (o : OpRR) (s : State) : Out := intOp 64 .mul o s

/-- I64 MULH (R262). -/
def execI64Mulh (o : OpRR) (s : State) : Out := intOp 64 .mulh o s

/-- I64 MULHU (R262). -/
def execI64Mulhu (o : OpRR) (s : State) : Out := intOp 64 .mulhu o s

/-- I64 MIN (R262). -/
def execI64Min (o : OpRR) (s : State) : Out := intOp 64 .min o s

/-- I64 MAX (R262). -/
def execI64Max (o : OpRR) (s : State) : Out := intOp 64 .max o s

/-- I64 MINU (R262). -/
def execI64Minu (o : OpRR) (s : State) : Out := intOp 64 .minu o s

/-- I64 MAXU (R262). -/
def execI64Maxu (o : OpRR) (s : State) : Out := intOp 64 .maxu o s

/-- I64 AND (R262). -/
def execI64And (o : OpRR) (s : State) : Out := intOp 64 .and o s

/-- I64 OR (R262). -/
def execI64Or (o : OpRR) (s : State) : Out := intOp 64 .or o s

/-- I64 XOR (R262). -/
def execI64Xor (o : OpRR) (s : State) : Out := intOp 64 .xor o s

/-- I64 SHL (R262). -/
def execI64Shl (o : OpRR) (s : State) : Out := intOp 64 .shl o s

/-- I64 SHR (R262). -/
def execI64Shr (o : OpRR) (s : State) : Out := intOp 64 .shr o s

/-- I64 SAR (R262). -/
def execI64Sar (o : OpRR) (s : State) : Out := intOp 64 .sar o s

/-- I64 ADDSAT (R262). -/
def execI64Addsat (o : OpRR) (s : State) : Out := intOp 64 .addsat o s

/-- I32 ADD (R262). -/
def execI32Add (o : OpRR) (s : State) : Out := intOp 32 .add o s

/-- I32 SUB (R262). -/
def execI32Sub (o : OpRR) (s : State) : Out := intOp 32 .sub o s

/-- I32 MUL (R262). -/
def execI32Mul (o : OpRR) (s : State) : Out := intOp 32 .mul o s

/-- I32 MULH (R262). -/
def execI32Mulh (o : OpRR) (s : State) : Out := intOp 32 .mulh o s

/-- I32 MULHU (R262). -/
def execI32Mulhu (o : OpRR) (s : State) : Out := intOp 32 .mulhu o s

/-- I32 MIN (R262). -/
def execI32Min (o : OpRR) (s : State) : Out := intOp 32 .min o s

/-- I32 MAX (R262). -/
def execI32Max (o : OpRR) (s : State) : Out := intOp 32 .max o s

/-- I32 MINU (R262). -/
def execI32Minu (o : OpRR) (s : State) : Out := intOp 32 .minu o s

/-- I32 MAXU (R262). -/
def execI32Maxu (o : OpRR) (s : State) : Out := intOp 32 .maxu o s

/-- I32 AND (R262). -/
def execI32And (o : OpRR) (s : State) : Out := intOp 32 .and o s

/-- I32 OR (R262). -/
def execI32Or (o : OpRR) (s : State) : Out := intOp 32 .or o s

/-- I32 XOR (R262). -/
def execI32Xor (o : OpRR) (s : State) : Out := intOp 32 .xor o s

/-- I32 SHL (R262). -/
def execI32Shl (o : OpRR) (s : State) : Out := intOp 32 .shl o s

/-- I32 SHR (R262). -/
def execI32Shr (o : OpRR) (s : State) : Out := intOp 32 .shr o s

/-- I32 SAR (R262). -/
def execI32Sar (o : OpRR) (s : State) : Out := intOp 32 .sar o s

/-- I32 ADDSAT (R262). -/
def execI32Addsat (o : OpRR) (s : State) : Out := intOp 32 .addsat o s

/-- I16 ADD (R262). -/
def execI16Add (o : OpRR) (s : State) : Out := intOp 16 .add o s

/-- I16 SUB (R262). -/
def execI16Sub (o : OpRR) (s : State) : Out := intOp 16 .sub o s

/-- I16 MUL (R262). -/
def execI16Mul (o : OpRR) (s : State) : Out := intOp 16 .mul o s

/-- I16 MULH (R262). -/
def execI16Mulh (o : OpRR) (s : State) : Out := intOp 16 .mulh o s

/-- I16 MULHU (R262). -/
def execI16Mulhu (o : OpRR) (s : State) : Out := intOp 16 .mulhu o s

/-- I16 MIN (R262). -/
def execI16Min (o : OpRR) (s : State) : Out := intOp 16 .min o s

/-- I16 MAX (R262). -/
def execI16Max (o : OpRR) (s : State) : Out := intOp 16 .max o s

/-- I16 MINU (R262). -/
def execI16Minu (o : OpRR) (s : State) : Out := intOp 16 .minu o s

/-- I16 MAXU (R262). -/
def execI16Maxu (o : OpRR) (s : State) : Out := intOp 16 .maxu o s

/-- I16 AND (R262). -/
def execI16And (o : OpRR) (s : State) : Out := intOp 16 .and o s

/-- I16 OR (R262). -/
def execI16Or (o : OpRR) (s : State) : Out := intOp 16 .or o s

/-- I16 XOR (R262). -/
def execI16Xor (o : OpRR) (s : State) : Out := intOp 16 .xor o s

/-- I16 SHL (R262). -/
def execI16Shl (o : OpRR) (s : State) : Out := intOp 16 .shl o s

/-- I16 SHR (R262). -/
def execI16Shr (o : OpRR) (s : State) : Out := intOp 16 .shr o s

/-- I16 SAR (R262). -/
def execI16Sar (o : OpRR) (s : State) : Out := intOp 16 .sar o s

/-- I16 ADDSAT (R262). -/
def execI16Addsat (o : OpRR) (s : State) : Out := intOp 16 .addsat o s

/-- I8 ADD (R262). -/
def execI8Add (o : OpRR) (s : State) : Out := intOp 8 .add o s

/-- I8 SUB (R262). -/
def execI8Sub (o : OpRR) (s : State) : Out := intOp 8 .sub o s

/-- I8 MUL (R262). -/
def execI8Mul (o : OpRR) (s : State) : Out := intOp 8 .mul o s

/-- I8 MULH (R262). -/
def execI8Mulh (o : OpRR) (s : State) : Out := intOp 8 .mulh o s

/-- I8 MULHU (R262). -/
def execI8Mulhu (o : OpRR) (s : State) : Out := intOp 8 .mulhu o s

/-- I8 MIN (R262). -/
def execI8Min (o : OpRR) (s : State) : Out := intOp 8 .min o s

/-- I8 MAX (R262). -/
def execI8Max (o : OpRR) (s : State) : Out := intOp 8 .max o s

/-- I8 MINU (R262). -/
def execI8Minu (o : OpRR) (s : State) : Out := intOp 8 .minu o s

/-- I8 MAXU (R262). -/
def execI8Maxu (o : OpRR) (s : State) : Out := intOp 8 .maxu o s

/-- I8 AND (R262). -/
def execI8And (o : OpRR) (s : State) : Out := intOp 8 .and o s

/-- I8 OR (R262). -/
def execI8Or (o : OpRR) (s : State) : Out := intOp 8 .or o s

/-- I8 XOR (R262). -/
def execI8Xor (o : OpRR) (s : State) : Out := intOp 8 .xor o s

/-- I8 SHL (R262). -/
def execI8Shl (o : OpRR) (s : State) : Out := intOp 8 .shl o s

/-- I8 SHR (R262). -/
def execI8Shr (o : OpRR) (s : State) : Out := intOp 8 .shr o s

/-- I8 SAR (R262). -/
def execI8Sar (o : OpRR) (s : State) : Out := intOp 8 .sar o s

/-- I8 ADDSAT (R262). -/
def execI8Addsat (o : OpRR) (s : State) : Out := intOp 8 .addsat o s

/-! ## IUN (R263) -/

/-- NEG (R263). -/
def execIunNeg (o : OpDAW) (s : State) : Out := iunOp (fun w a => (2 ^ w - a) % 2 ^ w) o s

/-- ABS (R263). -/
def execIunAbs (o : OpDAW) (s : State) : Out := iunOp (fun w a => (toSigned w a).natAbs % 2 ^ w) o s

/-- NOT (R263). -/
def execIunNot (o : OpDAW) (s : State) : Out := iunOp (fun w a => 2 ^ w - 1 - a) o s

/-- CLZ (R263). -/
def execIunClz (o : OpDAW) (s : State) : Out := iunOp clzBits o s

/-- CTZ (R263). -/
def execIunCtz (o : OpDAW) (s : State) : Out := iunOp ctzBits o s

/-- POPC (R263). -/
def execIunPopc (o : OpDAW) (s : State) : Out := iunOp popBits o s

/-- BREV (R263). -/
def execIunBrev (o : OpDAW) (s : State) : Out := iunOp brevBits o s

/-- BSWAP (R263). -/
def execIunBswap (o : OpDAW) (s : State) : Out := iunOp bswapBits o s

/-- SXT (R263): the whole lane from its low w bits. -/
def execIunSxt (o : OpDAW) (s : State) : Out :=
  unOp s o.g o.a o.d fun v => BitVec.ofInt 64 (toSigned (widOf o.w) (v.toNat % 2 ^ widOf o.w))
/-- ZXT (R263). -/
def execIunZxt (o : OpDAW) (s : State) : Out :=
  unOp s o.g o.a o.d fun v => BitVec.ofNat 64 (v.toNat % 2 ^ widOf o.w)

/-- ICMP (R264). -/
def execIcmp (o : OpIcmp) (s : State) : Out :=
  predOp s o.g [o.a, o.b] o.q fun i l =>
    let w := if o.w32 then 32 else 64
    let c := icond o.cond.toNat w (elem w (i.val o.a.toNat l) 0) (elem w (i.val o.b.toNat l) 0)
    let p := (i.c.pred o.q.toNat).getLsbD l
    match o.comb.toNat with
    | 0 => c
    | 1 => p && c
    | 2 => p || c
    | _ => !c

/-- The condition of R264 that a CMPI condition code stands for (R265): 7 is GEU. -/
def cmpiCond (c : Nat) : Nat := if c == 7 then 9 else c

/-- CMPI (R265): the immediate is sign-extended to 64 bits. -/
def execCmpi (o : OpCmpi) (s : State) : Out :=
  predOp s o.g [o.a] o.q fun i l => icond (cmpiCond o.cond.toNat) 64 (i.val o.a.toNat l).toNat (sext o.imm).toNat

/-! ## Immediates, addresses and constants (R266 to R269) -/

/-- ADDI (R266). -/
def execAddi (o : OpRI) (s : State) : Out := immOp s o.g o.a o.d (sext o.imm) RegVal.addv (· + ·)
/-- ANDI (R266). -/
def execAndi (o : OpRI) (s : State) : Out := immOp s o.g o.a o.d (sext o.imm) RegVal.nov (· &&& ·)
/-- ORI (R266). -/
def execOri (o : OpRI) (s : State) : Out := immOp s o.g o.a o.d (sext o.imm) RegVal.nov (· ||| ·)
/-- XORI (R266). -/
def execXori (o : OpRI) (s : State) : Out := immOp s o.g o.a o.d (sext o.imm) RegVal.nov (· ^^^ ·)
/-- MOVI (R266): the sixteen-bit immediate. -/
def execMovi (o : OpMovi) (s : State) : Out := laneOp s o.g [] o.d fun _ _ => sext o.imm

/-- The shifts of SHI on every element (R267). -/
def shiOp (fn : IFn) (o : OpShi) (s : State) : Out :=
  immOp s o.g o.a o.d (BitVec.ofNat 64 o.cnt.toNat) (fn.aff (widOf o.w)) fun a _ =>
    eachElem (widOf o.w) fun i => fn.apply (widOf o.w) (elem (widOf o.w) a i) o.cnt.toNat
/-- SHI SHL (R267). -/
def execShli (o : OpShi) (s : State) : Out := shiOp .shl o s
/-- SHI SHR (R267). -/
def execShri (o : OpShi) (s : State) : Out := shiOp .shr o s
/-- SHI SAR (R267). -/
def execSari (o : OpShi) (s : State) : Out := shiOp .sar o s
/-- A w-bit pattern rotated right by n mod w (R267). -/
def rorBits (w a n : Nat) : Nat := (a / 2 ^ (n % w) + a * 2 ^ (w - n % w)) % 2 ^ w
/-- SHI ROR (R267). -/
def execRori (o : OpShi) (s : State) : Out :=
  unOp s o.g o.a o.d fun v => eachElem (widOf o.w) fun i => rorBits (widOf o.w) (elem (widOf o.w) v i) o.cnt.toNat

/-- A register value shifted left, its tag kept where it is U or A (R268). -/
def RegVal.shl (v : RegVal) (n : Nat) : RegVal :=
  match v with
  | .uni u => .uni (u <<< n)
  | .aff b t => .aff (b <<< n) (t <<< n)
  | .gen ls => .gen (ls.map fun (x : Word) => x <<< n)

/-- LEA (R268): the shifted vb keeps vb's tag. -/
def execLea (o : OpLea) (s : State) : Out :=
  affOp s o.g o.a o.b o.d (fun x y => RegVal.addv x (y.shl o.sh.toNat)) fun x y => x + y <<< o.sh.toNat

/-- MOVX minor 0 (R269). -/
def execMovxLo (o : OpMovx) (s : State) : Out := laneOp s o.g [] o.d fun _ _ => sext o.imm
/-- MOVX minor 1 (R269): bits [55:28]. -/
def execMovxMid (o : OpMovx) (s : State) : Out :=
  unOp s o.g o.d o.d fun v => bfiVal v (o.imm.zeroExtend 64) 28 28
/-- MOVX minor 2 (R269): bits [63:56]. -/
def execMovxHi (o : OpMovxHi) (s : State) : Out :=
  unOp s o.g o.d o.d fun v => bfiVal v (o.imm.zeroExtend 64) 56 8

/-! ## Bit fields (R270) -/

/-- BFXU (R270). -/
def execBfxu (o : OpRR) (s : State) : Out := binOp s o fun a b => bfxuVal a (bfOff b) (bfWid b)
/-- BFXS (R270). -/
def execBfxs (o : OpRR) (s : State) : Out := binOp s o fun a b => bfxsVal a (bfOff b) (bfWid b)
/-- BFI (R270) reads vd. -/
def execBfi (o : OpRR) (s : State) : Out :=
  laneOp s o.g [o.a, o.b, o.d] o.d fun c l =>
    bfiVal (c.val o.d.toNat l) (c.val o.a.toNat l) (bfOff (c.val o.b.toNat l)) (bfWid (c.val o.b.toNat l))
/-- BFM (R270). -/
def execBfm (o : OpRR) (s : State) : Out := binOp s o fun a b => bfmVal a (bfOff b) (bfWid b)
/-- BFXI BFXU (R270). -/
def execBfxiBfxu (o : OpBfxi) (s : State) : Out := unOp s o.g o.a o.d fun a => bfxuVal a o.off.toNat o.wid.toNat
/-- BFXI BFXS (R270). -/
def execBfxiBfxs (o : OpBfxi) (s : State) : Out := unOp s o.g o.a o.d fun a => bfxsVal a o.off.toNat o.wid.toNat
/-- BFXI BFI (R270). -/
def execBfxiBfi (o : OpBfxi) (s : State) : Out :=
  laneOp s o.g [o.a, o.d] o.d fun c l => bfiVal (c.val o.d.toNat l) (c.val o.a.toNat l) o.off.toNat o.wid.toNat

/-! ## Moves, selection and predicates (R271, R272, R286) -/

/-- MOV (R271) keeps the source's tag (R203). -/
def execMov (o : OpDA) (s : State) : Out :=
  issue s o.g { reads := [o.a.toNat], writes := [o.d.toNat], pure := true } fun i w => i.put w o.d.toNat (i.c.reg o.a.toNat)

/-- SEL (R272): the guard is a selector, and every thread of the group writes. -/
def execSel (o : OpRR) (s : State) : Out :=
  issue s .always { reads := [o.a.toNat, o.b.toNat], writes := [o.d.toNat], pure := true } fun i w =>
    i.put w o.d.toNat
      (if o.g.p == 7 then (if o.g.neg then i.c.reg o.b.toNat else i.c.reg o.a.toNat)
       else .gen (lanes.map fun l => if (i.c.guard o.g).getLsbD l then i.val o.a.toNat l else i.val o.b.toNat l))

/-- MOVP (R271): p0 to p6 in [6:0], 1 in [7]. -/
def execMovp (o : OpD) (s : State) : Out :=
  genOp s o.g [] o.d fun i l =>
    BitVec.ofNat 64 ((List.range 7).foldl (fun n p => n + if (i.c.pred p).getLsbD l then 2 ^ p else 0) 128)

/-- PSET (R271). -/
def execPset (o : OpPset) (s : State) : Out :=
  predOp s o.g [o.a] o.q fun i l => (i.val o.a.toNat l).getLsbD o.bit.toNat
/-- PAND (R271). -/
def execPand (o : OpPP) (s : State) : Out :=
  predOp s o.g [] o.q fun i l => i.c.predSrc o.neg1 o.s1 l && i.c.predSrc o.neg2 o.s2 l
/-- POR (R271). -/
def execPor (o : OpPP) (s : State) : Out :=
  predOp s o.g [] o.q fun i l => i.c.predSrc o.neg1 o.s1 l || i.c.predSrc o.neg2 o.s2 l
/-- PXOR (R271). -/
def execPxor (o : OpPP) (s : State) : Out :=
  predOp s o.g [] o.q fun i l => i.c.predSrc o.neg1 o.s1 l != i.c.predSrc o.neg2 o.s2 l
/-- PNOT (R271). -/
def execPnot (o : OpPnot) (s : State) : Out := predOp s o.g [] o.q fun i l => !i.c.predSrc o.neg1 o.s1 l
/-- CLRV (R271). -/
def execClrv (o : OpD) (s : State) : Out := laneOp s o.g [] o.d fun _ _ => 0

/-- All 32 lanes of a register replaced (R286). -/
def Crew.putAll (c : Crew) (r : Nat) (v : RegVal) : Crew := { c with regs := setNth (.uni 0) c.regs r fun _ => v }

/-- SETU (R286): every lane takes lane 0's value, and the tag becomes U. -/
def execSetu (o : OpDA) (s : State) : Out :=
  issue s o.g { reads := [o.a.toNat], writes := [o.d.toNat], pure := true } fun i w =>
    i.write w fun c => c.putAll o.d.toNat (.uni (i.val o.a.toNat 0))
/-- SETA (R286): base lane 0, stride lane 1 − lane 0. -/
def execSeta (o : OpDA) (s : State) : Out :=
  issue s o.g { reads := [o.a.toNat], writes := [o.d.toNat], pure := true } fun i w =>
    i.write w fun c => c.putAll o.d.toNat (.aff (i.val o.a.toNat 0) (i.val o.a.toNat 1 - i.val o.a.toNat 0))

/-- The 32 tags of one half of the registers, two bits each (R286); an unallotted register gives 0. -/
def Crew.tagWord (c : Crew) (h : Bool) : Word :=
  BitVec.ofNat 64 (pack 2 ((List.range 32).map fun j =>
    let k := j + if h then 32 else 0
    if c.allotted k then (c.reg k).tag else 0))
/-- TAGR (R286). -/
def execTagr (o : OpTagr) (s : State) : Out := laneOp s o.g [] o.d fun c _ => c.tagWord o.h

/-! ## Random numbers (R227, R228, R287) -/

/-- VK64 (R227), `n` rounds from round `r`. -/
def vkRounds (k0 k1 : Word) : Nat → Nat → Word → Word
  | 0, _, x => x
  | n + 1, r, x =>
    let x := x + (if r % 2 == 0 then k0 else k1) + BitVec.ofNat 64 r * 0x9E3779B97F4A7C15#64
    let x := x ^^^ (x >>> 29)
    let x := x * 0xBF58476D1CE4E5B9#64
    vkRounds k0 k1 n (r + 1) (x ^^^ (x >>> 32))

/-- VK64(x, k0, k1) (R227). -/
def vk64 (x k0 k1 : Word) : Word := vkRounds k0 k1 8 0 x

/-- The FP32 bits of U24(z) (R228): exact. -/
def u24 (z : Word) : Nat := (roundTo FCtl.engine .fp32 (.fin false (z.toNat / 2 ^ 40) (-24))).bits
/-- U16(z) (R228). -/
def u16 (z : Word) : Nat := z.toNat / 2 ^ 48
/-- Bern(z, t) (R228). -/
def bern (z : Word) (t : Nat) : Nat := if u16 z < t then 1 else 0

/-- RNG64 (R287). -/
def execRng64 (o : OpDA) (s : State) : Out :=
  genOp s o.g [o.a] o.d fun i l => vk64 (i.val o.a.toNat l) i.c.sp.key0 i.c.sp.key1
/-- RNGU (R287). -/
def execRngu (o : OpDA) (s : State) : Out :=
  genOp s o.g [o.a] o.d fun i l => BitVec.ofNat 64 (u24 (vk64 (i.val o.a.toNat l) i.c.sp.key0 i.c.sp.key1))
/-- RNGB (R287). -/
def execRngb (o : OpRR) (s : State) : Out :=
  genOp s o.g [o.a, o.b] o.d fun i l =>
    BitVec.ofNat 64 (bern (vk64 (i.val o.a.toNat l) i.c.sp.key0 i.c.sp.key1) ((i.val o.b.toNat l).toNat % 2 ^ 16))

end Sys2Proof.Machine
end

