-- ==== Sys2Proof/Machine/Trans.lean ====
section
/-! DEFINITION. Trans: the correctly rounded functions FEXP2, FLOG2, FSIN, FCOS, FTANH and FSIGM (R278).
Each is evaluated as an interval of naturals with `p` fraction bits; when both ends round alike the rounding is
decided. Series run on fuel. -/

namespace Sys2Proof.Machine

/-- Error allowance, in units of the last fixed-point bit, of every series below. -/
def trErr : Nat := 2 ^ 24

/-- Σ y^k / (k + 1)! with `p` fraction bits: (e^y − 1) / y. `t` is the current term, `k` its index. -/
def expSeries (p y : Nat) : Nat → Nat → Nat → Nat → Nat
  | 0, _, _, acc => acc
  | fuel + 1, k, t, acc => expSeries p y fuel (k + 1) (t * y / 2 ^ p / (k + 2)) (acc + t)

/-- (e^y − 1) / y for 0 ≤ y < 1, both with `p` fraction bits. -/
def expOver (p y : Nat) : Nat := expSeries p y (p / 3) 0 (2 ^ p) 0

/-- Σ 1 / ((2k + 1) n^(2k+1)) with `p` fraction bits; `alt` alternates the signs (atan), else atanh. -/
def invSeries (n : Nat) (alt : Bool) : Nat → Nat → Nat → Nat → Nat → Nat × Nat
  | 0, _, _, a, b => (a, b)
  | fuel + 1, k, t, a, b =>
    let d := t / (2 * k + 1)
    if alt && k % 2 == 1 then invSeries n alt fuel (k + 1) (t / (n * n)) a (b + d)
    else invSeries n alt fuel (k + 1) (t / (n * n)) (a + d) b

/-- ln 2 with `p` fraction bits. -/
def ln2Fix (p : Nat) : Nat := 2 * (invSeries 3 false (p / 2) 0 (2 ^ p / 3) 0 0).1

/-- π with `p` fraction bits, by Machin's formula. -/
def piFix (p : Nat) : Nat :=
  let a := invSeries 5 true (p / 2) 0 (2 ^ p / 5) 0 0
  let b := invSeries 239 true (p / 2) 0 (2 ^ p / 239) 0 0
  16 * (a.1 - a.2) - 4 * (b.1 - b.2)

/-- Σ (−1)^k z^(2k) / (2k + s)! for s = 1 (sine over its argument) or s = 0 (cosine); `z2` is z². -/
def trigSeries (p z2 s : Nat) : Nat → Nat → Nat → Nat → Nat → Nat
  | 0, _, _, a, b => a - b
  | fuel + 1, k, t, a, b =>
    let t' := t * z2 / 2 ^ p / ((2 * k + 1 + s) * (2 * k + 2 + s))
    if k % 2 == 0 then trigSeries p z2 s fuel (k + 1) t' (a + t) b
    else trigSeries p z2 s fuel (k + 1) t' a (b + t)

/-- Σ t^(2j) / (2j + 1), `t2` being t². -/
def atanhSeries (p t2 : Nat) : Nat → Nat → Nat → Nat → Nat
  | 0, _, _, acc => acc
  | fuel + 1, j, t, acc => atanhSeries p t2 fuel (j + 1) (t * t2 / 2 ^ p) (acc + t / (2 * j + 1))

/-- An interval result: lo · 2^e ≤ |value| ≤ (lo + w) · 2^e, with a sign, the value no multiple of 2^e. -/
structure Ival where
  neg : Bool
  lo : Nat
  w : Nat
  e : Int
deriving Repr

/-- Rounds an interval; `none` when its ends round differently. -/
def Ival.round (c : FCtl) (f : Fmt) (i : Ival) : Option FRes :=
  let a := roundFin c f i.neg i.lo i.e true
  let b := roundFin c f i.neg (i.lo + i.w) i.e true
  if a = b then some a else none

/-- e^y for an exact y = m · 2^e ≥ 0 below 2^14: (k, F) with e^y = F · 2^k, F having `p` fraction bits. -/
def expBig (p m : Nat) (e : Int) : Nat × Nat :=
  let l2 := ln2Fix (p + 32)
  let l := 2 ^ (2 * p + 32) / l2
  let t := if 0 ≤ e then m * 2 ^ e.toNat * l else m * l / 2 ^ (-e).toNat
  let k := t / 2 ^ p
  let y := (t % 2 ^ p) * (l2 / 2 ^ 32) / 2 ^ p
  (k, 2 ^ p + y * expOver p y / 2 ^ p)

/-- 2^x (R278 FEXP2) of a non-zero x that is no integer. -/
def ivExp2 (p : Nat) (neg : Bool) (m : Nat) (e : Int) : Ival :=
  if (Nat.log2 m : Int) + e > 13 then { neg := false, lo := 2 ^ 200, w := 0, e := if neg then -100000 else 100000 }
  else
    let fix := if 0 ≤ e then m * 2 ^ (e.toNat + p) else m * 2 ^ p / 2 ^ (-e).toNat
    let k := fix / 2 ^ p
    let fr := fix % 2 ^ p
    let kf : Int × Nat := if neg then (-(k : Int) - 1, 2 ^ p - fr - 1) else (k, fr)
    let y := kf.2 * ln2Fix p / 2 ^ p
    let v := 2 ^ p + y * expOver p y / 2 ^ p
    { neg := false, lo := v - trErr, w := 2 * trErr, e := kf.1 - p }

/-- log2 x (R278 FLOG2) of a positive x that is no power of two. -/
def ivLog2 (p m : Nat) (e : Int) : Ival :=
  let lg := Nat.log2 m
  let hi := 3 * 2 ^ lg ≤ 2 * m
  let one := if hi then 2 ^ (lg + 1) else 2 ^ lg
  let k : Int := (if hi then lg + 1 else lg : Nat) + e
  let num := if hi then one - m else m - one
  let den := m + one
  let t := num * 2 ^ p / den
  let s := atanhSeries p (t * t / 2 ^ p) (p / 4) 0 (2 ^ p) 0
  let q := 2 * s * 2 ^ p / ln2Fix p
  if k == 0 then
    { neg := hi, lo := num * (q - trErr) * 2 ^ 128 / den, w := num * (2 * trErr) * 2 ^ 128 / den + 2, e := -(p : Int) - 128 }
  else
    let r : Int := k * 2 ^ p + (if hi then -1 else 1) * (num * q / den : Nat)
    { neg := r < 0, lo := r.natAbs - trErr, w := 2 * trErr, e := -(p : Int) }

/-- sin(π·r) or cos(π·r) for an exact 0 < r = m · 2^e ≤ 1/4 as an interval. -/
def ivTrig (p : Nat) (cosine neg : Bool) (m : Nat) (e : Int) : Ival :=
  let pi := piFix p
  let z := if (Nat.log2 m : Int) + e < -(p : Int) then 0 else if 0 ≤ e then m * 2 ^ e.toNat * pi else m * pi / 2 ^ (-e).toNat
  let z2 := z * z / 2 ^ p
  if cosine then
    let v := trigSeries p z2 0 (p / 4) 0 (2 ^ p) 0 0
    { neg := neg, lo := v - trErr, w := 2 * trErr, e := -(p : Int) }
  else
    let q := pi * trigSeries p z2 1 (p / 4) 0 (2 ^ p) 0 0 / 2 ^ p
    { neg := neg, lo := m * (q - trErr), w := m * (2 * trErr), e := e - p }

/-- tanh x (R278 FTANH) of a non-zero x. -/
def ivTanh (p : Nat) (neg : Bool) (m : Nat) (e : Int) : Ival :=
  let lg := (Nat.log2 m : Int) + e
  if lg > 11 then { neg := neg, lo := 2 ^ p - trErr, w := trErr - 1, e := -(p : Int) }
  else if lg < -2 then
    let y := if lg < -(p : Int) then 0 else if 0 ≤ e + 1 then m * 2 ^ ((e + 1).toNat + p) else m * 2 ^ p / 2 ^ (-(e + 1)).toNat
    let ex := expOver p y
    let q := 2 * ex * 2 ^ p / (2 * 2 ^ p + y * ex / 2 ^ p)
    { neg := neg, lo := m * (q - trErr), w := m * (2 * trErr), e := e - p }
  else
    let (k, f) := expBig p m (e + 1)
    let n := f * 2 ^ k
    let v := (n - 2 ^ p) * 2 ^ p / (n + 2 ^ p)
    { neg := neg, lo := v - trErr, w := min (2 * trErr) (2 ^ p - 1 - (v - trErr)), e := -(p : Int) }

/-- 1 ÷ (1 + e^−x) (R278 FSIGM) of a non-zero x. -/
def ivSigm (p : Nat) (neg : Bool) (m : Nat) (e : Int) : Ival :=
  let lg := (Nat.log2 m : Int) + e
  if lg > 11 then
    if neg then { neg := false, lo := 2 ^ 200, w := 0, e := -100000 }
    else { neg := false, lo := 2 ^ p - trErr, w := trErr - 1, e := -(p : Int) }
  else
    let (k, f) := expBig p m e
    let n := f * 2 ^ k
    if neg then
      let v := 2 ^ (2 * p + k) / (n + 2 ^ p)
      { neg := false, lo := v - trErr, w := 2 * trErr, e := -(p : Int) - k }
    else
      let v := n * 2 ^ p / (n + 2 ^ p)
      { neg := false, lo := v - trErr, w := min (2 * trErr) (2 ^ p - 1 - (v - trErr)), e := -(p : Int) }

/-- Rounds a function given by its intervals at 256 and then 640 fraction bits; a result neither decides is the
free value `Config.undecided`. -/
def decideRound (c : FCtl) (f : Fmt) (fn code x : Nat) (iv : Nat → Ival) : FRes :=
  match (iv 256).round c f with
  | some r => r
  | none => match (iv 640).round c f with
    | some r => r
    | none => ⟨Config.undecided fn code x % 2 ^ f.width, fNx⟩

/-- The reduction of x to sin(π·x) or cos(π·x) of an angle in (0, 1/4]: whether the cosine series serves, the
sign, and the reduced m · 2^e; `none` when the result is exactly 0, 1 or −1, given with its sign. -/
def trigReduce (cosine : Bool) (neg : Bool) (m : Nat) (e : Int) : (Bool × Bool × Nat × Int) ⊕ (Bool × Nat) :=
  -- x in units of 2^e; a half turn is `h` units, all angles taken modulo two
  if 0 ≤ e then
    let odd := m * 2 ^ e.toNat % 2 == 1
    if cosine then .inr (odd, 1) else .inr (neg, 0)
  else
    let u := 2 ^ (-e).toNat
    let r := m % (2 * u)
    -- sine of x + 1/2 is the cosine
    let sgn := u ≤ r
    let r1 := r % u
    if cosine then
      -- cos over [0, 2): −cos past a half turn
      if r1 == 0 then .inr (sgn, 1)
      else if 2 * r1 == u then .inr (false, 0)
      else
        let flip := u < 2 * r1
        let r2 := if flip then u - r1 else r1
        let sg := sgn != flip
        if 4 * r2 ≤ u then .inl (true, sg, r2, e) else .inl (false, sg, (u - 2 * r2), e - 1)
    else
      if r1 == 0 then .inr (neg, 0)
      else if 2 * r1 == u then .inr (sgn != neg, 1)
      else
        let r2 := if u < 2 * r1 then u - r1 else r1
        let sg := sgn != neg
        if 4 * r2 ≤ u then .inl (false, sg, r2, e) else .inl (true, sg, (u - 2 * r2), e - 1)

/-- 1.0 of a sign. -/
def oneVal (neg : Bool) : Val := .fin neg 1 0

/-- FEXP2 (R278). -/
def fexp2 (c : FCtl) (f : Fmt) (x : Nat) (a : Val) : FRes :=
  match a with
  | .nan .. => nanResult c f false [a]
  | .inf n => if n then ⟨f.zero false, fNone⟩ else infResult c f false
  | .fin n m e =>
    if m == 0 then roundTo c f (oneVal false)
    else if (Nat.log2 m : Int) + e > 13 || !(0 ≤ e || m % 2 ^ (-e).toNat == 0) then
      decideRound c f 3 0 x (fun p => ivExp2 p n m e)
    else
      let k : Int := if 0 ≤ e then m * 2 ^ e.toNat else m / 2 ^ (-e).toNat
      roundTo c f (.fin false 1 (if n then -k else k))

/-- FLOG2 (R278). -/
def flog2 (c : FCtl) (f : Fmt) (x : Nat) (a : Val) : FRes :=
  match a with
  | .nan .. => nanResult c f false [a]
  | .inf n => if n then nanResult c f true [a] else infResult c f false
  | .fin n m e =>
    if m == 0 then ⟨f.infBits true, fDz⟩
    else if n then nanResult c f true [a]
    else if m == 2 ^ Nat.log2 m then roundTo c f (.ofInt (Nat.log2 m + e))
    else decideRound c f 4 0 x (fun p => ivLog2 p m e)

/-- FSIN and FCOS (R278). -/
def fsincos (c : FCtl) (f : Fmt) (cosine : Bool) (x : Nat) (a : Val) : FRes :=
  match a with
  | .nan .. => nanResult c f false [a]
  | .inf _ => nanResult c f true [a]
  | .fin n m e =>
    if m == 0 then (if cosine then roundTo c f (oneVal false) else ⟨f.zero n, fNone⟩)
    else match trigReduce cosine n m e with
      | .inr (s, k) => roundTo c f (.fin s k 0)
      | .inl (cs, s, m', e') => decideRound c f (if cosine then 6 else 5) 0 x (fun p => ivTrig p cs s m' e')

/-- FTANH (R278). -/
def ftanh (c : FCtl) (f : Fmt) (x : Nat) (a : Val) : FRes :=
  match a with
  | .nan .. => nanResult c f false [a]
  | .inf n => roundTo c f (oneVal n)
  | .fin n m e => if m == 0 then ⟨f.zero n, fNone⟩ else decideRound c f 7 0 x (fun p => ivTanh p n m e)

/-- FSIGM (R278). -/
def fsigm (c : FCtl) (f : Fmt) (x : Nat) (a : Val) : FRes :=
  match a with
  | .nan .. => nanResult c f false [a]
  | .inf n => if n then ⟨f.zero false, fNone⟩ else roundTo c f (oneVal false)
  | .fin n m e => if m == 0 then roundTo c f (.fin false 1 (-1)) else decideRound c f 8 0 x (fun p => ivSigm p n m e)

end Sys2Proof.Machine
end

