-- ==== Sys2Proof/Machine/Float.lean ====
section
/-! DEFINITION. Float: the floating-point, comparison, conversion and packed dot-product instructions
(13_isa_vector_and_float.md, R273 to R283). The flag and rounding rules they use are those of `Num`. -/

namespace Sys2Proof.Machine

/-! ## Vector arithmetic (R274 to R276) -/

/-- The operations of the vector majors in minor order (R274). -/
inductive VFn where
  | fadd | fsub | fmul | fma | fms | fnma | fmin | fmax | fminnm | fmaxnm | fabd | fscale | fdiv | fcpys
deriving DecidableEq, Repr

/-- Op on element bits (R275). `x`, `y`, `z` are the elements of va, vb and vd. -/
def VFn.apply (fn : VFn) (c : FCtl) (f : Fmt) (x y z : Nat) : FRes :=
  let a := f.input c x
  let b := f.input c y
  match fn with
  | .fadd => Machine.fadd c f a b
  | .fsub => Machine.fsub c f a b
  | .fmul => Machine.fmul c f a b
  | .fma => ffma c f false false a b (f.input c z)
  | .fms => ffma c f false true a b (f.input c z)
  | .fnma => ffma c f true false a b (f.input c z)
  | .fmin => fminmax c f false false a b
  | .fmax => fminmax c f true false a b
  | .fminnm => fminmax c f false true a b
  | .fmaxnm => fminmax c f true true a b
  | .fabd =>
    let r := Machine.fsub c f a b
    if (f.value r.bits).isNan then r else ⟨r.bits % 2 ^ f.signBit, r.fl⟩
  | .fscale => Machine.fscale c f a (signedOf f.width y)
  | .fdiv => Machine.fdiv c f a b
  | .fcpys => ⟨x % 2 ^ f.signBit + 2 ^ f.signBit * (y / 2 ^ f.signBit % 2), fNone⟩

/-- Whether an operation reads vd (R274). -/
def VFn.readsD : VFn → Bool
  | .fma | .fms | .fnma => true
  | _ => false

/-- A vector operation of a format (R274). -/
def vecOp (f : Fmt) (fn : VFn) (g : Guard) (d a b : Reg) (s : State) : Out :=
  floatOp s g ([a, b] ++ if fn.readsD then [d] else []) d fun c k l =>
    eachElemF f.width fun j => fn.apply c f (elem f.width (k.val a.toNat l) j) (elem f.width (k.val b.toNat l) j)
      (elem f.width (k.val d.toNat l) j)

/-- The format of an F8 instruction (R276). -/
def f8Fmt (e5m2 : Bool) : Fmt := if e5m2 then .e5m2 else .e4m3

/-- F64 FADD (R275). -/
def execF64Fadd (o : OpRR) (s : State) : Out := vecOp .fp64 .fadd o.g o.d o.a o.b s

/-- F64 FSUB (R275). -/
def execF64Fsub (o : OpRR) (s : State) : Out := vecOp .fp64 .fsub o.g o.d o.a o.b s

/-- F64 FMUL (R275). -/
def execF64Fmul (o : OpRR) (s : State) : Out := vecOp .fp64 .fmul o.g o.d o.a o.b s

/-- F64 FMA (R275). -/
def execF64Fma (o : OpRR) (s : State) : Out := vecOp .fp64 .fma o.g o.d o.a o.b s

/-- F64 FMS (R275). -/
def execF64Fms (o : OpRR) (s : State) : Out := vecOp .fp64 .fms o.g o.d o.a o.b s

/-- F64 FNMA (R275). -/
def execF64Fnma (o : OpRR) (s : State) : Out := vecOp .fp64 .fnma o.g o.d o.a o.b s

/-- F64 FMIN (R275). -/
def execF64Fmin (o : OpRR) (s : State) : Out := vecOp .fp64 .fmin o.g o.d o.a o.b s

/-- F64 FMAX (R275). -/
def execF64Fmax (o : OpRR) (s : State) : Out := vecOp .fp64 .fmax o.g o.d o.a o.b s

/-- F64 FMINNM (R275). -/
def execF64Fminnm (o : OpRR) (s : State) : Out := vecOp .fp64 .fminnm o.g o.d o.a o.b s

/-- F64 FMAXNM (R275). -/
def execF64Fmaxnm (o : OpRR) (s : State) : Out := vecOp .fp64 .fmaxnm o.g o.d o.a o.b s

/-- F64 FABD (R275). -/
def execF64Fabd (o : OpRR) (s : State) : Out := vecOp .fp64 .fabd o.g o.d o.a o.b s

/-- F64 FSCALE (R275). -/
def execF64Fscale (o : OpRR) (s : State) : Out := vecOp .fp64 .fscale o.g o.d o.a o.b s

/-- F64 FDIV (R275). -/
def execF64Fdiv (o : OpRR) (s : State) : Out := vecOp .fp64 .fdiv o.g o.d o.a o.b s

/-- F64 FCPYS (R275). -/
def execF64Fcpys (o : OpRR) (s : State) : Out := vecOp .fp64 .fcpys o.g o.d o.a o.b s

/-- F32 FADD (R275). -/
def execF32Fadd (o : OpRR) (s : State) : Out := vecOp .fp32 .fadd o.g o.d o.a o.b s

/-- F32 FSUB (R275). -/
def execF32Fsub (o : OpRR) (s : State) : Out := vecOp .fp32 .fsub o.g o.d o.a o.b s

/-- F32 FMUL (R275). -/
def execF32Fmul (o : OpRR) (s : State) : Out := vecOp .fp32 .fmul o.g o.d o.a o.b s

/-- F32 FMA (R275). -/
def execF32Fma (o : OpRR) (s : State) : Out := vecOp .fp32 .fma o.g o.d o.a o.b s

/-- F32 FMS (R275). -/
def execF32Fms (o : OpRR) (s : State) : Out := vecOp .fp32 .fms o.g o.d o.a o.b s

/-- F32 FNMA (R275). -/
def execF32Fnma (o : OpRR) (s : State) : Out := vecOp .fp32 .fnma o.g o.d o.a o.b s

/-- F32 FMIN (R275). -/
def execF32Fmin (o : OpRR) (s : State) : Out := vecOp .fp32 .fmin o.g o.d o.a o.b s

/-- F32 FMAX (R275). -/
def execF32Fmax (o : OpRR) (s : State) : Out := vecOp .fp32 .fmax o.g o.d o.a o.b s

/-- F32 FMINNM (R275). -/
def execF32Fminnm (o : OpRR) (s : State) : Out := vecOp .fp32 .fminnm o.g o.d o.a o.b s

/-- F32 FMAXNM (R275). -/
def execF32Fmaxnm (o : OpRR) (s : State) : Out := vecOp .fp32 .fmaxnm o.g o.d o.a o.b s

/-- F32 FABD (R275). -/
def execF32Fabd (o : OpRR) (s : State) : Out := vecOp .fp32 .fabd o.g o.d o.a o.b s

/-- F32 FSCALE (R275). -/
def execF32Fscale (o : OpRR) (s : State) : Out := vecOp .fp32 .fscale o.g o.d o.a o.b s

/-- F32 FDIV (R275). -/
def execF32Fdiv (o : OpRR) (s : State) : Out := vecOp .fp32 .fdiv o.g o.d o.a o.b s

/-- F32 FCPYS (R275). -/
def execF32Fcpys (o : OpRR) (s : State) : Out := vecOp .fp32 .fcpys o.g o.d o.a o.b s

/-- F16 FADD (R275). -/
def execF16Fadd (o : OpRR) (s : State) : Out := vecOp .fp16 .fadd o.g o.d o.a o.b s

/-- F16 FSUB (R275). -/
def execF16Fsub (o : OpRR) (s : State) : Out := vecOp .fp16 .fsub o.g o.d o.a o.b s

/-- F16 FMUL (R275). -/
def execF16Fmul (o : OpRR) (s : State) : Out := vecOp .fp16 .fmul o.g o.d o.a o.b s

/-- F16 FMA (R275). -/
def execF16Fma (o : OpRR) (s : State) : Out := vecOp .fp16 .fma o.g o.d o.a o.b s

/-- F16 FMS (R275). -/
def execF16Fms (o : OpRR) (s : State) : Out := vecOp .fp16 .fms o.g o.d o.a o.b s

/-- F16 FNMA (R275). -/
def execF16Fnma (o : OpRR) (s : State) : Out := vecOp .fp16 .fnma o.g o.d o.a o.b s

/-- F16 FMIN (R275). -/
def execF16Fmin (o : OpRR) (s : State) : Out := vecOp .fp16 .fmin o.g o.d o.a o.b s

/-- F16 FMAX (R275). -/
def execF16Fmax (o : OpRR) (s : State) : Out := vecOp .fp16 .fmax o.g o.d o.a o.b s

/-- F16 FMINNM (R275). -/
def execF16Fminnm (o : OpRR) (s : State) : Out := vecOp .fp16 .fminnm o.g o.d o.a o.b s

/-- F16 FMAXNM (R275). -/
def execF16Fmaxnm (o : OpRR) (s : State) : Out := vecOp .fp16 .fmaxnm o.g o.d o.a o.b s

/-- F16 FABD (R275). -/
def execF16Fabd (o : OpRR) (s : State) : Out := vecOp .fp16 .fabd o.g o.d o.a o.b s

/-- F16 FSCALE (R275). -/
def execF16Fscale (o : OpRR) (s : State) : Out := vecOp .fp16 .fscale o.g o.d o.a o.b s

/-- F16 FDIV (R275). -/
def execF16Fdiv (o : OpRR) (s : State) : Out := vecOp .fp16 .fdiv o.g o.d o.a o.b s

/-- F16 FCPYS (R275). -/
def execF16Fcpys (o : OpRR) (s : State) : Out := vecOp .fp16 .fcpys o.g o.d o.a o.b s

/-- B16 FADD (R275). -/
def execB16Fadd (o : OpRR) (s : State) : Out := vecOp .bf16 .fadd o.g o.d o.a o.b s

/-- B16 FSUB (R275). -/
def execB16Fsub (o : OpRR) (s : State) : Out := vecOp .bf16 .fsub o.g o.d o.a o.b s

/-- B16 FMUL (R275). -/
def execB16Fmul (o : OpRR) (s : State) : Out := vecOp .bf16 .fmul o.g o.d o.a o.b s

/-- B16 FMA (R275). -/
def execB16Fma (o : OpRR) (s : State) : Out := vecOp .bf16 .fma o.g o.d o.a o.b s

/-- B16 FMS (R275). -/
def execB16Fms (o : OpRR) (s : State) : Out := vecOp .bf16 .fms o.g o.d o.a o.b s

/-- B16 FNMA (R275). -/
def execB16Fnma (o : OpRR) (s : State) : Out := vecOp .bf16 .fnma o.g o.d o.a o.b s

/-- B16 FMIN (R275). -/
def execB16Fmin (o : OpRR) (s : State) : Out := vecOp .bf16 .fmin o.g o.d o.a o.b s

/-- B16 FMAX (R275). -/
def execB16Fmax (o : OpRR) (s : State) : Out := vecOp .bf16 .fmax o.g o.d o.a o.b s

/-- B16 FMINNM (R275). -/
def execB16Fminnm (o : OpRR) (s : State) : Out := vecOp .bf16 .fminnm o.g o.d o.a o.b s

/-- B16 FMAXNM (R275). -/
def execB16Fmaxnm (o : OpRR) (s : State) : Out := vecOp .bf16 .fmaxnm o.g o.d o.a o.b s

/-- B16 FABD (R275). -/
def execB16Fabd (o : OpRR) (s : State) : Out := vecOp .bf16 .fabd o.g o.d o.a o.b s

/-- B16 FSCALE (R275). -/
def execB16Fscale (o : OpRR) (s : State) : Out := vecOp .bf16 .fscale o.g o.d o.a o.b s

/-- B16 FDIV (R275). -/
def execB16Fdiv (o : OpRR) (s : State) : Out := vecOp .bf16 .fdiv o.g o.d o.a o.b s

/-- B16 FCPYS (R275). -/
def execB16Fcpys (o : OpRR) (s : State) : Out := vecOp .bf16 .fcpys o.g o.d o.a o.b s

/-- F8 FADD (R276). -/
def execF8Fadd (o : OpF8) (s : State) : Out := vecOp (f8Fmt o.e5m2) .fadd o.g o.d o.a o.b s

/-- F8 FSUB (R276). -/
def execF8Fsub (o : OpF8) (s : State) : Out := vecOp (f8Fmt o.e5m2) .fsub o.g o.d o.a o.b s

/-- F8 FMUL (R276). -/
def execF8Fmul (o : OpF8) (s : State) : Out := vecOp (f8Fmt o.e5m2) .fmul o.g o.d o.a o.b s

/-- F8 FMIN (R276). -/
def execF8Fmin (o : OpF8) (s : State) : Out := vecOp (f8Fmt o.e5m2) .fmin o.g o.d o.a o.b s

/-- F8 FMAX (R276). -/
def execF8Fmax (o : OpF8) (s : State) : Out := vecOp (f8Fmt o.e5m2) .fmax o.g o.d o.a o.b s


/-! ## Comparison (R277) -/

/-- The condition codes of FCMP; LT, LE, GT and GE raise INV on any NaN, the others on a signalling one. -/
def fcond (code : Nat) (a b : Val) : Bool × Flags :=
  let un := a.isNan || b.isNan
  let sig : Flags := if a.isSig || b.isSig then fInv else fNone
  let any : Flags := if un then fInv else fNone
  match code with
  | 0 => (!un && valEq a b, sig)
  | 1 => (un || !valEq a b, sig)
  | 2 => (!un && !valEq a b && valLt a b, any)
  | 3 => (!un && (valEq a b || valLt a b), any)
  | 4 => (!un && !valEq a b && valLt b a, any)
  | 5 => (!un && (valEq a b || valLt b a), any)
  | 6 => (un, sig)
  | _ => (!un, sig)

/-- FCMP (R277): element 0 of each operand, read under FTZI. -/
def execFcmp (o : OpFcmp) (s : State) : Out :=
  issue s o.g { reads := [o.a.toNat, o.b.toNat], pure := true } fun i w =>
    let f := Fmt.ofCode o.fmt.toNat
    let c := FCtl.ofCmr (w.d.cmr i.c)
    let r := fun l => fcond o.cond.toNat (f.input c (elem f.width (i.val o.a.toNat l) 0)) (f.input c (elem f.width (i.val o.b.toNat l) 0))
    let w := i.putPred w o.q.toNat (maskOf fun l => (r l).1 && (!o.conj || (i.c.pred o.q.toNat).getLsbD l))
    .ok (i.flags w ((maskLanes i.act).foldl (fun x l => x ||| (r l).2) fNone))

/-! ## One-operand functions (R278) -/

/-- The functions of FUN in minor order (R278). -/
inductive UFn where
  | fsqrt | frcp | frsq | fexp2 | flog2 | fsin | fcos | ftanh | fsigm | frint | ffloor | fceil | ftrunc | fneg | fabs | fclass
deriving DecidableEq, Repr

/-- A one-operand function on element bits (R278): minors 3 to 8 round to nearest even. -/
def UFn.apply (fn : UFn) (c : FCtl) (f : Fmt) (x : Nat) : FRes :=
  let a := f.input c x
  let n := { c with rnd := .rne }
  match fn with
  | .fsqrt => Machine.fsqrt c f a
  | .frcp => Machine.fdiv c f (.fin false 1 0) a
  | .frsq => Machine.frsq c f a
  | .fexp2 => Machine.fexp2 n f x a
  | .flog2 => Machine.flog2 n f x a
  | .fsin => fsincos n f false x a
  | .fcos => fsincos n f true x a
  | .ftanh => Machine.ftanh n f x a
  | .fsigm => Machine.fsigm n f x a
  | .frint => Machine.frint c f c.rnd false a
  | .ffloor => Machine.frint c f .rdn true a
  | .fceil => Machine.frint c f .rup true a
  | .ftrunc => Machine.frint c f .rtz true a
  | .fneg => ⟨Nat.xor x (2 ^ f.signBit), fNone⟩
  | .fabs => ⟨x % 2 ^ f.signBit, fNone⟩
  | .fclass => ⟨Machine.fclass f x, fNone⟩

/-- A one-operand instruction; the format code is FP64, FP32, FP16 or BF16 (R278). -/
def funOp (fn : UFn) (o : OpDAW) (s : State) : Out :=
  let f := Fmt.ofCode o.w.toNat
  floatOp s o.g [o.a] o.d fun c k l => eachElemF f.width fun j => fn.apply c f (elem f.width (k.val o.a.toNat l) j)

/-- FSQRT (R278). -/
def execFsqrt (o : OpDAW) (s : State) : Out := funOp .fsqrt o s

/-- FRCP (R278). -/
def execFrcp (o : OpDAW) (s : State) : Out := funOp .frcp o s

/-- FRSQ (R278). -/
def execFrsq (o : OpDAW) (s : State) : Out := funOp .frsq o s

/-- FEXP2 (R278). -/
def execFexp2 (o : OpDAW) (s : State) : Out := funOp .fexp2 o s

/-- FLOG2 (R278). -/
def execFlog2 (o : OpDAW) (s : State) : Out := funOp .flog2 o s

/-- FSIN (R278). -/
def execFsin (o : OpDAW) (s : State) : Out := funOp .fsin o s

/-- FCOS (R278). -/
def execFcos (o : OpDAW) (s : State) : Out := funOp .fcos o s

/-- FTANH (R278). -/
def execFtanh (o : OpDAW) (s : State) : Out := funOp .ftanh o s

/-- FSIGM (R278). -/
def execFsigm (o : OpDAW) (s : State) : Out := funOp .fsigm o s

/-- FRINT (R278). -/
def execFrint (o : OpDAW) (s : State) : Out := funOp .frint o s

/-- FFLOOR (R278). -/
def execFfloor (o : OpDAW) (s : State) : Out := funOp .ffloor o s

/-- FCEIL (R278). -/
def execFceil (o : OpDAW) (s : State) : Out := funOp .fceil o s

/-- FTRUNC (R278). -/
def execFtrunc (o : OpDAW) (s : State) : Out := funOp .ftrunc o s

/-- FNEG (R278). -/
def execFneg (o : OpDAW) (s : State) : Out := funOp .fneg o s

/-- FABS (R278). -/
def execFabs (o : OpDAW) (s : State) : Out := funOp .fabs o s

/-- FCLASS (R278). -/
def execFclass (o : OpDAW) (s : State) : Out := funOp .fclass o s


/-! ## Conversion (R279, R280) -/

/-- An integer's bits in an integer format (R213): BIN1 holds 1 for values of 0 and up (R280). -/
def Fmt.intBits (f : Fmt) (v : Int) : Nat := if f == .bin1 then (if 0 ≤ v then 1 else 0) else toBits f.width v

/-- A value clamped to an integer format (R280). -/
def Fmt.clamp (f : Fmt) (v : Int) : Int := max f.intRange.1 (min v f.intRange.2)

/-- A floating value (with a sticky remainder) to an integer format (R280). -/
def toIntFmt (c : FCtl) (d : Fmt) (sat : Bool) (v : Val) (sticky : Bool := false) : FRes :=
  let out := fun (clamped : Int) =>
    (⟨d.intBits (if sat then clamped else if d.intRange.1 < 0 then d.intRange.1 else d.intRange.2), fInv⟩ : FRes)
  match v with
  | .nan .. => out 0
  | .inf n => out (if n then d.intRange.1 else d.intRange.2)
  | .fin n m e =>
    let r := roundInt c.rnd n m e sticky
    if r.1 < d.intRange.1 || d.intRange.2 < r.1 then out (d.clamp r.1)
    else ⟨d.intBits r.1, if r.2 then fNx else fNone⟩

/-- The integer an integer-format element holds. -/
def Fmt.intValue (f : Fmt) (x : Nat) : Int :=
  match f.value x with
  | .fin n m _ => if n then -(m : Int) else m
  | _ => 0

/-- A value to BIN1 (R280): 1 for values of 0 and up, −0 included, and for a NaN, which raises INV. -/
def toBin1 (v : Val) : FRes :=
  match v with
  | .nan .. => ⟨1, fInv⟩
  | .inf n => ⟨if n then 0 else 1, fNone⟩
  | .fin n m _ => ⟨if n && m != 0 then 0 else 1, fNone⟩

/-- One element converted (R280). -/
def cvtElem (c : FCtl) (d f : Fmt) (sat : Bool) (x : Nat) : FRes :=
  let x := x % 2 ^ f.elemBits
  let v := f.input c x
  if d == .bin1 then toBin1 v
  else if d.isFloat then roundTo { c with nsat := c.nsat || (sat && f.isFloat && !d.isWide) } d v
  else if f.isFloat then toIntFmt c d sat v
  else ⟨d.intBits (if sat then d.clamp (f.intValue x) else f.intValue x), fNone⟩

/-- CVT (R279): the first 64 ÷ max(ws, wd) elements. -/
def execCvt (o : OpCvt) (s : State) : Out :=
  let d := Fmt.ofCode o.dst.toNat
  let f := Fmt.ofCode o.src.toNat
  floatOp s o.g [o.a] o.d fun c k l =>
    packRes d.width ((List.range (64 / Nat.max f.width d.width)).map fun j =>
      cvtElem c d f o.sat (elem f.width (k.val o.a.toNat l) j))

/-! ## Block-scaled conversion (R216, R281, R282) -/

/-- A scale as read (R216): `none` is a NaN scale; otherwise the value and the zero point. -/
def scaleOf (kind code : Nat) : Option (Val × Int) :=
  match kind with
  | 0 => some (.fin false 1 0, 0)
  | 1 => if code == 255 then none else some (.fin false 1 ((code : Int) - 127), 0)
  | _ =>
    let b := code % 256
    let z := if kind == 3 then toSigned 8 (code / 256) else 0
    if 128 ≤ b then none
    else if b / 8 == 0 then some (.fin false b (-9), z)
    else some (.fin false (b % 8 + 8) ((b / 8 : Nat) - 10), z)

/-- x ÷ s to an integer format, with the zero point added (R282 pack, SCALE 3). -/
def packAffine (c : FCtl) (d : Fmt) (sc : Option (Val × Int)) (z : Int) (x : Val) : FRes :=
  let zc : Nat := d.intBits (d.clamp z)
  match sc with
  | none => ⟨zc, fInv⟩
  | some (sv, _) =>
    match x with
    | .nan .. => ⟨zc, fInv⟩
    | .inf n => ⟨d.intBits (if n then d.intRange.1 else d.intRange.2), fInv⟩
    | .fin n m e =>
      match sv with
      | .fin _ sm se =>
        if sm == 0 then ⟨zc, fNone⟩
        else
          -- (±m · 2^e) ÷ (sm · 2^se) + z over the common denominator sm · 2^k
          let ex := e - se
          let k : Nat := (-ex).toNat
          let num : Int := (if n then -(m : Int) else m) * 2 ^ ex.toNat + z * sm * 2 ^ k
          let den : Nat := sm * 2 ^ k
          let neg := decide (num < 0)
          let q := num.natAbs * 2 ^ 64 / den
          let st := num.natAbs * 2 ^ 64 % den != 0
          let r := roundInt c.rnd neg q (-64) st
          if r.1 < d.intRange.1 || d.intRange.2 < r.1 then ⟨d.intBits (d.clamp r.1), fInv⟩
          else ⟨d.intBits r.1, if r.2 then fNx else fNone⟩
      | _ => ⟨zc, fInv⟩

/-- One element packed into a slot's format (R282). -/
def cvtsPack (c : FCtl) (f : Fmt) (kind : Nat) (x code : Nat) : FRes :=
  let v := Fmt.fp32.input c x
  if f.isWide then roundTo c f v
  else
    let sc := scaleOf kind code
    if kind == 3 then packAffine c f sc (toSigned 8 (code / 256 % 256)) v
    else match sc with
      | none => if f.isFloat then ⟨f.canon, fInv⟩ else ⟨0, fInv⟩
      | some (sv, _) =>
        if sv.isZero then ⟨0, fNone⟩
        else if f == .bin1 then toBin1 v
        else match v with
          | .fin .. =>
            match divVal v sv with
            | some (q, st, _) => if f.isFloat then roundTo c f q st else toIntFmt c f true q st
            | none => ⟨0, fInv⟩
          | _ => if f.isFloat then roundTo c f v else toIntFmt c f true v

/-- One element unpacked to FP32 (R282): exact before the one rounding; a zero scale by R216. -/
def cvtsUnpack (c : FCtl) (f : Fmt) (kind : Nat) (x code : Nat) : FRes :=
  match scaleOf kind code with
  | none => nanResult c .fp32 true []
  | some (sv, z) =>
    let x := x % 2 ^ f.elemBits
    if kind == 3 then
      let v := f.intValue x - z
      match mulVal sv (.ofInt v) with
      | some p => if sv.isZero || v == 0 then ⟨0, fNone⟩ else roundTo c .fp32 p
      | none => ⟨0, fNone⟩
    else
      let v := f.input c x
      match v with
      | .nan .. => nanResult c .fp32 false [v]
      | .inf n => if sv.isZero then nanResult c .fp32 true [v] else infResult c .fp32 n
      | .fin .. =>
        if sv.isZero then ⟨0, fNone⟩
        else match mulVal sv v with
          | some p => roundTo c .fp32 p
          | none => ⟨0, fNone⟩

/-- A format slot of the crew's grid; a handler crew, which has no grid, reads slot 0 contents (R211, R407). -/
def Dev.slotOf (d : Dev) (c : Crew) (k : Nat) : FmtSlot :=
  match d.gridOf c with
  | some g => g.launch.slots.getD k {}
  | none => {}

/-- The block length of a slot (R211). -/
def FmtSlot.blockLen (x : FmtSlot) : Nat := 16 * 2 ^ x.blen

/-- The element format of a slot. -/
def FmtSlot.format (x : FmtSlot) : Fmt := Fmt.ofCode x.fmt

/-- The FP32 registers of a slot's unpacked side (R281). -/
def FmtSlot.regsN (x : FmtSlot) : Nat := Nat.max 1 (64 / x.format.width / 2)

/-- The scale code of packed element j of lane l, read from vb whatever lane it stands in (R281). -/
def Crew.scaleCode (c : Crew) (x : FmtSlot) (b l j : Nat) : Nat :=
  let w := if x.scale == 3 then 16 else 8
  let blk := (64 / x.format.width * l + j) / x.blockLen
  elem w (c.val b (blk / (64 / w))) (blk % (64 / w))

/-- `n` register numbers from `r` on. -/
def regRange (r n : Nat) : List Nat := (List.range n).map (r + ·)

/-- The register results of a CVTS, in order, with their flags. -/
def putEach (i : Iss) (r : Nat) : List RegVal → Work → Res
  | [], w => .ok w
  | v :: vs, w => (i.put w r v).bind (putEach i (r + 1) vs)

/-- The slot a CVTS names, as the issuing crew has it. -/
def State.slotFor (s : State) (k : Nat) : FmtSlot :=
  match s.d.cur.bind fun cu => s.d.crew cu.crew with
  | some c => s.d.slotOf c k
  | none => {}

/-- CVTS pack (R281, R282). -/
def execCvtsPack (o : OpCvts) (s : State) : Out :=
  let x := s.slotFor o.slot.toNat
  let rs := regRange o.a.toNat x.regsN
  issue s o.g { reads := rs ++ [o.b.toNat], writes := [o.d.toNat], pure := true, refused := rs.any fun r => decide (63 < r) } fun i w =>
    let c := FCtl.ofCmr (w.d.cmr i.c)
    let f := x.format
    let f32 := fun l => packRes f.width ((List.range (64 / f.width)).map fun j =>
      cvtsPack c f x.scale (elem 32 (i.val (o.a.toNat + j / 2) l) (j % 2)) (i.c.scaleCode x o.b.toNat l j))
    let r := if x.scale == 0 then i.spreadF rs f32
      else (i.general (fun l => (f32 l).1), (maskLanes i.act).foldl (fun a l => a ||| (f32 l).2) fNone)
    (i.put w o.d.toNat r.1).bind fun w => .ok (i.flags w r.2)

/-- CVTS unpack (R281, R282). -/
def execCvtsUnpack (o : OpCvts) (s : State) : Out :=
  let x := s.slotFor o.slot.toNat
  let rs := regRange o.d.toNat x.regsN
  issue s o.g { reads := [o.a.toNat, o.b.toNat], writes := rs, pure := true, refused := rs.any fun r => decide (63 < r) } fun i w =>
    let c := FCtl.ofCmr (w.d.cmr i.c)
    let f := x.format
    let n := 64 / f.width
    let one := fun k l => packRes 32 ((List.range 2).map fun h =>
      if n ≤ 2 * k + h then ⟨0, fNone⟩
      else cvtsUnpack c f x.scale (elem f.width (i.val o.a.toNat l) (2 * k + h)) (i.c.scaleCode x o.b.toNat l (2 * k + h)))
    let res := (List.range x.regsN).map fun k =>
      if x.scale == 0 then i.spreadF [o.a.toNat] (one k)
      else (i.general (fun l => (one k l).1), (maskLanes i.act).foldl (fun a l => a ||| (one k l).2) fNone)
    (putEach i o.d.toNat (res.map (·.1)) w).bind fun w => .ok (i.flags w (res.foldl (fun a r => a ||| r.2) fNone))

/-! ## Packed dot products (R283) -/

/-- The integer forms: vd + Σ modulo 2^64. -/
def dotInt (w : Nat) (signed : Bool) (d a b : Word) : Word :=
  let v := fun x => if signed then toSigned w x else (x : Int)
  BitVec.ofInt 64 ((List.range (64 / w)).foldl (fun t j => t + v (elem w a j) * v (elem w b j)) (d.toNat : Int))

/-- The floating forms: acc + Σ exact, one rounding. A NaN operand always raises INV here; a product 0·∞ and opposite infinities make the
operation invalid beside a NaN operand too, so that R220 gives the canonical NaN. -/
def dotFloat (c : FCtl) (f : Fmt) (d a b : Word) : Word × Flags :=
  let n := List.range (64 / f.width)
  let xs := n.map fun j => f.input c (elem f.width a j)
  let ys := n.map fun j => f.input c (elem f.width b j)
  let acc := Fmt.fp32.input c (elem 32 d 0)
  let ops := xs ++ ys ++ [acc]
  let ps := ((xs.zip ys).filter fun p => !p.1.isNan && !p.2.isNan).map fun p => mulVal p.1 p.2
  let sum := sumVal c.rnd (ps.filterMap id ++ [acc].filter fun v => !v.isNan)
  let invalid := ps.any Option.isNone || sum.isNone
  let r : FRes :=
    if invalid || ops.any Val.isNan then let r := nanResult c .fp32 invalid ops; ⟨r.bits, r.fl ||| fInv⟩
    else match sum with
      | none => nanResult c .fp32 true ops
      | some v => roundTo c .fp32 v
  (BitVec.ofNat 64 r.bits, r.fl)

/-- An integer dot product (R283). -/
def dotIntOp (w : Nat) (signed : Bool) (o : OpRR) (s : State) : Out :=
  laneOp s o.g [o.a, o.b, o.d] o.d fun c l => dotInt w signed (c.val o.d.toNat l) (c.val o.a.toNat l) (c.val o.b.toNat l)
/-- A floating dot product (R283). -/
def dotFloatOp (f : Fmt) (o : OpRR) (s : State) : Out :=
  floatOp s o.g [o.a, o.b, o.d] o.d fun c k l => dotFloat c f (k.val o.d.toNat l) (k.val o.a.toNat l) (k.val o.b.toNat l)

/-- DOT8S (R283). -/
def execDot8s (o : OpRR) (s : State) : Out := dotIntOp 8 true o s

/-- DOT8U (R283). -/
def execDot8u (o : OpRR) (s : State) : Out := dotIntOp 8 false o s

/-- DOT4S (R283). -/
def execDot4s (o : OpRR) (s : State) : Out := dotIntOp 4 true o s

/-- DOT4U (R283). -/
def execDot4u (o : OpRR) (s : State) : Out := dotIntOp 4 false o s

/-- DOT2S (R283). -/
def execDot2s (o : OpRR) (s : State) : Out := dotIntOp 2 true o s

/-- DOTE4 (R283). -/
def execDote4 (o : OpRR) (s : State) : Out := dotFloatOp .e4m3 o s

/-- DOTE5 (R283). -/
def execDote5 (o : OpRR) (s : State) : Out := dotFloatOp .e5m2 o s

/-- DOTB (R283). -/
def execDotb (o : OpRR) (s : State) : Out := dotFloatOp .bf16 o s

/-- DOTH (R283). -/
def execDoth (o : OpRR) (s : State) : Out := dotFloatOp .fp16 o s

end Sys2Proof.Machine
end

