-- ==== Sys2Proof/Machine/Async.lean ====
section
/-! DEFINITION. Async: kicks and the request engine, arrival words, rings, and the declaration of the result digest
(05_async_engines_and_arrival.md, 15_isa_async_and_tasks.md R306 to R311). -/

namespace Sys2Proof.Machine

/-! ## Crew operations (R306) -/

/-- The address of a crew operation: that of the lowest active lane (R306). -/
def Iss.ea0 (i : Iss) (a : Nat) (off : Word) : Nat := (i.val a i.l0 + off).toNat

/-- An access of the lowest active lane located. -/
def Iss.find0 (i : Iss) (w : Work) (a : Acc) (space n ea : Nat) (k : LaneAt → Work → Res) : Res :=
  i.find w a space n [(i.l0, ea)] fun ls w =>
    match ls with
    | x :: _ => k x w
    | [] => .ok w

/-- Local-memory accesses of the crew that are not applied yet come before the read of a kick list or record (R125,
R315). -/
def Iss.localFirst (i : Iss) (w : Work) : Res :=
  match w.d.ops.find? fun o => o.crew == i.cu.crew && !o.done &&
      lanes.any fun l => (o.kind.keysOf l).any fun k => decide (localBase ≤ k) with
  | some o => .again i.w0 (.result o.id)
  | none => .ok w

/-! ## KICK (R124, R125, R308) -/

/-- Records a core's record store holds (R125). A request in progress still takes its entry (assumption 47). -/
def recordStore : Nat := 512

/-- One record of a kick taken into the record store: an operation of its own (R115). -/
def Iss.takeRecord (i : Iss) (w : Work) (kick : Word) (off key : Nat) : Work :=
  let recd := w.num key 32
  let (id, w) := i.newOp w 3 .copy [] 0
  let r : CopyReq := { op := id, crew := i.cu.crew, iaddr := i.cu.addr, recOff := off, recd := recd, kick := kick }
  w.mod fun d => d.modCore i.c.place.tower i.c.place.core fun k => { k with copies := k.copies ++ [r] }

/-- The fault of an instruction that meets an uncorrectable error at issue (R75). -/
def Iss.lost (i : Iss) (r : BRef) : FaultInfo :=
  { placeFault r.key r.tag i.c.place.tower i.c.place.core with crew := i.c.place.gid, iaddr := i.cu.addr, lanes := maskOf fun l => l == i.l0 }

/-- KICK (R308). -/
def execKick (o : OpSt) (s : State) : Out :=
  issue s o.g { reads := [o.a.toNat, o.b.toNat], slots := .kernel , values := true } fun i w =>
    (i.ready w).bind fun w =>
      let n := (i.val o.b.toNat i.l0).toNat
      if 127 < n then .fault (i.fault .badKickCount)
      else
        let t := i.c.place.tower
        let k := i.c.place.core
        let ea := i.ea0 o.a.toNat (sext o.off)
        let list := ea / 32 * 32
        let kick : Word := BitVec.ofNat 64 (i.c.place.gid * 2 ^ 32 + n * 2 ^ 18 + bits 17 5 ea * 2 ^ 5)
        let set := fun (w : Work) => w.mod fun d => d.modCore t k fun c => { c with kick := kick }
        if n == 0 then .ok (set w)
        else (i.room w 3 n).bind fun w =>
          if recordStore < (w.d.core t k).copies.length + n then .again i.w0 (.room .request n)
          else i.find0 w .load 2 (32 * n) list fun x w => (i.localFirst w).bind fun w =>
            let keys := x.refs.map (·.key)
            match w.d.meetsBad false x.refs with
            | some r => .fault (i.lost r)
            | none => .ok ((List.range n).foldl (fun w j => i.takeRecord w kick (list + 32 * j) (keys.getD (32 * j) 0)) (set w))

/-! ## The request engine (R120 to R127) -/

/-- The fields of a copy request (R120). `hint` is the cache hint of the writes at the destination; its other traffic has hint 0
(R48; assumption 45). -/
structure Copy where
  src : Nat
  dst : Nat
  len : Nat
  arrive : Nat
  sspace : Nat
  dspace : Nat
  kind : Nat
  noarr : Bool
  hint : Nat
  dtens : Bool
  spitch : Nat
  dpitch : Nat

/-- A record's fields (R120). -/
def Copy.ofNat (v : Nat) : Copy :=
  { src := bits 63 0 v, dst := bits 127 64 v, len := bits 159 128 v, arrive := bits 175 160 v, sspace := bits 178 176 v,
    dspace := bits 181 179 v, kind := bits 183 182 v, noarr := bit 184 v, hint := bits 186 185 v, dtens := bit 187 v, spitch := bits 223 192 v,
    dpitch := bits 255 224 v }

/-- The number of rows or elements of a request, and the bytes of each (R121). -/
def Copy.units (c : Copy) : Nat × Nat :=
  if c.kind == 1 || c.kind == 2 then (bits 31 16 c.len, bits 15 0 c.len) else (1, c.len)

/-- The destination pitch: with DTENS the named descriptor's PITCH (R121). -/
def Copy.pitch (c : Copy) (x : Ctx) : Nat :=
  if c.kind == 2 then (c.units).2
  else if c.dtens then
    match x.ranges.find? fun r => r.2.2.1 == c.dpitch % 4096 with
    | some (_, _, _, v) => (Desc.ofNat v).pitch
    | none => 0
  else c.dpitch

/-- Whether the request engine refuses a record (R122). -/
def Copy.malformed (c : Copy) (v : Nat) (x : Ctx) (localBytes : Nat) : Bool :=
  bits 191 188 v != 0 || 4 ≤ c.sspace || 4 ≤ c.dspace || (c.kind == 3 && c.sspace != 0)
    || ((c.kind == 0 || c.kind == 3) && (c.spitch != 0 || c.dpitch != 0))
    || (c.kind == 2 && c.dpitch % 4 != 0)
    || (c.dtens && (c.kind != 1 || bits 31 12 c.dpitch != 0 ||
        (match x.ranges.find? fun r => r.2.2.1 == c.dpitch % 4096 with
          | some (_, _, _, v) => decide ((Desc.ofNat v).rowbytes < (c.units).2)
          | none => true)))
    || (!c.noarr && decide (localBytes < 16 * c.arrive + 16))

/-- The destination address of a unit (R121). -/
def Copy.dstOf (c : Copy) (x : Ctx) (u : Nat) : Nat := (c.dst + u * c.pitch x) % 2 ^ 64

/-- The number of granules of a unit: the 256 B blocks of the destination it touches (R126). -/
def Copy.blocks (c : Copy) (x : Ctx) (u : Nat) : Nat :=
  let n := (c.units).2
  if n == 0 then 0 else (c.dstOf x u % 256 + n - 1) / 256 + 1

/-- The number of granules of a request. -/
def Copy.granules (c : Copy) (x : Ctx) : Nat := ((List.range (c.units).1).map (c.blocks x)).sum

/-- The bytes of a unit that fall in its block `j`: first and count. -/
def Copy.span (c : Copy) (x : Ctx) (u j : Nat) : Nat × Nat :=
  let off := c.dstOf x u % 256
  let lo := j * 256 - off
  let hi := Nat.min (c.units).2 ((j + 1) * 256 - off)
  (lo, hi - lo)

/-- A copy request of a crew with its core. -/
def Dev.copyReq (d : Dev) (op : Nat) : Option (Crew × CopyReq) :=
  match d.op op with
  | some o => (d.crew o.crew).bind fun c => ((d.core c.place.tower c.place.core).copies.find? fun r => r.op == op).map fun r => (c, r)
  | none => none

/-- A copy request changed. -/
def Dev.modCopy (d : Dev) (c : Crew) (op : Nat) (f : CopyReq → CopyReq) : Dev :=
  d.modCore c.place.tower c.place.core fun k => { k with copies := k.copies.map fun r => if r.op == op then f r else r }

/-- A copy request complete: it leaves the engine and retires in its turn (R126). -/
def Work.endCopy (w : Work) (c : Crew) (op : Nat) : Work :=
  ((w.mod fun d => d.modCore c.place.tower c.place.core fun k => { k with copies := k.copies.filter fun r => r.op != op }).opDone op).settle

/-- A record of the request engine: EXTRA holds the kick register, DETAIL the record's local offset and the bytes already
written (R122, R127). It names no lanes: LANES of its violation-log entry is 0 (assumption 62). -/
def CopyReq.fault (r : CopyReq) (c : Crew) (reason : Reason) : FaultInfo :=
  { c.fault reason r.iaddr 0 with
    engine := .request, extra := r.kick, detail := r.recOff + r.bytesDone * 2 ^ 32, item := r.op }

/-- The engine's view of memory for a request: its crew's, translated at once. -/
def Dev.engineWho (d : Dev) (c : Crew) : Option Who := (d.who c).map fun q => { q with via := .now, fails := [], handler := false }

/-- Whether a byte was named in global space by a virtual address. -/
def BRef.global (r : BRef) (handler : Bool) : Bool := (placeOf r.key == 0 || r.tag != {}) && !(handler && r.va == 0)

/-- What translating an access afresh gives: its bytes, a failed check with its reason, tensor and address, or a hold by a shootdown (R44,
R46). -/
inductive Afresh (α : Type) where
  | ok (refs : α)
  | bad (why tensor va : Nat)
  | held

/-- The bytes of an access that is made later than it was checked: those named by virtual addresses are translated under the entries that
stand now (R46). -/
def Work.afresh (w : Work) (q : Who) (a : Acc) (refs : List BRef) : Afresh (List BRef) :=
  let r := refs.headD { key := 0 }
  if refs.isEmpty || !r.global q.handler then .ok refs
  else match w.locate { q with via := .now, fails := [] } [] a 0 r.va refs.length with
    | .ok rs => .ok rs
    | .bad why tensor => .bad why tensor r.va
    | _ => .held

/-- The same for several runs of bytes. -/
def Work.afreshRows (w : Work) (q : Who) (a : Acc) : List (List BRef) → Afresh (List (List BRef))
  | [] => .ok []
  | r :: rs => match w.afresh q a r with
    | .bad why tensor va => .bad why tensor va
    | .held => .held
    | .ok r => match w.afreshRows q a rs with
      | .ok rs => .ok (r :: rs)
      | x => x

/-- COPY_REQUEST_START (R122, R125): the next request in kick order is checked and started, at most 16 at a time. -/
def execCopyRequestStart (op : Nat) (s : State) : Out :=
  event s fun w =>
    match w.d.copyReq op with
    | none => none
    | some (c, r) =>
      let t := c.place.tower
      let k := c.place.core
      let all := (w.d.core t k).copies
      let first := (all.find? fun x => !x.started).map (·.op)
      match w.d.engineWho c with
      | none => none
      | some q =>
        if r.started || first != some op || !w.d.engineRuns t k .request || decide (16 ≤ (all.filter (·.started)).length) then none
        else
          let cp := Copy.ofNat r.recd
          if cp.malformed r.recd q.x ((w.d.localGranules c).length * 1024) then
            some ((w.endCopy c op).raise { r.fault c .malformedCopy with aform := 3, addr := BitVec.ofNat 64 r.recOff })
          else if cp.granules q.x == 0 then some (w.endCopy c op)
          else some (w.mod fun d => d.modCopy c op fun r => { r with started := true })

/-- The bytes of the arrival word at a key. -/
def wordRefs (key : Nat) : List BRef := (List.range 16).map fun i => { key := key + i }

/-- The addition of n bytes to an arrival word (R129); `f` is the record of the fault it may raise, and a fault of a malformed word, or of
one that holds an uncorrectable error, adds nothing (R75). -/
def Work.arrivalAdd (w : Work) (key off n : Nat) (f : Reason → FaultInfo) : Work :=
  let v := w.num key 16
  let at_ := fun (r : Reason) => { f r with aform := 3, addr := BitVec.ofNat 64 off }
  if (w.d.meetsBad false (wordRefs key)).isSome then w.raise (at_ .uncorrectable)
  else if bits 127 98 v != 0 then w.raise (at_ .malformedArrival)
  else
    let target := bits 31 0 v
    let c := bits 63 32 v + n
    let set := fun (cnt gen flags : Nat) => w.apply ((natLe 16 (target + cnt % 2 ^ 32 * 2 ^ 32 + gen % 2 ^ 32 * 2 ^ 64 + flags * 2 ^ 96)).mapIdx fun i b => ({ key := key + i }, b))
    if !bit 96 v || bit 97 v then set c (bits 95 64 v) (bits 97 96 v)
    else if c < target then set c (bits 95 64 v) 1
    else if c == target then set 0 (bits 95 64 v + 1) 1
    else (set c (bits 95 64 v) 3).raise (at_ .arrivalOvershoot)

/-- What reading the source of a granule gives: its bytes, a failed check, or an uncorrectable byte. -/
inductive Fetched where
  | ok (bytes : List Byte)
  | bad (why tensor space ea : Nat)
  | error (r : BRef)
  /-- A link of the host-window route that is down (R70). -/
  | down (link space ea : Nat)
  /-- A shootdown holds its translation (R44). -/
  | held

/-- Bytes read at their executing places for an engine (R97). -/
def Work.fetchBytes (w : Work) (q : Who) (gran : List Nat) (space ea n : Nat) : Fetched :=
  match w.locate q gran .copySrc space ea n with
  | .ok refs =>
    match w.d.linkFor q.t refs, w.d.meetsBad false refs with
    | some l, _ => .down l space ea
    | none, some r => .error r
    | none, none => .ok (refs.map fun r => w.get r.key)
  | .bad why tensor => .bad why tensor space ea
  | .miss _ => .held
  | .held => .held

/-- The source bytes of a granule (R121). -/
def Work.copySource (w : Work) (q : Who) (gran : List Nat) (c : Copy) (u lo n : Nat) : Fetched :=
  match c.kind with
  | 3 => .ok ((List.range n).map fun i => BitVec.ofNat 8 (c.src / 2 ^ (8 * ((c.dst + lo + i) % 8)) % 256))
  | 2 =>
    match w.fetchBytes q gran 2 (c.dpitch + 4 * u) 4 with
    | .ok ix => w.fetchBytes q gran c.sspace ((c.src + leNat ix * c.spitch + lo) % 2 ^ 64) n
    | e => e
  | 1 => w.fetchBytes q gran c.sspace ((c.src + u * c.spitch + lo) % 2 ^ 64) n
  | _ => w.fetchBytes q gran c.sspace ((c.src + lo) % 2 ^ 64) n

/-- The bytes of memory that the source of a granule is read from (R97). -/
def Work.copyReads (w : Work) (q : Who) (gran : List Nat) (c : Copy) (u lo n : Nat) : List BRef :=
  let at_ := fun (ea : Nat) => match w.locate q gran .copySrc c.sspace (ea % 2 ^ 64) n with
    | .ok refs => refs
    | _ => []
  match c.kind with
  | 3 => []
  | 2 => match w.fetchBytes q gran 2 (c.dpitch + 4 * u) 4 with
    | .ok ix => at_ (c.src + leNat ix * c.spitch + lo)
    | _ => []
  | 1 => at_ (c.src + u * c.spitch + lo)
  | _ => at_ (c.src + lo)

/-- A request stopped at a granule that failed (R127). -/
def Work.stopCopy (w : Work) (c : Crew) (r : CopyReq) (f : FaultInfo) : Work :=
  (w.mod fun d => d.modCopy c r.op fun r => { r with stopped := true }).raise f

/-- COPY_GRANULE (R126): one granule of a started request: its source is read at the executing places, its destination
written, the kicking core's L1 copies dropped, and its bytes counted, once no older message is on its paths (R62, R63, R66). One that fails
its check stops the request. -/
def execCopyGranule (op u j : Nat) (s : State) : Out :=
  event s fun w =>
    match w.d.copyReq op with
    | none => none
    | some (c, r) =>
      match w.d.engineWho c with
      | none => none
      | some q =>
        let t := c.place.tower
        let k := c.place.core
        let cp := Copy.ofNat r.recd
        let g := u * 2 ^ 32 + j
        if !r.started || r.stopped || r.applied.contains g || !w.d.engineRuns t k .request || decide ((cp.units).1 ≤ u)
            || decide (cp.blocks q.x u ≤ j) then none
        else
          let gran := w.d.localGranules c
          let (lo, n) := cp.span q.x u j
          let ea := (cp.dstOf q.x u + lo) % 2 ^ 64
          let bad := fun (a : Acc) (why tensor space ea : Nat) => w.stopCopy c r
            { r.fault c .violation with
              aform := aformOf space ea, addr := BitVec.ofNat 64 ea
              viol := some { tensor := tensor, why := why, access := a.code, space := space, iaddr := some (BitVec.ofNat 64 r.recOff) } }
          let err := fun (x : BRef) =>
            let f := placeFault x.key x.tag t k
            w.stopCopy c r { r.fault c .uncorrectable with aform := f.aform, addr := f.addr }
          let down := fun (l space ea : Nat) =>
            w.stopCopy c r { r.fault c .linkDown with engine := .link, unit := l, aform := aformOf space ea, addr := BitVec.ofNat 64 ea }
          match w.copySource q gran cp u lo n with
          | .bad why tensor space ea => some (bad .copySrc why tensor space ea)
          | .error x => some (err x)
          | .down l space ea => some (down l space ea)
          | .held => none
          | .ok bytes =>
            match w.locate q gran .copyDst cp.dspace ea n with
            | .ok refs =>
              match w.d.linkFor t refs, w.d.meetsBad true refs with
              | some l, _ => some (down l cp.dspace ea)
              | none, some x => some (err x)
              | none, none =>
                if w.passes t k (w.copyReads q gran cp u lo n ++ refs) then none
                else
                let grid := w.d.gridId c
                let w := (w.touch t k 0 grid (w.copyReads q gran cp u lo n)).touch t k cp.hint grid refs
                let w := (w.apply (refs.zip bytes)).dropL1 t k (lineTags refs)
                let w := w.mod fun d => d.modCopy c op fun r => { r with applied := r.applied ++ [g], bytesDone := r.bytesDone + n }
                let w := if cp.noarr then w
                  else w.arrivalAdd (granKey t k gran (16 * cp.arrive)) (16 * cp.arrive) n fun reason =>
                    { r.fault c reason with detail := r.recOff + n * 2 ^ 32 }
                some (if r.applied.length + 1 == cp.granules q.x then w.endCopy c op else w)
            | .bad why tensor => some (bad .copyDst why tensor cp.dspace ea)
            | _ => none

/-! ## Arrival words (R128 to R131, R309) -/

/-- The GEN of an arrival word. -/
def Work.genAt (w : Work) (key : Nat) : Nat := w.num (key + 8) 4

/-- The word an arrival instruction names, its checks made (R290, R309). -/
def Iss.arrivalWord (i : Iss) (w : Work) (a : Acc) (ra : Nat) (off : Word) (k : Nat → Nat → Work → Res) : Res :=
  let ea := i.ea0 ra off
  if ea % 16 != 0 then .fault (i.misaligned .misaligned 2 [(i.l0, ea)])
  else i.find0 w a 2 16 ea fun x w => (i.clash w [x]).bind fun w => k ((x.refs.headD { key := 0 }).key) ea w

/-- ARRS or ARRA issued (R309): it takes effect in the word's bank. -/
def Iss.startArrival (i : Iss) (w : Work) (arm : Bool) (target ra : Nat) (off : Word) : Res :=
  (i.ready w).bind fun w => (i.room w 2 1).bind fun w =>
    i.arrivalWord w .atomic ra off fun key ea w => .ok (i.newOp w 2 (.arrival key ea arm target) [] 0).2

/-- ARRS (R309). -/
def execArrs (o : OpSt) (s : State) : Out :=
  issue s o.g { reads := [o.a.toNat, o.b.toNat], slots := .kernel , values := true } fun i w =>
    i.startArrival w false ((i.val o.b.toNat i.l0).toNat % 2 ^ 32) o.a.toNat (sext o.off)

/-- ARRA (R309). -/
def execArra (o : OpAd) (s : State) : Out :=
  issue s o.g { reads := [o.a.toNat], slots := .kernel , values := true } fun i w => i.startArrival w true 0 o.a.toNat (sext o.off)

/-- ARRW (R309): the group waits until the wanted generation is reached. -/
def execArrw (o : OpSt) (s : State) : Out :=
  issue s o.g { reads := [o.a.toNat, o.b.toNat], slots := .kernel , values := true } fun i w =>
    (i.ready w).bind fun w =>
      i.arrivalWord w .load o.a.toNat (sext o.off) fun key _ w =>
        let want := (i.val o.b.toNat i.l0).toNat % 2 ^ 32
        match w.d.meetsBad false (wordRefs key) with
        | some r => .fault (i.lost r)
        | none => .ok (if genReached (w.genAt key) want then w else i.wait w (.arrival key want))

/-- ARRS or ARRA applied in the word's bank (R309, R130); a word that holds an uncorrectable error is not modified (R75). -/
def Work.arrivalApply (w : Work) (op : Nat) : Option Work :=
  match w.d.op op with
  | none => none
  | some o =>
    match w.d.crew o.crew, o.kind with
    | some c, .arrival key off arm target =>
      if o.done then none
      else match w.d.meetsBad false (wordRefs key) with
      | some r => some (w.opError o r.key r.tag o.lanes).settle
      | none =>
        let v := w.num key 16
        let put := fun (n : Nat) => w.apply ((natLe 16 n).mapIdx fun i b => ({ key := key + i }, b))
        let w :=
          if !arm then put (target + bits 95 64 v * 2 ^ 64)
          else if bits 127 98 v != 0 then
            w.raise { c.fault .malformedArrival o.iaddr o.lanes with aform := 3, addr := BitVec.ofNat 64 off }
          else (put (v % 2 ^ 96 + bits 97 97 v * 2 ^ 97 + 2 ^ 96)).arrivalAdd key off 0 fun r => c.fault r o.iaddr o.lanes
        some (w.opDone op).settle
    | _, _ => none

/-- ACCESS_AT_EXECUTING_PLACE (R47, R66, R69, R86): one lane of a vault, local, host-window or uncached access, or of an
LDNC, STNC or STRL, is applied at its executing place, once its line's older stores of the cluster have drained; an ARRS
or ARRA is applied in its bank. -/
def execAccessAtExecutingPlace (op lane : Nat) (s : State) : Out :=
  event s fun w => match w.arrivalApply op with
    | some w => some w
    | none => w.placeAccess op lane false

/-- PARTITION_AREA_ACCESS (R19): one lane of a handler's access to a partition area. -/
def execPartitionAreaAccess (op lane : Nat) (s : State) : Out := event s fun w => w.placeAccess op lane true

/-! ## Rings (R132 to R135, R310) -/

/-- A ring header's fields (R132). -/
structure Ring where
  cap : Nat
  claim : Nat
  commit : Nat
  head : Nat
  retire : Nat

/-- A header's fields. -/
def Ring.ofNat (v : Nat) : Ring :=
  { cap := bits 31 0 v, claim := bits 63 32 v, commit := bits 95 64 v, head := bits 127 96 v, retire := bits 159 128 v }

/-- d(x, y) = (x − y) mod 2^32 (R133). -/
def ringDist (x y : Nat) : Nat := (x + 2 ^ 32 - y % 2 ^ 32) % 2 ^ 32

/-- Whether a header is well-formed (R133). -/
def ringOk (v : Nat) : Bool :=
  let r := Ring.ofNat v
  bits 511 256 v == 0 && bits 191 160 v == 0 && bits 197 192 v == 0
    && decide (1 ≤ r.cap) && decide (r.cap ≤ 2 ^ 31) && 2 ^ Nat.log2 r.cap == r.cap
    && decide (ringDist r.head r.retire ≤ ringDist r.commit r.retire)
    && decide (ringDist r.commit r.retire ≤ ringDist r.claim r.retire) && decide (ringDist r.claim r.retire ≤ r.cap)

/-- What an evaluation of a ring operation gives. -/
inductive RingStep where
  | bad
  | wait
  /-- It applies: the byte offset of the index it writes, the index, and what it returns. -/
  | go (off value ret : Nat)

/-- One evaluation of a ring operation on its header (R134). A count of 0 changes nothing and meets no fault condition of the table, but a
malformed header faults (assumption 46). -/
def ringStep (op : RingOp) (v start n : Nat) : RingStep :=
  let r := Ring.ofNat v
  let behind := fun (x : Nat) => decide (1 ≤ ringDist x start) && decide (ringDist x start ≤ 2 ^ 31)
  if !ringOk v then .bad
  else if n == 0 then
    match op with
    | .claim => .go 4 r.claim r.claim
    | .commit => .go 8 r.commit 0
    | .await => .go 12 r.head r.head
    | .retire => .go 16 r.retire 0
  else if r.cap < n then .bad
  else
    match op with
    | .claim => if ringDist r.claim r.retire + n ≤ r.cap then .go 4 ((r.claim + n) % 2 ^ 32) r.claim else .wait
    | .commit =>
      if ringDist r.claim r.commit < ringDist (start + n) r.commit || behind r.commit then .bad
      else if r.commit == start then .go 8 ((start + n) % 2 ^ 32) 0 else .wait
    | .await => if n ≤ ringDist r.commit r.head then .go 12 ((r.head + n) % 2 ^ 32) r.head else .wait
    | .retire =>
      if ringDist r.head r.retire < ringDist (start + n) r.retire || behind r.retire then .bad
      else if r.retire == start then .go 16 ((start + n) % 2 ^ 32) 0 else .wait

/-- A ring instruction: one operation per active lane (R310). `packed` says that vb holds start and count. -/
def ringOp (op : RingOp) (packed : Bool) (d : Option Reg) (a b : Reg) (space : BitVec 3) (scope : BitVec 3) (off : Word)
    (g : Guard) (s : State) : Out :=
  let regs := match d with
    | some r => [r.toNat]
    | none => []
  let cls := if d.isSome then 1 else 2
  issue s g { reads := [a.toNat, b.toNat], writes := regs, pends := d.isSome , values := true } fun i w =>
    (i.ready w).bind fun w => (i.room w cls 1).bind fun w =>
      i.find w .atomic space.toNat 64 (i.eas a.toNat off) fun ls w => (i.clash w ls).bind fun w =>
        (if packed then i.release w scope.toNat else .ok w).bind fun w =>
          let rl := ls.map fun x =>
            let v := (i.val b.toNat x.lane).toNat
            ({ lane := x.lane, refs := x.refs, start := if packed then v % 2 ^ 32 else 0, n := if packed then v / 2 ^ 32 else v % 2 ^ 32 } : RingLane)
          let (id, w) := i.newOp w cls (.ring op (d.map (·.toNat)) rl scope.toNat) [] 0
          let refs := ls.flatMap (·.refs)
          let w := i.drainFor (w.dropL1 i.c.place.tower i.c.place.core (lineTags refs)) .atomic refs
          .ok (if d.isSome then i.wait w (.result id) none regs else w)

/-- RCLM (R310). -/
def execRclm (o : OpDabExt) (s : State) : Out := ringOp .claim false (some o.d) o.a o.b o.space o.scope (sext o.off) o.g s
/-- RCMT (R310). -/
def execRcmt (o : OpSt) (s : State) : Out := ringOp .commit true none o.a o.b o.space o.scope (sext o.off) o.g s
/-- RAWT (R310). -/
def execRawt (o : OpDabExt) (s : State) : Out := ringOp .await false (some o.d) o.a o.b o.space o.scope (sext o.off) o.g s
/-- RRET (R310). -/
def execRret (o : OpSt) (s : State) : Out := ringOp .retire true none o.a o.b o.space o.scope (sext o.off) o.g s

/-- One lane of a ring operation changed. -/
def Work.modRing (w : Work) (id lane : Nat) (f : RingLane → RingLane) : Work :=
  w.mod fun d => d.modOp id fun o => match o.kind with
    | .ring op r ls sc => { o with kind := .ring op r (ls.map fun a => if a.lane == lane then f a else a) sc }
    | _ => o

/-- A ring operation whose lanes have all been applied or have faulted: its result (0 in a lane that met a malformed ring, R310; none
in a lane that met an uncorrectable error), its acquire, its completion. -/
def Work.endRing (w : Work) (id : Nat) : Work :=
  match w.d.op id with
  | some o =>
    match o.kind with
    | .ring op reg ls sc =>
      if !ls.all fun a => a.state == 2 || a.state == 3 then w
      else
        let res := fun (l : Nat) => ((ls.find? fun a => a.lane == l).map (·.result)).getD 0
        let w := match reg with
          | some r =>
            let lost := maskOf fun l => ls.any fun a => a.lane == l && a.state == 3
            w.writeLate { o with lanes := o.lanes &&& ~~~ lost } r fun l => BitVec.ofNat 64 (res l)
          | none => w
        let w := match op == .claim || op == .await, w.d.crew o.crew with
          | true, some c => w.acquire c.place.tower c.place.core sc
          | _, _ => w
        (w.opDone id).settle
    | _ => w
  | none => w

/-- One evaluation of a lane's ring operation at its place: it applies, faults, or begins or goes on to wait; `none` where
it goes on waiting. -/
def Work.ringEval (w : Work) (o : Op) (op : RingOp) (a : RingLane) : Option Work :=
  let c := (w.d.crew o.crew).getD {}
  let key := (a.refs.headD { key := 0 }).key
  let r0 := a.refs.headD { key := 0 }
  let v := leNat (a.refs.map fun r => w.get r.key)
  let fail := fun (w : Work) (reason : Reason) =>
    let f := placeFault key r0.tag c.place.tower c.place.core
    let state := if reason == .malformedRing then 2 else 3
    (((w.modRing o.id a.lane fun x => { x with state := state, result := 0 }).raise
      { f with reason := reason, crew := c.place.gid, iaddr := o.iaddr, lanes := maskOf fun l => l == a.lane }).endRing o.id)
  match w.d.linkFor c.place.tower a.refs, w.d.meetsBad false a.refs with
  | some l, _ =>
    some (((w.modRing o.id a.lane fun x => { x with state := 3 }).raise
      { c.fault .linkDown o.iaddr (maskOf fun l => l == a.lane) with engine := .link, unit := l }).endRing o.id)
  | none, some _ => some (fail w .uncorrectable)
  | none, none =>
    if key % 64 != 0 then some (fail w .malformedRing)
    else
      match ringStep op v a.start a.n with
      | .bad => some (fail w .malformedRing)
      | .go off value ret =>
        let w := w.apply (((a.refs.drop off).take 4).zip (natLe 4 value))
        let w := w.dropL1 c.place.tower c.place.core (lineTags a.refs)
        some ((w.modRing o.id a.lane fun x => { x with state := 2, result := ret }).endRing o.id)
      | .wait => none

/-- The waiting store of the executing place of a byte, for a core that asks (R39, R47, R135): a home slice, a vault's controller, a local
memory, the host window. -/
def Work.waitPlace (w : Work) (t k : Nat) (r : BRef) : Nat :=
  match placeOf r.key with
  | 0 => let h := w.homeOf t k r.tag r.key
         h.1 * 64 + h.2
  | 1 => 1024 + r.key % 2 ^ 32 / 2 ^ 23
  | 4 => 4096 + (r.key - localBase) / 2 ^ 18
  | _ => 2048

/-- The place that a lane of a crew's ring operation waits at. -/
def Work.ringPlace (w : Work) (o : Op) (a : RingLane) : Nat :=
  match w.d.crew o.crew with
  | some c => w.waitPlace c.place.tower c.place.core (a.refs.headD { key := 0 })
  | none => w.waitPlace 0 0 (a.refs.headD { key := 0 })

/-- Operations a place's waiting store holds (R135). -/
def ringStore : Nat := 64

/-- The ring lanes that wait, with their operations, in the order in which they began to wait. -/
def Dev.ringWaiters (d : Dev) : List (Op × RingOp × RingLane) :=
  sortOn (fun x => x.2.2.since) (d.ops.flatMap fun o => match o.kind with
    | .ring op _ ls _ => (ls.filter fun a => a.state == 1).map fun a => (o, op, a)
    | _ => [])

/-- The version-cell operations that wait at a place. -/
def Work.versionsAt (w : Work) (place : Nat) : List Op :=
  w.d.ops.filter fun o => match o.kind, w.d.crew o.crew with
    | .version _ key _ _ _ _ state _ _, some c =>
      state == 1 && w.waitPlace c.place.tower c.place.core { key := key, tag := flatTag key } == place
    | _, _ => false

/-- RING_WAIT_REEVALUATE (R135): the first waiting operation, in the order of waiting, that can proceed or whose header
has become malformed is applied or faults; and so on until none can. -/
def Work.ringWake (w : Work) : Nat → Work
  | 0 => w
  | n + 1 =>
    match (w.d.ringWaiters).findSome? fun x => w.ringEval x.1 x.2.1 x.2.2 with
    | some w => w.ringWake n
    | none => w

/-- Every waiting ring operation evaluated. -/
def Work.ringWakeAll (w : Work) : Work := if w.d.ringWaiters.isEmpty then w else w.ringWake w.d.ringWaiters.length

/-- RING_OP_AT_PLACE (R134, R135): a lane's ring operation reaches its header's place: it applies, faults, waits there, or
is sent back by a full waiting store. Lower lanes of the same header come first (R310). -/
def execRingOpAtPlace (op lane : Nat) (s : State) : Out :=
  event s fun w =>
    match w.d.op op with
    | none => none
    | some o =>
      match w.d.crew o.crew, o.kind with
      | some c, .ring rop _ ls _ =>
        match ls.find? fun a => a.lane == lane && a.state == 0 with
        | none => none
        | some a =>
          let same := fun (x : RingLane) => x.refs.map (·.key) == a.refs.map (·.key)
          if w.d.linesPending c a.refs || w.overtakes c.place.tower c.place.core (Nat.max op a.sent) a.refs
              || ls.any fun x => decide (x.lane < lane) && x.state == 0 && same x then none
          else
            let w := w.touch c.place.tower c.place.core 0 (w.d.gridId c) a.refs
            match w.ringEval o rop a with
            | some w => some w.ringWakeAll
            | none =>
              let place := w.ringPlace o a
              if ringStore ≤ (w.d.ringWaiters.filter fun x => w.ringPlace x.1 x.2.2 == place).length + (w.versionsAt place).length then
                some (w.modRing op lane fun x => { x with state := 4 })
              else
                let (id, w) := w.newId
                some (w.modRing op lane fun x => { x with state := 1, since := id })
      | _, _ => none

/-! ## Operations withdrawn at a save, and sent again (R46, R118, R320) -/

/-- Whether an operation may be withdrawn at a save, and what it is until it is sent again: a ring or version-cell operation that waits at
its place or was sent back by a full waiting store, but none on its way there; a publish that is applied stays so. VREL, STOPREF and VSUB do
not wait and complete first (R118, R320). -/
def Op.withdrawn (o : Op) : Option Op :=
  match o.kind with
  | .ring op reg ls scope =>
    if ls.any fun a => a.state == 0 then none
    else some { o with kind := .ring op reg (ls.map fun a => if a.state == 1 then { a with state := 4, since := 0 } else a) scope }
  | .version op key va arg reg pred state _ buf =>
    if state == 0 then none else some (if state == 1 then { o with kind := .version op key va arg reg pred 4 0 buf } else o)
  | _ => none

/-- The place in a team's allotment of a key of its local memory, as a key of the first granules of the first core. -/
def unplacedKey (gran : List Nat) (key : Nat) : Nat :=
  if key < localBase then key
  else
    let off := (key - localBase) % 2 ^ 18
    localBase + gran.idxOf (off / 1024) * 1024 + off % 1024

/-- A withdrawn operation as it is kept: its local references by their place in its team's allotment. -/
def Op.unplaced (o : Op) (gran : List Nat) : Op :=
  match o.kind with
  | .ring op reg ls scope =>
    { o with kind := .ring op reg (ls.map fun a => { a with refs := a.refs.map fun r => { r with key := unplacedKey gran r.key } }) scope }
  | _ => o

/-- Whether a crew has been saved while landed and restored, and has not landed again (R197). -/
def Dev.relands (d : Dev) (id : Nat) : Bool :=
  d.teams.any fun t => t.crews.contains id && t.lands.any fun e => e.1 == id

/-- A withdrawn operation of a crew as it is kept; one of a crew that has still to land again is so already. -/
def Dev.keptOp (d : Dev) (o : Op) : Op :=
  if d.relands o.crew then o else o.unplaced (((d.crew o.crew).map d.localGranules).getD [])

/-- A withdrawn operation's local references in the allotment that its team holds now. -/
def Op.placed (o : Op) (t k : Nat) (gran : List Nat) : Op :=
  match o.kind with
  | .ring op reg ls scope =>
    let place := fun (r : BRef) => if r.key < localBase then r else { r with key := granKey t k gran (r.key - localBase) }
    { o with kind := .ring op reg (ls.map fun a => { a with refs := a.refs.map place }) scope }
  | _ => o


/-- The violation of an access whose fresh translation fails (R31, R46). -/
def Work.afreshBad (w : Work) (o : Op) (c : Crew) (lns : Mask) (a : Acc) (why tensor va : Nat) : Work :=
  w.raise { c.fault .violation o.iaddr lns with
    aform := 1, addr := BitVec.ofNat 64 va, viol := some { tensor := tensor, why := why, access := a.code } }

/-- An operation that was withdrawn or sent back, sent again (R46, R118, R135, R320), by the lanes that a test picks: they go to where their
bytes are now; one whose translation fails is a violation of its instruction (R31), and one that a shootdown holds stays (R44). -/
def Work.resend (w : Work) (o : Op) (sel : Nat → Bool) : Work :=
  match w.d.crew o.crew with
  | none => w
  | some c =>
    match w.d.who c with
    | none => w
    | some q =>
      let (id, w) := w.newId
      match o.kind with
      | .ring op reg ls scope =>
        let go := fun (a : RingLane) => if a.state == 4 && sel a.lane then some (w.afresh q .atomic a.refs) else none
        let ls' := ls.map fun a => match go a with
          | some (.ok rs) => { a with refs := rs, state := 0, sent := id }
          | some (.bad ..) => { a with state := 3 }
          | _ => a
        let w' := w.setKind o.id (.ring op reg ls' scope)
        (ls.foldl (fun w' a => match go a with
          | some (.bad why tensor va) => w'.afreshBad o c (maskOf fun l => l == a.lane) .atomic why tensor va
          | _ => w') w').endRing o.id
      | .version op key va arg reg pred 4 _ buf =>
        match w.afresh q .atomic ((cellRefs key).mapIdx fun i r => { r with va := va + i }) with
        | .ok rs => w.setKind o.id (.version op ((rs.headD { key := key }).key) va arg reg pred 0 id buf)
        | .bad why tensor va => ((w.opDone o.id).afreshBad o c o.lanes .atomic why tensor va).settle
        | .held => w
      | _ => w

/-- An operation of a crew that has been restored: its local bytes are where its team's allotment is now, and it is sent again (R118). -/
def Work.resendPlaced (w : Work) (o : Op) : Work :=
  match w.d.crew o.crew with
  | none => w
  | some c =>
    let o' := o.placed c.place.tower c.place.core (w.d.localGranules c)
    (w.setKind o.id o'.kind).resend o' fun _ => true

/-- RING_OP_RESEND (R135): an operation sent back by a full waiting store, or withdrawn while a shootdown held its page, is sent again; a
version-cell operation whichever lane is named (R162). -/
def execRingOpResend (op lane : Nat) (s : State) : Out :=
  event s fun w =>
    match w.d.op op with
    | some o =>
      match o.kind with
      | .ring _ _ ls _ => if !w.d.relands o.crew && ls.any fun a => a.lane == lane && a.state == 4 then some (w.resend o fun l => l == lane) else none
      | .version _ _ _ _ _ _ state _ _ => if !w.d.relands o.crew && state == 4 then some (w.resend o fun _ => true) else none
      | _ => none
    | none => none

/-- Operations that are complete retire, so that the counters of their crews are what is withdrawn or still outstanding (R118). -/
def Work.retireDone (w : Work) (crews : List Nat) : Work :=
  (w.d.ops.filter fun o => o.done && crews.contains o.crew).foldl (fun w o => w.retire o) w

/-- Whether an operation that has not ended is withdrawn at a save with no trace, its instruction issuing again: a landing request, an
NLR that waits for its entry, and a GSYNC, whose arrival stands in GPEND (R197, R320, R343). -/
def Op.reissues (o : Op) : Bool :=
  !o.done && (match o.kind with
    | .migrate .. => true
    | .receive _ => true
    | .gsync => true
    | _ => false)

/-- Operations taken away as if they had not been issued: their counts, their pending registers and landing requests. -/
def Work.unissue (w : Work) (gone : List Op) : Work :=
  gone.foldl (fun w o => w.mod fun d =>
    let d := { d with ops := d.ops.filter fun x => x.id != o.id, cores := d.cores.map fun (e : Nat × Core) =>
      (e.1, if e.2.landing.contains o.crew then { e.2 with landing := e.2.landing.filter (· != o.crew) } else e.2) }
    d.modCrew o.crew fun c => { c.modCount o.cls (· - 1) with
      waits := c.waits.filter fun x => x.cond != .result o.id, pend := c.pend.filter fun p => p.op != o.id }) w

/-- What a crew that stops under cancellation has waiting is withdrawn without effect: ring and version-cell operations that wait at their
place or were sent back, a landing request, a neighbour's entry, and its waits. One on its way is withdrawn when it comes to wait; every
other operation completes (R119, R169, R320). -/
def Work.withdrawAll (w : Work) (crew : Nat) : Work :=
  let gone := w.d.ops.filter fun o => o.crew == crew && (o.reissues || (!o.done && (match o.kind with
    | .ring _ _ ls _ => ls.all fun a => a.state != 0
    | .version _ _ _ _ _ _ state _ _ => state == 1 || state == 4
    | _ => false)))
  (w.unissue gone).mod fun d => d.modCrew crew fun c => { c with waits := [] }

/-! ## The result digest (R311) -/

/-- The root grid of a crew's grid (R187). -/
def Dev.rootOf (d : Dev) (c : Crew) : Option Grid := (d.gridOf c).bind fun g => d.grid g.root

/-- Regions a digest list holds (R311). -/
def digestRegions : Nat := 16

/-- DIGB (R311): a region added to the root grid's digest list, each of its pages checked as a load. -/
def execDigb (o : OpSt) (s : State) : Out :=
  issue s o.g { reads := [o.a.toNat, o.b.toNat], slots := .kernel , values := true } fun i w =>
    (i.ready w).bind fun w => (i.room w 2 1).bind fun w =>
      let a := i.ea0 o.a.toNat (sext o.off)
      let n := (i.val o.b.toNat i.l0).toNat
      let finish := fun (w : Work) => Res.ok (i.newOp w 2 .instant [] 0 true).2
      match w.d.rootOf i.c with
      | none => finish w
      | some g =>
        if n == 0 then finish w
        else if digestRegions ≤ g.regions.length then .fault (i.fault .digestFull)
        else
          let last := a + n - 1
          let pages := if 2 ^ 52 ≤ last then [last] else (List.range (last / 2 ^ 16 - a / 2 ^ 16)).map fun j => (a / 2 ^ 16 + j + 1) * 2 ^ 16
          i.find w .load 0 1 (((a :: pages)).map fun p => (i.l0, p)) fun _ w =>
            finish (w.mod fun d => d.modGrid g.id fun g => { g with regions := g.regions ++ [(BitVec.ofNat 64 a, BitVec.ofNat 64 n)] })

/-- DIGE (R311): the destination of the root grid's digest. -/
def execDige (o : OpAd) (s : State) : Out :=
  issue s o.g { reads := [o.a.toNat], slots := .kernel , values := true } fun i w =>
    (i.ready w).bind fun w => (i.room w 2 1).bind fun w =>
      let a := i.ea0 o.a.toNat (sext o.off)
      if a % 64 != 0 then .fault (i.misaligned .misaligned o.space.toNat [(i.l0, a)])
      else i.find0 w .store o.space.toNat 64 a fun _ w =>
        let finish := fun (w : Work) => Res.ok (i.newOp w 2 .instant [] 0 true).2
        match w.d.rootOf i.c with
        | none => finish w
        | some g =>
          if g.digestDest.isSome then .fault (i.fault .digestTwice)
          else finish (w.mod fun d => d.modGrid g.id fun g => { g with digestDest := some (o.space.toNat, BitVec.ofNat 64 a) })

end Sys2Proof.Machine
end

