-- ==== Sys2Proof/Machine/Keccak.lean ====
section
/-! DEFINITION. Keccak: SHA3-512, by which the security processor computes signatures, digests and measurements
(R426, R428, R451). The spec names the function and does not define it; it is taken from FIPS 202 (PRESUMED,
assumption 13). The rotation offsets and the round constants are computed as that standard generates them, not listed. -/

namespace Sys2Proof.Machine

/-- The permutation's state: the lane of column `x` and plane `y`, both below 5, is number 5y + x. -/
abbrev Lanes := List Word

/-- The lane of a column and a plane, taken modulo 5. -/
def Lanes.col (a : Lanes) (x y : Nat) : Word := nth a (x % 5 + y % 5 * 5) 0

/-- The state whose lane of each column and plane a function gives. -/
def Lanes.build (f : Nat → Nat → Word) : Lanes :=
  (List.range 5).flatMap fun y => (List.range 5).map fun x => f x y

/-- The parity of a column: the sum of its five lanes without carry. -/
def Lanes.parity (a : Lanes) (x : Nat) : Word := (List.range 5).foldl (fun v y => v ^^^ a.col x y) 0

/-- Each lane takes the parities of the column before it and, turned by one bit, of the column after it. -/
def Lanes.mix (a : Lanes) : Lanes :=
  let p := (List.range 5).map a.parity
  Lanes.build fun x y => a.col x y ^^^ nth p ((x + 4) % 5) 0 ^^^ (nth p ((x + 1) % 5) 0).rotateLeft 1

/-- The walk that turns and moves lanes: from column 1 of plane 0 on, step `t` of the 24 turns its lane by the triangular number
(t + 1)(t + 2) / 2 and goes on to column y of plane 2x + 3y. -/
def turns : Nat → Nat → Nat → Nat → List (Nat × Nat)
  | 0, _, _, _ => []
  | n + 1, t, x, y => (5 * y + x, (t + 1) * (t + 2) / 2 % 64) :: turns n (t + 1) y ((2 * x + 3 * y) % 5)

/-- By how much the lane of a number turns; lane 0 does not. -/
def turnOf (i : Nat) : Nat := getA (turns 24 0 1 0) i 0

/-- Every lane turned, and the lane of column y of plane 2x + 3y taken from column x of plane y. -/
def Lanes.scatter (a : Lanes) : Lanes :=
  Lanes.build fun x y =>
    let from_ := (x + 3 * y) % 5
    (a.col from_ x).rotateLeft (turnOf (5 * x + from_))

/-- The only step that is not linear: along each plane, a lane is inverted where the next is clear and the one after is set. -/
def Lanes.bend (a : Lanes) : Lanes :=
  Lanes.build fun x y => (a.col (x + 2) y &&& ~~~ a.col (x + 1) y) ^^^ a.col x y

/-- The bits of the shift register x⁸ + x⁶ + x⁵ + x⁴ + 1 from a state on. -/
def shiftBits : Nat → Nat → List Nat
  | 0, _ => []
  | n + 1, r => r % 2 :: shiftBits n (if r < 128 then 2 * r else Nat.xor (2 * r) 0x171)

/-- The constants of the 24 rounds: seven bits of the register each, at the places 2^j − 1. -/
def roundWords : List Nat → Nat → List Word
  | _, 0 => []
  | b, n + 1 => BitVec.ofNat 64 ((List.range 7).map fun j => nth b j 0 * 2 ^ (2 ^ j - 1)).sum :: roundWords (b.drop 7) n

/-- One round: the three steps, and the round's constant into lane 0. -/
def Lanes.round (a : Lanes) (k : Word) : Lanes := modNth a.mix.scatter.bend 0 (k ^^^ ·)

/-- The permutation Keccak-f[1600]. -/
def Lanes.permute (a : Lanes) : Lanes := (roundWords (shiftBits 168 1) 24).foldl Lanes.round a

/-- Bytes absorbed at a time by SHA3-512: 200 less twice the length of the digest. -/
def sha3Rate : Nat := 200 - 2 * 64

/-- A block of 72 bytes taken in: its nine words go into the first nine lanes. -/
def Lanes.takeIn (a : Lanes) (blk : List Byte) : Lanes :=
  let words := (List.range 9).map fun i => BitVec.ofNat 64 (leNat ((blk.drop (8 * i)).take 8))
  Lanes.permute (a.mapIdx fun i v => v ^^^ nth words i 0)

/-- The last block: the rest of the message, the two domain bits and a one, zeros, and a one in the last bit. -/
def lastBlock (m : List Byte) : List Byte :=
  let n := sha3Rate - m.length
  m ++ natLe n (6 + 2 ^ (8 * n - 1))

/-- The message taken in block by block. -/
def Lanes.takeAll : Nat → Lanes → List Byte → Lanes
  | 0, a, _ => a
  | n + 1, a, m => if m.length < sha3Rate then a.takeIn (lastBlock m) else Lanes.takeAll n (a.takeIn (m.take sha3Rate)) (m.drop sha3Rate)

/-- SHA3-512 of a message: 64 bytes. -/
def sha3 (m : List Byte) : List Byte :=
  ((Lanes.takeAll (m.length / sha3Rate + 1) (List.replicate 25 0) m).take 8).flatMap fun v => natLe 8 v.toNat

end Sys2Proof.Machine
end

