-- ==== Sys2Proof/Machine/Launch.lean ====
section
/-! DEFINITION. Launch: launch records, dictionaries, range tables and work graphs as they are read and checked when a
launch is accepted, and the acceptance itself (R38, R167, R174, R190, R210 to R212, R242, R313, R378, R380, R386,
R387, R426). -/

namespace Sys2Proof.Machine

/-! ## Reads by the scheduler and the security processor -/

/-- The view of memory of a partition's scheduler, the security processor or the transport. -/
def Part.who (p : Part) (x : Ctx) : Who := { p := p, x := x, t := p.low, k := 0, via := .walk }

/-- What a read comes to: a value, a check that fails (`none`), or the fault of an uncorrectable error that it meets (R75). -/
abbrev Got (α : Type) := Except (Option FaultInfo) α

/-- The fault of a failed translation that has met an uncorrectable table entry, `none` for any other failure (R75). -/
def lostWalk (why t : Nat) : Option FaultInfo :=
  if why < walkLost 0 then none else some ({ reason := .violation, tower := t, viol := some { tensor := 0, why := why, access := 0 } } : FaultInfo).walked

/-- Bytes read under an access kind, by a function of their places and of the errors there. -/
def Work.gotBy (w : Work) (byte : BRef → Byte) (bad : List BRef → Option FaultInfo) (q : Who) (a : Acc) (space ea n : Nat) : Got (List Byte) :=
  match w.locate q [] a space ea n with
  | .ok refs => match bad refs with
    | some f => .error (some f)
    | none => .ok (refs.map byte)
  | .bad why _ => .error (lostWalk why q.t)
  | _ => .error none

/-- The error that a read at the executing places of some bytes meets (R75). -/
def Work.lostAt (w : Work) (t : Nat) (refs : List BRef) : Option FaultInfo := (w.d.meetsBad false refs).map fun r => placeFault r.key r.tag t 0

/-- Bytes read at their executing places. -/
def Work.gotAs (w : Work) (q : Who) (a : Acc) (space ea n : Nat) : Got (List Byte) := w.gotBy (fun r => w.get r.key) (w.lostAt q.t) q a space ea n

/-- The same where only success matters. -/
def Work.readAs (w : Work) (q : Who) (a : Acc) (space ea n : Nat) : Option (List Byte) := (w.gotAs q a space ea n).toOption

/-- `n` chunks of `size` bytes of global memory read one after another. -/
def Work.gotChunks (w : Work) (byte : BRef → Byte) (bad : List BRef → Option FaultInfo) (q : Who) (a : Acc) (size : Nat) : Nat → Nat → Got (List Byte)
  | 0, _ => .ok []
  | n + 1, ea => (w.gotBy byte bad q a 0 ea size).bind fun b => (w.gotChunks byte bad q a size n (ea + size)).map fun r => b ++ r

/-- Every element of a list read, in order, up to the first failure. -/
def gotAll {α β : Type} (f : α → Got β) : List α → Got (List β)
  | [] => .ok []
  | a :: r => (f a).bind fun b => (gotAll f r).map fun bs => b :: bs

/-! ## The launch record (R210 to R212) -/

/-- A format slot's fields (R211). -/
def FmtSlot.ofNat (v : Nat) : FmtSlot :=
  { fmt := bits 3 0 v, scale := bits 7 4 v, blen := bits 10 8 v, cplx := bit 11 v, skip := bit 12 v, skipt := bits 31 16 v }

/-- Whether a format slot is legal (R211). -/
def slotOk (v : Nat) : Bool :=
  let s := FmtSlot.ofNat v
  bits 15 13 v == 0 && s.scale ≤ 3 && s.blen ≤ 4
    && ((s.scale != 1 && s.scale != 2) || (4 ≤ s.fmt && s.fmt != 9))
    && (s.scale != 3 || (10 ≤ s.fmt && s.fmt ≤ 14))
    && (!s.cplx || s.fmt < 14)
    && (!s.skip || (bits 14 10 s.skipt != 31 && (bits 15 15 s.skipt == 0 || s.skipt == 0x8000)))

/-- A launch record's fields (R210). -/
def LaunchRec.ofNat (v : Nat) : LaunchRec :=
  { code := BitVec.ofNat 64 (bits 63 0 v), dict := BitVec.ofNat 64 (bits 127 64 v), argp := BitVec.ofNat 64 (bits 191 128 v)
    complete := BitVec.ofNat 64 (bits 255 192 v), ranget := BitVec.ofNat 64 (bits 319 256 v)
    subt := BitVec.ofNat 64 (bits 383 320 v), teams := bits 415 384 v, cmrv := BitVec.ofNat 32 (bits 447 416 v)
    deadline := bits 479 448 v, subn := bits 495 480 v, dictn := bits 506 496 v, crews := bits 517 512 v
    nregs := bits 526 520 v, gbud := bits 534 528 v, pre := bits 543 536 v, localg := bits 551 544 v
    det := bit 552 v, coop := bit 553 v, prio := bits 556 554 v, agelim := bits 567 560 v
    slots := (List.range 8).map fun i => FmtSlot.ofNat (bits (799 + 32 * i) (768 + 32 * i) v)
    graphp := BitVec.ofNat 64 (bits 1087 1024 v), codelen := bits 1119 1088 v }

/-- The registers a crew is allotted, bit k for vk (R201). -/
def LaunchRec.allot (r : LaunchRec) : Word :=
  BitVec.ofNat 64 (2 ^ r.nregs - 1) |||
    BitVec.ofNat 64 (((List.range 8).filter fun b => bit b r.pre).foldl (fun m b => m + 2 ^ (63 - b)) 0)

/-- N: how many they are (R201). -/
def LaunchRec.count (r : LaunchRec) : Nat := ((List.range 64).filter fun k => r.allot.getLsbD k).length

/-- The register-file bytes of a team (R205, R381). -/
def LaunchRec.regBytes (r : LaunchRec) : Nat := r.crews * (r.gbud * 256 + (r.count - r.gbud) * 16)

/-- Whether a record passes R174 and R212; TEAMS is read in the record of a grid that it sizes, and ignored in a node's (R387). -/
def recordOk (v : Nat) (node : Bool := false) : Bool :=
  let r := LaunchRec.ofNat v
  bits 2047 1120 v == 0 && bits 767 568 v == 0 && bits 559 557 v == 0 && !bit 535 v && !bit 527 v && bits 519 518 v == 0
    && bits 511 507 v == 0
    && r.codelen != 0 && r.codelen % 4 == 0 && r.localg ≤ 240 && 1 ≤ r.nregs && r.nregs ≤ 64
    && 1 ≤ r.crews && r.crews ≤ 32 && r.dictn ≤ 1024 && (node || decide (1 ≤ r.teams)) && r.gbud ≤ r.count
    && r.det == r.cmrv.getLsbD 6 && r.cmrv.toNat < 2 ^ 13
    && ((List.range 8).all fun i => slotOk (bits (799 + 32 * i) (768 + 32 * i) v))
    && r.code.toNat % 4 == 0 && r.dict.toNat % 8 == 0 && r.code.toNat < 2 ^ 52 && r.dict.toNat < 2 ^ 52

/-- The dictionary image of a record as an instruction fetch reads it (R242). -/
def Work.dictImage (w : Work) (q : Who) (r : LaunchRec) : Got (List Byte) :=
  w.gotChunks (fun r => w.get r.key) (w.lostAt q.t) q .fetch 8 r.dictn r.dict.toNat

/-- The same as a core loads it: from its cluster's CMB outward, whose line may hold the error (R47, R75, R242). -/
def Work.dictNear (w : Work) (q : Who) (t k : Nat) (r : LaunchRec) : Got (List Byte) :=
  let bad := fun (refs : List BRef) => match w.d.nearBad t k refs with
    | some l => some (w.d.badLineFault t (clusterOf k) l .direct)
    | none => w.lostAt t refs
  w.gotChunks (w.nearByte t k) bad q .fetch 8 r.dictn r.dict.toNat

/-- A launch record read and checked (R210, R212, R242). -/
def Work.recordGot (w : Work) (q : Who) (addr : Word) (node : Bool := false) : Got LaunchRec :=
  if addr.toNat % 64 != 0 then .error none
  else (w.gotAs q .load 0 addr.toNat 256).bind fun b =>
    let v := leNat b
    if !recordOk v node then .error none
    else
      let r := LaunchRec.ofNat v
      (w.dictImage q r).map fun _ => r

/-- A launch record that passes every check; `none` is status 1. -/
def Work.readRecord (w : Work) (q : Who) (addr : Word) : Option LaunchRec := (w.recordGot q addr).toOption

/-! ## Range tables (R34, R35, R37, R38) -/

/-- A descriptor named by a range table: its extent, id and contents (R38). -/
def Work.descGot (w : Work) (q : Who) (id : Nat) : Got (Nat × Nat × Nat × Nat) :=
  if id == 0 || q.x.descCount ≤ id then .error none
  else (w.gotAs q .load 0 (q.x.descBase.toNat + 32 * id) 32).bind fun b =>
    let v := leNat b
    if descValid v then .ok ((Desc.ofNat v).base, (Desc.ofNat v).stop, id, v) else .error none

/-- Every range disjoint from the others (R38). -/
def disjointRanges : List (Nat × Nat × Nat × Nat) → Bool
  | [] => true
  | r :: rest => (rest.all fun x => decide (x.2.1 ≤ r.1) || decide (r.2.1 ≤ x.1)) && disjointRanges rest

/-- A range table read and checked (R37, R38); a pointer of 0 is an empty table. A valid entry whose zero field is not zero, or that names
descriptor 0, fails the launch with status 1 (assumption 48). -/
def Work.rangesGot (w : Work) (q : Who) (ptr : Word) : Got (List (Nat × Nat × Nat × Nat)) :=
  if ptr == 0 then .ok []
  else (w.gotAs q .load 0 ptr.toNat 512).bind fun b =>
    let es := (List.range 64).map fun i => leNat ((b.drop (8 * i)).take 8)
    let valid := es.filter fun e => bit 63 e
    if valid.any fun e => bits 62 12 e != 0 then .error none
    else (gotAll (fun e => w.descGot q (e % 4096)) valid).bind fun rs => if disjointRanges rs then .ok rs else .error none

/-- A range table that passes every check. -/
def Work.readRanges (w : Work) (q : Who) (ptr : Word) : Option (List (Nat × Nat × Nat × Nat)) := (w.rangesGot q ptr).toOption

/-! ## Fitting (R190, R380, R381) -/

/-- Register-file bytes and allottable granules of a core (R184, R53). -/
def regFile : Nat := 512 * 1024
/-- See `regFile`. -/
def teamGranules : Nat := 240

/-- The teams of a record that an empty core holds at once (R381). -/
def LaunchRec.perCore (r : LaunchRec) : Nat :=
  let a := 32 / r.crews
  let b := if r.regBytes == 0 then a else regFile / r.regBytes
  let c := if r.localg == 0 then a else teamGranules / r.localg
  Nat.min a (Nat.min b c)

/-- Whether every team of a cooperative record can be placed with no other team resident (R190); in DET mode by static
placement (R384). -/
def LaunchRec.placeable (r : LaunchRec) (cores : Nat) : Bool :=
  if r.det then decide (r.teams ≤ cores * r.perCore) && (cores != 0 && decide ((r.teams + cores - 1) / cores ≤ r.perCore))
  else decide (r.teams ≤ cores * r.perCore)

/-! ## Work graphs (R386, R387) -/

/-- One node's entry read and checked (R386, R387). -/
def Work.nodeGot (w : Work) (q : Who) (root : LaunchRec) (v : Nat) : Got GraphNode :=
  let n : GraphNode :=
    { tower := bits 170 168 v, coal := bits 166 160 v, timer := bits 159 128 v, pred := BitVec.ofNat 64 (bits 127 64 v)
      recAddr := BitVec.ofNat 64 (bits 63 0 v) }
  if bits 255 171 v != 0 || bit 167 v || !q.p.towers.contains n.tower || n.coal == 0 || 64 < n.coal || n.pred.toNat % 8 != 0 then .error none
  else (w.recordGot q n.recAddr true).bind fun r =>
    if r.ranget != root.ranget || r.cmrv != root.cmrv || r.subt != root.subt || r.subn != root.subn || r.coop
        || decide (r.localg * 1024 < 64 * (n.coal + 1)) || (root.det && n.timer != 0) then .error none
    else .ok { n with launch := r }

/-- The subscriptions of a table entry: EN, POLICY, NODE and the zero field of each slot (R167). -/
def subSlots (v : Nat) : List Nat := (List.range 4).map fun i => v / 2 ^ (32 * i) % 2 ^ 32

/-- Whether a subscription table names a node whose coalescing count is not 1 (R167). An entry that cannot be read names none. -/
def Work.subsBroken (w : Work) (q : Who) (root : LaunchRec) (nodes : List GraphNode) : Got Bool :=
  (gotAll (fun i => match w.gotAs q .load 0 (root.subt.toNat + 16 * i) 16 with
    | .ok b => .ok ((subSlots (leNat b)).any fun s => bit 31 s && (match nodes[s % 256]? with | some n => n.coal != 1 | none => false))
    | .error (some f) => .error (some f)
    | .error none => .ok false) (List.range root.subn)).map fun l => l.any id

/-- A graph table read and checked (R386, R387). The settle address is not among what is checked: an update of a settle word that is not
8-aligned faults (R172). -/
def Work.graphGot (w : Work) (q : Who) (root : LaunchRec) : Got Graph :=
  let at_ := root.graphp.toNat
  if at_ % 64 != 0 then .error none
  else (w.gotAs q .load 0 at_ 64).bind fun b =>
    let h := leNat b
    let n := bits 151 144 h + 1
    let ns := bits 136 128 h
    let space := bits 154 152 h
    let sinkp := bits 127 64 h
    if bits 511 155 h != 0 || bits 143 137 h != 0 || (space != 0 && space != 3) || 256 < ns || sinkp % 8 != 0 then .error none
    else
      (gotAll (fun i => (w.gotAs q .load 0 (at_ + 64 + 32 * i) 32).bind fun e => w.nodeGot q root (leNat e)) (List.range n)).bind fun nodes =>
      (gotAll (fun i => w.gotAs q .load 0 (sinkp + 8 * i) 8) (List.range ns)).bind fun sinks =>
        if (List.range 8).any fun t => decide (64 < (nodes.filter fun n => n.tower == t).length) then .error none
        else (w.subsBroken q root nodes).bind fun broken =>
          if broken then .error none
          else .ok { nodes := nodes, sinks := sinks.map fun b => BitVec.ofNat 64 (leNat b)
                     settleAddr := BitVec.ofNat 64 (bits 63 0 h), settleSpace := space }

/-! ## The reproducibility signature (R426) -/

/-- The signature of a root grid, over the bytes of its code and dictionary as they are fetched. -/
def Work.signatureGot (w : Work) (q : Who) (r : LaunchRec) (slots : List Nat) : Got (List Byte) :=
  (w.gotChunks (fun r => w.get r.key) (w.lostAt q.t) q .fetch 4 (r.codelen / 4) r.code.toNat).bind fun code =>
    (w.dictImage q r).map fun dict =>
      sha3 (natLe 4 r.cmrv.toNat ++ slots.flatMap (natLe 4) ++ sha3 code ++ sha3 dict ++ natLe 4 r.teams ++ natLe 1 r.crews
        ++ natLe 1 r.nregs ++ natLe 1 r.gbud ++ natLe 1 r.pre ++ natLe 1 r.localg ++ natLe 1 (if r.coop then 1 else 0)
        ++ natLe 2 r.dictn ++ natLe 4 r.codelen ++ natLe 4 (w.logical q.p).length)

/-- The signature where every byte of the code and the dictionary can be fetched. -/
def Work.signature (w : Work) (q : Who) (r : LaunchRec) (slots : List Nat) : Option (List Byte) := (w.signatureGot q r slots).toOption

/-! ## Acceptance (R378) -/

/-- Records a launch queue holds (R378). -/
def queueSize : Nat := 64

/-- A grid put at the tail of the launch queue of its priority on a tower, with the next acceptance number; `none` where
the queue is full (R378). -/
def Work.enqueue (w : Work) (t : Nat) (g : Grid) : Option (Nat × Work) :=
  if queueSize ≤ ((w.d.tower t).queues.getD g.launch.prio []).length then none
  else
    let (id, w) := w.newId
    let acc := ((w.d.part t).map (·.accept)).getD 0
    let g := { g with id := id, accept := acc, tower := t, root := if g.depth == 0 then id else g.root }
    some (id, w.mod fun d =>
      let d := { d with grids := d.grids ++ [g] }
      let d := d.modPart t fun p => { p with accept := p.accept + 1 }
      d.modTower t fun z => { z with queues := modNth z.queues g.launch.prio fun q => q ++ [id] })

/-- Whether a record's cooperative teams can be placed (R190). -/
def Work.coopOk (w : Work) (p : Part) (r : LaunchRec) : Bool := !r.coop || r.placeable (w.logical p).length

/-- A launch that fails with a status: an uncorrectable error that its reads have met is a fault besides (R75). -/
def Work.launchFails (w : Work) (e : Option FaultInfo) (status : Nat) : Nat × Work :=
  (status, match e with
    | some f => w.raise f
    | none => w)

/-- The acceptance of a root grid (R378, R380, R426): its status, and the machine with it queued on the partition's lowest
tower. -/
def Work.acceptRoot (w : Work) (p : Part) (x : Ctx) (addr : Word) (origin : Option (Nat × Nat)) (tag : Nat := 0) : Nat × Work :=
  let q := p.who x
  match w.recordGot q addr with
  | .error e => w.launchFails e 1
  | .ok r =>
    let slots := match w.readAs q .load 0 addr.toNat 256 with
      | some b => (List.range 8).map fun i => bits (799 + 32 * i) (768 + 32 * i) (leNat b)
      | none => []
    if regFile < r.regBytes then (1, w)
    else match (w.rangesGot q r.ranget).bind fun _ => w.signatureGot q r slots with
    | .error e => w.launchFails e 1
    | .ok sig =>
      if !w.coopOk p r then (5, w)
      else
        match if r.graphp == 0 then .ok none else (w.graphGot q r).map some with
        | .error e => w.launchFails e 7
        | .ok gr =>
          match w.enqueue p.low { ctx := x.ctxid, launch := r, recAddr := addr, graph := gr, codeHash := sig, origin := origin, originTag := tag } with
          | none => (6, w)
          | some (_, w) => (0, w.mod fun d => (w.logical p).foldl (fun d k => d.modCore k.1 k.2 fun y => { y with icache := [] }) d)

/-- The acceptance of a child grid (R187, R313): its status, and the machine with it queued on the issuing tower. -/
def Work.acceptChild (w : Work) (p : Part) (x : Ctx) (t : Nat) (parent root : Grid) (team : Team) (addr : Word) : Nat × Work :=
  match w.recordGot (p.who x) addr with
  | .error e => w.launchFails e 1
  | .ok r =>
    if r.ranget != root.launch.ranget then (2, w)
    else if r.cmrv != x.cmr then (3, w)
    else if r.subt != root.launch.subt || r.subn != root.launch.subn then (4, w)
    else if !w.coopOk p r then (5, w)
    else if r.graphp != 0 && r.graphp != root.launch.graphp then (7, w)
    else
      match w.enqueue t { ctx := x.ctxid, launch := r, recAddr := addr, depth := parent.depth + 1, parentTeam := some team.id,
                          parentIndex := team.index, parentGrid := some parent.id, root := root.id } with
      | none => (6, w)
      | some (_, w) => (0, w)

end Sys2Proof.Machine
end

