-- ==== Sys2Proof/Machine/Sys.lean ====
section
/-! DEFINITION. Sys: special registers, waits on counters, yield points, deliberate stops, exit, team barriers and
fences (14_isa_memory_and_sync.md R297 to R302, 19_isa_system.md R369 to R372). -/

namespace Sys2Proof.Machine

/-! ## Special registers (R207, R370) -/

/-- Whether a crew may read a special register (R207). -/
def mayRead (handler : Bool) (num : Nat) : Bool := decide (num < 14) && (handler || (num != 10 && num != 11))

/-- The mask of a tower's present cores (R8). -/
def Work.harv (w : Work) (t : Nat) : Word := (w.fx.harv.getD t 0).setWidth 64

/-- The value of a special register of a crew (R207). -/
def Work.special (w : Work) (c : Crew) (num : Nat) : Word :=
  let t := c.place.tower
  let cmr := (w.d.cmr c).toNat
  match num with
  | 0 => BitVec.ofNat 64 cmr
  | 1 => c.sp.fstat.setWidth 64
  | 2 => (w.d.tower t).cyc
  | 3 => BitVec.ofNat 64 ((if c.sp.ctmrArm then 2 ^ 63 else 0) + c.sp.ctmr.toNat)
  | 4 => BitVec.ofNat 64 ((if c.sp.cancel then 2 else 0) + (if c.sp.preempt then 1 else 0))
  | 5 => c.sp.gangr.setWidth 64
  | 6 => c.sp.key0
  | 7 => c.sp.key1
  | 8 => if bit 6 cmr || !bit 7 cmr then 0 else (w.d.tower t).skipd.setWidth 64
  | 9 => ((w.d.gridOf c).map (·.recAddr)).getD 0
  | 10 => physForm (areaKey (((w.d.part t).map Part.low).getD t) 2 0)
  | 11 => physForm (areaKey (((w.d.part t).map Part.low).getD t) 0 0)
  | 12 => w.harv t
  | 13 => BitVec.ofNat 64 (c.ep.grid % 2 ^ 16 * 2 ^ 16 + w.d.teamEpoch c % 2 ^ 16)
  | _ => 0

/-- SRD (R370). -/
def execSrd (o : OpSrd) (s : State) : Out :=
  issue s o.g { writes := [o.d.toNat], values := true } fun i w =>
    if mayRead i.c.handler o.num.toNat then i.put w o.d.toNat (.uni (w.special (i.crew w) o.num.toNat))
    else .fault (i.illegal .registerAccess)

/-- A write of a special register from the lowest active lane (R370). -/
def swrOp (s : State) (o : OpB) (f : Word → Special → Special) : Out :=
  issue s o.g { reads := [o.b.toNat] } fun i w =>
    .ok (i.mod w fun c => { c with sp := f (i.val o.b.toNat i.l0) c.sp })

/-- SWR of FSTAT (R370). -/
def execSwrFstat (o : OpB) (s : State) : Out := swrOp s o fun v p => { p with fstat := v.setWidth 5 }

/-- SWR of CTMR (R370): an armed timer of 0 expires at once, and the crew's next instruction faults. -/
def execSwrCtmr (o : OpB) (s : State) : Out :=
  swrOp s o fun v p =>
    let r := v.setWidth 48
    if v.getLsbD 63 && r == 0 then { p with ctmrArm := false, ctmr := 0, ctmrFault := true }
    else { p with ctmrArm := v.getLsbD 63, ctmr := r }

/-- SWR of GANGR (R370). -/
def execSwrGangr (o : OpB) (s : State) : Out := swrOp s o fun v p => { p with gangr := v.setWidth 33 }
/-- SWR of KEY0 (R370). -/
def execSwrKey0 (o : OpB) (s : State) : Out := swrOp s o fun v p => { p with key0 := v }
/-- SWR of KEY1 (R370). -/
def execSwrKey1 (o : OpB) (s : State) : Out := swrOp s o fun v p => { p with key1 := v }

/-! ## Waits and yield points (R116, R298, R299) -/

/-- WAITC (R298). -/
def execWaitc (o : OpWaitc) (s : State) : Out :=
  issue s o.g {} fun i w =>
    if (i.crew w).count o.cls.toNat ≤ o.thr.toNat then .ok w else .ok (i.wait w (.counter o.cls.toNat o.thr.toNat))

/-- Whether a pair arrival of a crew's team is pending: the team stops at no yield point meanwhile, and is forced to at none (R341). -/
def Dev.pairing (d : Dev) (c : Crew) : Bool := d.pairs.any fun p => p.crew == c.id || p.team == c.team && !c.handler

/-- Whether a crew is to stop at its next yield point: PREEMPT or CANCEL is set, and no pair arrival of its team is pending
(R169, R198, R341, R412). -/
def Dev.mustStop (d : Dev) (c : Crew) : Bool := (c.sp.preempt || c.sp.cancel) && !d.pairing c

/-- A crew stopped at a yield point or by force (R169, R412). -/
def Crew.stopHere (c : Crew) (forced : Bool) : Crew :=
  { c with status := if c.sp.cancel then .cancelled else .stopped, held := false, holdCount := 0, forced := forced }

/-- A crew stopped (R169, R320, R412): under cancellation, what it has waiting is withdrawn. -/
def Work.stopCrew (w : Work) (c : Crew) (forced : Bool) : Work :=
  let w := w.mod fun d => d.modCrew c.id fun c => c.stopHere forced
  if c.sp.cancel then w.withdrawAll c.id else w

/-- YIELD (R299): a yield point; the issuing group's PCs are past it. -/
def execYield (o : OpG) (s : State) : Out :=
  issue s o.g {} fun i w =>
    if w.d.mustStop (i.crew w) then .ok (w.stopCrew (i.crew w) false) else .ok w

/-! ## Deliberate stops (R371) -/

/-- The record of a TRAP or BKPT: the code is in EXTRA. -/
def Iss.codeFault (i : Iss) (reason : Reason) (code : BitVec 12) : FaultInfo := { i.fault reason with extra := code.setWidth 64 }

/-- TRAP (R371): the group stands past it. -/
def execTrap (o : OpCode) (s : State) : Out :=
  issue s o.g { slots := .kernel } fun i w => .ok { w with late := w.late ++ [i.codeFault .trap o.code] }

/-- BKPT (R371): the active lanes stand on it. -/
def execBkpt (o : OpCode) (s : State) : Out :=
  issue s o.g { slots := .kernel } fun i w =>
    let w := i.mod w fun c => c.setPc i.act i.cu.addr
    .ok { w with late := w.late ++ [i.codeFault .breakpoint o.code] }

/-! ## Team barriers (R300 to R302) -/

/-- A crew counts as ended for its team's barriers: it is gone, all its threads have exited, or it has stopped under
cancellation (R300). -/
def Dev.crewEnded (d : Dev) (id : Nat) : Bool :=
  match d.crew id with
  | none => true
  | some c => c.live == 0 || c.status == .cancelled

/-- Whether operations have taken effect. -/
def Dev.opsDone (d : Dev) (ids : List Nat) : Bool := ids.all fun id => match d.op id with | some o => o.done | none => true

/-- Whether the count of a barrier's current generation is met (R300). -/
def Dev.barrierMet (d : Dev) (t : Team) (b : Barrier) : Bool :=
  !b.arrived.isEmpty && if b.n == 0 then t.crews.all fun c => b.arrived.contains c || d.crewEnded c else decide (b.n ≤ b.arrived.length)

/-- What the completion of a generation does to a crew of the team: the PEND bit and the waits of one that arrived, TW and its peer list
(R149, R158, R300). -/
def Crew.barrierDone (c : Crew) (k : Nat) (arrived : List Nat) : Crew :=
  { c with
    bar := if arrived.contains c.id then c.bar &&& ~~~ (1#16 <<< k) else c.bar
    waits := if arrived.contains c.id then c.waits.map fun x => if x.cond == .barrier k then { x with cond := .over } else x else c.waits
    tw := if c.tw == 2 ^ 32 - 1 then c.tw else c.tw + 1
    ep := { c.ep with peers := [] } }

/-- BARRIER_COMPLETE (R300): the oldest generation of a barrier whose count is met and whose releases have taken effect (R96) is over, and
its waiters go on; the epoch and TW of the team advance, and a count that cannot faults (R149, R156). -/
def Work.barrierEnd (w : Work) (team k : Nat) : Work :=
  match w.d.team team with
  | none => w
  | some t =>
    match t.closing.find? fun e => e.1 == k with
    | none => w
    | some e =>
      if !w.d.opsDone e.2.owes then w
      else
        let spent := w.d.crews.filter fun (c : Crew) => c.team == team && !c.handler && c.tw == 2 ^ 32 - 1
        let w := w.mod fun d =>
          { (d.modTeam team fun t => { t with epoch := t.epoch + 1, closing := t.closing.erase e }) with
            crews := d.crews.map fun (c : Crew) => if c.team == team && !c.handler then c.barrierDone k e.2.arrived else c }
        w.raiseAll (spent.map fun c => c.fault .orderedTagExhausted 0 0)

/-- A barrier evaluated (R300): a generation whose count is met is closed to later arrivals, and ends once its releases have taken effect. -/
def Work.barrierCheck (w : Work) (team k : Nat) : Work :=
  match w.d.team team with
  | none => w
  | some t =>
    let b := t.barriers.getD k {}
    let w := if w.d.barrierMet t b then
        w.mod fun d => d.modTeam team fun t => { t with barriers := setNth {} t.barriers k fun _ => {}, closing := t.closing ++ [(k, b)] }
      else w
    w.barrierEnd team k

/-- Every barrier of a team evaluated, as at the end of a crew (R300). -/
def Work.barriersCheck (w : Work) (team : Nat) : Work := (List.range 16).foldl (fun w k => w.barrierCheck team k) w

/-- Operations added to what the generation of a barrier that a crew has arrived in releases (R96). -/
def Team.owe (t : Team) (k crew : Nat) (ids : List Nat) : Team :=
  let add := fun (b : Barrier) => if b.arrived.contains crew then { b with owes := b.owes ++ ids } else b
  { t with barriers := setNth {} t.barriers k add, closing := t.closing.map fun e => if e.1 == k then (e.1, add e.2) else e }

/-- An arrival at a barrier (R300, R302), with its checks; a crew arrives once per generation (R301). It is a release at scope core of the
threads of its group, a further one of an arrived crew too: the generation completes when their earlier accesses have taken effect (R96, R177). -/
def Iss.arrive (i : Iss) (w : Work) (k n : Nat) : Res :=
  match w.d.teamOf i.c with
  | none => .ok w
  | some t =>
    let b := t.barriers.getD k {}
    let owed := i.owed w (some 1) i.cu.group
    if (i.crew w).bar.getLsbD k then .ok (if owed.isEmpty then w else w.mod fun d => d.modTeam t.id fun t => t.owe k i.cu.crew owed)
    else if t.crews.length < n then .fault (i.fault .barrierCount)
    else if !b.arrived.isEmpty && b.n != n then .fault (i.fault .barrierMismatch)
    else
      let w := i.mod w fun c => { c with bar := c.bar ||| (1#16 <<< k) }
      let w := w.mod fun d => d.modTeam t.id fun t =>
        { t with barriers := setNth {} t.barriers k fun b =>
            { arrived := b.arrived ++ [i.cu.crew], n := n, owes := b.owes ++ owed } }
      .ok (w.barrierCheck t.id k)

/-- A wait until PEND[k] is 0 (R301); when it is, the group continues. -/
def Iss.barrierWait (i : Iss) (w : Work) (k : Nat) : Work :=
  if (i.crew w).bar.getLsbD k then i.wait w (.barrier k) (some 1) else w

/-- BAR (R301). -/
def execBar (o : OpBar) (s : State) : Out :=
  issue s o.g { slots := .kernel, home := true, values := true } fun i w =>
    (i.arrive w o.bar.toNat o.n.toNat).bind fun w => .ok (i.barrierWait w o.bar.toNat)

/-- BARA (R301). -/
def execBara (o : OpBar) (s : State) : Out :=
  issue s o.g { slots := .kernel, home := true, values := true } fun i w => i.arrive w o.bar.toNat o.n.toNat

/-- BARW (R301). -/
def execBarw (o : OpBarw) (s : State) : Out :=
  issue s o.g { slots := .kernel, home := true, values := true } fun i w => .ok (i.barrierWait w o.bar.toNat)

/-! ## Exit (R372) -/

/-- EXIT (R372): the active lanes exit; a crew whose threads have all exited stops issuing and counts as ended for its
barriers (R119, R300). -/
def execExit (o : OpG) (s : State) : Out :=
  issue s o.g { slots := .kernel } fun i w =>
    let w := i.mod w fun c =>
      let c := c.modThreads i.act fun t => { t with exited := true, skip := 0 }
      if c.live == 0 then { c with status := if c.status == .running then .draining else c.status } else c
    .ok (if (i.crew w).live == 0 then w.barriersCheck i.c.team else w)

/-! ## Fences (R94, R95, R297) -/

/-- FENCE (R297): it completes when the reads, and for a release the writes, of the active lanes' threads have taken
effect at its scope; the next memory, atomic, async, matrix, sampler or task instruction of the group waits for it. -/
def execFence (o : OpFence) (s : State) : Out :=
  issue s o.g {} fun i w =>
    let rel := o.kind != 0
    let acq := if o.kind == 1 then none else some o.scope.toNat
    let ops := i.owed w (if rel then some o.scope.toNat else none) i.act
    let drains := rel && decide (3 ≤ o.scope.toNat)
    if i.nothingOwed w ops rel drains [] then .ok (match acq with
      | some sc => w.acquire i.c.place.tower i.c.place.core sc
      | none => w)
    else .ok (i.beginFence w .fence i.cu.group ops rel drains [] acq none).2

end Sys2Proof.Machine
end

