-- ==== Sys2Proof/Machine/Task.lean ====
section
/-! DEFINITION. Task: the task instructions, the version cell and the team's tile table, subscriptions, the settle word,
the grid barrier and migration (07_versioned_tiles.md, 08_execution_model.md R193 to R196, 15_isa_async_and_tasks.md
R312 to R319). -/

namespace Sys2Proof.Machine

/-! ## Version cells (R160, R161) -/

/-- A version cell with its extension. -/
structure VCell where
  base : Nat
  prod : Nat
  rd1 : Nat
  rd0 : Nat
  abnd : Bool
  stop : Bool
  fin : Bool
  ver : Nat
  subs : Nat
  size : Nat

/-- The fields of the 32 bytes. -/
def VCell.ofNat (v : Nat) : VCell :=
  { base := bits 127 64 v, prod := bits 63 40 v, rd1 := bits 39 32 v, rd0 := bits 31 24 v, abnd := bit 18 v, stop := bit 17 v
    fin := bit 16 v, ver := bits 15 0 v, subs := bits 175 160 v, size := bits 159 128 v }

/-- The value of a bit. -/
def bitNat (b : Bool) : Nat := if b then 1 else 0

/-- Word 0 of a cell. -/
def VCell.word0 (c : VCell) : Nat :=
  c.prod % 2 ^ 24 * 2 ^ 40 + c.rd1 * 2 ^ 32 + c.rd0 * 2 ^ 24 + bitNat c.abnd * 2 ^ 18 + bitNat c.stop * 2 ^ 17
    + bitNat c.fin * 2 ^ 16 + c.ver

/-- The 32 bytes as a number. -/
def VCell.toNat (c : VCell) : Nat := c.size * 2 ^ 128 + c.subs * 2 ^ 160 + c.base * 2 ^ 64 + c.word0

/-- The gets held on a buffer. -/
def VCell.rd (c : VCell) (p : Nat) : Nat := if p == 0 then c.rd0 else c.rd1

/-- The gets held on a buffer changed. -/
def VCell.setRd (c : VCell) (p n : Nat) : VCell := if p == 0 then { c with rd0 := n } else { c with rd1 := n }

/-- Whether a block is no version cell (R161). -/
def cellBad (x : Ctx) (va v : Nat) : Bool :=
  let c := VCell.ofNat v
  va % 32 != 0 || (x.tensorAt va).isSome || bits 23 19 v != 0 || bits 255 176 v != 0 || c.base % 256 != 0
    || c.size == 0 || c.size % 256 != 0 || decide (2 ^ 52 < c.base + 2 * c.size)

/-- A cell written, copies of its line gone (R60). -/
def Work.putCell (w : Work) (key : Nat) (c : VCell) : Work := w.apply ((cellRefs key).zip (natLe 32 c.toNat))

/-- Some bytes of a cell written, by their offsets, the others left as they are. -/
def Work.putCellBytes (w : Work) (key : Nat) (bs : List (Nat × Nat)) : Work :=
  w.apply (bs.map fun b => ((cellRefs key).getD b.1 { key := key }, BitVec.ofNat 8 b.2))

/-! ## The tile table (R165) -/

/-- Entries of a tile table. -/
def tileEntries : Nat := 16

/-- The entry of a cell in a team's tile table. -/
def Team.tile (t : Team) (va : Word) : Option TileEntry := t.tiles.find? fun e => e.cell == va

/-- An entry changed, entered first where it is absent. -/
def Team.modTile (t : Team) (va : Word) (f : TileEntry → TileEntry) : Team :=
  if (t.tile va).isSome then { t with tiles := t.tiles.map fun e => if e.cell == va then f e else e }
  else { t with tiles := t.tiles ++ [f { cell := va }] }

/-- Whether an operation enters its cell into the table. -/
def VerOp.enters (op : VerOp) : Bool := op == .publish || op == .final || op == .get

/-- The cells of a team's table and of its operations on their way there, which count toward the 16 at issue (assumption 66). -/
def Dev.teamCells (d : Dev) (t : Team) : List Word :=
  distinct (t.tiles.map (·.cell) ++ d.ops.filterMap fun o => match o.kind with
    | .version op _ va _ _ _ state _ _ => if t.crews.contains o.crew && op.enters && state < 2 && !o.done then some (BitVec.ofNat 64 va) else none
    | _ => none)

/-- Whether a 17th cell would enter (R165). -/
def Dev.tableFull (d : Dev) (t : Team) (va : Word) : Bool :=
  !(d.teamCells t).contains va && decide (tileEntries ≤ (d.teamCells t).length)

/-- Whether every input the team took was final when it took it (R165). -/
def Team.inputsFinal (t : Team) : Bool := t.tiles.all fun e => !e.got || e.infin

/-- The gets a team holds on a buffer of a cell. -/
def TileEntry.heldOn (e : TileEntry) (p : Nat) : Nat := if p == 0 then e.held0 else e.held1

/-- The gets held on a buffer changed. -/
def TileEntry.modHeld (e : TileEntry) (p : Nat) (f : Nat → Nat) : TileEntry :=
  if p == 0 then { e with held0 := f e.held0 } else { e with held1 := f e.held1 }

/-! ## The settle word (R172) -/

/-- The work graph of a root grid changed. -/
def Dev.modGraph (d : Dev) (root : Nat) (f : Graph → Graph) : Dev :=
  d.modGrid root fun g => { g with graph := g.graph.map f }

/-- SETTLED and QUIET cleared by a push (R172). -/
def Work.settleClear (w : Work) (root : Nat) : Work :=
  w.mod fun d => d.modGraph root fun g =>
    if !g.settle.cleared then
      { g with settle := { g.settle with settled := false, quiet := false, cleared := true, updates := g.settle.updates ++ [(false, false, 0)] } }
    else g

/-- The bin of a node. -/
def Dev.binOf (d : Dev) (n : GraphNode) : Bin := (d.tower n.tower).bins.getD n.bin {}

/-- The subscription states of a root grid's graph. -/
def Dev.pairsOf (d : Dev) (root : Nat) : List SubPair := d.towers.flatMap fun t => t.2.pairs.filter fun p => p.grid == root

/-- Whether a team has begun, by its admission, and not ended (R174; assumption 60). -/
def Team.begun (t : Team) : Bool := t.phase != .pending && t.phase != .ended

/-- Whether a team of some of a root grid's grids is running or stopping. -/
def Dev.runs (d : Dev) (root : Nat) (sel : Grid → Bool) : Bool :=
  d.teams.any fun t => t.begun && ((d.grid t.grid).any fun g => g.root == root && sel g)

/-- Whether a graph is at rest (R172): its bins are empty, no team of it is running or stopping, and no subscription is in state RUNNING+P. -/
def Dev.atRest (d : Dev) (root : Nat) (g : Graph) : Bool :=
  (g.nodes.all fun n => let b := d.binOf n; b.records.isEmpty && b.wait.isEmpty && b.waiting.isNone)
    && !d.runs root (fun x => x.node.isSome)
    && ((d.pairsOf root).all fun p => p.pending.isNone && p.queue.isEmpty)

/-- Whether a sink tile is final; one whose cell cannot be read is not (assumption 67). -/
def Work.sinkFinal (w : Work) (q : Who) (va : Word) : Bool :=
  match w.readAs q .load 0 va.toNat 8 with
  | some b => bit 16 (leNat b)
  | none => false

/-- The uncorrectable errors that reading the sinks meets (R75). -/
def Work.sinksLost (w : Work) (q : Who) (sinks : List Word) : List FaultInfo :=
  sinks.filterMap fun va => match w.gotAs q .load 0 va.toNat 8 with
    | .error (some f) => some f
    | _ => none

/-- SETTLE_EVALUATE (R172): at rest, SETTLED is set where every sink is final, else QUIET; the other bit stays as it is, since only a push
clears, and GEN advances where the bit was 0 (R484). -/
def Work.settleEval (w : Work) (root : Nat) : Work :=
  match w.d.grid root with
  | none => w
  | some g =>
    match g.graph, w.d.part g.tower, w.d.ctx g.ctx with
    | some gr, some p, some x =>
      if !w.d.atRest root gr then w
      else
        let fin := gr.sinks.all (w.sinkFinal (p.who x))
        let st := gr.settle.settled || fin
        let qu := gr.settle.quiet || !fin
        let w := if st == gr.settle.settled && qu == gr.settle.quiet then w
          else w.mod fun d => d.modGraph root fun gr =>
            { gr with settle := { gr.settle with settled := st, quiet := qu, cleared := false, updates := gr.settle.updates ++ [(st, qu, 1)] } }
        w.raiseAll (w.sinksLost (p.who x) gr.sinks)
    | _, _, _ => w

/-- SETTLE_WORD_UPDATE (R172): the oldest pending update of a graph is written in one atomic write, or faults and is kept. The record's GEN
is the word's advanced; of a word that cannot be read, the last that the scheduler wrote advanced (assumption 69). -/
def execSettleWordUpdate (root : Nat) (s : State) : Out :=
  event s fun w =>
    match w.d.grid root with
    | none => none
    | some g =>
      match g.graph, w.d.part g.tower, w.d.ctx g.ctx with
      | some gr, some p, some x =>
        if p.ctx != some x.ctxid || p.halt.phase != .running then none
        else match gr.settle.updates with
        | [] => none
        | (st, qu, adv) :: rest =>
          let flags := bitNat qu * 2 ^ 33 + bitNat st * 2 ^ 32
          let a := gr.settleAddr.toNat
          let last := match w.readAs (p.who x) .load gr.settleSpace a 8 with
            | some b => leNat b % 2 ^ 32
            | none => gr.settle.count
          let fail := w.raise
            { reason := .badSettleWord, engine := .scheduler, tower := g.tower, aform := 1, addr := gr.settleAddr, extra := g.recAddr
              detail := flags + (last + adv) % 2 ^ 32 }
          if a % 8 != 0 then some fail
          else match w.locate (p.who x) [] .atomic gr.settleSpace a 8 with
          | .ok refs =>
            if (w.d.meetsBad false refs).isSome then some fail
            else
              let gen := (leNat (refs.map fun r => w.get r.key) + adv) % 2 ^ 32
              let w := w.agentWrite g.tower refs (natLe 8 (flags + gen))
              some (w.mod fun d => d.modGraph root fun gr => { gr with settle := { gr.settle with count := gen, updates := rest } })
          | _ => some fail
      | _, _, _ => none

/-! ## Bins and subscription states (R168, R170, R388) -/

/-- Records a bin holds (R388). -/
def binSize : Nat := 256

/-- A bin changed. -/
def Dev.modBin (d : Dev) (t b : Nat) (f : Bin → Bin) : Dev := d.modTower t fun z => { z with bins := modNth z.bins b f }

/-- A record put into a bin; its timer starts where the bin was empty (R390). -/
def Bin.add (b : Bin) (timer : Nat) (r : List Byte × Option Nat) : Bin :=
  { b with records := b.records ++ [r], pos := (b.pos + 1) % binSize, timer := if b.records.isEmpty && timer != 0 then some timer else b.timer }

/-- The place of a bin's record in its tower's bin store: 16 KiB a bin, the records taking its places in turn (R388; assumption 72). -/
def Dev.binKey (d : Dev) (t b pos : Nat) : Nat :=
  let s := (d.tower t).binVault - 1
  vaultKey (t * 2 ^ 29 + s / 8 * 2 ^ 23 + s % 8 * 2 ^ 20 + b * 2 ^ 14 + pos * 64)

/-- A record that enters a bin: held by it, and written into the bin store (R388). -/
def Work.binAdd (w : Work) (t b timer : Nat) (r : List Byte × Option Nat) : Work :=
  let pos := ((w.d.tower t).bins.getD b {}).pos
  (if (w.d.tower t).binVault == 0 then w else w.puts (w.d.binKey t b pos) r.1).mod fun d => d.modBin t b fun x => x.add timer r

/-- A version record pushed into its node's bin, or held back while the bin is full (R168, R388). -/
def Work.pushRecord (w : Work) (root : Nat) (n : GraphNode) (bytes : List Byte) (pair : Nat) : Work :=
  let b := w.d.binOf n
  (if b.records.length < binSize && b.wait.isEmpty then w.binAdd n.tower n.bin n.timer (bytes, some pair)
    else w.mod fun d => d.modBin n.tower n.bin fun b => { b with wait := b.wait ++ [(bytes, some pair)] }).settleClear root

/-- A version record (R170). -/
def versionRecord (slot policy : Nat) (c : VCell) (ver : Nat) (cell : Word) : List Byte :=
  natLe 64 (cell.toNat + ver * 2 ^ 64 + bitNat c.fin * 2 ^ 80 + bitNat c.stop * 2 ^ 81 + bitNat c.abnd * 2 ^ 82
    + policy * 2 ^ 88 + slot * 2 ^ 90)

/-- The subscription states a tower's scheduler holds, and the versions one queues (R168). -/
def pairSlots : Nat := 1024
/-- See `pairSlots`. -/
def pairQueue : Nat := 64

/-- A subscription state changed. -/
def Dev.modPair (d : Dev) (t id : Nat) (f : SubPair → SubPair) : Dev :=
  d.modTower t fun z => { z with pairs := z.pairs.map fun p => if p.id == id then f p else p }

/-- The subscription state with a number and the tower that holds it. -/
def Dev.pairAt (d : Dev) (id : Nat) : Option (Nat × SubPair) :=
  d.towers.findSome? fun t => (t.2.pairs.find? fun p => p.id == id).map fun p => (t.1, p)

/-- The consumer of a subscription has ended: the pending or oldest queued version is pushed, or the state is IDLE, which
is not held (R168). -/
def Work.consumerEnd (w : Work) (id : Nat) : Work :=
  match w.d.pairAt id with
  | none => w
  | some (t, p) =>
    match ((w.d.grid p.grid).bind (·.graph)).bind fun g => g.nodes[p.node]? with
    | none => w
    | some n =>
      match p.pending, p.queue with
      | some r, _ => (w.mod fun d => d.modPair t id fun p => { p with pending := none, cancel := false }).pushRecord p.grid n r id
      | none, r :: q => (w.mod fun d => d.modPair t id fun p => { p with queue := q, cancel := false }).pushRecord p.grid n r id
      | none, [] => w.mod fun d => d.modTower t fun z => { z with pairs := z.pairs.filter fun p => p.id != id }

/-- The fault of a malformed subscription (R167), attributed to the publishing instruction. -/
def Work.subFault (w : Work) (x : Delivery) (t : Nat) : Work :=
  w.raise { reason := .malformedSubscription, engine := .scheduler, tower := t, aform := 1, addr := x.cell, crew := x.crew,
            iaddr := x.iaddr, lanes := x.lanes }

/-- A delivery taken out, others put in its place. -/
def Dev.replaceDelivery (d : Dev) (i : Nat) (xs : List Delivery) : Dev :=
  { d with deliveries := d.deliveries.take i ++ xs ++ d.deliveries.drop (i + 1) }

/-- A delivery whose entry is still to be read: the entry read and checked, and one delivery for each active
subscription (R167). Bits [28:8] of a subscription are not looked at (assumption 68). -/
def Work.readSubs (w : Work) (i : Nat) (x : Delivery) (g : Grid) (p : Part) (c : Ctx) : Work :=
  if g.launch.subn ≤ x.sub then (w.mod fun d => d.replaceDelivery i []).subFault x g.tower
  else match w.readAs (p.who c) .load 0 (g.launch.subt.toNat + 16 * x.sub) 16 with
    | none => (w.mod fun d => d.replaceDelivery i []).subFault x g.tower
    | some b =>
      let slots := (subSlots (leNat b)).mapIdx fun k s => (k, s)
      let on := slots.filter fun s => bit 31 s.2
      let nodes := ((g.graph.map (·.nodes)).getD []).length
      let ok := fun (s : Nat × Nat) => bits 30 29 s.2 != 3 && decide (s.2 % 256 < nodes)
      let items := (on.filter ok).map fun s => { x with slot := s.1, node := s.2 % 256, policy := bits 30 29 s.2, unread := false }
      let bad := on.filter fun s => !ok s
      bad.foldl (fun w _ => w.subFault x g.tower) (w.mod fun d => d.replaceDelivery i items)

/-- A version delivered to one subscription's state machine (R168, R424); `none` where it is held back. -/
def Work.deliver (w : Work) (x : Delivery) (g : Grid) (n : GraphNode) : Option Work :=
  let bytes := versionRecord x.slot x.policy (VCell.ofNat (w.num x.key 32)) x.ver x.cell
  let pol := if g.launch.det then 1 else x.policy
  match (w.d.tower n.tower).pairs.find? fun p => p.grid == g.id && p.cell == x.cell && p.sub == x.sub && p.slot == x.slot with
  | none =>
    if pairSlots ≤ (w.d.tower n.tower).pairs.length then none
    else
      let (id, w) := w.newId
      let p : SubPair := { id := id, grid := g.id, sub := x.sub, slot := x.slot, cell := x.cell, node := x.node, policy := x.policy }
      some ((w.mod fun d => d.modTower n.tower fun z => { z with pairs := z.pairs ++ [p] }).pushRecord g.id n bytes id)
  | some p =>
    if pol == 1 then
      if pairQueue ≤ p.queue.length then none
      else some (w.mod fun d => d.modPair n.tower p.id fun p => { p with queue := p.queue ++ [bytes], policy := x.policy })
    else some (w.mod fun d => d.modPair n.tower p.id fun p =>
      { p with pending := some bytes, policy := x.policy, cancel := p.cancel || pol == 0 })

/-- Whether a delivery comes after another one: of an earlier version of its cell whose entry is still to be read, or that is still to be
delivered to the same subscription (R168, R424). -/
def Delivery.after (x y : Delivery) : Bool :=
  y.grid == x.grid && y.cell == x.cell && (y.unread || (!x.unread && y.sub == x.sub && y.slot == x.slot))

/-- SUBSCRIPTION_DELIVERY (R167, R168): the next step of one delivery, the versions of a cell in the order of their publishes. -/
def execSubscriptionDelivery (i : Nat) (s : State) : Out :=
  event s fun w =>
    match w.d.deliveries[i]? with
    | none => none
    | some x =>
      if (w.d.deliveries.take i).any x.after then none
      else match w.d.grid x.grid with
      | none => some (w.mod fun d => d.replaceDelivery i [])
      | some g =>
        if ((w.d.part g.tower).bind (·.ctx)) != some g.ctx then none
        else if x.unread then
          match w.d.part g.tower, w.d.ctx g.ctx with
          | some p, some c => some (w.readSubs i x g p c)
          | _, _ => none
        else match (g.graph.map (·.nodes)).bind fun ns => ns[x.node]? with
          | none => some (w.mod fun d => d.replaceDelivery i [])
          | some n =>
            match w.deliver x g n with
            | some w => some (w.mod fun d => d.replaceDelivery i [])
            | none => some (w.mod fun d => d.replaceDelivery i [{ x with held := true }])

/-! ## Operations on the cell (R162) -/

/-- The global crew id of a team's crew 0 (R162 PROD). -/
def Dev.teamTag (d : Dev) (t : Team) : Nat :=
  match (t.crews.head?).bind d.crew with
  | some c => c.place.gid
  | none => t.tag

/-- A publish applied (R162, R167): the cell, the team's OUT, and the version on its way to the subscriptions. -/
def Work.publish (w : Work) (t : Team) (key va : Nat) (c : VCell) (final : Bool) (op : Nat) : Work :=
  let c' := { c with ver := c.ver + 1, abnd := false, prod := w.d.teamTag t, fin := c.fin || final }
  let w := w.putCell key c'
  let w := w.mod fun d => d.modTeam t.id fun t => t.modTile (BitVec.ofNat 64 va) fun e => { e with out := true }
  match (w.d.grid t.grid).bind fun g => w.d.grid g.root with
  | none => w
  | some g =>
    let by_ := w.d.op op
    let x : Delivery :=
      { op := op, crew := ((by_.bind fun o => w.d.crew o.crew).map (·.place.gid)).getD 0xFFFFFF, iaddr := (by_.map (·.iaddr)).getD 0
        lanes := (by_.map (·.lanes)).getD 0, team := t.id, grid := g.id, sub := c.subs, cell := BitVec.ofNat 64 va, key := key, ver := c.ver + 1 }
    let w := if c.subs == 0xFFFF then w else w.mod fun d => { d with deliveries := d.deliveries ++ [x] }
    if final && (g.graph.map (·.sinks)).any fun l => l.contains (BitVec.ofNat 64 va) then w.settleEval g.id else w

/-- Whether the publish of a version may be applied, must wait, or faults (R162). -/
def VCell.mayPublish (c : VCell) : Except Reason Bool :=
  if c.fin then .error .publishAfterFinal
  else if c.ver == 0xFFFF then .error .versionExhausted
  else .ok (c.rd ((c.ver + 1) % 2) == 0)

/-- The state of a version operation changed. -/
def Work.versionState (w : Work) (id state since buf : Nat) : Work :=
  w.mod fun d => d.modOp id fun o => match o.kind with
    | .version op key va arg reg pred _ _ _ => { o with kind := .version op key va arg reg pred state since buf }
    | _ => o

/-- One evaluation of a version-cell operation at its slice (R161, R162); `none` where it waits. -/
def Work.versionEval (w : Work) (o : Op) : Option Work :=
  match w.d.crew o.crew, o.kind with
  | some c, .version op key va arg reg pred _ _ _ =>
    match w.d.teamOf c, w.d.ctxOf c.place.tower with
    | some t, some x =>
      let v := w.num key 32
      let cell := VCell.ofNat v
      let word := BitVec.ofNat 64 va
      let f := { placeFault key (flatTag key) c.place.tower c.place.core with
        crew := c.place.gid, iaddr := o.iaddr, lanes := o.lanes, aform := 1, addr := word }
      let fail := fun (r : Reason) => some (((w.opDone o.id).raise { f with reason := r }).settle)
      let acq := fun (w : Work) => w.acquire c.place.tower c.place.core 4
      let answer := fun (w : Work) (c : VCell) => match reg with
        | some r => w.writeLate o r fun _ => BitVec.ofNat 64 c.word0
        | none => w
      let tile := fun (w : Work) (f : TileEntry → TileEntry) => w.mod fun d => d.modTeam t.id fun t => t.modTile word f
      let fresh := fun (w : Work) => w.dropL1 c.place.tower c.place.core [flatTag key]
      let publish := fun (final : Bool) =>
        match cell.mayPublish with
        | .error r => fail r
        | .ok false => none
        | .ok true =>
          let w := fresh (w.publish t key va cell final o.id)
          let w := match pred with
            | some p => w.mod fun d => d.modCrew c.id fun c => c.putPred p (if cell.stop then BitVec.allOnes 32 else 0) o.lanes
            | none => w
          some (w.versionState o.id 2 0 (cell.ver % 2))
      if (w.d.meetsBad false (cellRefs key)).isSome then fail .uncorrectable
      else if cellBad x va v then fail .malformedCell
      else match op with
        | .publish => publish false
        | .final => publish true
        | .get =>
          let p := cell.ver % 2
          if cell.ver != 0 && 255 ≤ cell.rd p then none
          else
            let c' := if cell.ver == 0 then cell else cell.setRd p (cell.rd p + 1)
            let w := if cell.ver == 0 then w else fresh (w.putCell key c')
            let w := tile w fun e =>
              let e := { e with got := true, infin := cell.fin }
              if cell.ver == 0 then e else e.modHeld p (· + 1)
            some ((acq (answer w c')).opDone o.id).settle
        | .release =>
          let n := ((t.tile word).map fun e => e.heldOn arg).getD 0
          if cell.rd arg == 0 || n == 0 then fail .readerUnderflow
          else
            let w := fresh (w.putCell key (cell.setRd arg (cell.rd arg - 1)))
            some ((tile w fun e => e.modHeld arg (· - 1)).opDone o.id).settle
        | .wait =>
          if arg ≤ cell.ver || cell.fin || cell.abnd then some ((acq (answer w cell)).opDone o.id).settle else none
        | .stopref =>
          let c' := { cell with stop := true }
          some ((answer (fresh (w.putCell key c')) c').opDone o.id).settle
        | .subscribe =>
          let n := ((w.d.rootOf c).map fun g => g.launch.subn).getD 0
          if n ≤ arg && arg != 0xFFFF then fail .malformedSubscription
          else some ((fresh (w.putCell key { cell with subs := arg })).opDone o.id).settle
    | _, _ => none
  | _, _ => none

/-- The version-cell operations that wait at their slices, in the order in which they began to wait. -/
def Dev.versionWaiters (d : Dev) : List Op :=
  sortOn (fun o => match o.kind with | .version _ _ _ _ _ _ _ since _ => since | _ => 0)
    (d.ops.filter fun o => match o.kind with | .version _ _ _ _ _ _ state _ _ => state == 1 && !o.done | _ => false)

/-- Waiting version-cell operations evaluated until none can proceed (R135, R162). -/
def Work.versionWake (w : Work) : Nat → Work
  | 0 => w
  | n + 1 =>
    match (w.d.versionWaiters).findSome? w.versionEval with
    | some w => w.versionWake n
    | none => w

/-- Publishes that retire: applied, with the buffer of the version before released by every reader, and every delivery of them taken by its
subscription's state (R162, R163, R168). -/
def Work.publishesDone (w : Work) : Work :=
  w.d.ops.foldl (fun w o => match o.kind with
    | .version _ key _ _ _ _ 2 _ buf =>
      if !o.done && (VCell.ofNat (w.num key 32)).rd buf == 0 && !w.d.deliveries.any (fun x => x.op == o.id) then w.opDone o.id else w
    | _ => w) w

/-- Every waiting version-cell operation evaluated. -/
def Work.versionWakeAll (w : Work) : Work := (w.versionWake w.d.versionWaiters.length).publishesDone

/-- VERSION_OP_AT_SLICE (R162): an operation reaches its cell's home slice: it applies, faults, or waits there under R135, among the 64
of the slice's waiting store, which ring operations share (assumption 65). Sent back by a full one, it is sent again. -/
def execVersionOpAtSlice (op : Nat) (s : State) : Out :=
  event s fun w =>
    match w.d.op op with
    | none => none
    | some o =>
      match w.d.crew o.crew, o.kind with
      | some c, .version _ key _ _ _ _ 0 sent buf =>
        let t := c.place.tower
        let k := c.place.core
        if o.done || w.d.linesPending c (cellRefs key) || w.overtakes t k (Nat.max op sent) (cellRefs key) then none
        else
          let w := w.touch t k 0 (w.d.gridId c) ((cellRefs key).map fun r => { r with alloc := true })
          match w.versionEval o with
          | some w => some w.ringWakeAll.versionWakeAll
          | none =>
            let place := w.waitPlace t k { key := key, tag := flatTag key }
            if ringStore ≤ (w.d.ringWaiters.filter fun x => w.ringPlace x.1 x.2.2 == place).length + (w.versionsAt place).length then some (w.versionState op 4 0 buf)
            else
              let (id, w) := w.newId
              some (w.versionState op 1 id buf)
      | _, _ => none

/-! ## The task instructions (R312 to R317) -/

/-- A task operation counted, complete at once. -/
def Iss.taskDone (i : Iss) (w : Work) : Res := .ok (i.newOp w 6 .instant [] 0 true).2

/-- LNCH (R187, R313): the record is read and checked and the child grid queued; the status is written. -/
def execLnch (o : OpTkDA) (s : State) : Out :=
  issue s o.g { reads := [o.a.toNat], writes := [o.d.toNat], slots := .kernel, home := true, values := true } fun i w =>
    (i.ready w).bind fun w => (i.room w 6 1).bind fun w =>
      match w.d.teamOf i.c, w.d.gridOf i.c, w.d.rootOf i.c, w.d.who (i.crew w) with
      | some t, some g, some root, some q =>
        if i.c.index != 0 || !i.act.getLsbD 0 then .fault (i.fault .launchNonLeader)
        else if 10 ≤ g.depth then .fault (i.fault .nestingTooDeep)
        else (i.release w 4).bind fun w =>
          let (st, w) := w.acceptChild q.p q.x i.c.place.tower g root t (BitVec.ofNat 64 (i.ea0 o.a.toNat (sext o.off)))
          let w := if st == 0 then w.mod fun d => d.modCtx q.x.ctxid fun x => { x with gridEpoch := x.gridEpoch + 1 } else w
          (i.put w o.d.toNat (.gen (List.replicate 32 (BitVec.ofNat 64 st)))).bind i.taskDone
      | _, _, _, _ => .ok w

/-- BINP (R315): the record is read from local memory and sent to its node's bin. -/
def execBinp (o : OpTkAB) (s : State) : Out :=
  issue s o.g { reads := [o.a.toNat, o.b.toNat], slots := .kernel, values := true } fun i w =>
    (i.ready w).bind fun w => (i.room w 6 1).bind fun w =>
      let ea := i.ea0 o.a.toNat (sext o.off)
      let k := (i.val o.b.toNat i.l0).toNat % 256
      if ea % 64 != 0 then .fault (i.misaligned .misaligned 2 [(i.l0, ea)])
      else i.find0 w .load 2 64 ea fun x w =>
        match ((w.d.rootOf i.c).bind (·.graph)).bind fun g => g.nodes[k]? with
        | none => .fault (i.fault .badNode)
        | some n => (i.localFirst w).bind fun w => (i.release w 4).bind fun w =>
            match w.d.meetsBad false x.refs with
            | some r => .fault (i.lost r)
            | none => .ok (i.newOp w 6 (.binPush n.tower n.bin (x.refs.map fun r => w.get r.key)) [] 0).2

/-- BIN_PUSH (R315, R388): a record enters its node's bin once the bin has room. -/
def execBinPush (op : Nat) (s : State) : Out :=
  event s fun w =>
    match w.d.op op with
    | none => none
    | some o =>
      match o.kind with
      | .binPush t b bytes =>
        let bin := (w.d.tower t).bins.getD b {}
        if o.done || binSize ≤ bin.records.length || !bin.wait.isEmpty then none
        else
          let timer := (bin.owner.bind fun x => ((w.d.grid x.1).bind (·.graph)).bind fun g => (g.nodes[x.2]?).map (·.timer)).getD 0
          let w := w.binAdd t b timer (bytes, none)
          let w := match bin.owner with
            | some x => w.settleClear x.1
            | none => w
          some ((w.opDone op).settle)
      | _ => none

/-- A version-cell instruction issued (R317): the table checks are made, and the operation goes to the cell's slice. A publish or a
release of a get releases every thread of the group (R96, R177). A cell of a page of KIND 1 or 2 is taken as one of KIND 0 (assumption
49). -/
def Iss.version (i : Iss) (w : Work) (op : VerOp) (ra : Nat) (off : Word) (arg : Nat) (reg pred : Option Nat) : Res :=
  (i.ready w).bind fun w => (i.room w 6 1).bind fun w =>
    let ea := i.ea0 ra off
    let va := BitVec.ofNat 64 ea
    i.find0 w .atomic 0 (if ea % 32 == 0 then 32 else 1) ea fun x w => (i.clash w [x]).bind fun w =>
      match w.d.teamOf i.c with
      | none => .ok w
      | some t =>
        let named := fun (r : Reason) => { i.fault r with aform := 1, addr := va }
        if op == .final && !t.inputsFinal then .fault (named .prematureFinal)
        else if op.enters && w.d.tableFull t va then .fault (named .tileTableFull)
        else if op == .release && ((t.tile va).map fun e => e.heldOn arg).getD 0 == 0 then .fault (named .readerUnderflow)
        else (if op == .publish || op == .final || op == .release then i.releaseOf w i.cu.group 4 else .ok w).bind fun w =>
          let key := (x.refs.headD { key := 0 }).key
          let (id, w) := i.newOp w 6 (.version op key ea arg reg pred 0 0 0) [] 0
          let w := i.drainFor (w.dropL1 i.c.place.tower i.c.place.core [flatTag key]) .atomic (cellRefs key)
          .ok (if reg.isSome || pred.isSome then i.wait w (.result id) none reg.toList else w)

/-- VPUB (R317): the returned STOP goes to the predicate. -/
def execVpub (o : OpTkQA) (s : State) : Out :=
  issue s o.g { reads := [o.a.toNat], slots := .kernel, values := true } fun i w => i.version w .publish o.a.toNat (sext o.off) 0 none (some o.q.toNat)
/-- VFIN (R317). -/
def execVfin (o : OpTkQA) (s : State) : Out :=
  issue s o.g { reads := [o.a.toNat], slots := .kernel } fun i w => i.version w .final o.a.toNat (sext o.off) 0 none (some o.q.toNat)
/-- VGET (R317). -/
def execVget (o : OpTkDA) (s : State) : Out :=
  issue s o.g { reads := [o.a.toNat], writes := [o.d.toNat], pends := true, slots := .kernel, values := true } fun i w =>
    i.version w .get o.a.toNat (sext o.off) 0 (some o.d.toNat) none
/-- VREL (R317). -/
def execVrel (o : OpTkRel) (s : State) : Out :=
  issue s o.g { reads := [o.a.toNat], slots := .kernel } fun i w => i.version w .release o.a.toNat (sext o.off) (bitNat o.buf) none none
/-- VWAIT (R317). -/
def execVwait (o : OpTkDAB) (s : State) : Out :=
  issue s o.g { reads := [o.a.toNat, o.b.toNat], writes := [o.d.toNat], pends := true, slots := .kernel, values := true } fun i w =>
    i.version w .wait o.a.toNat (sext o.off) ((i.val o.b.toNat i.l0).toNat % 2 ^ 16) (some o.d.toNat) none
/-- STOPREF (R317). -/
def execStopref (o : OpTkDA) (s : State) : Out :=
  issue s o.g { reads := [o.a.toNat], writes := [o.d.toNat], pends := true, slots := .kernel, values := true } fun i w =>
    i.version w .stopref o.a.toNat (sext o.off) 0 (some o.d.toNat) none
/-- VSUB (R317). -/
def execVsub (o : OpTkAB) (s : State) : Out :=
  issue s o.g { reads := [o.a.toNat, o.b.toNat], slots := .kernel, values := true } fun i w =>
    i.version w .subscribe o.a.toNat (sext o.off) ((i.val o.b.toNat i.l0).toNat % 2 ^ 16) none none

/-- PRDR (R316): the scheduler's last reading of a conditional node's predicate. -/
def execPrdr (o : OpTkDB) (s : State) : Out :=
  issue s o.g { reads := [o.b.toNat], writes := [o.d.toNat, o.d.toNat + 1], slots := .kernel } fun i w =>
    (i.ready w).bind fun w => (i.room w 6 1).bind fun w =>
      let k := (i.val o.b.toNat i.l0).toNat % 256
      let (v, n) : Word × Word := match ((w.d.rootOf i.c).bind (·.graph)).bind fun g => g.nodes[k]? with
        | some n => if n.pred == 0 || n.decisions == 0 then (0, 0) else (n.lastPred, BitVec.ofNat 64 (bitNat n.launched * 2 ^ 32 + n.decisions % 2 ^ 32))
        | none => (0, 0)
      (i.put w o.d.toNat (.gen (List.replicate 32 v))).bind fun w => (i.put w (o.d.toNat + 1) (.gen (List.replicate 32 n))).bind i.taskDone

/-! ## The grid barrier (R314) -/

/-- Whether every crew of every team of a cooperative grid has arrived or ended, with its counters zero (R174, R314). -/
def Dev.gridArrived (d : Dev) (g : Grid) : Bool :=
  let crews := (d.teams.filter fun t => t.grid == g.id).flatMap (·.crews)
  (crews.any fun id => ((d.crew id).map (·.gpend)).getD false)
    && crews.all fun id => match d.crew id with
      | some c => c.gpend || (d.crewEnded id && c.cnt.all (· == 0))
      | none => true

/-- GRID_BARRIER_COMPLETE (R314, R149, R156): GPEND clears, GW and the grid epoch advance, the operations are complete. -/
def Work.gridBarrier (w : Work) (g : Grid) : Work :=
  if !w.d.gridArrived g then w
  else
    let mine := fun (d : Dev) (c : Crew) => !c.handler && (d.team c.team).any fun t => t.grid == g.id
    let spent := w.d.crews.filter fun c => mine w.d c && c.gw == 2 ^ 32 - 1
    let w := w.mod fun d => d.modCtx g.ctx fun x => { x with gridEpoch := x.gridEpoch + 1 }
    let epoch := ((w.d.ctx g.ctx).map (·.gridEpoch)).getD 0
    let w := w.mod fun d =>
      let mine := mine d
      { d with
        ops := d.ops.map fun o => if o.kind == .gsync && (d.crew o.crew).any mine then { o with done := true } else o
        crews := d.crews.map fun c =>
          if !mine c then c
          else { c with gw := if c.gw == 2 ^ 32 - 1 then c.gw else c.gw + 1, gpend := false
                        waits := c.waits.map fun x => if x.cond == .gridBarrier then { x with cond := .over } else x
                        ep := if c.gpend then { grid := epoch, peers := [] } else c.ep } }
    w.raiseAll (spent.map fun c => c.fault .orderedTagExhausted 0 0)

/-- Every grid barrier evaluated. -/
def Work.gridBarriers (w : Work) : Work := (w.d.grids.filter fun g => g.launch.coop).foldl (fun w g => w.gridBarrier g) w

/-- GSYNC (R314): it arrives once per generation, releasing every thread of its crew (R96), and the group waits for the completion. -/
def execGsync (o : OpTkG) (s : State) : Out :=
  issue s o.g { slots := .kernel, values := true } fun i w =>
    (i.ready w).bind fun w => (i.room w 6 1).bind fun w =>
      match w.d.gridOf i.c with
      | none => .ok w
      | some g =>
        if !g.launch.coop then .fault (i.fault .gridBarrier)
        else (i.releaseOf w (BitVec.allOnes 32) 4).bind fun w =>
          let w := (i.newOp w 6 .gsync [] 0).2
          let w := i.mod w fun c => { c with gpend := true }
          .ok ((i.wait w .gridBarrier (some 4)).gridBarrier g)

/-! ## Migration (R193 to R196) -/

/-- The landing core of a line's home slice (R193). -/
def Work.landingCore (w : Work) (t slice : Nat) : Nat :=
  if w.present t slice then slice
  else
    match (w.cores t).filter fun k => sectorOf k == slice / 16 with
    | k :: _ => k
    | [] => (w.cores t).headD 0

/-- MIGR (R193, R194): the group waits; its request goes on once every older operation of the crew has retired (see
`execMigrationRequest`). -/
def execMigr (o : OpTkA) (s : State) : Out :=
  issue s o.g { reads := [o.a.toNat], slots := .kernel, values := true } fun i w =>
    (i.ready w).bind fun w => (i.room w 6 1).bind fun w =>
      i.find0 w .load 0 1 (i.ea0 o.a.toNat (sext o.off)) fun x w =>
        let r := x.refs.headD { key := 0 }
        let h := w.homeOf i.c.place.tower i.c.place.core r.tag r.key
        let (id, w) := i.newOp w 6 (.migrate 3 h.1 (w.landingCore h.1 h.2)) [] 0
        .ok (i.wait w (.migration id) (some 4))

/-- The request queue of a landing core (R194). -/
def landingQueue : Nat := 32

/-- A migration in flight: its operation, crew, stage and landing core. -/
def Dev.migration (d : Dev) (op : Nat) : Option (Op × Crew × Nat × Nat × Nat) :=
  match d.op op with
  | some o => match d.crew o.crew, o.kind with
    | some c, .migrate stage t k => if o.done then none else some (o, c, stage, t, k)
    | _, _ => none
  | none => none

/-- A migration's stage changed. -/
def Work.migStage (w : Work) (op stage t k : Nat) : Work := w.setKind op (.migrate stage t k)

/-- The fence of a migrating crew: everything its core's cluster holds drains, and its core acquires at device scope (R96, R194). -/
def Work.migFence (w : Work) (o : Op) (c : Crew) : Work :=
  let t := c.place.tower
  let k := c.place.core
  let (id, w) := (w.acquire t k 4).newId
  let f : FenceRec :=
    { id := id, crew := c.id, iaddr := o.iaddr, core := k, cluster := clusterOf k, tower := t, marker := false, queue := true, drains := true }
  ((w.mod fun d => { d with fences := d.fences ++ [f] }).nameFence f).fencesDone

/-- Whether a fence of an operation's instruction is still on. -/
def Dev.fencing (d : Dev) (o : Op) : Bool := d.fences.any fun f => f.crew == o.crew && f.iaddr == o.iaddr && !f.done

/-- Whether a crew's partition is neither halted nor past the first step of a switch, so that its migration goes on (R197, R401, R413). -/
def Dev.moves (d : Dev) (c : Crew) : Bool :=
  (d.part c.place.tower).any fun p => p.halt.phase == .running && (match p.ctx.bind d.ctx with
    | some x => x.switch == .idle || x.switch == .stopping
    | none => true)

/-- MIGRATION_REQUEST (R194): once every older operation of the crew has retired, its fence begins; once that is over, the request enters
the landing core's queue, or is sent back by a full one. None of it happens while the partition is halted (R197). -/
def execMigrationRequest (op : Nat) (s : State) : Out :=
  event s fun w =>
    match w.d.migration op with
    | some (o, c, 3, t, k) =>
      if !w.d.moves c || w.d.ops.any fun x => x.crew == c.id && decide (x.id < op) then none
      else
        let w := w.migFence o c
        some (w.migStage op (if w.d.fencing o then 4 else 0) t k)
    | some (o, _, 4, t, k) => if w.d.fencing o then none else some (w.migStage op 0 t k)
    | some (_, c, 0, t, k) =>
      if !w.d.moves c || c.home.tower == t && c.home.core == k then none
      else if landingQueue ≤ (w.d.core t k).landing.length then some (w.migStage op 2 t k)
      else some ((w.mod fun d => d.modCore t k fun x => { x with landing := x.landing ++ [c.id] }).migStage op 1 t k)
    | _ => none

/-- MIGRATION_RESEND (R194): a request sent back is sent again. -/
def execMigrationResend (op : Nat) (s : State) : Out :=
  event s fun w =>
    match w.d.migration op with
    | some (_, c, 2, t, k) => if w.d.moves c then some (w.migStage op 0 t k) else none
    | _ => none

/-- The next occupancy of a slot (R184). -/
def Work.occupy (w : Work) (t k slot : Nat) : Nat × Work :=
  let n := ((w.d.core t k).occ.getD slot 0 + 1) % 512
  (n, w.mod fun d => d.modCore t k fun x => { x with occ := modNth x.occ slot fun _ => n })

/-- The landing allotment as a crew finds it (R53): zero after a crew of another context, undefined otherwise. -/
def Work.freshLanding (w : Work) (t k ctx : Nat) : Work :=
  let last := (w.d.core t k).landCtx
  let key := fun (i : Nat) => localKey t k (landingGranule * 1024 + i)
  let w := match last with
    | some x =>
      if x != ctx then w.putAt ((List.range 16384).map fun i => (key i, 0))
      else let (n, w) := w.freeAt; w.putAt ((List.range 16384).map fun i => (key i, Config.landing n i))
    | none => let (n, w) := w.freeAt; w.putAt ((List.range 16384).map fun i => (key i, Config.landing n i))
  w.mod fun d => d.modCore t k fun x => { x with landCtx := some ctx }

/-- The PCs of the group that waits for a migration moved past its MIGR (R194 step 3). -/
def Crew.pastMigr (op : Nat) (c : Crew) : Crew :=
  (c.waits.filter fun x => x.cond == .migration op).foldl (fun c x =>
    c.modThreads x.mask fun t => if !t.exited && t.pc == x.addr then { t with pc := x.next } else t) c

/-- The migration by which such a crew asks for slot 33 again. -/
def Dev.relanding (d : Dev) (id : Nat) : Option Op :=
  if d.relands id then d.ops.find? fun o => o.crew == id && !o.done && (match o.kind with | .migrate .. => true | _ => false) else none

/-- A crew as a save has it: one that is to land again is saved as landed (R197). -/
def Dev.asLanded (d : Dev) (c : Crew) : Crew :=
  match d.relanding c.id with
  | none => c
  | some o => match o.kind with
    | .migrate _ t k => { c with landed := true, place := { tower := t, core := k, slot := 33, occ := c.place.occ } }
    | _ => c

/-- Operations of restored crews sent again, those of a crew that has still to land after it has landed (R118, R197). -/
def Work.resendSaved (w : Work) (ops : List Op) : Work :=
  (ops.filter fun o => !w.d.relands o.crew).foldl (fun w o => w.resendPlaced o) w

/-- The landing allotment as a crew finds it: as it was saved, for one that lands again, whose operations are sent again (R197), else as
`Work.freshLanding` says. -/
def Work.allotLanding (w : Work) (c : Crew) (t k ctx : Nat) : Work :=
  match (w.d.team c.team).bind fun x => (x.lands.find? fun e => e.1 == c.id).map (·.2) with
  | none => w.freshLanding t k ctx
  | some bs =>
    let w := (w.puts (localKey t k (landingGranule * 1024)) bs).mod fun d =>
      (d.modCore t k fun x => { x with landCtx := some ctx }).modTeam c.team fun x => { x with lands := x.lands.filter fun e => e.1 != c.id }
    w.resendSaved (w.d.ops.filter fun o => o.crew == c.id)

/-- A crew put into slot 33 of a core, or back into its source slot (R194, R196). -/
def Work.land (w : Work) (op : Nat) (c : Crew) (t k : Nat) : Work :=
  let w := w.mod fun d => (d.leaveSlot c).modCrew c.id (Crew.pastMigr op)
  if c.home.tower == t && c.home.core == k then
    if !c.landed then w
    else
      let (n, w) := w.occupy t k c.home.slot
      w.mod fun d => d.modCrew c.id fun c => { c with place := { c.home with occ := n }, home := { c.home with occ := n }, landed := false }
  else
    let (n, w) := w.occupy t k 33
    let ctx := ((w.d.ctxOf t).map (·.ctxid)).getD 0
    let w := w.mod fun d => (d.modCore t k fun x => { x with landing := x.landing.filter (· != c.id) }).modCrew c.id fun c =>
      { c with place := { tower := t, core := k, slot := 33, occ := n }, landed := true }
    w.allotLanding c t k ctx

/-- A migration that is granted, landed once what the crew's threads have done and seen since its departure has reached every agent (R105):
it acquires at device scope, and the MIGR is complete. -/
def Work.landNow (w : Work) (o : Op) (c : Crew) (t k : Nat) : Option Work :=
  if w.d.fencing o then none else some ((((w.land o.id c t k).acquire t k 4).opDone o.id).settle)

/-- MIGRATION_LAND (R194): the head of a landing core's queue is granted the free slot 33, or a crew that returns its source slot, where the
core has room for its requests (R3). From then on its state is on the way and it issues nothing: its threads' fence of R105 is completed, and it
lands, in a halt too (R197). -/
def execMigrationLand (op : Nat) (s : State) : Out :=
  event s fun w =>
    match w.d.migration op with
    | some (o, c, 5, t, k) => w.landNow o c t k
    | some (o, c, stage, t, k) =>
      let back := c.home.tower == t && c.home.core == k
      let free := !w.d.crews.any fun x => x.place.tower == t && x.place.core == k && x.place.slot == 33
      let granted := if back then stage == 0 else stage == 1 && (w.d.core t k).landing.head? == some c.id && free
      let here := back && !c.landed
      if !granted || !w.d.moves c || !(here || w.d.takesRequests t k (w.d.ops.filter fun x => x.crew == c.id)) then none
      else
        let w := (w.migFence o c).migStage op 5 t k
        some ((w.landNow o c t k).getD w)
    | none => none

end Sys2Proof.Machine
end

