-- ==== Sys2Proof/Machine/Matrix.lean ====
section
/-! DEFINITION. Matrix: the matrix engine: its sums, the gang and pair rendezvous, tile moves, the baton and the
neighbour links (16_matrix_engine.md). -/

namespace Sys2Proof.Machine

/-! ## The sums (R321, R331 to R335, R224, R225) -/

/-- Elements of K a crew's slab supplies (R321). -/
def slabK (f : Fmt) (cplx : Bool) : Nat := 8 * (64 / f.width) / (if cplx then 2 else 1)

/-- The bits at a position of a lane of a slab (R321). -/
def slabBits (slab : List (List Word)) (f : Fmt) (lane pos : Nat) : Nat :=
  elem f.width ((slab.getD (pos / (64 / f.width)) []).getD lane 0) (pos % (64 / f.width))

/-- A value with whether forming it was invalid (R220). -/
abbrev MVal := Val × Bool

/-- The NaN of an invalid product. -/
def mNan : MVal := (.nan false false 1 1, true)

/-- A product of two values (R224). -/
def mMul (a b : MVal) : MVal :=
  if a.1.isNan || b.1.isNan then (.nan false false 1 1, a.2 || b.2 || a.1.isSig || b.1.isSig)
  else match mulVal a.1 b.1 with
    | some v => (v, a.2 || b.2)
    | none => mNan

/-- The unscaled value of an element: that of R213, or q − z of an affine slot (R331). -/
def FmtSlot.elemValue (x : FmtSlot) (z : Int) (b : Nat) : Val :=
  if x.scale == 3 then .ofInt (x.format.intValue (b % 2 ^ x.format.elemBits) - z) else x.format.value (b % 2 ^ x.format.elemBits)

/-- The scale word of block `b` of a row or column (R332). -/
def FmtSlot.scaleWord (x : FmtSlot) (scales : List (List Word)) (lane b : Nat) : Nat :=
  let w := if x.scale == 3 then 16 else 8
  elem w ((scales.getD (b / (64 / w)) []).getD lane 0) (b % (64 / w))

/-- The scale and zero point of block `b`; 1 and 0 without scales (R216, R331). -/
def FmtSlot.scaleAt (x : FmtSlot) (scales : List (List Word)) (lane b : Nat) : Option (Val × Int) :=
  if x.scale == 0 then some (.ofInt 1, 0) else scaleOf x.scale (x.scaleWord scales lane b)

/-- The zero point of block `b` of an affine slot, whatever its scale is; 0 otherwise (R216, R335). -/
def FmtSlot.zeroAt (x : FmtSlot) (scales : List (List Word)) (lane b : Nat) : Int :=
  if x.scale == 3 then toSigned 8 (x.scaleWord scales lane b / 256) else 0

/-- An operand of a matrix operation. -/
structure Operand where
  slot : FmtSlot
  slabs : List (List (List Word))
  scales : List (List Word)
  cplx : Bool

/-- The unscaled element at position k of a lane; part 1 is the imaginary one (R321). -/
def Operand.raw (o : Operand) (lane k part : Nat) : Val :=
  let f := o.slot.format
  let n := slabK f o.cplx
  let pos := if o.cplx then 2 * (k % n) + part else k % n
  let z := o.slot.zeroAt o.scales lane (k / o.slot.blockLen)
  o.slot.elemValue z (slabBits (o.slabs.getD (k / n) []) f lane pos)

/-- The scaled element at position k (R216, R331). -/
def Operand.scaled (o : Operand) (lane k part : Nat) : MVal :=
  let v := o.raw lane k part
  if o.slot.scale == 0 then (v, false)
  else match o.slot.scaleAt o.scales lane (k / o.slot.blockLen) with
    | none => mNan
    | some (s, _) => mMul (s, false) (v, false)

/-- A magnitude. -/
def Val.abs (v : Val) : Val := v.withNeg false

/-- Whether position k of row m is skipped, T being the threshold (R335). -/
def Operand.skips (o : Operand) (t : Val) (m k : Nat) : Bool :=
  let small := fun (v : Val) => !v.isNan && valLt v.abs t
  if o.cplx then small (o.raw m k 0) && small (o.raw m k 1) else small (o.raw m k 0)

/-- The exact terms of the products of a block's positions: real part, or imaginary part of complex ones (R225). -/
def blockTerms (a b : Operand) (m n : Nat) (im : Bool) (ks : List Nat) : List MVal :=
  ks.flatMap fun k =>
    if !a.cplx then [mMul (a.scaled m k 0) (b.scaled n k 0)]
    else if im then [mMul (a.scaled m k 0) (b.scaled n k 1), mMul (a.scaled m k 1) (b.scaled n k 0)]
    else
      let p := mMul (a.scaled m k 1) (b.scaled n k 1)
      [mMul (a.scaled m k 0) (b.scaled n k 0), (p.1.negate, p.2)]

/-- acc ← RoundTo(acc + S) (R224, R331): RNE, subnormals kept, NaN results canonical. Infinite products of opposite signs raise INV beside a
NaN too. -/
def accStep (f : Fmt) (acc : Nat) (ts : List MVal) : FRes :=
  let av := f.value acc
  let opposite := ts.any (·.1 == .inf false) && ts.any (·.1 == .inf true)
  let inv : Flags := if ts.any (·.2) || opposite || av.isSig then fInv else fNone
  if ts.any (fun t => t.1.isNan) || av.isNan then ⟨f.canon, inv⟩
  else match sumVal .rne (ts.map (·.1)) with
    | none => ⟨f.canon, fInv⟩
    | some s => match sumVal .rne [av, s] with
      | none => ⟨f.canon, fInv⟩
      | some v => roundTo .engine f v

/-- The block of K of a format (R224). -/
def blockK (f : Fmt) : Nat := if f.width ≤ 8 then 32 else if f.width == 16 then 8 else 1

/-- One accumulator element after the operation, block by block (R331). -/
def mmaElem (a b : Operand) (t : Option Val) (m n : Nat) (im : Bool) (kk : Nat) (start : Nat) : FRes :=
  let f := a.slot.format
  let accF := if f == .fp64 then Fmt.fp64 else .fp32
  let bl := blockK f
  (List.range ((kk + bl - 1) / bl)).foldl (fun acc i =>
    let ks := ((List.range bl).map (bl * i + ·)).filter fun k => decide (k < kk) && !(match t with | some t => a.skips t m k | none => false)
    if ks.isEmpty then acc
    else
      let r := accStep accF acc.bits (blockTerms a b m n im ks)
      ⟨r.bits, acc.fl ||| r.fl⟩) ⟨start, fNone⟩

/-! ## The accumulator store (R323) -/

/-- The cell of element (m, n) of a tile. -/
def accCell (tile m n : Nat) : Nat := tile * 1024 + m * 32 + n

/-- An element of a tile. -/
def Core.acc32 (c : Core) (tile m n : Nat) : Nat := getA c.acc (accCell tile m n) 0

/-- An element of a pair of tiles. -/
def Core.acc64 (c : Core) (tile m n : Nat) : Nat := c.acc32 tile m n + 2 ^ 32 * c.acc32 (tile + 1) m n

/-- Elements written: (tile, m, n, value). -/
def Core.putAcc (c : Core) (xs : List (Nat × Nat × Nat × Nat)) : Core :=
  { c with acc := xs.foldl (fun a x => putA a (accCell x.1 x.2.1 x.2.2.1) x.2.2.2) c.acc }

/-- Every (m, n). -/
def tileCells : List (Nat × Nat) := (List.range 32).flatMap fun m => (List.range 32).map fun n => (m, n)

/-- The effect of an accepted MMA on the store, and its flags (R331). -/
def Core.mma (c : Core) (tile km1 : Nat) (clr skip cplx : Bool) (aslot bslot : FmtSlot)
    (slabs : List (List (List Word) × List (List Word))) (scaleA scaleB : List (List Word)) (skipd : Nat) : Core × Flags :=
  let a : Operand := { slot := aslot, slabs := slabs.map (·.1), scales := scaleA, cplx := cplx }
  let b : Operand := { slot := bslot, slabs := slabs.map (·.2), scales := scaleB, cplx := cplx }
  let t := if skip && aslot.skip then sumVal .rne [Fmt.fp16.value aslot.skipt, Fmt.fp16.value skipd] else none
  let wide := aslot.format == .fp64
  let one := fun (tl : Nat) (im : Bool) (p : Nat × Nat) =>
    let start := if clr then 0 else if wide then c.acc64 tl p.1 p.2 else c.acc32 tl p.1 p.2
    let r := mmaElem a b t p.1 p.2 im (km1 + 1) start
    ((if wide then [(tl, p.1, p.2, r.bits % 2 ^ 32), (tl + 1, p.1, p.2, r.bits / 2 ^ 32)] else [(tl, p.1, p.2, r.bits)]), r.fl)
  let rs := tileCells.map (one tile false) ++ (if cplx then tileCells.map (one (tile + if wide then 2 else 1) true) else [])
  (c.putAcc (rs.flatMap (·.1)), rs.foldl (fun f r => f ||| r.2) fNone)

/-- The row statistics of RSTAT (R338): maximum, sum, sum of squares, flags. -/
def Core.rowStat (c : Core) (tile m : Nat) : Nat × Nat × Nat × Flags :=
  let e := FCtl.engine
  let v := fun n => Fmt.fp32.value (c.acc32 tile m n)
  let q0 := fmul e .fp32 (v 0) (v 0)
  (List.range 31).foldl (fun (acc : Nat × Nat × Nat × Flags) i =>
    let n := i + 1
    let mx := fminmax e .fp32 true false (Fmt.fp32.value acc.1) (v n)
    let s := fadd e .fp32 (Fmt.fp32.value acc.2.1) (v n)
    let q := ffma e .fp32 false false (v n) (v n) (Fmt.fp32.value acc.2.2.1)
    (mx.bits, s.bits, q.bits, acc.2.2.2 ||| mx.fl ||| s.fl ||| q.fl)) (c.acc32 tile m 0, c.acc32 tile m 0, q0.bits, q0.fl)

/-! ## Acceptance (R324) -/

/-- Operations an engine's queue holds (R324). -/
def mxQueue : Nat := 32

/-- A matrix operation of a crew's instruction, without the issue in hand. -/
def Work.mxOp (w : Work) (crew : Nat) (iaddr : Word) (lns : Mask) : Nat × Work :=
  let (id, w) := w.newId
  let o : Op := { id := id, crew := crew, cls := 4, iaddr := iaddr, lanes := lns, kind := .matrix }
  (id, w.mod fun d => ({ d with ops := d.ops ++ [o] } : Dev).modCrew crew fun c => c.modCount 4 (· + 1))

/-- An operation accepted by the engine of a core. -/
def Work.accept (w : Work) (t k : Nat) (x : MxOp) : Work := w.mod fun d => d.modCore t k fun c => { c with mxq := c.mxq ++ [x] }

/-- The team has issued a matrix operation since its admission (R343). -/
def Work.bindTeam (w : Work) (c : Crew) : Work := w.mod fun d => d.modTeam c.team fun t => { t with bound := true }

/-- Arrivals of a crew at a rendezvous that is not complete (R330, R340). -/
def Dev.arrived (d : Dev) (crew : Nat) : Bool := d.gangs.any (fun a => a.crew == crew) || d.pairs.any fun a => a.crew == crew

/-- The MX count a crew would have with its arrivals (R117). -/
def Iss.mxRoom (i : Iss) (w : Work) : Res := i.room w 4 (if w.d.arrived i.cu.crew then 2 else 1)

/-- The entries of a core's queue in use: its accepted operations, an NLR that waits for its entry among them (R324). -/
def Dev.mxUsed (d : Dev) (t k : Nat) : Nat :=
  (d.core t k).mxq.length + (d.ops.filter fun o => !o.done && (match o.kind, d.crew o.crew with
    | .receive _, some c => c.place.tower == t && c.place.core == k
    | _, _ => false)).length

/-- A queue with room, or a wait (R324). -/
def Iss.mxQueueRoom (i : Iss) (w : Work) : Res :=
  if mxQueue ≤ w.d.mxUsed i.c.place.tower i.c.place.core then .again i.w0 (.room .matrix 1) else .ok w

/-! ## Gangs (R329, R330) -/

/-- COUNT of a gang list. -/
def gangCount (g : BitVec 33) : Nat := g.toNat % 8

/-- The crew indices a gang list names. -/
def gangMembers (g : BitVec 33) : List Nat := (List.range (gangCount g)).map fun j => g.toNat / 2 ^ (3 + 5 * j) % 32

/-- Whether a gang list is valid for a crew of a team of `n` crews (R329). -/
def gangValid (g : BitVec 33) (index n : Nat) : Bool :=
  let ms := gangMembers g
  gangCount g == 0 || (gangCount g ≤ 6 && (distinct ms).length == ms.length && ms.all (fun x => decide (x < n)) && ms.contains index)

/-- Whether a crew leads its gang (R329). -/
def Crew.leads (c : Crew) : Bool := gangCount c.sp.gangr == 0 || (gangMembers c.sp.gangr).head? == some c.index

/-- What MMA and MMAP have in common. -/
structure MmaForm where
  a : Nat
  b : Nat
  aslot : Nat
  bslot : Nat
  tile : Nat
  km1 : Nat
  clr : Bool
  skip : Bool
  cplx : Bool

/-- The fields of an MMA. -/
def mmaForm (o : OpMma) : MmaForm :=
  { a := o.a.toNat, b := o.b.toNat, aslot := o.aslot.toNat, bslot := o.bslot.toNat, tile := o.tile.toNat, km1 := o.km1.toNat
    clr := o.clr, skip := o.skip, cplx := o.cplx }

/-- The extension bits that members of a gang must share (R330). -/
def MmaForm.ext (f : MmaForm) : Nat :=
  f.aslot * 2 ^ 25 + f.bslot * 2 ^ 22 + f.tile * 2 ^ 16 + f.km1 * 2 ^ 4 + bitNat f.clr * 4 + bitNat f.skip * 2 + bitNat f.cplx

/-- The registers a leader reads its scales of one operand from (R332). -/
def FmtSlot.scaleRegs (x : FmtSlot) (base km1 : Nat) : List Nat :=
  if x.scale == 0 then []
  else
    let nb := km1 / x.blockLen + 1
    let p := if x.scale == 3 then 4 else 8
    (List.range ((nb + p - 1) / p)).map (base + ·)

/-- The registers an MMA of a crew reads (R322, R332). -/
def MmaForm.reads (f : MmaForm) (d : Dev) (c : Crew) (leader : Bool) : List Nat :=
  let sc := if leader then (d.slotOf c f.aslot).scaleRegs c.sa f.km1 ++ (d.slotOf c f.bslot).scaleRegs c.sb f.km1 else []
  (List.range 8).map (f.a + ·) ++ (List.range 8).map (f.b + ·) ++ sc

/-- The tiles a group takes, and what its first must be a multiple of (R323). -/
def MmaForm.group (f : MmaForm) (x : FmtSlot) : Nat := (if x.format == .fp64 then 2 else 1) * (if f.cplx then 2 else 1)

/-- Whether an MMA or MMAP is illegal (R328). -/
def MmaForm.illegal (f : MmaForm) (x y : FmtSlot) : Bool :=
  decide (56 < f.a) || decide (56 < f.b) || x.format.width != y.format.width || f.cplx != x.cplx || f.cplx != y.cplx
    || f.tile % f.group x != 0 || decide (64 < f.tile + f.group x)

/-- All lanes of consecutive registers of a crew. -/
def Crew.block (c : Crew) (rs : List Nat) : List (List Word) := rs.map fun r => (c.reg r).all

/-- The slabs a crew supplies (R321, R322). -/
def MmaForm.slabs (f : MmaForm) (c : Crew) : List (List Word) × List (List Word) :=
  (c.block ((List.range 8).map (f.a + ·)), c.block ((List.range 8).map (f.b + ·)))

/-- What a leader or initiator asks its engine to do, the slabs still to come. -/
def MmaForm.kind (f : MmaForm) (w : Work) (c : Crew) : MxKind :=
  let x := w.d.slotOf c f.aslot
  let y := w.d.slotOf c f.bslot
  .mma f.tile f.km1 f.clr f.skip f.cplx x y [] (c.block (x.scaleRegs c.sa f.km1)) (c.block (y.scaleRegs c.sb f.km1))
    ((w.special c 8).toNat % 2 ^ 16)

/-- An operation with its members' slabs. -/
def MxKind.withSlabs (k : MxKind) (s : List (List (List Word) × List (List Word))) : MxKind :=
  match k with
  | .mma tile km1 clr skip cplx x y _ sa sb sk => .mma tile km1 clr skip cplx x y s sa sb sk
  | k => k

/-- Arrivals of a team's rendezvous latch. -/
def Dev.latch (d : Dev) (t : Team) : List GangArrival := d.gangs.filter fun a => t.crews.contains a.crew

/-- The groups of crews that wait at a rendezvous continue on the instruction: their arrivals are withdrawn (R330, R340). -/
def Dev.withdraw (d : Dev) (crews : List Nat) : Dev :=
  { d with
    gangs := d.gangs.filter fun a => !crews.contains a.crew
    pairs := d.pairs.filter fun a => !crews.contains a.crew
    crews := d.crews.map fun (c : Crew) => if crews.contains c.id then
      { c with waits := c.waits.filter fun x => x.again || x.cond != .rendezvous c.id } else c }

/-- GANG_RENDEZVOUS_COMPLETE (R330): all members have arrived: the operation is accepted, it counts once in each member,
and every group is released. -/
def Work.gangCheck (w : Work) (t : Team) : Work :=
  let as := w.d.latch t
  match as with
  | [] => w
  | a :: _ =>
    let ms := gangMembers a.gangr
    let byIndex := ms.filterMap fun m => as.find? fun x => x.index == m
    match byIndex with
    | lead :: _ =>
      if byIndex.length != ms.length || mxQueue ≤ w.d.mxUsed t.tower t.core then w
      else
        let made := byIndex.foldl (fun (acc : List (Nat × Nat) × Work) x =>
          let r := acc.2.mxOp x.crew x.iaddr x.lanes
          (acc.1 ++ [(r.1, x.crew)], r.2)) ([], w)
        match made.1, lead.kind with
        | own :: others, some k =>
          let x : MxOp := { kind := k.withSlabs (byIndex.map fun a => (a.slabA, a.slabB)), op := own.1, crew := own.2, others := others }
          (made.2.accept t.tower t.core x).mod fun d => { d with gangs := d.gangs.filter fun g => !t.crews.contains g.crew }
        | _, _ => w
    | [] => w

/-- A rendezvous one of whose listed crews has ended without arriving faults, and its arrivals are withdrawn (R330). -/
def Work.gangEnded (w : Work) (t : Team) : Work :=
  let as := w.d.latch t
  match as with
  | [] => w
  | a :: _ =>
    let ms := gangMembers a.gangr
    let gone := ms.any fun m => !as.any (fun x => x.index == m) && (match t.crews[m]? with | some c => w.d.crewEnded c | none => true)
    if !gone then w
    else
      let lead := as.find? fun x => some x.index == ms.head?
      let who := (lead <|> (sortOn (·.index) as).head?).getD a
      let f := match w.d.crew who.crew with
        | some c => { c.fault .gangEnded who.iaddr who.lanes with
            peer := (((t.crews[ms.headD 0]?).bind w.d.crew).map fun c => c.place.gid).getD 0xFFFFFF }
        | none => { reason := .gangEnded }
      (w.mod fun d => d.withdraw (as.map (·.crew))).raise f

/-- The fault of a gang's instruction names its leader (R404 PEER). -/
def Iss.gangFault (i : Iss) (w : Work) (r : Reason) : FaultInfo :=
  let lead := (w.d.teamOf i.c).bind fun t => ((gangMembers i.c.sp.gangr).head?).bind fun m => (t.crews[m]?).bind w.d.crew
  { i.fault r with peer := (lead.map fun c => c.place.gid).getD 0xFFFFFF }

/-- The crew and the reads of an MMA about to issue. -/
def State.mmaUse (s : State) (f : MmaForm) (leader : Crew → Bool) : List Nat :=
  match s.d.cur.bind fun cu => s.d.crew cu.crew with
  | some c => f.reads s.d c (leader c)
  | none => []

/-- Whether the format slots of an MMA about to issue are an illegal pair (R328). -/
def State.mmaRefused (s : State) (f : MmaForm) : Bool :=
  match s.d.cur.bind fun cu => s.d.crew cu.crew with
  | some c => f.illegal (s.d.slotOf c f.aslot) (s.d.slotOf c f.bslot)
  | none => false

/-- MMA (R327 to R331). -/
def execMma (o : OpMma) (s : State) : Out :=
  let f := mmaForm o
  issue s o.g { reads := s.mmaUse f Crew.leads, slots := .kernel, home := true, refused := s.mmaRefused f } fun i w =>
    (i.ready w).bind fun w => match w.d.teamOf i.c with
    | none => .ok w
    | some t =>
      let x := w.d.slotOf i.c f.aslot
      let g := i.c.sp.gangr
      let n := Nat.max (gangCount g) 1
      if !gangValid g i.c.index t.crews.length then .fault (i.gangFault w .badGang)
      else if n * slabK x.format f.cplx < f.km1 + 1 then .fault (i.gangFault w .kTooBig)
      else if w.d.arrived i.cu.crew then .again i.w0 (.rendezvous i.cu.crew)
      else if i.c.leads && t.baton != i.c.index then .fault (i.gangFault w .batonNotHeld)
      else (i.mxRoom w).bind fun w => (i.mxQueueRoom w).bind fun w =>
        let sl := f.slabs i.c
        let w := w.bindTeam i.c
        if gangCount g == 0 then
          let (id, w) := i.newOp w 4 .matrix [] 0
          .ok (w.accept t.tower t.core { kind := (f.kind w i.c).withSlabs [sl], op := id, crew := i.cu.crew })
        else if (w.d.latch t).any fun a => a.gangr != g || a.ext != f.ext then .fault (i.gangFault w .gangMismatch)
        else
          let a : GangArrival :=
            { crew := i.cu.crew, index := i.c.index, iaddr := i.cu.addr, lanes := i.act, gangr := g, ext := f.ext, slabA := sl.1, slabB := sl.2,
              kind := if i.c.leads then some (f.kind w i.c) else none }
          let w := w.mod fun d => { d with gangs := d.gangs ++ [a] }
          .ok ((i.wait w (.rendezvous i.cu.crew)).gangCheck t)

/-! ## Pairs (R340, R341) -/

/-- The core at the same position of the adjacent cluster in a direction (R2, R340). -/
def neighbourCore (k dir : Nat) : Option Nat := (neighbourCluster (clusterOf k) dir).map fun c => 4 * c + k % 4

/-- The neighbour an instruction names, or its fault (R340, R342). -/
def Iss.neighbour (i : Iss) (w : Work) (dir : Nat) (k : Nat → Work → Res) : Res :=
  match neighbourCore i.c.place.core dir with
  | none => .fault (i.fault .noLink)
  | some far => if w.present i.c.place.tower far then k far w else .fault (i.fault .noNeighbour)

/-- The arrival at the far end that an arrival meets: one of the other role where there is one, else one of the same, which is a mismatch
(R340). -/
def Dev.farArrival (d : Dev) (a : PairArrival) : Option PairArrival :=
  let facing := d.pairs.filter fun b => b.tower == a.tower && some b.core == neighbourCore a.core a.dir && b.dir == oppositeDir a.dir
  (facing.find? fun b => b.role != a.role).or facing.head?

/-- The crew of the arrival that an MMAP would pair with, as a record names it (R341, R404). -/
def Iss.pairPeer (i : Iss) (w : Work) (dir role : Nat) : Nat :=
  let a : PairArrival := { crew := i.cu.crew, team := i.c.team, tower := i.c.place.tower, core := i.c.place.core, iaddr := 0, lanes := 0, role := role
                           dir := dir, fields := 0, slabA := [], slabB := [], watchdog := 0 }
  (((w.d.farArrival a).bind fun b => w.d.crew b.crew).map fun c => c.place.gid).getD 0xFFFFFF

/-- PAIR_COMPLETE (R340): both have arrived: the initiator's engine accepts the operation, or both fault with a mismatch. An arrival whose
watchdog has expired takes no part any more (R341). -/
def Work.pairCheck (w : Work) (crew : Nat) : Work :=
  match w.d.pairs.find? fun a => a.crew == crew with
  | none => w
  | some a =>
    match (w.d.farArrival a).filter fun b => a.watchdog != 0 && b.watchdog != 0 with
    | none => w
    | some b =>
      let (ini, par) := if a.role == 0 then (a, b) else (b, a)
      let gid := fun (n : Nat) => ((w.d.crew n).map fun c => c.place.gid).getD 0xFFFFFF
      let fault := fun (x y : PairArrival) =>
        match w.d.crew x.crew with
        | some c => { c.fault .pairMismatch x.iaddr x.lanes with peer := gid y.crew }
        | none => { reason := .pairMismatch }
      if ini.fields != par.fields || ini.role == par.role then
        (w.mod fun d => d.withdraw [ini.crew, par.crew]).raiseAll [fault ini par, fault par ini]
      else if mxQueue ≤ w.d.mxUsed ini.tower ini.core then w
      else
        let (o1, w) := w.mxOp ini.crew ini.iaddr ini.lanes
        let (o2, w) := w.mxOp par.crew par.iaddr par.lanes
        let names := fun (o : Op) => if o.id == o1 then { o with partner := some (par.crew, par.iaddr, par.lanes) }
          else if o.id == o2 then { o with partner := some (ini.crew, ini.iaddr, ini.lanes) } else o
        let w := w.mod fun d => { d with ops := d.ops.map names }
        match ini.kind with
        | some k =>
          let x : MxOp := { kind := k.withSlabs [(ini.slabA, ini.slabB), (par.slabA, par.slabB)], op := o1, crew := ini.crew, others := [(o2, par.crew)] }
          (w.accept ini.tower ini.core x).mod fun d => { d with pairs := d.pairs.filter fun p => p.crew != ini.crew && p.crew != par.crew }
        | none => w

/-- Whether the pairing slot of a role is taken at the link end of a crew's cluster in a direction (R340). -/
def Dev.pairSlotTaken (d : Dev) (c : Crew) (dir role : Nat) : Bool :=
  d.pairs.any fun p => p.tower == c.place.tower && clusterOf p.core == clusterOf c.place.core && p.dir == dir && p.role == role

/-- An MMAP of either role (R340). -/
def mmapOp (f : MmaForm) (d dir role : Nat) (g : Guard) (s : State) : Out :=
  issue s g { reads := d :: s.mmaUse f (fun _ => role == 0), slots := .kernel, home := true, refused := s.mmaRefused f } fun i w =>
    (i.ready w).bind fun w => match w.d.teamOf i.c with
    | none => .ok w
    | some t =>
      let x := w.d.slotOf i.c f.aslot
      let fault := fun (r : Reason) => Res.fault { i.fault r with peer := i.pairPeer w dir role }
      if gangCount i.c.sp.gangr != 0 then fault .badGang
      else i.neighbour w dir fun _ w =>
        if 2 * slabK x.format f.cplx < f.km1 + 1 then fault .kTooBig
        else if w.d.arrived i.cu.crew then .again i.w0 (.rendezvous i.cu.crew)
        else if role == 0 && t.baton != i.c.index then fault .batonNotHeld
        else if w.d.pairSlotTaken i.c dir role then .again i.w0 (.pairSlot dir role)
        else (i.mxRoom w).bind fun w => (if role == 0 then i.mxQueueRoom w else .ok w).bind fun w =>
          let n := (i.val d i.l0).toNat % 2 ^ 32
          let sl := f.slabs i.c
          let a : PairArrival :=
            { crew := i.cu.crew, team := t.id, tower := i.c.place.tower, core := i.c.place.core, iaddr := i.cu.addr, lanes := i.act, role := role
              dir := dir, fields := (f.aslot * 8 + f.bslot) * 2 ^ 14 + f.km1 * 4 + bitNat f.skip * 2 + bitNat f.cplx, slabA := sl.1, slabB := sl.2
              watchdog := if n == 0 then 1000000 else n, kind := if role == 0 then some (f.kind w i.c) else none }
          let w := (w.bindTeam i.c).mod fun d => { d with pairs := d.pairs ++ [a] }
          .ok ((i.wait w (.rendezvous i.cu.crew)).pairCheck i.cu.crew)

/-- MMAP, initiator (R340). -/
def execMmap (o : OpMmap) (s : State) : Out :=
  mmapOp { a := o.a.toNat, b := o.b.toNat, aslot := o.aslot.toNat, bslot := o.bslot.toNat, tile := o.tile.toNat, km1 := o.km1.toNat
           clr := o.clr, skip := o.skip, cplx := o.cplx } o.d.toNat o.dir.toNat 0 o.g s

/-- MMAP, partner (R340). -/
def execMmapPartner (o : OpMmapP) (s : State) : Out :=
  mmapOp { a := o.a.toNat, b := o.b.toNat, aslot := o.aslot.toNat, bslot := o.bslot.toNat, tile := 0, km1 := o.km1.toNat
           clr := false, skip := o.skip, cplx := o.cplx } o.d.toNat o.dir.toNat 1 o.g s

/-- PAIR_WATCHDOG_EXPIRE (R341): an arrival whose watchdog has run out faults and is withdrawn, its PC on the MMAP. -/
def execPairWatchdogExpire (crew : Nat) (s : State) : Out :=
  event s fun w =>
    match w.d.pairs.find? fun a => a.crew == crew, w.d.crew crew with
    | some a, some c =>
      let runs := match w.d.part a.tower with
        | some p => p.halt.phase == .running && p.debugHalted.isEmpty
        | none => false
      if !runs || !(c.status == .running) || a.watchdog != 0 then none
      else
        let far := (w.d.farArrival a).bind fun b => w.d.crew b.crew
        some ((w.mod fun d => d.withdraw [crew]).raise
          { c.fault .pairTimeout a.iaddr a.lanes with peer := (far.map fun c => c.place.gid).getD 0xFFFFFF })
    | _, _ => none

/-! ## Tile moves (R336 to R338) -/

/-- The rows a MACL or MACS names, its operands checked (R336). -/
def Iss.tileRows (i : Iss) (w : Work) (o : OpTileMem) (a : Acc) (k : Bool → List (List BRef) → Work → Res) : Res :=
  let v := (i.val o.b.toNat i.l0).toNat
  let f64 := bit 32 v
  let pitch := v % 2 ^ 32
  let row := if f64 then 256 else 128
  let ea := i.ea0 o.a.toNat (sext o.off)
  if 2 ^ 33 ≤ v || (f64 && o.tile.toNat % 2 == 1) || pitch % row != 0 then .fault (i.fault .badTileOperand)
  else if ea % 8 != 0 then .fault (i.misaligned .misaligned o.space.toNat [(i.l0, ea)])
  else i.find w a o.space.toNat row ((List.range 32).map fun m => (i.l0, (ea + m * pitch) % 2 ^ 64)) fun ls w => k f64 (ls.map (·.refs)) w

/-- A tile move issued: accepted by the core's engine (R324). -/
def Iss.startTile (i : Iss) (w : Work) (k : MxKind) (regs : List Nat) (la : Nat) : Res :=
  (i.mxRoom w).bind fun w => (i.mxQueueRoom w).bind fun w =>
    let (id, w) := i.newOp (w.bindTeam i.c) 4 .matrix regs la
    .ok (w.accept i.c.place.tower i.c.place.core { kind := k, op := id, crew := i.cu.crew })

/-- MACL (R336). -/
def execMacl (o : OpTileMem) (s : State) : Out :=
  issue s o.g { reads := [o.a.toNat, o.b.toNat], slots := .kernel, home := true, values := true } fun i w =>
    (i.ready w).bind fun w => i.tileRows w o .load fun f64 refs w => i.startTile w (.macl o.tile.toNat f64 refs) [] 0

/-- MACS (R336). -/
def execMacs (o : OpTileMem) (s : State) : Out :=
  issue s o.g { reads := [o.a.toNat, o.b.toNat], slots := .kernel, home := true, values := true } fun i w =>
    (i.ready w).bind fun w => i.tileRows w o .store fun f64 refs w => i.startTile w (.macs o.tile.toNat f64 refs) [] 0

/-- MACZ (R337). -/
def execMacz (o : OpMacz) (s : State) : Out :=
  issue s o.g { slots := .kernel, home := true } fun i w =>
    (i.ready w).bind fun w =>
      if 63 < o.tile.toNat + o.ntm1.toNat then .fault (i.illegal .badValue)
      else i.startTile w (.macz o.tile.toNat (o.ntm1.toNat + 1)) [] 0

/-- RSTAT (R338): its registers are pending (R240). -/
def execRstat (o : OpRstat) (s : State) : Out :=
  let rs := [o.d.toNat, o.d.toNat + 1, o.d.toNat + 2]
  issue s o.g { writes := rs, pends := true, slots := .kernel, home := true, values := true } fun i w =>
    (i.ready w).bind fun w => i.startTile w (.rstat o.tile.toNat o.d.toNat) rs o.la.toNat

/-- GANG (R329). -/
def execGang (o : OpXA) (s : State) : Out :=
  issue s o.g { reads := [o.a.toNat], slots := .kernel, home := true, values := true } fun i w =>
    (i.ready w).bind fun w =>
      let v := (i.val o.a.toNat i.l0).setWidth 33
      match w.d.teamOf i.c with
      | none => .ok w
      | some t =>
        if gangValid v i.c.index t.crews.length then .ok (i.mod (w.bindTeam i.c) fun c => { c with sp := { c.sp with gangr := v } })
        else .fault (i.fault .badGang)

/-- MSCL (R332). -/
def execMscl (o : OpMscl) (s : State) : Out :=
  issue s o.g { slots := .kernel, home := true } fun i w =>
    (i.ready w).bind fun w => .ok (i.mod (w.bindTeam i.c) fun c => { c with sa := o.sa.toNat, sb := o.sb.toNat })

/-! ## The baton (R339) -/

/-- The crew the baton passes to from a holder: the next one that is not done, `none` for no crew. -/
def Dev.nextHolder (d : Dev) (t : Team) : Option Nat :=
  let n := t.crews.length
  ((List.range n).map fun i => (t.baton + 1 + i) % n).find? fun m => match t.crews[m]? with
    | some c => !d.crewEnded c
    | none => false

/-- HOLDER where it names no crew. -/
def noHolder : Nat := 32

/-- A baton whose holder is done passed on. -/
def Work.batonCheck (w : Work) (t : Team) : Work :=
  match t.crews[t.baton]? with
  | none => w
  | some c => if w.d.crewEnded c then w.mod fun d => d.modTeam t.id fun t => { t with baton := (d.nextHolder t).getD noHolder } else w

/-- BTAKE (R339). -/
def execBtake (o : OpXG) (s : State) : Out :=
  issue s o.g { slots := .kernel, home := true } fun i w =>
    (i.ready w).bind fun w => match w.d.teamOf i.c with
    | none => .ok w
    | some t => let w := w.bindTeam i.c; .ok (if t.baton == i.c.index then w else i.wait w .baton)

/-- BPASS (R339). -/
def execBpass (o : OpBpass) (s : State) : Out :=
  issue s o.g { slots := .kernel, home := true } fun i w =>
    (i.ready w).bind fun w => match w.d.teamOf i.c with
    | none => .ok w
    | some t =>
      if t.baton != i.c.index then .fault (i.fault .batonNotHeld)
      else if (w.d.latch t).any fun a => a.crew == i.cu.crew && (gangMembers a.gangr).head? == some a.index then .fault (i.gangFault w .batonBusy)
      else
        let pass := fun (n : Nat) => Res.ok ((w.bindTeam i.c).mod fun d => d.modTeam t.id fun t => { t with baton := n })
        if o.expl then
          match t.crews[o.tgt.toNat]? with
          | some c => if w.d.crewEnded c then .fault (i.fault .badBatonTarget) else pass o.tgt.toNat
          | none => .fault (i.fault .badBatonTarget)
        else pass ((w.d.nextHolder t).getD noHolder)

/-! ## Register transfer (R342) -/

/-- NLS (R342): without a credit it waits before issue. -/
def execNls (o : OpNls) (s : State) : Out :=
  issue s o.g { reads := [o.a.toNat], slots := .kernel, home := true, values := true } fun i w =>
    (i.ready w).bind fun w => i.neighbour w o.dir.toNat fun _ w =>
      let t := i.c.place.tower
      let k := i.c.place.core
      if (w.d.core t k).credits.getD o.dir.toNat 0 == 0 then .again i.w0 (.credit o.dir.toNat)
      else (i.startTile w (.nls o.dir.toNat (i.c.reg o.a.toNat).all) [] 0).bind fun w =>
        .ok (w.mod fun d => d.modCore t k fun c => { c with credits := setNth 0 c.credits o.dir.toNat (· - 1) })

/-- NLR (R342): it waits for an entry, writes the register and retires at that write. While it waits it is accepted and counted, and its
register counts as G (R204, R324). -/
def execNlr (o : OpNlr) (s : State) : Out :=
  issue s o.g { writes := [o.d.toNat], slots := .kernel, home := true, values := true } fun i w =>
    (i.ready w).bind fun w => i.neighbour w o.dir.toNat fun _ w => (i.mxRoom w).bind fun w => (i.mxQueueRoom w).bind fun w =>
      let t := i.c.place.tower
      let k := i.c.place.core
      match (w.d.core t k).nq.getD o.dir.toNat [] with
      | [] =>
        if (i.crew w).wouldExceed { writes := [o.d.toNat] } then .fault (i.fault .shapeOverflow)
        else
          let (id, w) := i.newOp (w.bindTeam i.c) 4 (.receive o.dir.toNat) [] 0
          .ok (i.wait w (.neighbour o.dir.toNat id) none [o.d.toNat])
      | e :: r =>
        (i.put w o.d.toNat (.gen e)).bind fun w =>
          .ok (((i.newOp (w.bindTeam i.c) 4 .instant [] 0 true).2).mod fun d => d.modCore t k fun c => { c with nq := setNth [] c.nq o.dir.toNat fun _ => r })

/-- The oldest entry of a core's queue taken by an NLR that waited for it (R342). -/
def Work.receive (w : Work) (dir op reg : Nat) : Work :=
  match w.d.op op with
  | none => w
  | some o =>
    match w.d.crew o.crew with
    | none => w
    | some c =>
      match (w.d.core c.place.tower c.place.core).nq.getD dir [] with
      | [] => w
      | e :: r =>
        let w := w.mod fun d => d.modCore c.place.tower c.place.core fun y => { y with nq := setNth [] y.nq dir fun _ => r }
        ((w.writeLate o reg fun l => e.getD l 0).opDone op).settle

/-- A MACS that has taken its tile and has still to write it (R324). -/
def MxOp.taken (x : MxOp) : Bool :=
  match x.kind with
  | .macs .. => x.bytes.isSome
  | _ => false

/-- The place in an engine's queue of the oldest operation that has not had its effect on the accumulator store (R324). -/
def Core.mxHead (c : Core) : Nat := c.mxq.findIdx fun x => !x.taken

/-- NL_ENTRY_ARRIVE (R342): the oldest operation of a core's engine is an NLS: its entry reaches the far queue. -/
def execNlEntryArrive (t k : Nat) (s : State) : Out :=
  event s fun w =>
    let core := w.d.core t k
    match core.mxq[core.mxHead]? with
    | some x =>
      match x.kind with
      | .nls dir data =>
        if !w.d.engineRuns t k .matrix then none
        else match neighbourCore k dir with
          | none => none
          | some far =>
            let w := w.mod fun d => (d.modCore t k fun c => { c with mxq := c.mxq.eraseIdx core.mxHead }).modCore t far fun c =>
              { c with nq := setNth [] c.nq (oppositeDir dir) fun q => q ++ [data] }
            some (w.opDone x.op).settle
      | _ => none
    | none => none

/-- The credits of a core toward a neighbour that are on their way back (R342): of 8, those not held, not in flight and not
in the far queue. -/
def Dev.creditsBack (d : Dev) (t k dir : Nat) : Nat :=
  let c := d.core t k
  let far := match neighbourCore k dir with
    | some f => ((d.core t f).nq.getD (oppositeDir dir) []).length
    | none => 0
  let flying := (c.mxq.filter fun x => match x.kind with | .nls y _ => y == dir | _ => false).length
  8 - (c.credits.getD dir 0 + far + flying)

/-- NL_CREDIT_RETURN (R342). -/
def execNlCreditReturn (t k dir : Nat) (s : State) : Out :=
  event s fun w =>
    if dir < 4 && 0 < w.d.creditsBack t k dir then
      some (w.mod fun d => d.modCore t k fun c => { c with credits := setNth 0 c.credits dir (· + 1) })
    else none

/-! ## Execution (R324, R331) -/

/-- The elements a row of bytes holds. -/
def rowElems (f64 : Bool) (bs : List Byte) : List Nat :=
  (List.range 32).map fun n => if f64 then leNat ((bs.drop (8 * n)).take 8) else leNat ((bs.drop (4 * n)).take 4)

/-- The bytes of row m of a tile. -/
def Core.rowBytes (c : Core) (tile m : Nat) (f64 : Bool) : List Byte :=
  (List.range 32).flatMap fun n => if f64 then natLe 8 (c.acc64 tile m n) else natLe 4 (c.acc32 tile m n)

/-- An accepted operation over: it and those that retire with it are complete, with its flags on its own (R326, R330). -/
def Work.mxDone (w : Work) (x : MxOp) (fl : Flags) : Work :=
  let w := w.mod fun d => d.modOp x.op fun o => { o with flags := o.flags ||| fl }
  (x.others.foldl (fun w o => w.opDone o.1) (w.opDone x.op)).settle

/-- An accepted operation ended by an uncorrectable error: the record names its instruction (R75, R326). -/
def Work.mxError (w : Work) (x : MxOp) (f : FaultInfo) : Work :=
  let o := w.d.op x.op
  (w.mxDone x fNone).raisePaired o { f with
    crew := ((w.d.crew x.crew).map fun c => c.place.gid).getD 0xFFFFFF
    iaddr := (o.map (·.iaddr)).getD 0, lanes := (o.map (·.lanes)).getD 0 }

/-- The tiles an operation reads, and those it writes whole (R323, R331, R336 to R338). -/
def MxKind.tiles (k : MxKind) : List Nat × List Nat :=
  match k with
  | .mma tile _ clr _ cplx a _ _ _ _ _ =>
    let ts := (List.range ((if a.format == .fp64 then 2 else 1) * (if cplx then 2 else 1))).map (tile + ·)
    (if clr then [] else ts, ts)
  | .macl tile f64 _ => ([], if f64 then [tile, tile + 1] else [tile])
  | .macs tile f64 _ => (if f64 then [tile, tile + 1] else [tile], [])
  | .macz tile n => ([], (List.range n).map (tile + ·))
  | .rstat tile _ => ([tile], [])
  | .nls .. => ([], [])

/-- The operations of an engine that may go on, by their place in its queue: the oldest one that has not had its effect on the store, unless
it is an NLS; any MACL that has not read; and any MACS that has taken its tile (R324). -/
def Core.mxTurns (c : Core) : List Nat :=
  (List.range c.mxq.length).filter fun i => match c.mxq[i]? with
    | none => false
    | some x => match x.kind with
      | .nls .. => false
      | .macl .. => x.bytes.isNone || i == c.mxHead
      | _ => x.taken || i == c.mxHead

/-- The operation that goes on, by its place in the queue: the only one that may, or one of several in no order that the spec fixes (R324,
assumption 54); `free` numbers the choice. -/
def Core.mxNext (c : Core) (free : Nat) : Option Nat :=
  match c.mxTurns with
  | [] => none
  | [i] => some i
  | is => is[Config.mxTurn free % is.length]?

/-- What the rows that an operation of an engine names come to when it accesses them: translated anew (R46), and held back by a shootdown or
by an older message of the core on their path (R44, R62, R63, R66), or ended by a failed check, a link that is down or an uncorrectable error
(R31, R70, R75). -/
inductive EngineRows where
  | ok (c : Crew) (rows : List (List BRef))
  | fails (f : FaultInfo)
  | held

/-- See `EngineRows`; `at_` is the record a fault is made of. -/
def Work.engineRows (w : Work) (t k crew : Nat) (at_ : FaultInfo) (a : Acc) (refs : List (List BRef)) : EngineRows :=
  match w.d.crew crew with
  | none => .held
  | some c =>
    match w.d.engineWho c with
    | none => .held
    | some q =>
      match w.afreshRows q a refs with
      | .held => .held
      | .bad why tensor va =>
        .fails { at_ with reason := .violation, aform := 1, addr := BitVec.ofNat 64 va, viol := some { tensor := tensor, why := why, access := a.code } }
      | .ok rows =>
        if w.passes t k rows.flatten then .held
        else match w.d.linkFor t rows.flatten, w.d.meetsBad (a == .store) rows.flatten with
          | some l, _ => .fails { at_ with reason := .linkDown, engine := .link, unit := l }
          | none, some b => .fails { placeFault b.key b.tag t k with crew := at_.crew, iaddr := at_.iaddr, lanes := at_.lanes }
          | none, none => .ok c rows

/-- MX_OPERATION_COMPLETE (R324, R331, R336 to R338): one accepted operation of a core's engine goes on: a MACL reads memory or a MACS
writes it, in any order; and the oldest that has not had its effect on the accumulator store takes it. -/
def execMxOperationComplete (t k : Nat) (s : State) : Out :=
  event s fun w =>
    let core := w.d.core t k
    let i := (core.mxNext w.d.free).getD core.mxq.length
    match core.mxq[i]? with
    | some x =>
      if !w.d.engineRuns t k .matrix then none
      else
        let w := if core.mxTurns.length ≤ 1 then w else w.freeAt.2
        let took := fun (w : Work) (f : Core → Core) => w.mod fun d => d.modCore t k fun c =>
          f { c with mxq := c.mxq.eraseIdx i, badAcc := c.badAcc.filter fun n => !x.kind.tiles.2.contains n }
        let keep := fun (w : Work) (bs : List (List Byte)) => w.mod fun d => d.modCore t k fun c =>
          { c with mxq := c.mxq.modify i fun y => { y with bytes := some bs } }
        let drop := fun (w : Work) => w.mod fun d => d.modCore t k fun c => { c with mxq := c.mxq.eraseIdx i }
        let at_ : FaultInfo := { reason := .none, engine := .matrix, tower := t, unit := k }
        let touch := fun (c : Crew) (w : Work) (refs : List (List BRef)) => w.touch t k 0 (w.d.gridId c) refs.flatten
        match x.kind.tiles.1.find? fun n => !x.taken && core.badAcc.contains n with
        | some n => some ((drop w).mxError x { reason := .uncorrectable, engine := .matrix, tower := t, unit := k, aform := 4, addr := BitVec.ofNat 64 n })
        | none =>
          match x.kind, x.bytes with
          | .mma tile km1 clr skip cplx a b slabs sa sb sk, _ =>
            let res := core.mma tile km1 clr skip cplx a b slabs sa sb sk
            some ((took w fun c => { c with acc := res.1.acc }).mxDone x res.2)
          | .macl _ _ refs, none =>
            match w.engineRows t k x.crew at_ .load refs with
            | .held => none
            | .fails f => some ((drop w).mxError x f)
            | .ok c rows => some (keep (touch c w rows) (rows.map fun row => row.map fun y => w.get y.key))
          | .macl tile f64 _, some rows =>
            let cells := (rows.mapIdx fun m row => (rowElems f64 row).mapIdx fun n v =>
              if f64 then [(tile, m, n, v % 2 ^ 32), (tile + 1, m, n, v / 2 ^ 32)] else [(tile, m, n, v)]).flatten.flatten
            some ((took w fun c => c.putAcc cells).mxDone x fNone)
          | .macs tile f64 refs, none => some (keep w (refs.mapIdx fun m _ => core.rowBytes tile m f64))
          | .macs _ _ refs, some rows =>
            match w.engineRows t k x.crew at_ .store refs with
            | .held => none
            | .fails f => some ((drop w).mxError x f)
            | .ok c at_ => some ((((drop (touch c w at_)).apply (at_.zip rows |>.flatMap fun p => p.1.zip p.2)).dropL1 t k (lineTags at_.flatten)).mxDone x fNone)
          | .macz tile n, _ =>
            some ((took w fun c => { c with acc := c.acc.filter fun e => !(decide (tile * 1024 ≤ e.1) && decide (e.1 < (tile + n) * 1024)) }).mxDone x fNone)
          | .rstat tile reg, _ =>
            match w.d.op x.op with
            | none => none
            | some o =>
              let st := (List.range 32).map fun m => core.rowStat tile m
              let w := drop w
              let w := w.writeLate o reg fun m => BitVec.ofNat 64 (st.getD m (0, 0, 0, 0)).1
              let w := w.writeLate o (reg + 1) fun m => BitVec.ofNat 64 (st.getD m (0, 0, 0, 0)).2.1
              let w := w.writeLate o (reg + 2) fun m => BitVec.ofNat 64 (st.getD m (0, 0, 0, 0)).2.2.1
              some (w.mxDone x ((maskLanes o.lanes).foldl (fun f m => f ||| (st.getD m (0, 0, 0, 0)).2.2.2) fNone))
          | .nls .., _ => none
    | none => none

end Sys2Proof.Machine
end

