-- ==== Sys2Proof/Machine/KilnArr.lean ====
section
/-! DEFINITION. KilnArr: the Kiln arrays: Sigmoid16, sweeps by colour phases, the Kiln instructions, ghost bindings and
snapshots, the publish of a window, the Cone monitor and quarantine (17_kiln_arrays.md, R173). -/

namespace Sys2Proof.Machine

/-! ## The update rule (R345 to R349) -/

/-- 2^16 ÷ (1 + e^−x) rounded to the nearest integer by an interval at `p` fraction bits. -/
def sigm16 (p : Nat) (neg : Bool) (m : Nat) (e : Int) : Option Nat :=
  let i := ivSigm p neg m e
  let a := (roundInt .rne false i.lo (i.e + 16) true).1
  let b := (roundInt .rne false (i.lo + i.w) (i.e + 16) true).1
  if a == b then some a.toNat else none

/-- Sigmoid16(β, I) (R345), β as FP16 bits (assumption 12). -/
def sigmoid16 (beta : Nat) (inp : Int) : Nat :=
  match Fmt.fp16.value beta with
  | .fin n m e =>
    if m * inp.natAbs == 0 then 32768
    else
      let neg := n != decide (inp < 0)
      let p := match sigm16 256 neg (m * inp.natAbs) e with
        | some v => v
        | none => (sigm16 640 neg (m * inp.natAbs) e).getD (Config.undecided 9 beta (ofSigned 32 inp) % 65536)
      Nat.min p 65535
  | _ => 32768

/-- Cells from `lo` up to `hi` replaced by new ones; a cell of the default 0 is not listed. -/
def Cells.replace (c : Cells) (lo hi : Nat) (new_ : Cells) : Cells :=
  (c.filter fun e => !(decide (lo ≤ e.1) && decide (e.1 < hi))) ++ new_.filter fun e => e.2 != 0

/-- State of a node as ±1. -/
def Kiln.spin (k : Kiln) (i : Nat) : Int := if getA k.s i 0 == 1 then 1 else -1

/-- State of a ghost: ±1, or 0 when unbound (R344). -/
def ghostSpin (v : Nat) : Int := if v == 2 then 1 else if v == 1 then -1 else 0

/-- The input of a node (R346). -/
def Kiln.input (k : Kiln) (i : Nat) : Int :=
  ((k.j.filter fun e => e.1 / 256 == i && e.1 % 256 != i && decide (e.1 % 256 < k.nnodes)).map fun e => toSigned 8 e.2 * k.spin (e.1 % 256)).sum
    + ((k.jg.filter fun e => e.1 / 32 == i).map fun e => toSigned 8 e.2 * ghostSpin (getA k.gs (e.1 % 32) 0)).sum
    + toSigned 16 (getA k.h i 0)

/-- The nodes due in a colour phase, ascending (R346). -/
def Kiln.due (k : Kiln) (c : Nat) : List Nat := (List.range k.nnodes).filter fun i => getA k.col i 0 == c && getA k.clm i 0 == 0

/-- Entries of a replay table that a sweep consumes (R348). -/
def Kiln.entries (k : Kiln) : Nat := ((List.range k.ncol).map fun c => (k.due c).length).sum

/-- Whether two live, unclamped nodes of one colour below NCOL are coupled (R346). -/
def Kiln.coupled (k : Kiln) : Bool :=
  k.j.any fun e =>
    let i := e.1 / 256
    let j := e.1 % 256
    let on := fun (n : Nat) => decide (n < k.nnodes) && getA k.clm n 0 == 0 && decide (getA k.col n 0 < k.ncol)
    i != j && e.2 != 0 && on i && on j && getA k.col i 0 == getA k.col j 0

/-- The array index of replay-keyed mode (R344). -/
def Work.arrayId (w : Work) (t k : Nat) : Nat := ((w.d.core t k).kiln.arrayid).getD (w.logicalId t k % 2 ^ 16)

/-- The key of an entry of a replay table in TOWNER's allotment (R347). -/
def Work.kilnEntry (w : Work) (t k n : Nat) : Nat :=
  let x := (w.d.core t k).kiln
  granKey t k (((x.towner.bind w.d.team).map (·.gran)).getD []) (x.tbase + 2 * n)

/-- Whether the nodes of a phase take +1 (R346, R347). In physical mode each is a free value (R349; assumption 15). -/
def Work.kilnNodes (w : Work) (t k c : Nat) : List (Nat × Bool) × Work :=
  let x := (w.d.core t k).kiln
  let due := x.due c
  match x.mode with
  | 0 => let (n, w) := w.freeAt; (due.map fun i => (i, Config.kilnNode n i), w)
  | 1 =>
    let id := w.arrayId t k
    (due.map fun i =>
      let u := u16 (vk64 (BitVec.ofNat 64 (x.swp * 2 ^ 24 + id * 2 ^ 8 + i)) x.key0 x.key1)
      (i, decide (u < sigmoid16 x.beta (x.input i))), w)
  | _ =>
    (due.mapIdx fun n i => (i, decide (w.num (w.kilnEntry t k (x.tpos + n)) 2 < sigmoid16 x.beta (x.input i))),
     w.mod fun d => d.modCore t k fun y => { y with kiln := { y.kiln with tpos := y.kiln.tpos + due.length } })

/-- The oldest snapshots of each binding that are no longer needed discarded, and the ghosts latched (R353). -/
def Kiln.latch (x : Kiln) : Kiln :=
  x.bindings.foldl (fun x b =>
    let good := b.snaps.filter fun s => genReached s.1 (x.swp + 2 ^ 32 - b.stale)
    let pick := if x.mode == 0 then good.getLast? else good.head?
    match pick with
    | none => x
    | some p =>
      let kept := b.snaps.dropWhile fun s => s != p
      { x with
        gs := x.gs.replace b.g0 (b.g0 + b.n) (p.2.mapIdx fun j v => (b.g0 + j, v + 1))
        bindings := x.bindings.map fun y => if y.id == b.id then { y with snaps := kept } else y }) x

/-! ## The instructions (R350 to R352) -/

/-- Operations an array's or a tile's queue holds (R351, R360). -/
def samplerQueue : Nat := 16

/-- MODE, TOWNER and the bound ghost ranges as the operations issued so far will leave them (R351). -/
def Kiln.issued (x : Kiln) : Nat × Option Nat × List (Nat × Nat) :=
  x.queue.foldl (fun (m, o, gs) q =>
    match q.kind with
    | .configure cfg _ _ _ team =>
      let v := cfg.toNat
      (v % 4, if v % 4 == 2 then some team else o, if bit 32 v then [] else gs)
    | .bind g0 n _ _ _ => (m, o, gs ++ [(g0, n)])
    | .unbind g0 n => (m, o, gs.filter fun r => !(decide (g0 ≤ r.1) && decide (r.1 + r.2 ≤ g0 + n)))
    | _ => (m, o, gs)) (x.mode, x.towner, x.bindings.map fun b => (b.g0, b.n))

/-- A Kiln instruction (R351): its checks on the array of the crew's core. -/
def kilnInstr (g : Guard) (u : Use) (s : State) (body : Iss → Kiln → Work → Res) : Out :=
  issue s g { u with slots := .kernel, home := true, values := true } fun i w =>
    (i.ready w).bind fun w =>
      let x := (w.d.core i.c.place.tower i.c.place.core).kiln
      if x.quarantined then .fault (i.fault .quarantined) else body i x w

/-- An operation accepted by the array of the crew's core (R351). -/
def Iss.startKiln (i : Iss) (w : Work) (kind : KilnKind) (regs : List Nat) (la : Nat) : Res :=
  let t := i.c.place.tower
  let k := i.c.place.core
  (i.room w 5 1).bind fun w =>
    if samplerQueue ≤ (w.d.core t k).kiln.queue.length then .again i.w0 (.room .kiln 1)
    else
      let (id, w) := i.newOp (w.bindTeam i.c) 5 .sampler regs la
      let q : KilnOp := { kind := kind, op := id, crew := i.cu.crew, team := i.c.team }
      .ok (w.mod fun d => d.modCore t k fun y => { y with kiln := { y.kiln with queue := y.kiln.queue ++ [q] } })

/-- The operand of the lowest active lane. -/
def Iss.opnd (i : Iss) (r : Nat) : Nat := (i.val r i.l0).toNat

/-- KCPL (R352). -/
def execKcpl (o : OpKcpl) (s : State) : Out :=
  kilnInstr o.g { reads := [o.a.toNat, o.b.toNat] } s fun i _ w =>
    let ea := i.opnd o.a.toNat
    let c := i.opnd o.b.toNat
    let n := o.nm1.toNat + 1
    if ea % 8 != 0 then .fault (i.misaligned .misaligned o.space.toNat [(i.l0, ea)])
    else if 2 ^ 32 ≤ c || c % 8 != 0 || decide (c < 288) then .fault (i.fault .badKilnOperand)
    else i.find w .load o.space.toNat 288 ((List.range n).map fun r => (i.l0, (ea + r * c) % 2 ^ 64)) fun ls w =>
      i.startKiln w (.couplings o.row0.toNat n (ls.map (·.refs))) [] 0

/-- KBIAS (R352). -/
def execKbias (o : OpKbias) (s : State) : Out :=
  kilnInstr o.g { reads := if o.bonly then [o.b.toNat] else [o.a.toNat, o.b.toNat] } s fun i _ w =>
    let beta := i.opnd o.b.toNat % 2 ^ 16
    let ea := i.opnd o.a.toNat
    match Fmt.fp16.value beta with
    | .fin .. =>
      if o.bonly then i.startKiln w (.bias beta []) [] 0
      else if ea % 8 != 0 then .fault (i.misaligned .misaligned o.space.toNat [(i.l0, ea)])
      else i.find0 w .load o.space.toNat 512 ea fun x w => i.startKiln w (.bias beta x.refs) [] 0
    | _ => .fault (i.fault .badInverseTemp)

/-- Lanes 0 to 3 of a register (R352). -/
def Iss.nodeBits (i : Iss) (r : Nat) : List Word := ((i.c.reg r).all).take 4

/-- KCLMP (R352). -/
def execKclmp (o : OpXAB) (s : State) : Out :=
  kilnInstr o.g { reads := [o.a.toNat, o.b.toNat] } s fun i _ w =>
    i.startKiln w (.clamp (i.nodeBits o.a.toNat) (i.nodeBits o.b.toNat)) [] 0

/-- KCLMP, states form (R352). -/
def execKclmpStates (o : OpXB) (s : State) : Out :=
  kilnInstr o.g { reads := [o.b.toNat] } s fun i _ w => i.startKiln w (.states (i.nodeBits o.b.toNat)) [] 0

/-- KCOL (R352). -/
def execKcol (o : OpXA) (s : State) : Out :=
  kilnInstr o.g { reads := [o.a.toNat] } s fun i _ w => i.startKiln w (.colours (i.c.reg o.a.toNat).all) [] 0

/-- KSWP (R352, R348, R349, R354). -/
def execKswp (o : OpKswp) (s : State) : Out :=
  kilnInstr o.g { reads := if o.pub then [o.a.toNat, o.b.toNat] else [] } s fun i x w =>
    let n := o.nm1.toNat + 1
    let win := if o.pub then i.opnd o.b.toNat % 2 ^ 32 else 0
    let (mode, owner, _) := x.issued
    if o.pub && (win == 0 || n % win != 0) then .fault (i.fault .badKilnOperand)
    else if mode == 0 && (w.d.cmr i.c).getLsbD 6 then .fault (i.fault .nonReproducible)
    else if mode == 2 && owner != some i.c.team then .fault (i.fault .replayNotOwned)
    else i.startKiln w (.sweep n win o.fin (i.val o.a.toNat i.l0)) [] 0

/-- KCNT (R352): its registers are pending (R240). -/
def execKcnt (o : OpKcnt) (s : State) : Out :=
  let rs := (List.range 4).map (o.d.toNat + ·)
  kilnInstr o.g { writes := rs, pends := true } s fun i _ w => i.startKiln w (.counts o.d.toNat o.clr) rs o.la.toNat

/-- KRDS (R352). -/
def execKrds (o : OpXD) (s : State) : Out :=
  kilnInstr o.g { writes := [o.d.toNat], pends := true } s fun i _ w => i.startKiln w (.readState o.d.toNat) [o.d.toNat] o.la.toNat

/-- KMODE, configure (R352, R349). -/
def execKmodeConfigure (o : OpXAB) (s : State) : Out :=
  kilnInstr o.g { reads := [o.a.toNat, o.b.toNat] } s fun i _ w =>
    let c := i.opnd o.b.toNat
    let a := i.opnd o.a.toNat
    let go := fun (w : Work) => i.startKiln w (.configure (i.val o.b.toNat i.l0) (i.val o.a.toNat i.l0) i.c.sp.key0 i.c.sp.key1 i.c.team) [] 0
    if c % 4 == 3 || bits 15 13 c != 0 || 2 ^ 33 ≤ c then .fault (i.fault .badKilnOperand)
    else if c % 4 == 0 && (w.d.cmr i.c).getLsbD 6 then .fault (i.fault .nonReproducible)
    else if c % 4 != 2 then go w
    else if a % 2 != 0 || bits 31 18 a != 0 || 2 ^ 49 ≤ a then .fault (i.fault .badKilnOperand)
    else if bits 48 32 a == 0 then go w
    else i.find0 w .load 2 (2 * bits 48 32 a) (bits 17 0 a) fun _ w => go w

/-- KBND (R352). -/
def execKbnd (o : OpKbnd) (s : State) : Out :=
  kilnInstr o.g { reads := [o.a.toNat, o.b.toNat] } s fun i x w =>
    let g0 := o.g0.toNat
    let n := o.nm1.toNat + 1
    let p := i.opnd o.b.toNat % 2 ^ 16
    let t := i.c.place.tower
    let k := i.c.place.core
    let held := x.issued.2.2
    match (w.d.part t).bind fun q => (w.logical q)[p]? with
    | none => .fault (i.fault .badPartner)
    | some (pt, pk) =>
      if (pt == t && pk == k) || (w.d.core pt pk).kiln.quarantined then .fault (i.fault .badPartner)
      else if held.any fun r => decide (r.1 < g0 + n) && decide (g0 < r.1 + r.2) then .fault (i.fault .ghostBusy)
      else if 4 ≤ held.length then .fault (i.fault .bindingFull)
      else i.find0 w .load 2 n (i.opnd o.a.toNat) fun y w => i.startKiln w (.bind g0 n p y.refs o.s.toNat) [] 0

/-- KBND, unbinding (R352). -/
def execKbndUnbind (o : OpKunb) (s : State) : Out :=
  kilnInstr o.g {} s fun i x w =>
    let g0 := o.g0.toNat
    let n := o.nm1.toNat + 1
    let cut := fun (r : Nat × Nat) => decide (r.1 < g0 + n) && decide (g0 < r.1 + r.2) && !(decide (g0 ≤ r.1) && decide (r.1 + r.2 ≤ g0 + n))
    if x.issued.2.2.any cut then .fault (i.fault .ghostBusy) else i.startKiln w (.unbind g0 n) [] 0

/-! ## Execution (R351, R352) -/

/-- The array of a core changed. -/
def Work.modKiln (w : Work) (t k : Nat) (f : Kiln → Kiln) : Work := w.mod fun d => d.modCore t k fun y => { y with kiln := f y.kiln }

/-- The operation at the head of an array's queue is over. -/
def Work.endKiln (w : Work) (t k op : Nat) : Work :=
  ((w.modKiln t k fun x =>
    { x with queue := x.queue.filter fun q => q.op != op, phase := none, stalled := false, wcnt := [], wdone := 0, windowEnd := false
             wstalled := false, closing := none }).opDone op).settle

/-- The fault of an operation of an array or a tile (R404, R405). -/
def Work.samplerFault (w : Work) (e : Engine) (t k op : Nat) (r : Reason) : FaultInfo :=
  let f : FaultInfo := { reason := r, engine := e, tower := t, unit := k, item := op }
  match w.d.op op with
  | some o => { f with crew := ((w.d.crew o.crew).map (·.place.gid)).getD 0xFFFFFF, iaddr := o.iaddr, lanes := o.lanes }
  | none => f

/-- An uncorrectable error met by an engine read of an operation (R75). -/
def Work.samplerBad (w : Work) (t k op : Nat) (r : BRef) : FaultInfo :=
  let f := w.samplerFault .kiln t k op .uncorrectable
  { placeFault r.key r.tag t k with crew := f.crew, iaddr := f.iaddr, lanes := f.lanes }

/-- The bytes of a list of references. -/
def Work.bytesAt (w : Work) (refs : List BRef) : List Byte := refs.map fun r => w.get r.key

/-- The bits of lanes 0 to 3, one cell for each node. -/
def nodeCells (ls : List Word) : Cells :=
  (List.range 256).map fun n => (n, if (ls.getD (n / 64) 0).getLsbD (n % 64) then 1 else 0)

/-- Bindings taken away: their ghosts are 0, and their partners' registrations go (R352). -/
def Work.unbindAll (w : Work) (t k : Nat) (sel : Binding → Bool) : Work :=
  let gone := (w.d.core t k).kiln.bindings.filter sel
  let w := w.modKiln t k fun x =>
    { x with bindings := x.bindings.filter fun b => !sel b, gs := gone.foldl (fun g b => g.replace b.g0 (b.g0 + b.n) []) x.gs }
  w.mod fun d => { d with cores := d.cores.map fun e => (e.1, if e.2.kiln.subscribers.isEmpty then e.2 else
    { e.2 with kiln := { e.2.kiln with subscribers := e.2.kiln.subscribers.filter fun y => !gone.any fun b => b.id == y.id } }) }

/-- What KRDS writes into a lane (R352). -/
def Work.kilnStatus (w : Work) (t k l : Nat) : Word :=
  let x := (w.d.core t k).kiln
  let pack := fun (n : Nat) (f : Nat → Bool) => (List.range n).foldl (fun v i => v + if f i then 2 ^ i else 0) 0
  let bound := pack 32 fun g => x.bindings.any fun b => decide (b.g0 ≤ g) && decide (g < b.g0 + b.n)
  BitVec.ofNat 64 <| match l with
    | 4 => pack 32 (fun g => getA x.gs g 0 == 2) + 2 ^ 32 * bound
    | 5 => x.bindings.length * 2 ^ 32 + w.arrayId t k * 2 ^ 16 + (x.nnodes - 1) * 2 ^ 8 + bitNat x.improper * 2 ^ 5 + (x.ncol - 1) * 4 + x.mode
    | 6 => x.swp
    | 7 => x.stalls
    | 8 => x.tpos
    | l => if l < 4 then pack 64 fun i => getA x.s (64 * l + i) 0 == 1 else 0

/-- The effect of an operation other than a KSWP (R352). -/
def Work.kilnEffect (w : Work) (t k : Nat) (q : KilnOp) : Work :=
  match q.kind with
  | .couplings row0 n refs =>
    let rows := refs.map w.bytesAt
    let cells := fun (lo len wd : Nat) => (rows.mapIdx fun r bs => ((bs.drop lo).take len).mapIdx fun j b => (wd * (row0 + r) + j, b.toNat)).flatten
    w.modKiln t k fun x =>
      { x with j := x.j.replace (256 * row0) (256 * (row0 + n)) (cells 0 256 256), jg := x.jg.replace (32 * row0) (32 * (row0 + n)) (cells 256 32 32) }
  | .bias beta refs =>
    let bs := w.bytesAt refs
    let h : Cells := (List.range 256).map fun i => (i, leNat ((bs.drop (2 * i)).take 2))
    w.modKiln t k fun x => { x with beta := beta, h := if refs.isEmpty then x.h else x.h.replace 0 256 h }
  | .clamp mask vals =>
    let m := nodeCells mask
    let v := nodeCells vals
    w.modKiln t k fun x =>
      { x with clm := Cells.replace [] 0 256 m, clv := Cells.replace [] 0 256 v
               s := Cells.replace [] 0 256 ((List.range 256).map fun i => (i, if getA m i 0 == 1 then getA v i 0 else getA x.s i 0)) }
  | .states vals =>
    let v := nodeCells vals
    w.modKiln t k fun x =>
      { x with s := Cells.replace [] 0 256 ((List.range 256).map fun i => (i, if getA x.clm i 0 == 1 then getA x.s i 0 else getA v i 0)) }
  | .colours ls =>
    w.modKiln t k fun x =>
      { x with col := Cells.replace [] 0 256 ((List.range 256).map fun i => (i, (ls.getD (i / 8) 0).toNat / 2 ^ (8 * (i % 8)) % 8)) }
  | .counts reg clr =>
    match w.d.op q.op with
    | none => w
    | some o =>
      let cnt := (w.d.core t k).kiln.cnt
      let w := (List.range 4).foldl (fun w r => w.writeLate o (reg + r) fun l =>
        BitVec.ofNat 64 (getA cnt (64 * r + 2 * l) 0 + 2 ^ 32 * getA cnt (64 * r + 2 * l + 1) 0)) w
      if clr then w.modKiln t k fun x => { x with cnt := [] } else w
  | .readState reg =>
    match w.d.op q.op with
    | none => w
    | some o => w.writeLate o reg (w.kilnStatus t k)
  | .configure cfg table key0 key1 team =>
    let c := cfg.toNat
    let a := table.toNat
    let w := w.modKiln t k fun x =>
      { x with mode := c % 4, ncol := bits 4 2 c + 1, nnodes := bits 12 5 c + 1, arrayid := some (bits 31 16 c), key0 := key0, key1 := key1 }
    let w := if c % 4 == 2 then w.modKiln t k fun x => { x with tbase := bits 17 0 a, tlen := bits 48 32 a, tpos := 0, towner := some team } else w
    if bit 32 c then
      (w.unbindAll t k fun _ => true).modKiln t k fun x =>
        { x with cnt := [], swp := 0, stalls := 0, improper := false, subscribers := [], inbound := [] }
    else w
  | .bind g0 n partner refs stale =>
    let (id, w) := w.newId
    let f := w.samplerFault .kiln t k q.op .none
    let b : Binding :=
      { id := id, op := q.op, crew := f.crew, iaddr := f.iaddr, g0 := g0, n := n, partner := partner, nodes := (w.bytesAt refs).map (·.toNat), stale := stale }
    w.modKiln t k fun x => { x with bindings := x.bindings ++ [b] }
  | .unbind g0 n => w.unbindAll t k fun b => decide (g0 ≤ b.g0) && decide (b.g0 + b.n ≤ g0 + n)
  | .sweep .. => w

/-- The bytes an operation reads, by rows. -/
def KilnKind.rows (k : KilnKind) : List (List BRef) :=
  match k with
  | .couplings _ _ r => r
  | .bias _ r => [r]
  | .bind _ _ _ r _ => [r]
  | _ => []

/-- An operation with other rows. -/
def KilnKind.withRows (k : KilnKind) (rs : List (List BRef)) : KilnKind :=
  match k with
  | .couplings row0 n _ => .couplings row0 n rs
  | .bias beta _ => .bias beta (rs.headD [])
  | .bind g0 n p _ s => .bind g0 n p (rs.headD []) s
  | k => k

/-- The binding that a KBND at the head of an array's queue has begun to make (R352). -/
def Kiln.making (x : Kiln) : Option Binding :=
  (x.queue.head?).bind fun q => x.bindings.find? fun b => b.op == q.op

/-- A KBND at the head of an array's queue is over once its binding is registered and holds the first snapshot (R352, R477; assumption 73). -/
def Work.bindDone (w : Work) (t k : Nat) : Work :=
  let x := (w.d.core t k).kiln
  match x.making with
  | some b => if b.registered && !(x.inbound.any fun y => y.1 == b.id) then w.endKiln t k b.op else w
  | none => w

/-- KILN_OPERATION_EXECUTE (R351): the oldest operation of an array, other than a KSWP, executes. A KBND then waits for its partner
(R352). -/
def execKilnOperationExecute (t k : Nat) (s : State) : Out :=
  event s fun w =>
    match (w.d.core t k).kiln.queue with
    | [] => none
    | q :: _ =>
      if q.kind.isSweep || (w.d.core t k).kiln.making.isSome || !w.d.engineRuns t k .kiln then none
      else match w.engineRows t k q.crew (w.samplerFault .kiln t k q.op .none) .load q.kind.rows with
        | .held => none
        | .fails f => some ((w.endKiln t k q.op).raise f)
        | .ok c rows =>
          let w := (w.touch t k 0 (w.d.gridId c) rows.flatten).kilnEffect t k { q with kind := q.kind.withRows rows }
          some (if (w.d.core t k).kiln.making.isSome then w else w.endKiln t k q.op)

/-! ## Sweeps (R346, R353) -/

/-- The snapshots of the end of a sweep sent to every subscriber (R352, R353). -/
def Work.sendSnaps (w : Work) (t k : Nat) (subs : List Subscriber) : Work :=
  let x := (w.d.core t k).kiln
  if x.quarantined then w
  else subs.foldl (fun w y => w.modKiln y.tower y.core fun z =>
    { z with inbound := z.inbound ++ [(y.id, x.swp, y.nodes.map fun n => getA x.s n 0)] }) w

/-- One colour phase of a sweep, and after the last one the end of the sweep (R346, R354). -/
def Work.kilnPhase (w : Work) (t k c : Nat) (q : KilnOp) (left window : Nat) (fin : Bool) (cell : Word) : Work :=
  let (new_, w) := w.kilnNodes t k c
  let w := w.modKiln t k fun x =>
    { x with s := Cells.replace x.s 0 256 ((List.range 256).map fun i => (i, match new_.find? fun e => e.1 == i with
        | some e => bitNat e.2
        | none => getA x.s i 0)) }
  let x := (w.d.core t k).kiln
  if c + 1 < x.ncol then w.modKiln t k fun x => { x with phase := some (c + 1) }
  else
    let up := (List.range x.nnodes).filter fun i => getA x.s i 0 == 1
    let count := fun (l : Cells) => up.foldl (fun l i => putA l i ((getA l i 0 + 1) % 2 ^ 32)) l
    let ends := window != 0 && x.wdone + 1 == window
    let w := w.modKiln t k fun x =>
      { x with cnt := count x.cnt, wcnt := if window == 0 then [] else count x.wcnt, wdone := if window == 0 then 0 else x.wdone + 1
               swp := (x.swp + 1) % 2 ^ 32, phase := none, stalled := false, windowEnd := ends
               queue := x.queue.map fun y => if y.op == q.op then { y with kind := .sweep (left - 1) window fin cell } else y }
    let w := w.sendSnaps t k (w.d.core t k).kiln.subscribers
    if left ≤ 1 && !ends then w.endKiln t k q.op else w

/-- Whether a binding of another array still waits to be registered with this one (R352). -/
def Work.registering (w : Work) (t k : Nat) : Bool :=
  match w.d.part t with
  | none => false
  | some p =>
    let id := (w.logical p).findIdx fun c => c == (t, k)
    w.d.cores.any fun e => p.towers.contains (e.1 / 48) && e.2.kiln.bindings.any fun b => b.partner == id && !b.registered

/-- KILN_SWEEP (R346 to R349, R353): one colour phase of the KSWP at the head of an array's queue. Before the first phase the
table entries are counted, and the sweep waits for its ghost snapshots. -/
def execKilnSweep (t k : Nat) (s : State) : Out :=
  event s fun w =>
    let x := (w.d.core t k).kiln
    match x.queue with
    | [] => none
    | q :: _ =>
      match q.kind with
      | .sweep left window fin cell =>
        if !w.d.engineRuns t k .kiln || x.windowEnd then none
        else match x.phase with
          | some c => some (w.kilnPhase t k c q left window fin cell)
          | none =>
            let use := if x.mode == 2 then x.entries else 0
            let keys := (List.range use).flatMap fun n => let e := w.kilnEntry t k (x.tpos + n); [({ key := e } : BRef), { key := e + 1 }]
            if w.registering t k then none
            else if x.mode == 2 && decide (x.tlen < x.tpos + use) then
              some ((w.endKiln t k q.op).raise (w.samplerFault .kiln t k q.op .replayExhausted))
            else if !x.fresh then
              if x.stalled || ((w.d.part t).map fun p => !p.debugHalted.isEmpty).getD false then none
              else some (w.modKiln t k fun x => { x with stalled := true, stalls := (x.stalls + 1) % 2 ^ 32 })
            else match w.d.meetsBad false keys with
              | some b => some ((w.endKiln t k q.op).raise (w.samplerBad t k q.op b))
              | none =>
                let w := w.modKiln t k fun x => let x := x.latch; { x with improper := x.improper || x.coupled }
                some (w.kilnPhase t k 0 q left window fin cell)
      | _ => none

/-- Snapshots a binding retains (R353). -/
def retained : Nat := 16

/-- SNAPSHOT_ARRIVE (R353): the `i`-th snapshot on its way to an array arrives; those of one binding arrive in order. -/
def execSnapshotArrive (t k i : Nat) (s : State) : Out :=
  event s fun w =>
    let x := (w.d.core t k).kiln
    match x.inbound[i]? with
    | none => none
    | some (id, tag, st) =>
      if (x.inbound.take i).any fun y => y.1 == id then none
      else
        let put := fun (l : List (Nat × List Nat)) =>
          let l := l.filter (fun y => genReached tag y.1) ++ [(tag, st)] ++ l.filter fun y => !genReached tag y.1
          l.drop (l.length - retained)
        some ((w.modKiln t k fun x =>
          { x with inbound := x.inbound.eraseIdx i
                   bindings := x.bindings.map fun b => if b.id == id then { b with snaps := put b.snaps } else b }).bindDone t k)

/-- Registrations an array holds (R344). -/
def kilnSubscribers : Nat := 8

/-- SUBSCRIBER_REGISTER (R352): the partner of the binding at ghost `g0` of an array registers it between sweeps and sends a
first snapshot, or refuses it. -/
def execSubscriberRegister (t k g0 : Nat) (s : State) : Out :=
  event s fun w =>
    match (w.d.core t k).kiln.bindings.find? fun b => b.g0 == g0 && !b.registered, w.d.part t with
    | some b, some p =>
      match (w.logical p)[b.partner]? with
      | none => none
      | some (pt, pk) =>
        let far := (w.d.core pt pk).kiln
        if far.phase.isSome then none
        else if kilnSubscribers ≤ far.subscribers.length then
          some (((w.unbindAll t k fun y => y.id == b.id).endKiln t k b.op).raise
            { reason := .bindingFull, engine := .kiln, tower := t, unit := k, crew := b.crew, iaddr := b.iaddr })
        else
          let y : Subscriber := { tower := t, core := k, id := b.id, nodes := b.nodes }
          let w := w.modKiln t k fun x => { x with bindings := x.bindings.map fun z => if z.id == b.id then { z with registered := true } else z }
          some (((w.modKiln pt pk fun x => { x with subscribers := x.subscribers ++ [y] }).sendSnaps pt pk [y]).bindDone t k)
    | _, _ => none

/-! ## The publish of a window (R173) -/

/-- What a window end comes to: a wait for the team's last publish to retire, a hold by a shootdown or by older messages, a fault, or the
publish with STOP, the cell's key, the buffer whose gets its retirement waits for, and the machine after it. -/
inductive Published where
  | waits
  | held
  | bad (f : FaultInfo)
  | ok (stop : Bool) (key buf : Nat) (w : Work)

/-- A window's estimate written into buffer q of a team's cell and published (R173, R354, R366): `f` is the record a fault is
made of, `need` the least SIZE. -/
def Work.windowPublish (w : Work) (c : Crew) (op : Nat) (cell : Word) (payload : List Byte) (need : Nat) (final : Bool) (f : FaultInfo) : Published :=
  match w.d.teamOf c, w.d.engineWho c with
  | some t, some q =>
    let va := cell.toNat
    let f := { f with aform := 1, addr := cell }
    let bad := fun (a : Acc) (ea why tensor : Nat) => Published.bad
      { f with reason := .violation, addr := BitVec.ofNat 64 ea, viol := some { tensor := tensor, why := why, access := a.code, space := 0 } }
    match w.locate q [] .atomic 0 va (if va % 32 == 0 then 32 else 1) with
    | .bad why tensor => bad .atomic va why tensor
    | .ok refs =>
      let key := (refs.headD { key := 0 }).key
      let v := w.num key 32
      let x := VCell.ofNat v
      let open_ := (w.d.ops.any fun o => !o.done && t.crews.contains o.crew && (match o.kind with
          | .version vop k _ _ _ _ _ _ _ => k == key && (vop == .publish || vop == .final)
          | _ => false)) || w.d.deliveries.any fun y => y.key == key && y.team == t.id
      if open_ then .waits
      else if w.d.tableFull t cell then .bad { f with reason := .tileTableFull }
      else if final && !t.inputsFinal then .bad { f with reason := .prematureFinal }
      else if (w.d.meetsBad false refs).isSome then .bad { f with reason := .uncorrectable }
      else if cellBad q.x va v || decide (x.size < need) then .bad { f with reason := .malformedCell }
      else match x.mayPublish with
        | .error r => .bad { f with reason := r }
        | .ok false => .waits
        | .ok true =>
          let buf := x.base + (x.ver + 1) % 2 * x.size
          match w.locate q [] .store 0 buf payload.length with
          | .ok rs =>
            match w.d.meetsBad true rs with
            | some b => .bad { f with reason := .uncorrectable, addr := BitVec.ofNat 64 b.va }
            | none =>
              if w.passes c.place.tower c.place.core (rs ++ refs) then .held else
              let w := ((w.touch c.place.tower c.place.core 0 (w.d.gridId c) rs).apply (rs.zip payload)).dropL1 c.place.tower c.place.core (flatTag key :: lineTags rs)
              .ok x.stop key (x.ver % 2) (w.publish t key va x final op)
          | .bad why tensor => bad .store buf why tensor
          | _ => .held
    | _ => .held
  | _, _ => .held

/-- Whether an engine's last publish has retired: every reader has released the buffer of the version before, and its deliveries are taken
(R162, R168). -/
def Work.publishRetired (w : Work) (op key buf : Nat) : Bool :=
  (VCell.ofNat (w.num key 32)).rd buf == 0 && !w.d.deliveries.any fun y => y.op == op

/-- The 1280 bytes of a Kiln window (R354). -/
def Kiln.windowBytes (x : Kiln) (window : Nat) : List Byte :=
  ((List.range 256).flatMap fun i => natLe 4 (if i < x.nnodes then getA x.wcnt i 0 else 0)) ++ natLe 4 window ++ natLe 4 x.swp ++ List.replicate 248 0

/-- The window end of a Kiln array (R173, R354), whose waiting no counter of the array counts (assumption 57), and the end of a run whose last
publish has retired (R351). -/
def Work.kilnWindowEnd (w : Work) (t k : Nat) : Option Work :=
  let x := (w.d.core t k).kiln
  match x.queue with
  | q :: _ =>
    match q.kind, w.d.crew q.crew with
    | .sweep left window fin cell, some c =>
      if !x.windowEnd || !w.d.engineRuns t k .kiln || w.d.faulted t q.op then none
      else match x.closing with
      | some (key, buf) => if w.publishRetired q.op key buf then some (w.endKiln t k q.op) else none
      | none =>
        match w.windowPublish c q.op cell (x.windowBytes window) 1280 (fin && left == 0) (w.samplerFault .kiln t k q.op .none) with
        | .waits => if x.wstalled then none else some (w.modKiln t k fun x => { x with wstalled := true })
        | .held => none
        | .bad f => some (w.raise f)
        | .ok stop key buf w =>
          if !(stop || left == 0) then some (w.modKiln t k fun x => { x with windowEnd := false, wstalled := false, wcnt := [], wdone := 0 })
          else if w.publishRetired q.op key buf then some (w.endKiln t k q.op)
          else some (w.modKiln t k fun x => { x with closing := some (key, buf) })
    | _, _ => none
  | [] => none

/-! ## The Cone monitor and quarantine (R355) -/

/-- B of a window (R355). -/
def coneB (ones total : Nat) : Nat :=
  if total == 0 then 0 else (2 * (ones : Int) - total).natAbs * 65536 / (2 * total)

/-- CONE_WINDOW_END (R355): the window in progress of a core's monitor ends. The sampled ones are a free value (assumption 15). -/
def execConeWindowEnd (t k : Nat) (s : State) : Out :=
  event s fun w =>
    match w.d.part t with
    | none => none
    | some p =>
      if !w.present t k then none
      else
        let c := (w.d.core t k).cone
        let (n, w) := w.freeAt
        let b := c.injected.getD (coneB (Config.coneOnes n % (c.total + 1)) c.total)
        let w := w.mod fun d => d.modCore t k fun y =>
          { y with cone := { total := 8 * p.coneWc, window := (c.window + 1) % 2 ^ 32, injected := none } }
        if p.coneL < b && !(w.d.core t k).kiln.quarantined then
          some (w.raise { reason := .kilnHealth, engine := .cone, tower := t, unit := k, detail := b + 2 ^ 32 * (c.window + 1) })
        else some w

/-- A KMODE form of the handler slot (R351, R355). -/
def kmodeHandler (g : Guard) (checked : Bool) (s : State) (f : Nat → Nat → Work → Work) : Out :=
  issue s g { slots := .handler } fun i w =>
    (i.ready w).bind fun w =>
      let t := i.c.place.tower
      let k := i.c.place.core
      if checked && (w.d.core t k).kiln.quarantined then .fault (i.fault .quarantined)
      else (i.room w 5 1).bind fun w =>
        .ok (f t k (i.newOp w 5 .sampler [] 0 true).2)

/-- KMODE.QUAR (R355): every operation of the array completes as cancelled. -/
def execKmodeQuar (o : OpXG) (s : State) : Out :=
  kmodeHandler o.g true s fun t k w =>
    let qs := (w.d.core t k).kiln.queue
    let w := qs.foldl (fun w q => w.endKiln t k q.op) w
    w.modKiln t k fun x => { x with quarantined := true }

/-- KMODE.FREE (R355). -/
def execKmodeFree (o : OpXG) (s : State) : Out :=
  kmodeHandler o.g false s fun t k w => w.modKiln t k fun x => { x with quarantined := false }

/-- KMODE.INJECT (R355): B of the window in progress. -/
def execKmodeInject (o : OpKinj) (s : State) : Out :=
  kmodeHandler o.g true s fun t k w => w.mod fun d => d.modCore t k fun y => { y with cone := { y.cone with injected := some o.bias.toNat } }

end Sys2Proof.Machine
end

