-- ==== Sys2Proof/Machine/SlipTile.lean ====
section
/-! DEFINITION. SlipTile: the Slip tiles: the Euler–Maruyama step and its noise, sampling and window ends, the Slip
instructions, and the window end that both samplers share (18_slip_tiles.md, R173). -/

namespace Sys2Proof.Machine

/-! ## Values (R360) -/

/-- Fused a · b + s of an engine, on bits, flags gathered. -/
def engineFma (a b : Val) (acc : FRes) : FRes :=
  let r := ffma FCtl.engine .fp32 false false a b (Fmt.fp32.value acc.bits)
  ⟨r.bits, acc.fl ||| r.fl⟩

/-- A value times 2^n. -/
def Val.scale (v : Val) (n : Int) : Val :=
  match v with
  | .fin s m e => .fin s m (e + n)
  | v => v

/-- An FP32 result is NaN or of magnitude 8.0 or above (R361, R364). -/
def railed (b : Nat) : Bool :=
  match Fmt.fp32.value b with
  | .fin _ m e => !valLt (.fin false m e) (.ofInt 8)
  | _ => true

/-- An FP32 value is finite. -/
def finite32 (b : Nat) : Bool :=
  match Fmt.fp32.value b with
  | .fin .. => true
  | _ => false

/-- The 64 values of a register in the pair layout. -/
def pairValues (ls : List Word) : List Nat := (List.range 64).map fun i => (ls.getD (i / 2) 0).toNat / 2 ^ (32 * (i % 2)) % 2 ^ 32

/-- A lane of 64 values in the pair layout. -/
def pairWord (f : Nat → Nat) (l : Nat) : Word := BitVec.ofNat 64 (f (2 * l) + 2 ^ 32 * f (2 * l + 1))

/-- The leading element of a vector, +0 at or above n (R357). -/
def Slip.lead (x : Slip) (c : Cells) (i : Nat) : Nat := if i < x.nord then getA c i 0 else 0

/-- The leading element of a matrix. -/
def Slip.lead2 (x : Slip) (c : Cells) (i j : Nat) : Nat := if i < x.nord && j < x.nord then getA c (64 * i + j) 0 else 0

/-- Σ A[i][j] · v[j], fused, ascending (R363, R367). -/
def Slip.row (x : Slip) (v : Cells) (i : Nat) : FRes :=
  (List.range x.nord).foldl (fun acc j => engineFma (Fmt.fp16.value (getA x.a (64 * i + j) 0)) (Fmt.fp32.value (getA v j 0)) acc) ⟨0, fNone⟩

/-! ## Noise (R363) -/

/-- √(−2 ln u1) · cos(2π u2) for u1 = m1 · 2^−24 and u2 = m2 · 2^−24 as an interval; `none` where it is 0. -/
def ivGauss (p m1 m2 : Nat) : Option Ival :=
  if m1 == 2 ^ 24 then none
  else
    let lg : Ival := if m1 == 2 ^ Nat.log2 m1 then { neg := true, lo := (24 - Nat.log2 m1) * 2 ^ p, w := 0, e := -(p : Int) } else ivLog2 p m1 (-24)
    let l2 := ln2Fix p
    -- −2 ln u1 lies between lo and hi times 2^e, with e made even
    let lo := lg.lo * (l2 - trErr)
    let hi := (lg.lo + lg.w) * (l2 + trErr)
    let e : Int := lg.e - p + 1
    let odd := e % 2 != 0
    let lo := if odd then 2 * lo else lo
    let hi := if odd then 2 * hi else hi
    let h : Int := (if odd then e - 1 else e) / 2
    let slo := isqrt (lo * 4 ^ 64)
    let shi := isqrt (hi * 4 ^ 64) + 1
    match trigReduce true false m2 (-23) with
    | .inr (_, 0) => none
    | .inr (n, _) => some { neg := n, lo := slo, w := shi - slo, e := h - 64 }
    | .inl (cs, n, m, e') =>
      let c := ivTrig p cs n m e'
      some { neg := c.neg, lo := slo * c.lo, w := shi * (c.lo + c.w) - slo * c.lo, e := h - 64 + c.e }

/-- The keyed noise value of two VK64 results as FP32 bits, correctly rounded (R363; assumption 12). -/
def gauss (z1 z2 : Word) : Nat :=
  let m1 := z1.toNat / 2 ^ 40 + 1
  let m2 := z2.toNat / 2 ^ 40
  match ivGauss 256 m1 m2 with
  | none => 0
  | some i => match i.round FCtl.engine .fp32 with
    | some r => r.bits
    | none => match (ivGauss 640 m1 m2).bind fun i => i.round FCtl.engine .fp32 with
      | some r => r.bits
      | none => Config.undecided 10 m1 m2 % 2 ^ 32

/-- The tile index of emulation-keyed noise (R357). -/
def Work.tileId (w : Work) (t k : Nat) : Nat := ((w.d.core t k).slip.tileid).getD (w.logicalId t k % 2 ^ 16)

/-- The key of an entry of a noise table in TOWNER's allotment (R363). -/
def Work.slipEntry (w : Work) (t k n : Nat) : Nat :=
  let x := (w.d.core t k).slip
  granKey t k (((x.towner.bind w.d.team).map (·.gran)).getD []) (x.tbase + 4 * n)

/-- g[i] of the present step (R363). -/
def Work.slipNoise (w : Work) (t k i : Nat) : Nat :=
  let x := (w.d.core t k).slip
  if x.mode == 1 then
    let q := BitVec.ofNat 64 (x.step * 2 ^ 24 + w.tileId t k * 2 ^ 8 + 2 * i)
    gauss (vk64 q x.key0 x.key1) (vk64 (q ||| 1) x.key0 x.key1)
  else w.num (w.slipEntry t k (x.tpos + i)) 4

/-! ## One unit (R358, R362 to R365) -/

/-- The tile of a core changed. -/
def Work.modSlip (w : Work) (t k : Nat) (f : Slip → Slip) : Work := w.mod fun d => d.modCore t k fun y => { y with slip := f y.slip }

/-- Cells of a list of values. -/
def valueCells (l : List Nat) : Cells := (l.mapIdx fun i v => (i, v)).filter fun e => e.2 != 0

/-- The states with the leading n replaced. -/
def Slip.withX (x : Slip) (l : List Nat) : Slip := { x with x := x.x.replace 0 x.nord (l.mapIdx fun i v => (i, v)) }

/-- c = RoundTo(√(2·T·h), FP32), the constant of a run in MODE 1 and 2 (R363). -/
def Slip.noiseScale (x : Slip) : FRes := fsqrt FCtl.engine .fp32 ((Fmt.fp16.value x.temp).scale (1 - x.k))

/-- One Euler–Maruyama step (R363). -/
def Work.emulate (w : Work) (t k : Nat) : Work :=
  let x := (w.d.core t k).slip
  let e := FCtl.engine
  let cold := x.temp % 2 ^ 15 == 0
  let c := x.noiseScale
  let one := fun (i : Nat) =>
    let s := x.row x.x i
    let r := fsub e .fp32 (Fmt.fp32.value s.bits) (Fmt.fp32.value (getA x.b i 0))
    let d := fsub e .fp32 (Fmt.fp32.value (getA x.x i 0)) ((Fmt.fp32.value r.bits).scale (-(x.k : Int)))
    let fl := s.fl ||| r.fl ||| d.fl
    if cold then (⟨d.bits, fl⟩ : FRes)
    else
      let n := ffma e .fp32 false false (Fmt.fp32.value c.bits) (Fmt.fp32.value (w.slipNoise t k i)) (Fmt.fp32.value d.bits)
      ⟨n.bits, fl ||| n.fl⟩
  let rs := (List.range x.nord).map one
  w.modSlip t k fun x =>
    { x.withX (rs.map (·.bits)) with
      step := (x.step + 1) % 2 ^ 64
      tpos := if x.mode == 2 && !cold then x.tpos + x.nord else x.tpos
      flags := rs.foldl (fun f r => f ||| r.fl) x.flags }

/-- One unit of physical mode: the integrators hold free values (R358; assumption 15). -/
def Work.physical (w : Work) (t k : Nat) : Work :=
  let (n, w) := w.freeAt
  w.modSlip t k fun x => x.withX ((List.range x.nord).map fun i => (Config.slipX n i).toNat)

/-- One sample accumulated (R362). -/
def Slip.sample (x : Slip) : Slip :=
  let v := fun (i : Nat) => Fmt.fp32.value (getA x.x i 0)
  let ns := List.range x.nord
  let sx := ns.map fun i => (i, fadd FCtl.engine .fp32 (Fmt.fp32.value (getA x.sx i 0)) (v i))
  let sxx := ns.flatMap fun i => ns.map fun j => (64 * i + j, engineFma (v i) (v j) ⟨getA x.sxx (64 * i + j) 0, fNone⟩)
  let put := fun (c : Cells) (l : List (Nat × FRes)) => l.foldl (fun c e => putA c e.1 e.2.bits) c
  { x with sx := put x.sx sx, sxx := put x.sxx sxx, ns := (x.ns + 1) % 2 ^ 32
           flags := (sx ++ sxx).foldl (fun f e => f ||| e.2.fl) x.flags }

/-- SXX ÷ NS − MU · MU of the exact operands, rounded once (R365). -/
def covariance (sxx ns mi mj : Nat) : FRes :=
  let e := FCtl.engine
  let a := Fmt.fp32.value sxx
  let b := Fmt.fp32.value mi
  let c := Fmt.fp32.value mj
  if a.isNan || b.isNan || c.isNan then nanResult e .fp32 false [a, b, c]
  else match (mulVal b c).bind fun p => mulVal p (.ofInt ns) with
    | none => nanResult e .fp32 true [a, b, c]
    | some p => match sumVal .rne [a, p.negate] with
      | none => nanResult e .fp32 true [a, b, c]
      | some n => fdiv e .fp32 n (.ofInt ns)

/-- The estimate latched at a window end (R365). -/
def Slip.latch (x : Slip) : Slip :=
  let ns := List.range x.nord
  let mu := ns.map fun i => fdiv FCtl.engine .fp32 (Fmt.fp32.value (getA x.sx i 0)) (.ofInt x.ns)
  let at_ := fun (i : Nat) => (mu.getD i ⟨0, fNone⟩).bits
  let cv := ns.flatMap fun i => ns.map fun j => (64 * i + j, covariance (getA x.sxx (64 * i + j) 0) x.ns (at_ i) (at_ j))
  let keep := fun (c : Cells) => c.filter fun e => !(decide (e.1 / 64 < x.nord) && decide (e.1 % 64 < x.nord))
  { x with mu := x.mu.replace 0 x.nord (mu.mapIdx fun i r => (i, r.bits))
           cv := keep x.cv ++ (cv.map fun e => (e.1, e.2.bits)).filter fun e => e.2 != 0
           wins := (x.wins + 1) % 2 ^ 32
           flags := (mu ++ cv.map (·.2)).foldl (fun f r => f ||| r.fl) x.flags }

/-- The sums cleared (R362). -/
def Slip.clear (x : Slip) : Slip := { x with sx := [], sxx := [], ns := 0 }

/-- The first failure of the system check (R364). -/
def Slip.notPd (x : Slip) : Option (Nat × Nat) :=
  let v := fun (i j : Nat) => Fmt.fp16.value (getA x.a (64 * i + j) 0)
  let fin := fun (a : Val) => match a with | .fin .. => true | _ => false
  let ok := fun (i j : Nat) =>
    fin (v i j) && (if i == j then valLt (.ofInt 0) (v i j) else !(v j i).isNan && valEq (v i j) (v j i))
  ((List.range x.nord).flatMap fun i => (List.range x.nord).map fun j => (i, j)).find? fun p => !ok p.1 p.2

/-- The first integrator at the rail (R364). -/
def Slip.rail (x : Slip) : Option Nat := (List.range x.nord).find? fun i => railed (getA x.x i 0)

/-- The operation at the head of a tile's queue taken out of it, its flags on its operation. -/
def Work.leaveSlip (w : Work) (t k op : Nat) : Work :=
  let fl := (w.d.core t k).slip.flags
  let w := w.mod fun d => d.modOp op fun o => { o with flags := o.flags ||| fl }
  w.modSlip t k fun x =>
    { x with queue := x.queue.filter fun q => q.op != op, t := 0, running := false, flags := 0, windowEnd := false, wstalled := false
             closing := none, resettle := 0 }

/-- The operation at the head of a tile's queue is over. -/
def Work.endSlip (w : Work) (t k op : Nat) : Work := ((w.leaveSlip t k op).opDone op).settle

/-- A run ended by a fault: those behind it go on, and it retires once the halt is over (R363, R364). -/
def Work.failSlip (w : Work) (t k op : Nat) (f : FaultInfo) : Work :=
  ((w.leaveSlip t k op).modSlip t k fun x => { x with spent := x.spent ++ [op] }).raise { f with item := op }

/-- The run after a window end: its sums cleared (R362, R366). -/
def Work.windowOver (w : Work) (t k : Nat) (cum : Bool) : Work :=
  w.modSlip t k fun x => { (if cum then x else x.clear) with windowEnd := false, wstalled := false }

/-- A run that a fault has ended, and whose halt is over, is complete (R364). -/
def Work.spentSlip (w : Work) (t k : Nat) : Option Work :=
  ((w.d.core t k).slip.spent.find? fun op => !w.d.faulted t op).map fun op =>
    ((w.modSlip t k fun x => { x with spent := x.spent.filter (· != op) }).opDone op).settle

/-- SLIP_STEP (R362 to R364): one unit of the run at the head of a tile's queue; before the first the system is checked. A run that a
fault has ended retires first. -/
def execSlipStep (t k : Nat) (s : State) : Out :=
  event s fun w => (if w.d.engineRuns t k .slip then w.spentSlip t k else none).or <|
    let x := (w.d.core t k).slip
    match x.queue with
    | [] => none
    | q :: _ =>
      match q.kind with
      | .run windows settle period window pub _ cum _ _ =>
        let total := settle + windows * window
        let noisy := x.mode == 2 && x.temp % 2 ^ 15 != 0
        if !w.d.engineRuns t k .slip || x.windowEnd then none
        else match if x.running then none else x.notPd with
          | some (i, j) => some (w.failSlip t k q.op { w.samplerFault .slip t k q.op .slipNotPd with detail := i + 2 ^ 32 * j })
          | none =>
            let w := if x.running then w else w.modSlip t k fun x => 
              { (if cum then x else x.clear) with running := true, t := 0, flags := if x.mode == 0 then 0 else x.noiseScale.fl }
            if noisy && decide (x.tlen < x.tpos + x.nord) then some (w.failSlip t k q.op (w.samplerFault .slip t k q.op .noiseExhausted))
            else
              let keys := if noisy then (List.range (4 * x.nord)).map fun n => ({ key := w.slipEntry t k (x.tpos + n / 4) + n % 4 } : BRef) else []
              match w.d.meetsBad false keys with
              | some b =>
                let f := w.samplerFault .slip t k q.op .uncorrectable
                some (w.failSlip t k q.op { placeFault b.key b.tag t k with crew := f.crew, iaddr := f.iaddr, lanes := f.lanes })
              | none =>
                let w := if x.mode == 0 then w.physical t k else w.emulate t k
                let w := if x.resettle != 0 then w.modSlip t k fun x => { x with resettle := x.resettle - 1 } else w.modSlip t k fun x => { x with t := x.t + 1 }
                let y := (w.d.core t k).slip
                match y.rail with
                | some i => some (w.failSlip t k q.op { w.samplerFault .slip t k q.op .slipRail with detail := i + 2 ^ 32 * y.t })
                | none =>
                  let due := x.resettle == 0 && decide (settle < y.t) && (y.t - settle) % period == 0
                  if !due then some w
                  else
                    let w := w.modSlip t k Slip.sample
                    if (y.t - settle) % window != 0 then some w
                    else
                      let w := w.modSlip t k Slip.latch
                      some (if pub then w.modSlip t k fun x => { x with windowEnd := true }
                        else let w := w.windowOver t k cum; if total ≤ (w.d.core t k).slip.t then w.endSlip t k q.op else w)
      | _ => none

/-! ## The instructions (R359 to R362) -/

/-- MODE and TOWNER as the operations issued so far will leave them (R360). -/
def Slip.issued (x : Slip) : Nat × Option Nat :=
  x.queue.foldl (fun (m, o) q =>
    match q.kind with
    | .configure cfg _ _ _ team => (cfg.toNat % 4, if cfg.toNat % 4 == 2 then some team else o)
    | _ => (m, o)) (x.mode, x.towner)

/-- A Slip instruction (R360). -/
def slipInstr (g : Guard) (u : Use) (s : State) (body : Iss → Slip → Work → Res) : Out :=
  issue s g { u with slots := .kernel, home := true, values := true } fun i w =>
    (i.ready w).bind fun w => body i (w.d.core i.c.place.tower i.c.place.core).slip w

/-- An operation accepted by the tile of the crew's core (R360). -/
def Iss.startSlip (i : Iss) (w : Work) (kind : SlipKind) (regs : List Nat) (la : Nat) : Res :=
  let t := i.c.place.tower
  let k := i.c.place.core
  (i.room w 5 1).bind fun w =>
    if samplerQueue ≤ (w.d.core t k).slip.queue.length then .again i.w0 (.room .slip 1)
    else
      let (id, w) := i.newOp (w.bindTeam i.c) 5 .sampler regs la
      .ok (w.modSlip t k fun y => { y with queue := y.queue ++ [{ kind := kind, op := id, crew := i.cu.crew, team := i.c.team }] })

/-- GCPL (R361). -/
def execGcpl (o : OpGcpl) (s : State) : Out :=
  slipInstr o.g { reads := [o.a.toNat, o.b.toNat] } s fun i _ w =>
    let ea := i.opnd o.a.toNat
    let c := i.opnd o.b.toNat
    let n := o.nm1.toNat + 1
    if ea % 8 != 0 then .fault (i.misaligned .misaligned o.space.toNat [(i.l0, ea)])
    else if 2 ^ 32 ≤ c || c % 8 != 0 || decide (c < 128) then .fault (i.fault .badSlipOperand)
    else i.find w .load o.space.toNat 128 ((List.range n).map fun r => (i.l0, (ea + r * c) % 2 ^ 64)) fun ls w =>
      i.startSlip w (.couplings o.row0.toNat n (ls.map (·.refs))) [] 0

/-- GBIAS (R361). -/
def execGbias (o : OpGbias) (s : State) : Out :=
  slipInstr o.g { reads := if o.tonly then [o.b.toNat] else [o.a.toNat, o.b.toNat] } s fun i _ w =>
    let temp := i.opnd o.b.toNat % 2 ^ 16
    let b := pairValues (i.c.reg o.a.toNat).all
    match Fmt.fp16.value temp with
    | .fin n m _ =>
      if n && m != 0 then .fault (i.fault .badNoiseTemp)
      else if !o.tonly && b.any (fun v => !finite32 v) then .fault (i.fault .badSlipOperand)
      else i.startSlip w (.bias (temp % 2 ^ 15) (if o.tonly then none else some b)) [] 0
    | _ => .fault (i.fault .badNoiseTemp)

/-- GRUN (R362, R366). -/
def execGrun (o : OpGrun) (s : State) : Out :=
  slipInstr o.g { reads := if o.pub then [o.a.toNat, o.b.toNat] else [o.b.toNat] } s fun i x w =>
    let c := i.opnd o.b.toNat
    let period := bits 39 24 c
    let window := bits 63 40 c
    let (mode, owner) := x.issued
    if period == 0 || window == 0 || window % period != 0 then .fault (i.fault .badSlipOperand)
    else if mode == 0 && (w.d.cmr i.c).getLsbD 6 then .fault (i.fault .nonReproducible)
    else if mode == 2 && owner != some i.c.team then .fault (i.fault .noiseNotOwned)
    else i.startSlip w (.run (o.nwm1.toNat + 1) (bits 23 0 c) period window o.pub o.fin o.cum o.cov (i.val o.a.toNat i.l0)) [] 0

/-- GRDM (R365): its register is pending (R240). -/
def execGrdm (o : OpGrdm) (s : State) : Out :=
  slipInstr o.g { writes := [o.d.toNat], pends := true } s fun i _ w =>
    i.startSlip w (.readMean o.d.toNat o.sel.toNat) [o.d.toNat] o.la.toNat

/-- GRDC (R365). -/
def execGrdc (o : OpGrdc) (s : State) : Out :=
  slipInstr o.g { writes := [o.d.toNat], pends := true } s fun i _ w =>
    i.startSlip w (.readCov o.d.toNat o.row.toNat) [o.d.toNat] o.la.toNat

/-- GMODE, configure (R361). -/
def execGmodeConfigure (o : OpXAB) (s : State) : Out :=
  slipInstr o.g { reads := [o.a.toNat, o.b.toNat] } s fun i _ w =>
    let c := i.opnd o.b.toNat
    let a := i.opnd o.a.toNat
    let go := fun (w : Work) => i.startSlip w (.configure (i.val o.b.toNat i.l0) (i.val o.a.toNat i.l0) i.c.sp.key0 i.c.sp.key1 i.c.team) [] 0
    if c % 4 == 3 || bits 15 13 c != 0 || 2 ^ 33 ≤ c then .fault (i.fault .badSlipOperand)
    else if c % 4 == 0 && (w.d.cmr i.c).getLsbD 6 then .fault (i.fault .nonReproducible)
    else if c % 4 != 2 then go w
    else if a % 4 != 0 || bits 31 18 a != 0 || 2 ^ 49 ≤ a then .fault (i.fault .badSlipOperand)
    else if bits 48 32 a == 0 then go w
    else i.find0 w .load 2 (4 * bits 48 32 a) (bits 17 0 a) fun _ w => go w

/-- GMODE, set state (R361). -/
def execGmodeSetState (o : OpXA) (s : State) : Out :=
  slipInstr o.g { reads := [o.a.toNat] } s fun i _ w =>
    let x := pairValues (i.c.reg o.a.toNat).all
    if x.any railed then .fault (i.fault .badSlipOperand) else i.startSlip w (.setState x) [] 0

/-- GRES (R367). -/
def execGres (o : OpGres) (s : State) : Out :=
  slipInstr o.g { reads := [o.b.toNat], writes := [o.d.toNat], pends := true } s fun i _ w =>
    i.startSlip w (.residual o.d.toNat o.sc.toNat (pairValues (i.c.reg o.b.toNat).all)) [o.d.toNat] o.la.toNat

/-! ## Execution (R361, R365, R367) -/

/-- r[i] of GRES (R367). -/
def Slip.residual (x : Slip) (sc : Int) (v : Cells) (i : Nat) : FRes :=
  let s := x.row v i
  let r := fsub FCtl.engine .fp32 ((Fmt.fp32.value (getA x.b i 0)).scale sc) ((Fmt.fp32.value s.bits).scale sc)
  ⟨r.bits, s.fl ||| r.fl⟩

/-- What GRDM of the status writes into a lane (R365). -/
def Work.slipStatus (w : Work) (t k l : Nat) : Word :=
  let x := (w.d.core t k).slip
  BitVec.ofNat 64 <| match l with
    | 0 => w.tileId t k * 2 ^ 16 + (x.nord - 1) * 2 ^ 7 + x.k * 4 + x.mode
    | 1 => x.step
    | 2 => x.wins
    | 3 => x.pstalls
    | 4 => x.tpos
    | 5 => x.ns
    | _ => 0

/-- The effect of an operation other than a GRUN (R361, R365, R367). -/
def Work.slipEffect (w : Work) (t k : Nat) (q : SlipOp) : Work :=
  let x := (w.d.core t k).slip
  let late := fun (w : Work) (reg : Nat) (f : Nat → Word) => match w.d.op q.op with
    | some o => w.writeLate o reg f
    | none => w
  match q.kind with
  | .couplings row0 n refs =>
    let cells := (refs.mapIdx fun r rs => let bs := w.bytesAt rs
      (List.range 64).map fun j => (64 * (row0 + r) + j, leNat ((bs.drop (2 * j)).take 2))).flatten
    w.modSlip t k fun x => { x with a := x.a.replace (64 * row0) (64 * (row0 + n)) cells }
  | .bias temp b =>
    w.modSlip t k fun x => { x with temp := temp, b := match b with | some l => valueCells l | none => x.b }
  | .setState l => w.modSlip t k fun x => { x with x := valueCells l }
  | .readMean reg sel =>
    late w reg (if sel == 0 then pairWord (x.lead x.mu) else if sel == 1 then pairWord (x.lead x.x) else w.slipStatus t k)
  | .readCov reg row => late w reg (pairWord (x.lead2 x.cv row))
  | .residual reg sc l =>
    let rs := (List.range x.nord).map (x.residual (toSigned 6 sc) (valueCells l))
    let fl := rs.foldl (fun f r => f ||| r.fl) fNone
    let w := late w reg (pairWord fun i => (rs.getD i ⟨0, fNone⟩).bits)
    w.mod fun d => d.modOp q.op fun o => { o with flags := o.flags ||| fl }
  | .configure cfg table key0 key1 team =>
    let c := cfg.toNat
    let a := table.toNat
    let w := w.modSlip t k fun x =>
      { x with mode := c % 4, k := bits 6 2 c, nord := bits 12 7 c + 1, tileid := some (bits 31 16 c), key0 := key0, key1 := key1 }
    let w := if c % 4 == 2 then w.modSlip t k fun x => { x with tbase := bits 17 0 a, tlen := bits 48 32 a, tpos := 0, towner := some team } else w
    if bit 32 c then w.modSlip t k fun x =>
      { x with x := [], sx := [], sxx := [], mu := [], cv := [], ns := 0, step := 0, wins := 0, pstalls := 0 }
    else w
  | .run .. => w

/-- The bytes an operation reads, by rows. -/
def SlipKind.rows (k : SlipKind) : List (List BRef) :=
  match k with
  | .couplings _ _ r => r
  | _ => []

/-- An operation with other rows. -/
def SlipKind.withRows (k : SlipKind) (rs : List (List BRef)) : SlipKind :=
  match k with
  | .couplings row0 n _ => .couplings row0 n rs
  | k => k

/-- SLIP_OPERATION_EXECUTE (R360): the oldest operation of a tile, other than a GRUN, executes. -/
def execSlipOperationExecute (t k : Nat) (s : State) : Out :=
  event s fun w =>
    match (w.d.core t k).slip.queue with
    | [] => none
    | q :: _ =>
      if q.kind.isRun || !w.d.engineRuns t k .slip then none
      else match w.engineRows t k q.crew (w.samplerFault .slip t k q.op .none) .load q.kind.rows with
        | .held => none
        | .fails f => some ((w.endSlip t k q.op).raise f)
        | .ok c rows =>
          some (((w.touch t k 0 (w.d.gridId c) rows.flatten).slipEffect t k { q with kind := q.kind.withRows rows }).endSlip t k q.op)

/-! ## The window end (R366, R173) -/

/-- The bytes of a Slip window (R366). -/
def Slip.windowBytes (x : Slip) (cov : Bool) : List Byte :=
  ((List.range 64).flatMap fun i => natLe 4 (x.lead x.mu i)) ++ natLe 4 x.ns ++ natLe 4 x.wins ++ natLe 8 x.step ++ List.replicate 752 0
    ++ (if cov then (List.range 64).flatMap fun i => (List.range 64).flatMap fun j => natLe 4 (x.lead2 x.cv i j) else [])

/-- The window end of a Slip tile (R173, R366), and the end of a run whose last publish has retired (R360). -/
def Work.slipWindowEnd (w : Work) (t k : Nat) : Option Work :=
  let x := (w.d.core t k).slip
  match x.queue with
  | q :: _ =>
    match q.kind, w.d.crew q.crew with
    | .run windows settle _ window _ fin cum cov cell, some c =>
      let total := settle + windows * window
      if !x.windowEnd || !w.d.engineRuns t k .slip || w.d.faulted t q.op then none
      else match x.closing with
      | some (key, buf) => if w.publishRetired q.op key buf then some (w.endSlip t k q.op) else none
      | none =>
        let need := if cov then 17408 else 1024
        match w.windowPublish c q.op cell (x.windowBytes cov) need (fin && x.t == total) (w.samplerFault .slip t k q.op .none) with
        | .waits => if x.wstalled then none else some (w.modSlip t k fun x => { x with wstalled := true, pstalls := (x.pstalls + 1) % 2 ^ 32 })
        | .held => none
        | .bad f => some (w.raise f)
        | .ok stop key buf w =>
          let w := w.windowOver t k cum
          if !(stop || total ≤ (w.d.core t k).slip.t) then some w
          else if w.publishRetired q.op key buf then some (w.endSlip t k q.op)
          else some (w.modSlip t k fun x => { x with windowEnd := true, closing := some (key, buf) })
    | _, _ => none
  | [] => none

/-- ENGINE_WINDOW_END (R173): the engine of a core, a Kiln array or with `slip` a Slip tile, makes its window end. -/
def execEngineWindowEnd (slip : Bool) (t k : Nat) (s : State) : Out :=
  event s fun w => if slip then w.slipWindowEnd t k else w.kilnWindowEnd t k

end Sys2Proof.Machine
end

