-- ==== Sys2Proof/Machine/Sched.lean ====
section
/-! DEFINITION. Sched: the scheduler and the dispatchers: the dealing of grids, admission, eviction, work-graph bins, the ends
of crews, teams and grids (20_scheduling.md, R38, R189, R209, R429). -/

namespace Sys2Proof.Machine

/-! ## The partition's scheduler (R378, R379) -/

/-- A partition that schedules: its context is resident and is not being switched, and it is not halted (R397). -/
def Dev.schedules (d : Dev) (low : Nat) : Option (Part × Ctx) :=
  match d.parts.find? fun p => p.low == low with
  | none => none
  | some p =>
    match p.ctx.bind d.ctx with
    | none => none
    | some x => if p.halt.phase == .running && x.switch == .idle then some (p, x) else none

/-- The same of one tower's scheduler, which is not debug-halted itself; the other towers' go on (R418). -/
def Dev.schedulesAt (d : Dev) (t : Nat) : Option (Part × Ctx) :=
  match d.part t with
  | none => none
  | some p => if p.debugHalted.contains t then none else d.schedules p.low

/-- The next grid to deal: the head of the highest non-empty priority, by acceptance number (R379). -/
def Dev.headGrid (d : Dev) (p : Part) : Option Grid :=
  ((List.range 8).reverse).findSome? fun prio =>
    let heads := p.towers.filterMap fun t => (((d.tower t).queues.getD prio []).head?).bind d.grid
    (sortOn (·.accept) heads).head?

/-- The grid that stands at the head: one held there stays, whatever its priority (R379). -/
def Dev.standing (d : Dev) (p : Part) : Option Grid :=
  match (p.head.bind d.grid).filter fun g => g.phase == .queued with
  | some g => some g
  | none => d.headGrid p

/-- The grid that is dealt next: the one at the head, unless the scheduler of its queue's tower is debug-halted (R379, R418;
assumption 58). -/
def Dev.nextGrid (d : Dev) (p : Part) : Option Grid := (d.standing p).filter fun g => !p.debugHalted.contains g.tower

/-- A grid held at the head from now on (R379). -/
def Dev.holdHead (d : Dev) (low : Nat) (g : Grid) : Dev := d.modPart low fun p => { p with head := some g.id }

/-- Whether a team of a context has been dealt and has not ended (R38, R209). -/
def Dev.anyDealt (d : Dev) (ctx : Nat) : Bool := d.teams.any fun t => ((d.grid t.grid).map (·.ctx)) == some ctx

/-- A grid taken out of its launch queue; what a hold of it at the head had begun is over. -/
def Dev.unqueue (d : Dev) (g : Grid) : Dev :=
  (d.modTower g.tower fun z => { z with queues := z.queues.map fun q => q.filter (· != g.id) }).modPart g.tower fun p =>
    if p.head == some g.id then { p with head := none, drain := none } else p

/-- Drains of the dirty lines of a cluster that a test picks begun, with one record that waits for them where there are any; the
record's number. -/
def Work.drainCluster (w : Work) (t cl : Nat) (x : Trigger) (sel : CmbLine → Bool) : List Nat × Work :=
  let lines := (w.d.cluster t cl).cmb.filter sel
  let tags := ({ cmb := lines } : Cluster).dirtyTags []
  if tags.isEmpty then ([], w)
  else
    let (id, w) := w.newId
    let f : FenceRec := { id := id, cluster := cl, tower := t, trigger := x, marker := false, lines := tags }
    ([id], (w.mod fun d => { d with fences := d.fences ++ [f] }).drains t cl x tags)

/-- A release at device scope made on a core for its threads (R96, R105): what its store queue and its cluster's merge buffer hold drains; the
number of the record that waits for it, where there is anything. -/
def Work.releaseCore (w : Work) (x : Trigger) (t k : Nat) : List Nat × Work :=
  if (w.d.core t k).sq.isEmpty && ((w.d.cluster t (clusterOf k)).dirtyTags []).isEmpty then ([], w)
  else
    let (id, w) := w.newId
    let f : FenceRec := { id := id, core := k, cluster := clusterOf k, tower := t, trigger := x, marker := false, queue := true, drains := true }
    ([id], (w.mod fun d => { d with fences := d.fences ++ [f] }).nameFence f)

/-- The same on several cores. -/
def Work.releaseCores (w : Work) (x : Trigger) (cores : List (Nat × Nat)) : List Nat × Work :=
  cores.foldl (fun (acc : List Nat × Work) c =>
    let (ids, w) := acc.2.releaseCore x c.1 c.2
    (acc.1 ++ ids, w)) ([], w)

/-- Drains of the dirty lines of a partition that a test picks begun, one record for each cluster that holds some; the records'
numbers. -/
def Work.drainPart (w : Work) (p : Part) (x : Trigger) (sel : CmbLine → Bool) : List Nat × Work :=
  (p.towers.flatMap fun t => (List.range 12).map fun cl => (t, cl)).foldl (fun (acc : List Nat × Work) tc =>
    let (ids, w) := acc.2.drainCluster tc.1 tc.2 x sel
    (acc.1 ++ ids, w)) ([], w)

/-- Whether drains are over. -/
def Dev.drained (d : Dev) (ids : List Nat) : Bool := !d.fences.any fun f => ids.contains f.id && !f.done

/-- The status of a launch that fails after its acceptance (R38), sent to the queue of the command that launched it (assumption 48). -/
def Dev.failLaunch (d : Dev) (g : Grid) (status : Nat) : Dev :=
  match g.origin with
  | some (sess, q) => { d with host := d.host.send sess q 1 (natLe 16 (g.originTag * 2 ^ 64 + status)) }
  | none => d

/-- The L1s of a partition emptied, and the fills on their way to them dropped (R38). -/
def Work.l1sEmpty (w : Work) (p : Part) : Work :=
  w.mod fun d => p.towers.foldl (fun d t => (w.cores t).foldl (fun d k => d.modCore t k fun y => { y.l1Drop (fun _ => true) with fills := [] }) d) d

/-- RANGE_TABLE_LOAD (R38): the head grid names another range table, and every dealt team has ended: caches drain, and the
table is loaded; where it cannot be, the launch fails with status and nothing of it runs, and an uncorrectable error that the load met is a
fault besides (R75). -/
def execRangeTableLoad (low : Nat) (s : State) : Out :=
  event s fun w =>
    match w.d.schedules low with
    | none => none
    | some (p, x) =>
      match p.dealing, w.d.nextGrid p with
      | none, some g =>
        if g.launch.ranget == x.ranget || w.d.anyDealt x.ctxid then none
        else match p.drain with
          | none =>
            let (ids, w) := (w.l1sEmpty p).drainPart p .rangeTable fun _ => true
            some (w.mod fun d => (d.holdHead low g).modPart low fun p => { p with drain := some ids })
          | some ids =>
            if !w.d.drained ids then none
            else
              let w := (w.l1sEmpty p).mod fun d =>
                (d.modPart low fun p => { p with drain := none }).modCtx x.ctxid fun x => { x with ranget := 0, ranges := [] }
              let w := w.mod fun d => { d with homes := d.homes.filter (fun h => h.tag.tensor == 0), copies := d.copies.filter fun c => c.tag.tensor == 0 }
              match w.rangesGot (p.who { x with ranget := 0, ranges := [] }) g.launch.ranget with
              | .ok rs => some (w.mod fun d => d.modCtx x.ctxid fun x => { x with ranget := g.launch.ranget, ranges := rs })
              | .error e =>
                let w := w.mod fun d => let d := (d.unqueue g).failLaunch g 1; { d with grids := d.grids.filter fun y => y.id != g.id }
                some (w.raiseAll e.toList)
      | _, _ => none

/-- CMR_CHANGE (R209): the head grid names another CMR value, and every dealt team has ended. -/
def execCmrChange (low : Nat) (s : State) : Out :=
  event s fun w =>
    match w.d.schedules low with
    | none => none
    | some (p, x) =>
      match p.dealing, w.d.nextGrid p with
      | none, some g =>
        if g.launch.ranget != x.ranget || g.launch.cmrv == x.cmr || w.d.anyDealt x.ctxid then none
        else some (w.mod fun d => d.modCtx x.ctxid fun x => { x with cmr := g.launch.cmrv })
      | _, _ => none

/-! ## Room on a core (R381, R242) -/

/-- Slots 0 to 31 of a core that no crew holds, ascending; a landed crew holds its source slot (R195). -/
def Dev.freeSlots (d : Dev) (t k : Nat) : List Nat :=
  (List.range 32).filter fun n => !d.crews.any fun c => !c.handler && c.home.tower == t && c.home.core == k && c.home.slot == n

/-- Teams that hold registers of a core. -/
def Dev.teamsOn (d : Dev) (t k : Nat) : List Team := d.teams.filter fun x => x.tower == t && x.core == k && (x.phase == .resident || x.phase == .ending)

/-- Register-file bytes of a core that are free (R205). -/
def Dev.freeRegs (d : Dev) (t k : Nat) : Nat :=
  regFile - ((d.teamsOn t k).map fun x => ((d.grid x.grid).map fun g => g.launch.regBytes).getD 0).sum

/-- Granules of a core that are free, ascending (R53). -/
def Core.freeGranules (c : Core) : List Nat := (List.range teamGranules).filter fun n => !c.granUsed.contains n

/-- Whether a record uses an image, and a different one: its address and count name it (R242). -/
def LaunchRec.otherImage (a b : LaunchRec) : Bool := a.dictn != 0 && (a.dict != b.dict || a.dictn != b.dictn)

/-- The dictionary condition (R242): the core holds no image or this grid's, or no resident team uses a different one. -/
def Dev.dictFits (d : Dev) (t k : Nat) (g : Grid) : Bool :=
  g.launch.dictn == 0 || (match (d.core t k).dictOwner with
    | none => true
    | some o => (o.1 == g.launch.dict && o.2.1 == g.launch.dictn)
        || !(d.teamsOn t k).any fun x => ((d.grid x.grid).map fun y => y.launch.otherImage g.launch).getD false)

/-- Whether a core has the slots, registers and local granules that a team of a grid needs (R189, R381). -/
def Dev.roomFor (d : Dev) (t k : Nat) (g : Grid) : Bool :=
  decide (g.launch.crews ≤ (d.freeSlots t k).length) && decide (g.launch.regBytes ≤ d.freeRegs t k)
    && decide (g.launch.localg ≤ ((d.core t k).freeGranules).length)

/-- Whether a team of a grid fits a core (R381). -/
def Dev.fits (d : Dev) (t k : Nat) (g : Grid) : Bool := d.roomFor t k g && d.dictFits t k g

/-! ## Admission (R185, R186, R208, R381, R389) -/

/-- The 64-bit entries of a dictionary image. -/
def dictWords (b : List Byte) : List Word := (List.range (b.length / 8)).map fun i => BitVec.ofNat 64 (leNat ((b.drop (8 * i)).take 8))

/-- The dictionary of a core loaded for the first team of a grid there, from the core's cluster outward (R47, R242); a load that fails
is a violation of an instruction fetch, and `none` says that it waits for a shootdown (R44). -/
def Work.loadDict (w : Work) (p : Part) (x : Ctx) (t k : Nat) (g : Grid) : Except (Option FaultInfo) Work :=
  let held := match (w.d.core t k).dictOwner with
    | some o => o.1 == g.launch.dict && o.2.1 == g.launch.dictn && (o.2.2 == g.id || (w.d.teamsOn t k).any fun y => y.grid == g.id)
    | none => false
  if g.launch.dictn == 0 || held then .ok w
  else
    match w.dictNear (p.who x) t k g.launch with
    | .ok b => .ok (w.mod fun d => d.modCore t k fun c =>
        { c with dictOwner := some (g.launch.dict, g.launch.dictn, g.id), dict := dictWords b, badDict := [] })
    | .error (some f) => .error (some { f with unit := k })
    | .error none =>
      let look := (List.range g.launch.dictn).map fun i =>
        let ea := g.launch.dict.toNat + 8 * i
        (ea, w.locate (p.who x) [] .fetch 0 ea 8)
      if look.any fun y => match y.2 with | .held => true | _ => false then .error none
      else match look.findSome? fun y => match y.2 with | .bad why tensor => some (y.1, why, tensor) | _ => none with
        | some (ea, why, tensor) => .error (some
            { reason := .violation, tower := t, unit := k, aform := 1, addr := BitVec.ofNat 64 ea, viol := some { tensor := tensor, why := why, access := 3 } })
        | none => .error none

/-- A register preloaded (R208). -/
def preloads (r : LaunchRec) (team index lid cluster tower : Nat) (v57 : Nat) : List (Nat × RegVal) :=
  let u := fun (v : Nat) => RegVal.uni (BitVec.ofNat 64 v)
  ([(63, RegVal.aff (BitVec.ofNat 64 (32 * index)) 1), (62, u team), (61, u index), (60, u lid), (59, u cluster), (58, u tower), (57, u v57), (56, .uni r.argp)].mapIdx
    fun i e => (i, e)).filterMap fun e => if bit e.1 r.pre then some e.2 else none

/-- A crew as it starts (R175, R186, R208, R209). -/
def newCrew (id : Nat) (g : Grid) (team : Team) (index lid : Nat) (pl : Place) (epoch age : Nat) : Crew :=
  let v57 := g.parentIndex % 2 ^ 32 * 16 + g.depth
  { id := id, place := pl, home := pl, team := team.id, index := index
    threads := List.replicate 32 { pc := g.launch.code }
    regs := (preloads g.launch team.index index lid (clusterOf pl.core) pl.tower v57).foldl (fun l e => modNth l e.1 fun _ => e.2) (List.replicate 64 (.uni 0))
    allot := g.launch.allot, gbud := g.launch.gbud, ep := { grid := epoch }, age := age }

/-- Local granules taken for a team: those last held by another context read zero (R53). -/
def Work.takeGranules (w : Work) (t k ctx n : Nat) : List Nat × Work :=
  let gs := ((w.d.core t k).freeGranules).take n
  let stale := gs.filter fun g => let o := getA (w.d.core t k).granCtx g 0; o != 0 && o != ctx + 1
  let w := w.putAt (stale.flatMap fun g => (List.range 1024).map fun i => (localKey t k (g * 1024 + i), 0))
  (gs, w.mod fun d => d.modCore t k fun c =>
    { c with granUsed := c.granUsed ++ gs, granCtx := gs.foldl (fun l g => putA l g (ctx + 1)) c.granCtx })

/-- Bytes of a team's local memory written. -/
def Work.putLocal (w : Work) (t k : Nat) (gran : List Nat) (off : Nat) (bs : List Byte) : Work :=
  w.putAt (bs.mapIdx fun i b => (granKey t k gran (off + i), b))

/-- A team admitted to a core it fits: its slots, granules, dictionary and crews (R185, R381); a node grid's team finds its
records in local memory (R389). For a team that a LNCH, a BINP or a version has launched the core acquires at device scope, so that it sees
what was released to it (R96); a root grid's team is launched by the host, which invalidates by itself (R103, R466). -/
def Work.admitCrew (w : Work) (p : Part) (x : Ctx) (g : Grid) (team : Team) (t k : Nat) : Except (Option FaultInfo) Work :=
  (w.loadDict p x t k g).map fun w =>
    let w := if g.depth == 0 then w else w.acquire t k 3
    let slots := (w.d.freeSlots t k).take g.launch.crews
    let (gran, w) := w.takeGranules t k x.ctxid g.launch.localg
    let w := match g.node with
      | none => w
      | some n =>
        let head := natLe 64 (g.records.length + n * 2 ^ 32)
        w.putLocal t k gran 0 (head ++ g.records.flatten)
    let lid := w.logicalId t k
    let (crews, w) := slots.foldl (fun (acc : List Crew × Work) slot =>
      let (occ, w) := acc.2.occupy t k slot
      let (id, w) := w.newId
      let c := newCrew id g team acc.1.length lid { tower := t, core := k, slot := slot, occ := occ } x.gridEpoch (w.d.youngest + acc.1.length)
      (acc.1 ++ [c], w)) ([], w)
    w.mod fun d =>
      let d := { d with crews := d.crews ++ crews }
      let d := d.modTeam team.id fun y =>
        { y with phase := .resident, tower := t, core := k, crews := crews.map (·.id), gran := gran, tag := ((crews.head?).map (·.place.gid)).getD 0xFFFFFF }
      let d := d.modCore t k fun c => { c with pending := c.pending.filter (· != team.id) }
      d.modGrid g.id fun y => { y with admitted := y.admitted + 1 }

/-! ## Dealing (R379, R382, R384, R388, R190) -/

/-- Entries of a pending list (R382). -/
def pendingSize : Nat := 4

/-- The order in which cores are chosen (R382): fewest pending entries, then most free register bytes; logical ids break ties. -/
def Dev.dealOrder (d : Dev) (c : Nat × Nat) : Nat := (d.core c.1 c.2).pending.length * 2 ^ 20 + (regFile - d.freeRegs c.1 c.2)

/-- The core with room the next team goes to (R382); in DET mode a fixed one (R384). -/
def Work.dealCore (w : Work) (p : Part) (g : Grid) : Option (Nat × Nat) :=
  let cores := w.logical p
  if g.launch.det then cores[g.dealtTeams % cores.length]?
  else
    let open_ := cores.filter fun c => decide ((w.d.core c.1 c.2).pending.length < pendingSize)
    (sortOn w.d.dealOrder open_).head?

/-- The next team of a grid made. -/
def Work.newTeam (w : Work) (g : Grid) (t k : Nat) : Team × Work :=
  let (id, w) := w.newId
  let team : Team := { id := id, grid := g.id, index := g.dealtTeams, tower := t, core := k }
  (team, w.mod fun d =>
    let d := { d with teams := d.teams ++ [team] }
    d.modGrid g.id fun y => { y with dealtTeams := y.dealtTeams + 1 })

/-- Every team of a cooperative grid admitted in ascending order, each by the order of R382 among the cores it fits; `none` where one
finds no room, and the fault of a dictionary that does not load (R190, R242). -/
def Work.admitAll (w : Work) (p : Part) (x : Ctx) (g : Grid) : Nat → Except (Option FaultInfo) Work
  | 0 => .ok w
  | n + 1 =>
    match w.d.grid g.id with
    | none => .error none
    | some g =>
      let cores := w.logical p
      let fit := if g.launch.det then (cores[g.dealtTeams % cores.length]?).toList else cores
      match sortOn w.d.dealOrder (fit.filter fun c => !p.debugHalted.contains c.1 && w.d.fits c.1 c.2 g) with
      | [] => .error none
      | c :: _ =>
        let (team, w) := w.newTeam g c.1 c.2
        (w.admitCrew p x g team c.1 c.2).bind fun w => w.admitAll p x g n

/-- Bins of a root grid's graph taken, the lowest free ones of each node's tower; `none` where one is missing (R388). -/
def Work.takeBins (w : Work) (g : Grid) : Option Work :=
  match g.graph with
  | none => some w
  | some gr =>
    (List.range gr.nodes.length).foldl (fun (acc : Option Work) i =>
      acc.bind fun w =>
        (gr.nodes[i]?).bind fun n =>
          ((List.range 64).find? fun b => ((w.d.tower n.tower).bins.getD b {}).owner.isNone).map fun b =>
            w.mod fun d => (d.modBin n.tower b fun _ => { owner := some (g.id, i) }).modGraph g.id fun y =>
              { y with nodes := modNth y.nodes i fun z => { z with bin := b } }) (some w)

/-- The end of a grid's dealing. -/
def Work.dealtAll (w : Work) (low : Nat) (g : Grid) : Work :=
  w.mod fun d => ((d.unqueue g).modGrid g.id fun y => { y with phase := .dealt }).modPart low fun p => { p with dealing := none }

/-- The race mode and the shadow bases set for the partition take effect at a root grid (R154, R440). -/
def Dev.raceBegins (d : Dev) (p : Part) (x : Ctx) : Dev :=
  match p.race with
  | none => d
  | some (mode, bases) =>
    p.towers.foldl (fun d t => d.modTower t fun z => { z with sbase := bases.getD t 0 })
      (d.modCtx x.ctxid fun x => { x with raceMode := mode })

/-- DEAL_TEAM (R379, R382, R384): the next team of the grid being dealt goes to a pending list; the grid at the head begins
when nothing holds it, and is held there until then, whatever comes after it. A cooperative grid is admitted whole in one step. -/
def execDealTeam (low : Nat) (s : State) : Out :=
  event s fun w =>
    match w.d.schedules low with
    | none => none
    | some (p, x) =>
      let hold := fun (w : Work) (g : Grid) => if p.head == some g.id then none else some (w.mod fun d => d.holdHead low g)
      let begun : Option (Grid × Option Work) := match p.dealing.bind w.d.grid with
        | some g => if p.debugHalted.contains g.tower then none else some (g, some w)
        | none =>
          match w.d.nextGrid p with
          | none => none
          | some g =>
            if g.launch.ranget != x.ranget || g.launch.cmrv != x.cmr then some (g, none)
            else some (g, (w.takeBins g).map fun w => w.mod fun d =>
                let d := d.modPart low fun p => { p with dealing := some g.id, head := none }
                if g.depth == 0 then d.raceBegins p x else d)
      match begun with
      | none => none
      | some (g, none) => hold w g
      | some (g, some w') =>
        if g.launch.coop then
          match w'.admitAll p ((w'.d.ctx x.ctxid).getD x) g g.launch.teams with
          | .ok w' => some (w'.dealtAll low g)
          | .error (some f) => some ((w.mod fun d => d.holdHead low g).raise f)
          | .error none => hold w g
        else let w := w'
             match w.dealCore p g with
          | none => none
          | some (t, k) =>
            let (team, w) := w.newTeam g t k
            let w := w.mod fun d => d.modCore t k fun c => { c with pending := c.pending ++ [team.id] }
            some (if g.dealtTeams + 1 == g.launch.teams then w.dealtAll low g else w)

/-! ## The dispatcher (R383, R384) -/

/-- Whether every lower-indexed team of a team's grid has been admitted (R152). -/
def Grid.inOrder (g : Grid) (t : Team) : Bool := t.phase != .pending || decide (t.index ≤ g.admitted)

/-- Whether teams of an unretired child grid of a team are still to be admitted: they wait in a launch queue or in a pending list (R189,
R199). -/
def Dev.childWaits (d : Dev) (t : Team) (child : Grid) : Bool :=
  child.parentTeam == some t.id && (child.phase == .queued || d.teams.any fun y => y.grid == child.id && y.phase == .pending)

/-- Whether an evicted team leaves the room that it was evicted for to what waits behind it, so long as teams of its child grids are still to be
admitted (R189, R199; assumption 74). -/
def Dev.givesWay (d : Dev) (t : Team) : Bool := t.phase == .evicted && d.grids.any (d.childWaits t)

/-- The entries of a core's pending list, with their grids. -/
def Dev.entries (d : Dev) (t k : Nat) : List (Team × Grid) :=
  ((d.core t k).pending.filterMap d.team).filterMap fun y => (d.grid y.grid).map fun g => (y, g)

/-- Whether an entry can be admitted to a core now: it fits, every lower-indexed team of its grid has been admitted, and the core has room
for the requests of an evicted one (R3, R152, R381). -/
def Dev.enters (d : Dev) (t k : Nat) (e : Team × Grid) : Bool :=
  d.fits t k e.2 && e.2.inOrder e.1 && (e.1.phase != .evicted || d.takesRequests t k e.1.ops)

/-- The entry that a core's dispatcher takes next, and the entries whose AGE that advances (R383, R384): evicted teams at the head that give
way stand aside; then the head is taken if it can be, else the first later entry, unless the head has reached AGELIM or the mode is DET. -/
def Dev.nextEntry (d : Dev) (t k : Nat) : Option ((Team × Grid) × List Nat) :=
  let entries := d.entries t k
  let aside := (entries.takeWhile fun e => d.givesWay e.1).map fun e => e.1.id
  match entries.drop aside.length with
  | [] => none
  | h :: rest =>
    if d.enters t k h then some (h, aside)
    else if h.2.launch.det || decide (h.2.launch.agelim ≤ h.1.age) then none
    else (rest.find? fun e => d.enters t k e && !d.givesWay e.1).map fun e => (e, aside ++ [h.1.id])

/-- Entries of pending lists passed over once more (R383). -/
def Dev.passedOver (d : Dev) (ids : List Nat) : Dev := ids.foldl (fun d id => d.modTeam id fun y => { y with age := y.age + 1 }) d

/-- A team admitted, or the fault of its dictionary's load taken; `none` where the load waits. -/
def Work.admitTeam (w : Work) (p : Part) (x : Ctx) (g : Grid) (team : Team) (t k : Nat) : Option Work :=
  match w.admitCrew p x g team t k with
  | .ok w => some w
  | .error f => f.map w.raise

/-- DISPATCH_EVALUATE (R383, R384): a core's dispatcher admits the next entry of its pending list that was not admitted before, or with `to`
moves the head to the list of another core where it fits. An evicted team is the next entry of RESTORE_TEAM. -/
def execDispatchEvaluate (t k : Nat) (to_ : Option (Nat × Nat)) (s : State) : Out :=
  event s fun w =>
    match w.d.schedulesAt t with
    | none => none
    | some (p, x) =>
      match to_ with
      | some (t2, k2) =>
        match w.d.entries t k with
        | [] => none
        | (h, g) :: _ =>
          if g.launch.det || h.bound || !p.towers.contains t2 || !w.present t2 k2 || (t2 == t && k2 == k) || !w.d.fits t2 k2 g
              || decide (pendingSize ≤ (w.d.core t2 k2).pending.length) then none
          else some (w.mod fun d =>
            ((d.modCore t k fun c => { c with pending := c.pending.filter (· != h.id) }).modCore t2 k2 fun c =>
              { c with pending := h.id :: c.pending }).modTeam h.id fun y => { y with tower := t2, core := k2 })
      | none =>
        match w.d.nextEntry t k with
        | none => none
        | some (e, passed) => if e.1.phase == .pending then (w.mod fun d => d.passedOver passed).admitTeam p x e.2 e.1 t k else none

/-! ## Eviction and restore (R189, R118) -/

/-- Whether a wait stands while its crew is saved: it waits for an operation that is saved with it, or for code 1 of a
dictionary word (assumption 76). Every other wait ends with the PC on the instruction, which issues again (R305, R320, R343). -/
def Wait.kept (x : Wait) : Bool :=
  match x.cond with
  | .result _ => true
  | _ => x.ran

/-- A crew as it stands while it is saved: only the waits stay that its saved operations end. -/
def Crew.atRest (c : Crew) : Crew := { c with waits := c.waits.filter Wait.kept, stalled := false }

/-- Whether a migration of a crew is in a step that a save completes first (R197): the crew departs, and nothing that it waits for is itself
withdrawn by the save, or its state is on the way. -/
def Dev.departs (d : Dev) (crew : Nat) : Bool :=
  d.ops.any fun o => o.crew == crew && !o.done && (match o.kind with
    | .migrate stage _ _ => stage == 4 || stage == 5
        || (stage == 3 && !d.ops.any fun x => x.crew == crew && decide (x.id < o.id) && !x.done && x.withdrawn.isSome)
    | _ => false)

/-- Whether a blocked team may be saved: every thread is held or waits and every crew has one that waits; none is at a
rendezvous or in a step of a migration that completes first; and all that is outstanding can be withdrawn (R189, R118, R197, R343). -/
def Dev.evictable (d : Dev) (t : Team) : Bool :=
  t.crews.all fun id =>
    match d.crew id with
    | none => true
    | some c =>
      c.live != 0 && c.status == .running && !c.waits.isEmpty && c.eligible == 0 && !d.arrived c.id && !d.departs c.id
        && !(d.fences.any fun f => f.crew == c.id && !f.done)
        && (d.ops.all fun o => o.crew != c.id || o.done || o.reissues || o.withdrawn.isSome)

/-- The landing allotments of the landed crews among some (R197). -/
def Work.landsOf (w : Work) (crews : List Crew) : List (Nat × List Byte) :=
  (crews.filter (·.landed)).map fun c => (c.id, w.gets (localKey c.place.tower c.place.core (landingGranule * 1024)) 16384)

/-- A team saved: its crews, its local memory, its landing allotments and its withdrawn operations are kept, and it goes to the head of its
core's pending list. Operations of its crews that are complete retire (R118, R197). -/
def Work.evict (w : Work) (t : Team) : Work :=
  let back := w.d
  let w := (w.retireDone t.crews).unissue (w.d.ops.filter fun o => o.reissues && t.crews.contains o.crew)
  let crews := (t.crews.filterMap w.d.crew).map back.asLanded
  let mine := fun (o : Op) => t.crews.contains o.crew
  let lands := w.landsOf (t.crews.filterMap w.d.crew)
  let image := (List.range (t.gran.length * 1024)).map fun i => (i, w.get (granKey t.tower t.core t.gran i))
  let kept := ((w.d.ops.filter mine).filterMap Op.withdrawn).map w.d.keptOp
  w.mod fun d =>
    let d := crews.foldl (fun d c => d.leaveSlot c) d
    let d := { d with crews := d.crews.filter fun c => !t.crews.contains c.id, ops := d.ops.filter fun o => !mine o }
    let d := d.modTeam t.id fun y => 
      { y with phase := .evicted, image := crews, ops := kept, localImage := image.filter (fun c => c.2 != 0), gran := [], drain := none
               lands := lands ++ y.lands.filter fun e => !lands.any fun x => x.1 == e.1 }
    d.modCore t.tower t.core fun c => { c with pending := t.id :: c.pending, granUsed := c.granUsed.filter fun g => !t.gran.contains g }

/-- The cores that a team of a grid with an index may be admitted to: in DET mode the one core of its index, else every core (R382 to R384). -/
def Work.candidates (w : Work) (p : Part) (g : Grid) (index : Nat) : List (Nat × Nat) :=
  let cores := w.logical p
  if g.launch.det then (cores[index % cores.length]?).toList else cores

/-- Whether a team of a grid that could be admitted to the core of a parent finds no room there and nowhere else (R189): one in a pending list,
or one still to be dealt. -/
def Work.teamStuck (w : Work) (p : Part) (t : Team) (g : Grid) : Bool :=
  let waiting := ((w.d.teams.filter fun y => y.grid == g.id && y.phase == .pending).map (·.index))
    ++ (if g.phase == .queued then (List.range (Nat.min (g.launch.teams - g.dealtTeams) (w.logical p).length)).map (g.dealtTeams + ·) else [])
  waiting.any fun i =>
    let cs := w.candidates p g i
    cs.contains (t.tower, t.core) && !cs.any fun c => w.d.roomFor c.1 c.2 g

/-- How many teams of a grid a core has room for. -/
def Dev.roomCount (d : Dev) (t k : Nat) (g : Grid) : Nat :=
  let per := fun (free need most : Nat) => if need == 0 then most else free / need
  let a := (d.freeSlots t k).length / g.launch.crews
  Nat.min a (Nat.min (per (d.freeRegs t k) g.launch.regBytes a) (per ((d.core t k).freeGranules).length g.launch.localg a))

/-- Whether a cooperative grid finds no room as a whole, and the core of a parent would give it some (R189, R190). -/
def Work.wholeStuck (w : Work) (p : Part) (g : Grid) : Bool :=
  let cores := w.logical p
  if g.launch.det then (List.range cores.length).any fun i => match cores[i]? with
    | some c => decide (w.d.roomCount c.1 c.2 g < (g.launch.teams + cores.length - 1 - i) / cores.length)
    | none => false
  else decide ((cores.map fun c => w.d.roomCount c.1 c.2 g).sum < g.launch.teams)

/-- Whether a child grid of a team waits for want of slots, registers or granules that the team's core would have without it (R189). -/
def Work.childStuck (w : Work) (p : Part) (t : Team) (g : Grid) : Bool :=
  w.d.childWaits t g && (if g.launch.coop then w.wholeStuck p g else w.teamStuck p t g)

/-- EVICT_TEAM (R105, R189, R199): a blocked team is saved to make room for teams of a child grid of it that find none for want of slots,
registers or granules, once what its threads have done and seen has been released at device scope. -/
def execEvictTeam (team : Nat) (s : State) : Out :=
  event s fun w =>
    match w.d.team team with
    | none => none
    | some t =>
      match w.d.schedulesAt t.tower, w.d.grid t.grid with
      | some (p, _), some g =>
        let child := w.d.grids.any (w.childStuck p t)
        if t.phase != .resident || g.launch.coop || !child || !w.d.evictable t then
          (if t.phase == .resident && t.drain.isSome then some (w.mod fun d => d.modTeam t.id fun y => { y with drain := none }) else none)
        else match t.drain with
          | some ids => if w.d.drained ids then some (w.evict t) else none
          | none =>
            let stands := (t.crews.filterMap w.d.crew).map fun c => (c.place.tower, c.place.core)
            let (ids, w) := w.releaseCores .switch (distinct ((t.tower, t.core) :: stands))
            some (if ids.isEmpty then w.evict t else w.mod fun d => d.modTeam t.id fun y => { y with drain := some ids })
      | _, _ => none

/-- A crew put back into a slot of a core, its holds evaluated (R180); one that had landed goes back to slot 33 of its landing core, or, while that
is taken, asks for it as a migrating crew does, without issuing before it has landed again (R194, R197). -/
def Work.replaceCrew (w : Work) (c : Crew) (t k slot : Nat) : Work :=
  let (occ, w) := w.occupy t k slot
  let pl : Place := { tower := t, core := k, slot := slot, occ := occ }
  let w := w.mod fun d =>
    { d with crews := d.crews ++ [{ c with place := pl, home := pl, age := d.youngest, held := false, holdCount := 0, landed := false }.release.laRestart] }
  if !c.landed then w
  else if w.d.crews.any fun x => x.place.tower == c.place.tower && x.place.core == c.place.core && x.place.slot == 33 then
    let (id, w) := w.newId
    w.mod fun d => { (d.modCrew c.id fun c => c.modCount 6 (· + 1)) with
      ops := d.ops ++ [{ id := id, crew := c.id, cls := 6, iaddr := 0, lanes := 0, kind := .migrate 0 c.place.tower c.place.core }] }
  else
    match w.d.crew c.id with
    | none => w
    | some y => (w.land 0 y c.place.tower c.place.core).acquire c.place.tower c.place.core 3

/-- An evicted team restored to a core it fits, which acquires at device scope; its withdrawn operations are sent again (R105, R118). -/
def Work.restoreTeam (w : Work) (p : Part) (x : Ctx) (g : Grid) (team : Team) (t k : Nat) : Option Work :=
  match w.loadDict p x t k g with
  | .error f => f.map w.raise
  | .ok w =>
    let w := w.acquire t k 3
    let slots := w.d.freeSlots t k
    let (gran, w) := w.takeGranules t k x.ctxid g.launch.localg
    let w := w.putAt ((List.range (gran.length * 1024)).map fun i => (granKey t k gran i, ((team.localImage.find? fun c => c.1 == i).map (·.2)).getD 0))
    let w := (team.image.zip slots).foldl (fun w e => w.replaceCrew e.1.atRest t k e.2) w
    let w := w.mod fun d =>
      let d := { d with ops := d.ops ++ team.ops }
      let d := d.modTeam team.id fun y =>
        { y with phase := .resident, tower := t, core := k, gran := gran, image := [], localImage := [], ops := []
                 tag := ((team.image.head?.bind fun c => d.crew c.id).map (·.place.gid)).getD y.tag }
      d.modCore t k fun c => { c with pending := c.pending.filter (· != team.id) }
    some (w.resendSaved team.ops)

/-- RESTORE_TEAM (R189, R383): the next entry of a core's pending list is restored where it is an evicted team. -/
def execRestoreTeam (t k : Nat) (s : State) : Out :=
  event s fun w =>
    match w.d.schedulesAt t, w.d.nextEntry t k with
    | some (p, x), some (e, passed) => if e.1.phase == .evicted then (w.mod fun d => d.passedOver passed).restoreTeam p x e.2 e.1 t k else none
    | _, _ => none

/-! ## Bins (R388 to R391) -/

/-- Records held back by a full bin put into it as places free, up to so many (R168, R388). -/
def Work.binRefill (w : Work) (t b timer : Nat) : Nat → Work
  | 0 => w
  | n + 1 =>
    let x := (w.d.tower t).bins.getD b {}
    match x.wait with
    | r :: rest =>
      if x.records.length < binSize then ((w.mod fun d => d.modBin t b fun x => { x with wait := rest }).binAdd t b timer r).binRefill t b timer n else w
    | [] => w

/-- A bin changed, and the records it holds back put into the places that frees. -/
def Work.binChange (w : Work) (t b timer : Nat) (f : Bin → Bin) : Work :=
  let w := w.mod fun d => d.modBin t b f
  w.binRefill t b timer ((w.d.tower t).bins.getD b {}).wait.length

/-- The first `n` records of a bin gone; its timer starts again where records remain (R390). -/
def Bin.drop (b : Bin) (timer n : Nat) : Bin :=
  let rest := b.records.drop n
  { b with records := rest, waiting := none, expired := false, timer := if rest.isEmpty || timer == 0 then none else some timer }

/-- Whether a graph is idle (R389): no team of the root grid, of its children or of the graph is running or stopping, and nothing is on its way to
its bins. A team runs from its admission on (R174; assumption 60). -/
def Dev.graphIdle (d : Dev) (root : Nat) : Bool :=
  let mine := fun (t b : Nat) => (((d.tower t).bins.getD b {}).owner.map (·.1)) == some root
  !d.runs root (fun _ => true)
    && (d.ops.all fun o => o.done || (match o.kind with | .binPush t b _ => !mine t b | _ => true))
    && !(d.deliveries.any fun x => x.grid == root)

/-- BIN_TIMER_EXPIRE (R390): the timer of a bin has run out, and the bin is to decide. -/
def execBinTimerExpire (t b : Nat) (s : State) : Out :=
  event s fun w =>
    match w.d.schedulesAt t with
    | none => none
    | some _ =>
      match ((w.d.tower t).bins.getD b {}).timer with
      | some 0 => some (w.mod fun d => d.modBin t b fun x => { x with timer := none, expired := true })
      | _ => none

/-- What PRDR reports of a node after a decision (R316, R391). -/
def Work.decided (w : Work) (root i : Nat) (v : Word) (launched : Bool) : Work :=
  w.mod fun d => d.modGraph root fun g =>
    { g with nodes := modNth g.nodes i fun n => { n with lastPred := v, launched := launched, decisions := n.decisions + 1 } }

/-- The decision carried out with a non-zero predicate: the one-team grid queued, or left waiting for room (R389). -/
def Work.binLaunch (w : Work) (t b : Nat) (root : Grid) (i : Nat) (n : GraphNode) (c : Nat) (v : Word) : Work :=
  let bin := (w.d.tower t).bins.getD b {}
  let recs := bin.records.take c
  let g : Grid :=
    { ctx := root.ctx, launch := { n.launch with teams := 1 }, recAddr := n.recAddr, depth := 1, parentIndex := 0xFFFFFFFE, parentGrid := some root.id
      root := root.id, node := some i, records := recs.map (·.1), pairs := recs.filterMap (·.2) }
  match w.enqueue t g with
  | some (_, w) => w.binChange t b n.timer fun x => x.drop n.timer c
  | none => w.mod fun d => d.modBin t b fun x => { x with waiting := some (c, v), timer := none, expired := false }

/-- BIN_LAUNCH_DECISION (R389 to R391): a bin decides, or a decision that waits for room in its queue is tried again. -/
def execBinLaunchDecision (t b : Nat) (s : State) : Out :=
  event s fun w =>
    match w.d.schedulesAt t with
    | none => none
    | some (p, x) =>
      let bin := (w.d.tower t).bins.getD b {}
      match bin.owner with
      | none => none
      | some (root, i) =>
        match w.d.grid root with
        | none => none
        | some g =>
          match g.graph.bind fun gr => gr.nodes[i]? with
          | none => none
          | some n =>
            let count := bin.records.length
            match bin.waiting with
            | some (c, v) =>
              if queueSize ≤ ((w.d.tower t).queues.getD n.launch.prio []).length then none else some (w.binLaunch t b g i n c v)
            | none =>
              if count == 0 || !(decide (n.coal ≤ count) || bin.expired || w.d.graphIdle root) then none
              else
                let c := Nat.min count n.coal
                if n.pred == 0 then some ((w.decided root i 0 true).binLaunch t b g i n c 0)
                else
                  let fail := some (w.raise
                    { reason := .badPredicate, engine := .scheduler, tower := t, aform := 1, addr := n.pred, extra := n.recAddr, detail := i })
                  match w.locate (p.who x) [] .load 0 n.pred.toNat 8 with
                  | .ok refs =>
                    if (w.d.meetsBad false refs).isSome then fail
                    else
                      let v := BitVec.ofNat 64 (leNat (w.bytesAt refs))
                      if v != 0 then some ((w.decided root i v true).binLaunch t b g i n c v)
                      else
                        let gone := (bin.records.take c).filterMap (·.2)
                        let w := (w.decided root i 0 false).binChange t b n.timer fun y => y.drop n.timer c
                        some ((gone.foldl (fun w id => w.consumerEnd id) w).settleEval root)
                  | _ => fail

/-! ## Ends of crews and teams (R119, R166, R392) -/

/-- CREW_END (R119, R320): a crew whose threads have exited, or that was cancelled, ends once its counters are zero; under cancellation
what it still had waiting is withdrawn first. -/
def execCrewEnd (id : Nat) (s : State) : Out :=
  event s fun w =>
    match w.d.crew id with
    | none => none
    | some c =>
      let w0 := w
      let w := if c.status == .cancelled then w.withdrawAll id else w
      let c := (w.d.crew id).getD c
      if c.handler || !(c.live == 0 || c.status == .cancelled) || c.cnt.any (· != 0) then
        (if w.d.ops.length == w0.d.ops.length then none else some w)
      else
        let w := w.mod fun d => d.leaveSlot c
        let w := if c.landed then w.mod fun d => d.modTeam c.team fun t => { t with away := distinct ((c.place.tower, c.place.core) :: t.away) } else w
        let w := w.mod fun d => { d with crews := d.crews.filter fun y => y.id != id, fences := d.fences.filter fun f => f.crew != id }
        some (w.barriersCheck c.team)

/-- The gets a team still holds on a cell released (R166): RD0 and RD1 are lowered and nothing else of the cell changes. An uncorrectable error
there is a fault and lowers nothing (R75); a cell whose page no longer passes its checks keeps its counts (assumption 67). -/
def Work.releaseGets (w : Work) (p : Part) (x : Ctx) (e : TileEntry) : Work :=
  if e.held0 == 0 && e.held1 == 0 then w
  else
    match w.locate (p.who x) [] .atomic 0 e.cell.toNat 32 with
    | .ok refs =>
      let key := (refs.headD { key := 0 }).key
      let c := VCell.ofNat (w.num key 32)
      if (w.d.meetsBad false (cellRefs key)).isSome then
        w.raise { placeFault key (flatTag key) (key / 2 ^ 36 % 8) 0 with aform := 1, addr := e.cell }
      else
      let w := w.putCellBytes key [(3, c.rd0 - e.held0), (4, c.rd1 - e.held1)]
      if c.rd0 < e.held0 || c.rd1 < e.held1 then
        w.raise { reason := .readerUnderflow, engine := .slice, tower := key / 2 ^ 36 % 8, unit := homeSlice (flatTag key), aform := 1, addr := e.cell
                  detail := c.rd0 + c.rd1 * 2 ^ 16 }
      else w
    | _ => w

/-- A team's end as its grid and its subscriptions see it (R168, R172, R188). -/
def Work.teamOver (w : Work) (g : Grid) : Work :=
  let w := w.mod fun d => d.modGrid g.id fun y => { y with ended := y.ended + 1 }
  let w := g.pairs.foldl (fun w id => w.consumerEnd id) w
  if g.node.isSome then w.settleEval g.root else w

/-- Whether a shootdown holds a cell on which a team holds gets (R44). -/
def Work.getsHeld (w : Work) (p : Part) (x : Ctx) (t : Team) : Bool :=
  (t.tiles.filter fun e => e.held0 != 0 || e.held1 != 0).any fun e => match w.locate (p.who x) [] .atomic 0 e.cell.toNat 32 with
    | .held => true
    | _ => false

/-- TEAM_END (R166): a team whose crews have all ended releases its gets, at device scope on every core its crews have used, and its
resources. -/
def execTeamEnd (team : Nat) (s : State) : Out :=
  event s fun w =>
    match w.d.team team with
    | none => none
    | some t =>
      match w.d.grid t.grid, w.d.part t.tower, w.d.ctxOf t.tower with
      | some g, some p, some x =>
        if t.phase != .resident || t.crews.any fun id => (w.d.crew id).isSome then none
        else if t.tiles.any (fun e => e.held0 != 0 || e.held1 != 0) && !(t.drain.map w.d.drained).getD false then
          match t.drain with
          | some _ => none
          | none =>
            let (ids, w) := w.releaseCores .fence (distinct ((t.tower, t.core) :: t.away))
            some (w.mod fun d => d.modTeam t.id fun y => { y with drain := some ids })
        else if w.getsHeld p x t then none
        else
          let w := t.tiles.foldl (fun w e => w.releaseGets p x e) w
          let w := w.mod fun d =>
            let d := { d with teams := d.teams.filter fun y => y.id != t.id }
            d.modCore t.tower t.core fun c => { c with granUsed := c.granUsed.filter fun n => !t.gran.contains n }
          some (w.teamOver g)
      | _, _, _ => none

/-- CANCELLATION_REQUEST (R392): a REFIRE cancellation of a subscription's consumer acts where the consumer stands. -/
def execCancellationRequest (pair : Nat) (s : State) : Out :=
  event s fun w =>
    match w.d.pairAt pair with
    | none => none
    | some (t, y) =>
      if !y.cancel then none
      else
        let w := w.mod fun d => d.modPair t pair fun y => { y with cancel := false }
        match w.d.grids.find? fun g => g.pairs.contains pair && g.ended == 0 with
        | some g =>
          if g.phase == .queued then
            let w := w.mod fun d => (d.unqueue g).modGrid g.id fun y => { y with phase := .dealt, dealtTeams := 1 }
            some (w.teamOver g)
          else match w.d.teams.find? fun z => z.grid == g.id with
            | none => some w
            | some z =>
              match z.phase with
              | .pending =>
                let w := w.mod fun d =>
                  { (d.modCore z.tower z.core fun c => { c with pending := c.pending.filter (· != z.id) }) with teams := d.teams.filter fun q => q.id != z.id }
                some (w.teamOver g)
              | .evicted => some (w.mod fun d => d.modTeam z.id fun q => { q with image := q.image.map fun c => { c with sp := { c.sp with cancel := true } } })
              | _ => some (w.mod fun d => { d with crews := d.crews.map fun c => if c.team == z.id && !c.handler then { c with sp := { c.sp with cancel := true } } else c })
        | none =>
          match (w.d.grid y.grid).bind fun g => (g.graph.bind fun gr => gr.nodes[y.node]?) with
          | none => some w
          | some n =>
            let mine := fun (r : List Byte × Option Nat) => r.2 == some pair
            let bin := w.d.binOf n
            if !(bin.records ++ bin.wait).any mine then some w
            else
              let at_ := bin.records.findIdx mine
              let spent := match bin.waiting with
                | some (c, _) => c == 1 && at_ == 0
                | none => false
              let w := if spent then w.mod fun d => d.modGraph y.grid fun g => { g with nodes := modNth g.nodes y.node fun n => { n with launched := false } } else w
              let w := w.binChange n.tower n.bin n.timer fun b =>
                let rest := b.records.filter fun r => !mine r
                { b with
                    records := rest, wait := b.wait.filter fun r => !mine r
                    timer := if rest.isEmpty then none else b.timer
                    expired := b.expired && !rest.isEmpty
                    waiting := match b.waiting with
                      | some (c, v) => let c := if at_ < c then c - 1 else c; if c == 0 then none else some (c, v)
                      | none => none }
              some ((w.consumerEnd pair).settleEval y.grid)

/-! ## Retirement (R188, R385, R428 to R430) -/

/-- Whether every condition of R188 holds for a grid, before its digest and its completion word. -/
def Dev.mayRetire (d : Dev) (g : Grid) : Bool :=
  g.phase == .dealt && decide (g.dealtTeams ≤ g.ended) && !(d.grids.any fun c => c.parentGrid == some g.id)
    && (match g.graph with
      | none => true
      | some gr =>
        (gr.nodes.all fun n => let b := d.binOf n; b.records.isEmpty && b.wait.isEmpty && b.waiting.isNone)
          && (d.pairsOf g.id).isEmpty && gr.settle.updates.isEmpty && !(d.deliveries.any fun x => x.grid == g.id))

/-- Whether a grid's digest is still to be written (R311). -/
def Grid.owesDigest (g : Grid) : Bool :=
  g.depth == 0 && g.digestDest.isSome && g.digest.isNone && !g.digestAbsent

/-- Regions cut into maximal runs of consecutive addresses (R428). -/
def runsOf (rs : List (Word × Word)) : List (Nat × Nat) :=
  (sortOn (·.1) (rs.map fun r => (r.1.toNat, r.2.toNat))).foldl (fun acc r =>
    match acc.getLast? with
    | some l => if r.1 ≤ l.1 + l.2 then acc.dropLast ++ [(l.1, Nat.max (l.1 + l.2) (r.1 + r.2) - l.1)] else acc ++ [r]
    | none => [r]) []

/-- The pages of a run with the places of its bytes there. -/
def Work.runPages (w : Work) (q : Who) (ea n : Nat) : List (Nat × Look) :=
  (pagesOf ((List.range n).map (ea + ·))).map fun pg =>
    let lo := Nat.max ea pg
    (lo, w.locate q [] .load 0 lo (Nat.min (ea + n) (pg + 2 ^ 16) - lo))

/-- Whether a shootdown holds a page of some runs (R44). -/
def Work.runsHeld (w : Work) (q : Who) (runs : List (Nat × Nat)) : Bool :=
  runs.any fun r => (w.runPages q r.1 r.2).any fun pg => match pg.2 with
    | .held => true
    | _ => false

/-- The keys of the bytes of some runs, by which a line that any name of them has made dirty is found (R33, R429). -/
def Work.runKeys (w : Work) (q : Who) (runs : List (Nat × Nat)) : List Nat :=
  runs.flatMap fun r => (w.runPages q r.1 r.2).flatMap fun pg => match pg.2 with
    | .ok refs => refs.map (·.key)
    | _ => []

/-- The bytes of a run read at their executing places, page by page; the first that fails with its reason, 16 for an
uncorrectable error (R429, R430). -/
def Work.runBytes (w : Work) (q : Who) (ea n : Nat) : Except (Nat × Nat × Nat) (List Byte) :=
  (w.runPages q ea n).foldl (fun acc pg =>
    match acc, pg.2 with
    | .error e, _ => .error e
    | .ok bs, .ok refs => if (w.d.meetsBad false refs).isSome then .error (pg.1, 16, 0) else .ok (bs ++ w.bytesAt refs)
    | .ok _, .bad why tensor => .error (pg.1, why, tensor)
    | .ok _, _ => .error (pg.1, 2, 0)) (.ok [])

/-- DIGEST_COMPUTE (R429, R430): the lines of the declared regions drain, their bytes are read, and the digest is written; a byte
that cannot be read leaves the digest absent. -/
def execDigestCompute (grid : Nat) (s : State) : Out :=
  event s fun w =>
    match w.d.grid grid with
    | none => none
    | some g =>
      match w.d.part g.tower, w.d.ctx g.ctx, g.digestDest with
      | some p, some x, some (space, dest) =>
        if p.ctx != some g.ctx || !w.d.mayRetire g || !g.owesDigest then none
        else
          let runs := runsOf g.regions
          if w.runsHeld (p.who x) runs then none
          else match g.drain with
          | none =>
            let keys := w.runKeys (p.who x) runs
            let (ids, w) := w.drainPart p .flush fun l => l.dirty.any fun b => keys.contains b.1.key
            some (w.mod fun d => d.modGrid grid fun y => { y with drain := some ids })
          | some ids =>
            if !w.d.drained ids then none
            else
              let q := p.who x
              let w := w.mod fun d => d.modGrid grid fun y => { y with drain := none }
              let absent := fun (f : FaultInfo) => some ((w.mod fun d => d.modGrid grid fun y => { y with digestAbsent := true }).raise f)
              let f : FaultInfo := { reason := .violation, tower := g.tower, aform := 1 }
              let msg := runs.foldl (fun acc r => match acc with
                | .error e => .error e
                | .ok m => (w.runBytes q r.1 r.2).map fun bs => m ++ natLe 8 r.1 ++ natLe 8 r.2 ++ bs) (Except.ok ([] : List Byte))
              match msg with
              | .error (ea, why, tensor) => absent (if why == 16 then { f with reason := .uncorrectable, addr := BitVec.ofNat 64 ea }
                  else { f with addr := BitVec.ofNat 64 ea, viol := some { tensor := tensor, why := why } })
              | .ok m =>
                match w.locate q [] .store space dest.toNat 64 with
                | .ok refs => some ((w.agentWrite g.tower refs (sha3 m)).mod fun d => d.modGrid grid fun y => { y with digest := some (sha3 m) })
                | .bad why tensor => absent { f with aform := aformOf space dest.toNat, addr := dest, viol := some { tensor := tensor, why := why, access := 1, space := space } }
                | _ => none
      | _, _, _ => none

/-- COMPLETION_WORD_ATOMIC (R385): every core releases what the grid's threads have done and seen (R96; assumption 71), and 1 is added to its completion word; a failure is kept and made
again after the halt. -/
def execCompletionWordAtomic (grid : Nat) (s : State) : Out :=
  event s fun w =>
    match w.d.grid grid with
    | none => none
    | some g =>
      match w.d.schedulesAt g.tower with
      | none => none
      | some (p, x) =>
        if x.ctxid != g.ctx || g.launch.complete == 0 || !w.d.mayRetire g || g.owesDigest then none
        else match g.drain with
          | none =>
            let (ids, w) := w.releaseCores .fence (w.logical p)
            some (w.mod fun d => d.modGrid grid fun y => { y with drain := some ids })
          | some ids =>
            if !w.d.drained ids then none
            else
              let a := g.launch.complete.toNat
              let fail := some (w.raise { reason := .completionWord, engine := .scheduler, tower := g.tower, aform := 1, addr := g.launch.complete, extra := g.recAddr })
              match w.locate (p.who x) [] .atomic 0 a 16 with
              | .ok refs =>
                if a % 16 != 0 || refs.any (fun r => !r.cached) || (w.d.meetsBad false refs).isSome then fail
                else
                  let hi := refs.drop 8
                  let v := leNat ((w.bytesAt hi).take 4)
                  let w := w.agentWrite g.tower (hi.take 4) (natLe 4 (v + 1))
                  some (w.mod fun d => d.modGrid grid fun y => { y with phase := .retiring, drain := none })
              | _ => fail

/-- The retirement report of a root grid (R439). -/
def Grid.report (g : Grid) : List Byte :=
  natLe 8 g.recAddr.toNat ++ natLe 8 g.accept ++ natLe 8 (bitNat g.digest.isSome + 2 * bitNat g.digestAbsent) ++ g.codeHash
    ++ g.digest.getD (List.replicate 64 0)

/-- The protection mark of a grid taken from a home line (R48). -/
def HomeLine.unkeep (grid : Nat) (h : HomeLine) : HomeLine := if h.keep == some grid then { h with keep := none } else h

/-- The protection mark of a grid taken from a copy of a home line (R48). -/
def CopyLine.unkeep (grid : Nat) (c : CopyLine) : CopyLine := if c.keep == some grid then { c with keep := none } else c

/-- The protection marks of a grid taken from an L1 (R48). -/
def Core.unkeep (c : Core) (grid : Nat) : Core :=
  { c with l1 := c.l1.map fun (l : L1Line) => if l.keep == some grid then { l with keep := none } else l }

/-- The bins of a grid's graph freed (R388). -/
def Tower.freeBins (z : Tower) (grid : Nat) : Tower :=
  { z with bins := z.bins.map fun (b : Bin) => if (b.owner.map (·.1)) == some grid then {} else b }

/-- GRID_RETIRE (R188, R385, R388): a grid whose conditions hold, with its completion word written, retires: its bins are
free, its protected lines lose their mark (R48), the grid epoch advances (R156), and a root grid is reported. -/
def execGridRetire (grid : Nat) (s : State) : Out :=
  event s fun w =>
    match w.d.grid grid with
    | none => none
    | some g =>
      match w.d.schedulesAt g.tower with
      | none => none
      | some (p, x) =>
        if x.ctxid != g.ctx || !(g.phase == .retiring || (g.launch.complete == 0 && w.d.mayRetire g && !g.owesDigest)) then none
        else some (w.mod fun d =>
          let d := { d with
            grids := d.grids.filter fun y => y.id != grid
            horizons := d.horizons.filter fun h => h.2.1 != grid
            homes := d.homes.map (HomeLine.unkeep grid)
            copies := d.copies.map (CopyLine.unkeep grid)
            cores := d.cores.map fun (e : Nat × Core) => (e.1, e.2.unkeep grid)
            towers := d.towers.map fun (e : Nat × Tower) => (e.1, e.2.freeBins grid) }
          let d := d.modCtx g.ctx fun x => { x with gridEpoch := x.gridEpoch + 1 }
          match g.depth == 0, g.origin with
          | true, some (sess, qu) => { d with host := d.host.send sess qu 3 (noticePayload 1 p.low g.ctx g.report) }
          | _, _ => d)

end Sys2Proof.Machine
end

