-- ==== Sys2Proof/Machine/Trap.lean ====
section
/-! DEFINITION. Trap: the partition halt, the handler crews, their access window, and the return from a halt
(21_traps_and_preemption.md R400 to R411, 19_isa_system.md R373 to R376). Raising a fault is `Work.raise` in `Fault`. -/

namespace Sys2Proof.Machine

/-! ## Engines stop (R400, R401) -/

/-- The engines of a partition that stop at a halt: tower, core or cluster, ENGINE code (R405). -/
def Work.engines (w : Work) (p : Part) : List (Nat × Nat × Nat) :=
  p.towers.flatMap fun t =>
    (w.cores t).flatMap (fun k => (List.range 5).map fun e => (t, k, e))
      ++ (List.range 12).map (fun c => (t, c, Engine.cmb.code)) ++ [(t, 0, Engine.scheduler.code)]

/-- An engine has stopped. -/
def Work.engineStopped (w : Work) (e : Nat × Nat × Nat) : Work :=
  w.mod fun d => d.modPart e.1 fun p => { p with halt := { p.halt with stopped := p.halt.stopped ++ [e] } }

/-- The record of an engine that stopped with work in progress (R404 FAULT 0), unless a fault of the same operation has
one already. -/
def Work.inProgress (w : Work) (f : FaultInfo) : Work :=
  if f.item != 0 && w.d.faulted f.tower f.item then w else w.putRecord f.tower { f with reason := .none, isFault := false } false

/-- Lines of a CMB that a halt still has to drain: those whose drain has not failed. -/
def Cluster.undrained (c : Cluster) : List CmbLine := c.cmb.filter fun l => l.failed.isNone

/-- Whether an operation of an engine multiplies for a pair: its two crews stand on different cores (R340). -/
def MxOp.paired (x : MxOp) (d : Dev) : Bool :=
  x.others.any fun o => (d.crew o.2).any fun c => (d.crew x.crew).any fun y => c.place.core != y.place.core

/-- The records of the pairs whose rendezvous a core's engine holds an end of, or whose product is in progress: each names both crews
(R341, R404). The partner of an arrival that stands alone is the crew of a record of this halt that names it. -/
def Work.pairRecords (w : Work) (t k : Nat) : List FaultInfo :=
  let gid := fun (n : Nat) => ((w.d.crew n).map fun c => c.place.gid).getD 0xFFFFFF
  let rec_ := fun (crew peer : Nat) (iaddr : Word) (lns : Mask) (item : Nat) =>
    ({ reason := .none, engine := .matrix, tower := t, unit := k, crew := gid crew, peer := peer, iaddr := iaddr, lanes := lns, item := item } : FaultInfo)
  let known := ((w.d.part t).map fun p => p.halt.records).getD []
  let arrived := (w.d.pairs.filter fun a => a.tower == t && a.core == k).filterMap fun a =>
    (((w.d.farArrival a).map fun b => gid b.crew).or ((known.find? fun r => r.info.peer == gid a.crew).map fun r => r.info.crew)).map fun p =>
      rec_ a.crew p a.iaddr a.lanes 0
  let running := (w.cores t).filterMap fun j => ((w.d.core t j).mxq.head?).filter fun x => x.paired w.d
  let ends := running.flatMap fun x => (x.others.map fun o => (o.1, o.2, x.crew)) ++ ((x.others.head?).toList.map fun o => (x.op, x.crew, o.2))
  arrived ++ (ends.filter fun e => (w.d.crew e.2.1).any fun c => c.place.core == k).map fun e =>
    rec_ e.2.1 (gid e.2.2) (((w.d.op e.1).map (·.iaddr)).getD 0) (((w.d.op e.1).map (·.lanes)).getD 0) e.1

/-- Whether a Kiln array may stop where it stands: as `Dev.kilnWaits` says, or at a KBND whose partner has itself stopped within a sweep, where it
registers nothing (R352; assumption 53). -/
def Work.kilnRests (w : Work) (t k : Nat) : Bool :=
  w.d.kilnWaits t k || (match (w.d.core t k).kiln.making, w.d.part t with
    | some b, some p =>
      match (w.logical p)[b.partner]? with
      | some (pt, pk) => !b.registered && (w.d.core pt pk).kiln.phase.isSome && p.halt.stopped.contains (pt, pk, Engine.kiln.code)
      | none => true
    | _, _ => false)

/-- What an engine of a core still has to do before it stops, and what it records then; `none` while it goes on. Accepted operations of
an array or tile complete first; a sweep or run with others queued behind it goes on until these have completed, unless it waits
(R241, R356, R368; assumption 53). -/
def Work.stopEngine (w : Work) (t k eng : Nat) : Option Work :=
  let core := w.d.core t k
  match eng with
  | 0 => some (w.mod fun d => { d with crews := d.crews.map fun (c : Crew) =>
      if c.place.tower == t && c.place.core == k then { c with held := false, holdCount := 0 } else c })
  | 1 => some ((core.copies.filter fun r => r.started && !r.stopped).foldl (fun w r =>
      match w.d.copyReq r.op with
      | some (c, r) => w.inProgress (r.fault c .none)
      | none => w) w)
  | 2 =>
    if core.mxq.any fun x => x.kind.writesRegs then none
    else
      let w := (w.pairRecords t k).foldl (fun w f => w.inProgress f) w
      match core.mxq with
      | [] => some w
      | x :: _ => if x.paired w.d then some w else some (w.inProgress (w.samplerFault .matrix t k x.op .none))
  | 3 =>
    if !w.kilnRests t k then none
    else match core.kiln.queue with
      | [] => some w
      | q :: _ => some (w.inProgress { w.samplerFault .kiln t k q.op .none with detail := core.kiln.swp + core.kiln.phase.getD 0 * 2 ^ 32 })
  | 4 =>
    if !w.d.slipWaits t k then none
    else match core.slip.queue with
      | [] => some w
      | q :: _ => some (w.inProgress { w.samplerFault .slip t k q.op .none with detail := core.slip.step + core.slip.t * 2 ^ 64 })
  | _ => some w

/-- One engine of a halting partition stops, with a record where it had work in progress; a CMB stops once it has drained every
dirty line (R58), its first step here being to send the drains (R400, R401). -/
def Work.haltStop (w : Work) (t k eng : Nat) : Option Work :=
  match w.d.part t with
  | none => none
  | some p =>
    if p.halt.phase != .stopping || p.halt.stopped.contains (t, k, eng) || !(w.engines p).contains (t, k, eng) then none
    else if eng == Engine.cmb.code then
      let members := (w.cores t).filter fun c => clusterOf c == k
      if members.any (fun c => !p.halt.stopped.contains (t, c, 0) || !(w.d.core t c).sq.isEmpty) then none
      else
        let left := (w.d.cluster t k).undrained
        let fresh := (left.filter fun l => !l.draining).map (·.tag)
        if left.isEmpty then some (w.engineStopped (t, k, eng))
        else if fresh.isEmpty then none
        else some (w.drains t k .halt fresh)
    else (w.stopEngine t k eng).map fun w => w.engineStopped (t, k, eng)

/-- Whether an access of an operation waits behind a dirty line whose drain has failed, which only the handler's disposition frees
(R58, R410). -/
def Dev.stuck (d : Dev) (o : Op) : Bool :=
  match d.crew o.crew with
  | none => false
  | some c => o.kind.directRefs.any fun r => (((d.cluster c.place.tower (clusterOf c.place.core)).line r.tag).map (·.failed.isSome)).getD false

/-- Whether an operation completes before the handler runs (R241, R401): accesses already sent, and ordered atomics that return a
result, so far as their turn comes while no crew issues (assumption 52). -/
def Dev.owedAtHalt (d : Dev) (o : Op) : Bool :=
  !o.done && !d.stuck o && (match o.kind with
    | .load .. => true
    | .store .. => true
    | .atomic _ _ _ _ _ none _ => true
    | .atomic _ _ _ (some _) ls (some g) _ =>
      match (d.crew o.crew).bind d.gridOf with
      | some y => ls.any fun a => !a.done && ({ g with lane := a.lane } : OrderTag).lt (d.horizon y)
      | none => false
    | .arrival .. => true
    | .migrate 5 _ _ => !d.fences.any fun f => f.crew == o.crew && f.iaddr == o.iaddr && !f.done && f.lines.any fun g =>
        (((d.cluster f.tower f.cluster).line g).map (·.failed.isSome)).getD false
    | _ => false)

/-- Whether the array or tile that an operation waits in has stopped where it stands (assumption 53). -/
def Dev.samplerWaits (d : Dev) (c : Crew) (o : Op) : Bool :=
  let k := d.core c.home.tower c.home.core
  (!k.kiln.queue.any (fun q => q.op == o.id) || d.kilnWaits c.home.tower c.home.core)
    && (!k.slip.queue.any (fun q => q.op == o.id) || d.slipWaits c.home.tower c.home.core)

/-- Whether an operation of a crew has to write a register before the crew counts as stopped (R241, R412): not one that the save withdraws, nor
one that waits as assumptions 52 and 53 say. -/
def Dev.owesRegister (d : Dev) (c : Crew) (o : Op) : Bool :=
  o.crew == c.id && !o.done && (c.pend.any fun p => p.op == o.id) && (match o.kind with
    | .sampler => !d.samplerWaits c o
    | .ring .. => o.withdrawn.isNone
    | .version .. => o.withdrawn.isNone
    | .receive _ => false
    | .atomic .. => d.owedAtHalt o
    | _ => !d.stuck o)

/-- Whether a crew that issues nothing any more has still to have registers written. -/
def Dev.unwritten (d : Dev) (c : Crew) : Bool := d.ops.any (d.owesRegister c)

/-! ## The handler crews (R407) -/

/-- A handler crew as it starts (R407). -/
def handlerCrew (id lid entry : Nat) (pl : Place) (age : Nat) : Crew :=
  { id := id, place := pl, home := pl, handler := true, age := age, gbud := 64, allot := BitVec.allOnes 64
    threads := List.replicate 32 { pc := BitVec.ofNat 64 entry }
    regs := (List.range 64).map fun r => match r with
      | 63 => .aff 0 1
      | 60 => .uni (BitVec.ofNat 64 lid)
      | 59 => .uni (BitVec.ofNat 64 (clusterOf pl.core))
      | 58 => .uni (BitVec.ofNat 64 pl.tower)
      | _ => .uni 0 }

/-- A handler crew started in slot 32 of every present core of a partition. -/
def Work.startHandlers (w : Work) (p : Part) : Work :=
  match p.handler with
  | none => w
  | some (entry, _, _) =>
    let w := (w.logical p).foldl (fun (w : Work) c =>
      let (occ, w) := w.occupy c.1 c.2 32
      let (id, w) := w.newId
      let y := handlerCrew id (w.logicalId c.1 c.2) entry { tower := c.1, core := c.2, slot := 32, occ := occ } w.d.youngest
      w.mod fun d => { d with crews := d.crews ++ [y] }) w
    w.mod fun d => d.modPart p.low fun p => { p with halt := { p.halt with phase := .handling, handlersLeft := (w.logical p).length } }

/-! ## ABND (R171) -/

/-- ABND set in the cells that a team has published to and not finished, and nothing else of them changed; a cell whose page no longer
translates gets none (assumption 67). -/
def Work.abandon (w : Work) (p : Part) (x : Ctx) (t : Team) : Work :=
  (t.tiles.filter (·.out)).foldl (fun (w : Work) e =>
    match w.locate (p.who x) [] .load 0 e.cell.toNat 32 with
    | .ok refs =>
      let key := (refs.headD { key := 0 }).key
      let v := w.num key 32
      if bit 16 v then w else w.putCellBytes key [(2, bits 23 16 v ||| 4)]
    | _ => w) w

/-- The teams of the crews that the fault records of the present halt name, by the ids their crews have or have had (assumption 24). -/
def Dev.faultedTeams (d : Dev) (h : Halt) : List Team :=
  let ids := (h.records.filter fun r => r.info.isFault).map fun r => r.info.crew
  let teams := (d.crews.filter fun c => !c.handler && ids.contains c.place.gid).map (·.team)
  d.teams.filter fun t => teams.contains t.id || t.gone.any ids.contains

/-- HALT_COMPLETE (R400, R171, R407, R439): every engine of a halting partition has stopped and the accesses sent are complete:
ABND is set, the driver is told, and the handler crews start. -/
def execHaltComplete (low : Nat) (s : State) : Out :=
  event s fun w =>
    match w.d.parts.find? fun p => p.low == low with
    | none => none
    | some p =>
      let mine := fun (o : Op) => match w.d.crew o.crew with
        | some c => p.towers.contains c.place.tower
        | none => false
      if p.halt.phase != .stopping || (w.engines p).any (fun e => !p.halt.stopped.contains e) || w.d.ops.any (fun o => w.d.owedAtHalt o && mine o) then none
      else
        let w := match p.ctx.bind w.d.ctx with
          | some x => (w.d.faultedTeams p.halt).foldl (fun (w : Work) t => w.abandon p x t) w
          | none => w
        let body := natLe 4 p.halt.halts ++ natLe 4 0 ++ w.gets (recordKey low 0) 64
        let w := w.mod fun d => d.noticeAll 2 low (p.ctx.getD 0) body
        some (w.startHandlers p)

/-! ## Dispositions (R406, R411) -/

/-- The disposition the handler wrote in a record; 0 for a record that is not in the stop area. -/
def Work.disp (w : Work) (low : Nat) (r : HaltRec) : Nat :=
  if r.index < stopRecords then (w.get (recordKey low r.index + 28)).toNat % 16 else 0

/-- A dirty line dropped: its bytes are gone, and what waited for its drain goes on (R406). -/
def Work.dropLine (w : Work) (t cl : Nat) (tag : Tag) : Work :=
  (w.mod fun d => d.modCluster t cl fun c => { c with cmb := c.cmb.filter fun l => l.tag != tag }).mod fun d =>
    { d with fences := d.fences.map fun (f : FenceRec) =>
        if f.tower == t && f.cluster == cl then { f with lines := f.lines.filter (· != tag) } else f }

/-- An ordered atomic's entry in the reorder queues of a partition changed. -/
def Dev.modHeld (d : Dev) (p : Part) (op lane : Nat) (f : Held → Held) : Dev :=
  p.towers.foldl (fun d t => d.modTower t fun z => { z with held := z.held.map fun h => if h.op == op && h.lane == lane then f h else h }) d

/-- One record's disposition carried out (R406). -/
def Work.dispose (w : Work) (p : Part) (r : HaltRec) : Work :=
  let f := r.info
  let x := w.disp p.low r
  let core := w.d.core f.tower f.unit
  match f.engine with
  | .request =>
    match w.d.copyReq f.item with
    | some (c, _) => if x == 2 then w.endCopy c f.item else w.mod fun d => d.modCopy c f.item fun q => { q with stopped := false }
    | none => w
  | .matrix =>
    match core.mxq.find? fun q => q.op == f.item with
    | some q =>
      if x == 2 then (w.mod fun d => d.modCore f.tower f.unit fun c => { c with mxq := c.mxq.filter fun y => y.op != f.item }).mxDone q fNone
      else w
    | none => w
  | .kiln => if x == 2 && core.kiln.queue.any (fun q => q.op == f.item) then w.endKiln f.tower f.unit f.item else w
  | .slip => if x == 2 && core.slip.queue.any (fun q => q.op == f.item) then w.endSlip f.tower f.unit f.item else w
  | .cmb =>
    let tag : Tag := { tensor := bits 11 0 f.detail, row := bits 127 64 f.detail, col := bits 63 32 f.detail }
    if f.reason != .deferredWriteBack && f.reason != .uncorrectable then w
    else if x == 3 then w.dropLine f.tower f.unit tag
    else w.mod fun d => d.modLine f.tower f.unit tag fun l => { l with failed := none }
  | _ => w.mod fun d => d.modHeld p (f.item / 32) (f.item % 32) fun h =>
      if h.faulted then { h with faulted := false, cancelled := x == 2 } else h

/-- Lines that an incomplete fence, release or FLUSH waits for are checked again (R411). -/
def Work.recheck (w : Work) (p : Part) : Work :=
  (w.d.fences.filter fun f => !f.done && p.towers.contains f.tower).foldl (fun w f => w.drains f.tower f.cluster f.trigger f.lines) w

/-! ## The re-halt (R402) -/

/-- The records appended while the handler crews ran moved to the front, with the new HALTS. -/
def Work.moveRecords (w : Work) (low halts : Nat) : List HaltRec → Nat → List HaltRec × Work
  | [], _ => ([], w)
  | r :: rest, n =>
    if r.index < stopRecords then
      let b := w.gets (recordKey low r.index) 64
      let w := w.puts (recordKey low n) (b.take 20 ++ natLe 4 halts ++ b.drop 24)
      let (rs, w) := w.moveRecords low halts rest (n + 1)
      ({ r with index := n, appended := false } :: rs, w)
    else
      let (rs, w) := w.moveRecords low halts rest n
      ({ r with appended := false } :: rs, w)

/-- The halt that follows a handler pass in which records were appended. -/
def Work.rehalt (w : Work) (p : Part) (rs : List HaltRec) : Work :=
  let halts := (p.halt.halts + 1) % 2 ^ 32
  let (rs, w) := w.moveRecords p.low halts rs 0
  let written := (rs.filter fun r => decide (r.index < stopRecords)).length
  let h : Halt := { p.halt with
    phase := .stopping, halts := halts, records := rs, count := written, ovf := decide (written < rs.length), stopped := [], handlersLeft := 0 }
  let p := { p with halt := h }
  (w.mod fun d => d.modPart p.low fun _ => p).putHeader p

/-! ## Resumption (R408, R409) -/

/-- A crew as it resumes: complete holds are released, and the LA counts of what is still pending restart; during a switch PREEMPT is set and
its deadline starts again (R241, R409, R413). -/
def Crew.resumed (c : Crew) (switching : Bool) (deadline : Nat) : Crew :=
  let c := c.release.laRestart
  if switching then { c with sp := { c.sp with preempt := true }, deadline := deadline } else c

/-- The cycles a crew is given to reach a yield point (R412). -/
def Dev.deadlineOf (d : Dev) (c : Crew) : Nat :=
  match ((d.gridOf c).map fun g => g.launch.deadline).getD 0 with
  | 0 => 200000
  | n => n

/-- A crew none of whose threads is eligible or waiting (R409). -/
def Crew.deadlocked (c : Crew) : Bool := c.live != 0 && c.eligible == 0 && c.live &&& c.waiting == 0

/-- The partition resumes (R408): dispositions, then HALTED, then the holds of every crew; a pass in which records were
appended is followed by a halt instead (R402). -/
def Work.resume (w : Work) (low : Nat) : Work :=
  match w.d.parts.find? fun p => p.low == low with
  | none => w
  | some p =>
    let w := (p.halt.records.filter fun r => !r.appended).foldl (fun w r => w.dispose p r) w
    match w.d.parts.find? fun p => p.low == low with
    | none => w
    | some p =>
      let carried := p.halt.records.filter fun r => r.appended
      if !carried.isEmpty then w.rehalt p carried
      else
        let gone := match p.ctx.bind w.d.ctx with
          | some x => !x.resident
          | none => true
        let p := { p with halt := { p.halt with phase := .running, records := [], stopped := [], handlersLeft := 0 }, ctx := if gone then none else p.ctx }
        let w := (w.mod fun d => d.modPart low fun _ => p).putHeader p
        let mine := fun (c : Crew) => !c.handler && p.towers.contains c.place.tower
        let switching := match p.ctx.bind w.d.ctx with
          | some x => x.switch != .idle
          | none => false
        let w := w.mod fun d =>
          let d := { d with crews := d.crews.map fun c => if mine c then c.resumed switching (d.deadlineOf c) else c }
          match p.ctx with
          | some x => (d.modCtx x fun x => if x.switch == .idle then x else { x with switch := .stopping }).modPart low fun p =>
              if ((d.ctx x).map (·.switch)).getD .idle == .idle then p else { p with drain := none }
          | none => d
        let stuck := (sortOn (fun c => c.place.gid) (w.d.crews.filter fun c => mine c && c.deadlocked))
        let w := w.raiseAll (stuck.map fun c => c.fault .meetingDeadlock 0 0)
        w.recheck p

/-- The end of a handler crew; the last one of a partition lets it resume (R374, R408). -/
def Work.endHandler (w : Work) (c : Crew) : Work :=
  let w := w.mod fun d =>
    { d with crews := d.crews.filter fun y => y.id != c.id, fences := d.fences.filter fun f => f.crew != c.id }
  match w.d.part c.place.tower with
  | none => w
  | some p =>
    let left := (w.d.crews.filter fun y => y.handler && p.towers.contains y.place.tower).length
    let w := w.mod fun d => d.modPart p.low fun p => { p with halt := { p.halt with handlersLeft := left } }
    let replays := w.d.checkpoints.any fun k => p.towers.contains k.tower && k.replay.isSome
    if left == 0 && p.halt.phase == .handling && !replays then w.resume p.low else w

/-- ERET (R374): once the crew's counters are zero, a full fence at device scope; then the handler crew ends. -/
def execEret (o : OpG) (s : State) : Out :=
  issue s o.g { slots := .handler } fun i w =>
    match ((i.crew w).cnt.findIdx? (· != 0)) with
    | some n => .again i.w0 (.counter (n + 1) 0)
    | none =>
      (i.releaseOf w i.act 4 true).bind fun w =>
        .ok ((w.acquire i.c.place.tower i.c.place.core 4).endHandler (i.crew w))

/-! ## The access window (R375, R376) -/

/-- A window address: its zero fields are zero, CREW, CLASS, INDEX, THREAD. -/
structure WinAddr where
  ok : Bool
  crew : Nat
  cls : Nat
  index : Nat
  thread : Nat

/-- The fields of a window address (R375). -/
def WinAddr.ofNat (a : Nat) : WinAddr :=
  { ok := bits 63 56 a == 0 && bits 31 28 a == 0 && bits 15 5 a == 0
    crew := bits 55 32 a, cls := bits 27 24 a, index := bits 23 16 a, thread := bits 4 0 a }

/-- The crew a window address names; `place` is the tower and core it must stand on, where the window is a handler's. -/
def Dev.winCrew (d : Dev) (a : WinAddr) (place : Option (Nat × Nat)) : Option Crew :=
  d.crews.find? fun c => !c.handler && c.place.gid == a.crew && decide (c.place.slot ≤ 33)
    && (match place with | some q => q == (c.place.tower, c.place.core) | none => true)

/-- Whether a crew is stopped: its partition is halted with every engine stopped, its tower is debug-halted and its registers are written, or
it has itself stopped. -/
def Dev.crewStopped (d : Dev) (c : Crew) : Bool :=
  c.status == .stopped || (match d.part c.place.tower with
    | some p => p.halt.phase == .handling || (p.debugHalted.contains c.place.tower && !d.unwritten c)
    | none => false)

/-- Whether CLASS and INDEX name an item of a crew (R375). -/
def WinAddr.names (a : WinAddr) (c : Crew) : Bool :=
  match a.cls with
  | 0 => c.allotted a.index
  | 1 => c.allotted a.index
  | 5 => decide (a.index ≤ 11)
  | n => decide (n ≤ 4) && a.index == 0

/-- An item read (R375). -/
def Work.winItem (w : Work) (c : Crew) (a : WinAddr) : Word :=
  let th := c.thread a.thread
  match a.cls with
  | 0 => c.val a.index a.thread
  | 1 => BitVec.ofNat 64 (c.reg a.index).tag
  | 2 => th.pc
  | 3 => th.m
  | 4 => BitVec.ofNat 64 (((List.range 7).foldl (fun n p => n + if (c.pred p).getLsbD a.thread then 2 ^ p else 0) 0) + if th.exited then 2 ^ 8 else 0)
  | _ => match a.index with
    | 0 => BitVec.ofNat 64 (((List.range 6).map fun n => c.cnt.getD n 0 * 2 ^ (7 * n)).sum)
    | 1 => w.special c 1
    | 2 => w.special c 3
    | 3 => w.special c 5
    | 4 => w.special c 6
    | 5 => w.special c 7
    | 6 => BitVec.ofNat 64 c.repi
    | 7 => BitVec.ofNat 64 c.seq
    | 8 => BitVec.ofNat 64 c.tw
    | 9 => BitVec.ofNat 64 c.gw
    | 10 => BitVec.ofNat 64 (c.sa + c.sb * 2 ^ 8)
    | _ => w.special c 4

/-- A register given another value through the window, with the G-budget checked (R204, R376). -/
def Crew.winPut (c : Crew) (r : Nat) (v : RegVal) : Except Nat Crew :=
  let y := { c with regs := setNth (.uni 0) c.regs r fun _ => v }
  if y.overBudget && v.isGen && !(c.reg r).isGen then .error 5 else .ok y

/-- Threads of the group between two repeats that stand on its REP no more: with none left the repeat is over (R246). -/
def Crew.leaveRep (c : Crew) (m : Mask) : Crew :=
  let left := c.repGroup &&& ~~~ m
  { c with repGroup := left, repi := if c.repGroup != 0 && left == 0 then 0 else c.repi }

/-- An item written: the crew it leaves, or a status (R375, R376). -/
def Crew.winWrite (c : Crew) (a : WinAddr) (v : Word) : Except Nat Crew :=
  let lane := a.thread
  match a.cls with
  | 0 => c.winPut a.index (.gen (modNth (c.reg a.index).all lane fun _ => v))
  | 1 => match v.toNat % 4 with
    | 0 => c.winPut a.index (.uni (c.val a.index lane))
    | 1 => c.winPut a.index (.aff (c.val a.index 0) (c.val a.index 1 - c.val a.index 0))
    | 2 => c.winPut a.index (.gen (c.reg a.index).all)
    | _ => .error 6
  | 2 => if bits 1 0 v.toNat != 0 || bits 63 52 v.toNat != 0 then .error 6
         else .ok (({ c with threads := modNth c.threads lane fun t => { t with pc := v } } : Crew).leaveRep (if (c.thread lane).pc == v then 0 else maskOf (· == lane)))
  | 3 => .ok { c with threads := modNth c.threads lane fun t => { t with m := v } }
  | 4 =>
    let setBit (p : Nat) (m : Mask) : Mask := if (v.getLsbD p) then m ||| maskOf (· == lane) else m &&& ~~~ maskOf (· == lane)
    .ok { c with preds := c.preds.mapIdx setBit }
  | _ => match a.index with
    | 1 => .ok { c with sp := { c.sp with fstat := v.setWidth 5 } }
    | 2 => .ok { c with sp := if v.getLsbD 63 && v.setWidth 48 == 0#48 then { c.sp with ctmrArm := false, ctmr := 0, ctmrFault := true }
        else { c.sp with ctmrArm := v.getLsbD 63, ctmr := v.setWidth 48 } }
    | 3 => .ok { c with sp := { c.sp with gangr := v.setWidth 33 } }
    | 4 => .ok { c with sp := { c.sp with key0 := v } }
    | 5 => .ok { c with sp := { c.sp with key1 := v } }
    | 10 => .ok { c with sa := bits 5 0 v.toNat, sb := bits 13 8 v.toNat }
    | _ => .error 4

/-- The crew and item of a window address, or the status that refuses it (R376). -/
def Dev.winFind (d : Dev) (a : WinAddr) (place : Option (Nat × Nat)) : Except Nat Crew :=
  if !a.ok then .error 3
  else match d.winCrew a place with
    | none => .error 1
    | some c => if !d.crewStopped c then .error 2 else if !a.names c then .error 3 else .ok c

/-- A read through the window: value and status. -/
def Work.winRead (w : Work) (a : Word) (place : Option (Nat × Nat)) : Word × Nat :=
  let x := WinAddr.ofNat a.toNat
  match w.d.winFind x place with
  | .ok c => (w.winItem c x, 0)
  | .error e => (0, e)

/-- A write through the window: its status. -/
def Work.winStore (w : Work) (a v : Word) (place : Option (Nat × Nat)) : Nat × Work :=
  let x := WinAddr.ofNat a.toNat
  match (w.d.winFind x place).bind fun c => c.winWrite x v with
  | .ok c => (0, w.mod fun d => d.setCrew c)
  | .error e => (e, w)

/-- WINR (R375, R376): item and status of each active lane, in the two registers from vd on. -/
def execWinr (o : OpDA) (s : State) : Out :=
  let d := o.d.toNat
  issue s o.g { reads := [o.a.toNat], writes := [d, d + 1], slots := .handler } fun i w =>
    let place := some (i.c.place.tower, i.c.place.core)
    let rs := lanes.map fun l => w.winRead (i.val o.a.toNat l) place
    i.write w fun c => (c.put d (.gen (rs.map (·.1))) i.act).put (d + 1) (.gen (rs.map fun r => BitVec.ofNat 64 r.2)) i.act

/-- WINW (R375, R376): the active lanes write their items in ascending order, and vd takes the statuses. -/
def execWinw (o : OpRR) (s : State) : Out :=
  issue s o.g { reads := [o.a.toNat, o.b.toNat], writes := [o.d.toNat], slots := .handler } fun i w =>
    let place := some (i.c.place.tower, i.c.place.core)
    let (st, w) := (maskLanes i.act).foldl (fun (acc : List (Nat × Nat) × Work) l =>
      let (e, w) := acc.2.winStore (i.val o.a.toNat l) (i.val o.b.toNat l) place
      (acc.1 ++ [(l, e)], w)) ([], w)
    i.write w fun c => c.put o.d.toNat (.gen (lanes.map fun l => BitVec.ofNat 64 (getA st l 0))) i.act

/-! ## Timers (R207, R412) -/

/-- Whether time passes for a crew: it is resident, and its tower is not debug-halted (R417, R418). -/
def Dev.resident (d : Dev) (c : Crew) : Bool :=
  match d.part c.place.tower with
  | some p => p.ctx.isSome && !p.debugHalted.contains c.place.tower
  | none => false

/-- CTMR_EXPIRE (R207): an armed crew timer has reached 0: ARM clears, and the crew's next instruction faults. -/
def execCtmrExpire (crew : Nat) (s : State) : Out :=
  event s fun w =>
    match w.d.crew crew with
    | none => none
    | some c =>
      if !c.sp.ctmrArm || c.sp.ctmr != 0 || !w.d.resident c then none
      else some (w.mod fun d => d.modCrew crew fun c => { c with sp := { c.sp with ctmrArm := false, ctmr := 0, ctmrFault := true } })

/-- Whether a crew is past its deadline in a switch: it issues nothing more, unless a pair arrival of its team is pending (R341, R412). -/
def Dev.overdue (d : Dev) (c : Crew) : Bool :=
  !c.handler && c.status == .running && c.sp.preempt && c.deadline == 0 && !d.pairing c && (match d.part c.place.tower with
    | some p => p.halt.phase == .running && (match p.ctx.bind d.ctx with
      | some x => x.switch == .stopping
      | none => false)
    | none => false)

/-- PREEMPT_DEADLINE_EXPIRE (R412): a crew that has not stopped by its deadline is forced to, between instructions, once its
pending registers are written; not while a pair arrival of its team is pending (R341). -/
def execPreemptDeadlineExpire (crew : Nat) (s : State) : Out :=
  event s fun w =>
    match w.d.crew crew with
    | none => none
    | some c =>
      if !w.d.overdue c || w.d.unwritten c then none else some (w.stopCrew c true)

end Sys2Proof.Machine
end

