-- ==== Sys2Proof/Machine/Image.lean ====
section
/-! DEFINITION. Image: pre-emption, context switch and save images (21_traps_and_preemption.md R412 to R417), and the responses
of transport commands (R437). -/

namespace Sys2Proof.Machine

/-! ## Responses (R437) -/

/-- The general status codes of R436. -/
def stMalformed : Nat := 0x10000
/-- Not permitted in the current state. -/
def stRefused : Nat := 0x10001
/-- A violation under R20. -/
def stViolation : Nat := 0x10002
/-- Insufficient save area. -/
def stSaveArea : Nat := 0x10003
/-- Seal or image check failed. -/
def stImage : Nat := 0x10004

/-- A queue of a session changed. -/
def HostSide.modQueue (h : HostSide) (sess q : Nat) (f : Queue → Queue) : HostSide :=
  { h with sessions := h.sessions.map fun s => if s.id == sess then s.setQueue (f (s.queue q)) else s }

/-- The response to the command at the head of a queue: TAGID, DLEN, STATUS and data; the next command may then be applied,
and a session that was to end after the response ends (R437, R448). -/
def Dev.respond (d : Dev) (cmd : Nat × Nat × Nat) (status : Nat) (data : List Byte) : Dev :=
  let (sess, q, tag) := cmd
  let h := d.host.send sess q 1 (natLe 16 (tag * 2 ^ 64 + data.length * 2 ^ 32 + status) ++ data)
  let h := h.modQueue sess q fun k => { k with commands := k.commands.tail, busy := false, drains := [] }
  { d with host := { h with sessions := h.sessions.filter fun s => !s.ending } }

/-- See `Dev.respond`. -/
def Work.respond (w : Work) (cmd : Nat × Nat × Nat) (status : Nat) (data : List Byte := []) : Work := w.mod fun d => d.respond cmd status data

/-! ## The layout of a save image (R414 to R416) -/

/-- Zero bytes. -/
def zeros (n : Nat) : List Byte := List.replicate n 0

/-- Bytes made up to a length with zeros. -/
def padTo (n : Nat) (b : List Byte) : List Byte := b ++ zeros (n - b.length)

/-- Bytes of an opaque block (R414). -/
def opaqueBytes (mark block n : Nat) : List Byte := (List.range n).map fun i => Config.imageByte mark block i

/-- A register in a crew image: 8 bytes for U, 16 for A, 256 for G (R415). -/
def RegVal.image (v : RegVal) : List Byte :=
  match v with
  | .uni u => natLe 8 u.toNat
  | .aff b s => natLe 8 b.toNat ++ natLe 8 s.toNat
  | .gen _ => v.all.flatMap fun x => natLe 8 x.toNat

/-- The 16 bits of a thread: p0 to p6, exited, SKIP (R415). -/
def Crew.threadBits (c : Crew) (l : Nat) : Nat :=
  ((List.range 7).foldl (fun n p => n + if (c.pred p).getLsbD l then 2 ^ p else 0) 0)
    + (if (c.thread l).exited then 2 ^ 7 else 0) + (c.thread l).skip % 2 ^ 7 * 2 ^ 8

/-- The header of a crew image (R415); `nwd` is the number of its operations that are saved. -/
def Crew.header (c : Crew) (nwd : Nat) : List Byte :=
  padTo 1024 (
    (lanes.flatMap fun l => natLe 8 (c.thread l).pc.toNat)
    ++ (lanes.flatMap fun l => natLe 8 (c.thread l).m.toNat)
    ++ (lanes.flatMap fun l => natLe 2 (c.threadBits l))
    ++ natLe 16 (((List.range 64).map fun k => (if c.allotted k then (c.reg k).tag else 0) * 4 ^ k).sum)
    ++ natLe 8 ((((List.range 6).map fun n => c.cnt.getD n 0 * 2 ^ (7 * n)).sum) + nwd % 256 * 2 ^ 48
        + bitNat c.forced * 2 ^ 56 + bitNat c.landed * 2 ^ 57 + bitNat c.gpend * 2 ^ 58)
    ++ natLe 8 c.sp.fstat.toNat
    ++ natLe 8 (bitNat c.sp.ctmrArm * 2 ^ 63 + c.sp.ctmr.toNat)
    ++ natLe 8 c.sp.gangr.toNat ++ natLe 8 c.sp.key0.toNat ++ natLe 8 c.sp.key1.toNat
    ++ natLe 8 c.repi
    ++ natLe 4 c.seq ++ natLe 4 c.tw ++ natLe 4 c.gw
    ++ natLe 4 (c.sa % 64 + c.sb % 64 * 2 ^ 8)
    ++ natLe 2 c.bar.toNat ++ zeros 6
    ++ natLe 8 (bitNat c.sp.cancel * 2 + bitNat c.sp.preempt)
    ++ natLe 8 c.allot.toNat
    ++ natLe 8 (c.place.gid + c.index * 2 ^ 32)
    ++ natLe 4 (c.ep.grid % 2 ^ 16) ++ zeros 4
    ++ ((List.range 4).flatMap fun i => natLe 4 (match c.ep.peers[i]? with | some g => g % 2 ^ 24 + 2 ^ 31 | none => 0)))

/-- A crew image (R415). -/
def Crew.image (c : Crew) (mark : Nat) (nwd : Nat) : List Byte :=
  let b := c.header nwd ++ ((List.range 64).filter c.allotted).flatMap (fun k => (c.reg k).image)
    ++ (List.range nwd).flatMap (fun i => opaqueBytes mark (2 ^ 20 + c.id * 256 + i) 64)
  padTo ((b.length + 63) / 64 * 64) b

/-- A team record (R416); `lid` is its logical core. -/
def Team.record (t : Team) (g : Grid) (crews lid : Nat) : List Byte :=
  padTo 1024 (
    natLe 4 t.index ++ natLe 4 crews ++ natLe 8 g.accept ++ natLe 4 (lid + bitNat t.bound * 2 ^ 31) ++ natLe 4 g.launch.localg ++ zeros 8
    ++ (t.barriers.flatMap fun b =>
        natLe 8 (((List.range t.crews.length).map fun i => if b.arrived.contains (t.crews.getD i 0) then 2 ^ i else 0).sum + b.n * 2 ^ 32))
    ++ natLe 4 t.baton ++ natLe 4 t.epoch
    ++ ((List.range 16).flatMap fun i => match t.tiles[i]? with
        | some e => natLe 16 (e.cell.toNat + e.held0 * 2 ^ 64 + e.held1 * 2 ^ 72 + bitNat e.infin * 2 ^ 80 + bitNat e.out * 2 ^ 81 + 2 ^ 82
            + bitNat e.got * 2 ^ 83)
        | none => zeros 16))

/-- A core block (R414); `n` numbers its opaque parts. -/
def Core.block (c : Core) (mark n : Nat) : List Byte :=
  ((List.range 65536).flatMap fun i => natLe 4 (getA c.acc i 0))
    ++ opaqueBytes mark (16 + 2 * n) (96 * 1024) ++ opaqueBytes mark (17 + 2 * n) (48 * 1024)
    ++ ((List.range 4).flatMap fun d =>
        let q := c.nq.getD d []
        padTo 4096 (padTo 2048 (q.flatMap fun e => e.flatMap fun x => natLe 8 x.toNat) ++ natLe 8 (q.length + c.credits.getD d 8 * 16)))

/-- Local memory saved with a team and with its landed crews: by team, and by crew. -/
structure Locals where
  team : Nat → List Byte
  crew : Nat → List Byte

/-- The teams of a save that the image holds, in ascending index. -/
def Saved.imageTeams (v : Saved) : List Team :=
  sortOn (·.index) (sortOn (fun t => ((v.grids.find? fun g => g.id == t.grid).map (·.accept)).getD 0) (v.teams.filter fun t => t.phase == .resident))

/-- The crews of a team of a save, in crew order. -/
def Saved.crewsOf (v : Saved) (t : Team) : List Crew := t.crews.filterMap fun id => v.crews.find? fun c => c.id == id

/-- The operations of a crew of a save. -/
def Saved.opsOf (v : Saved) (c : Crew) : Nat := (v.ops.filter fun o => o.crew == c.id).length

/-- A team in the image: its record, its crews, its local allotment, and the landing allotments of its landed crews. -/
def Saved.team (v : Saved) (m : Locals) (t : Team) : List Byte :=
  let crews := v.crewsOf t
  let g := (v.grids.find? fun g => g.id == t.grid).getD {}
  let lid := v.layout.findIdx fun c => c == (t.tower, t.core)
  t.record g crews.length lid ++ (crews.flatMap fun c => c.image v.mark (v.opsOf c)) ++ m.team t.id
    ++ (crews.filter (·.landed)).flatMap fun c => m.crew c.id

/-- The rest of the image after the context header. -/
def Saved.body (v : Saved) (m : Locals) : List Byte :=
  (v.towers.mapIdx fun i _ => opaqueBytes v.mark i (64 * 1024)).flatten
    ++ (v.cores.mapIdx fun i e => e.2.block v.mark i).flatten
    ++ v.imageTeams.flatMap fun t => v.team m t

/-- The context header (R414) with a seal. -/
def Ctx.imageHeader (x : Ctx) (halts used teams : Nat) (mac : List Byte) : List Byte :=
  padTo 4096 (padTo 1024 (natLe 64 (used + x.ctxid * 2 ^ 64 + x.cmr.toNat * 2 ^ 96 + teams * 2 ^ 128 + halts % 2 ^ 32 * 2 ^ 160 + x.gridEpoch % 2 ^ 16 * 2 ^ 192)
      ++ mac)
    ++ ((List.range 64).flatMap fun i => match x.decls[i]? with
      | some (a, g) => natLe 16 (a.toNat + g % 2 ^ 24 * 2 ^ 64 + 2 ^ 88)
      | none => zeros 16))

/-- The whole image of a context (R414). -/
def Saved.image (v : Saved) (x : Ctx) (halts : Nat) (m : Locals) : List Byte :=
  let body := v.body m
  let head := x.imageHeader halts (4096 + body.length) v.imageTeams.length
  let mac := sha3 ((head []).take 64 ++ (head []).drop 128 ++ body)
  head mac ++ body

/-! ## Reading an image back -/

/-- A number at an offset of an image. -/
def numAt (b : List Byte) (o n : Nat) : Nat := leNat ((b.drop o).take n)

/-- A crew with the fields of its image (R415), and the length of the image. -/
def Crew.ofImage (c : Crew) (b : List Byte) : Crew × Nat :=
  let word := fun (o : Nat) => BitVec.ofNat 64 (numAt b o 8)
  let tags := numAt b 576 16
  let sum := numAt b 592 8
  let bits16 := fun (l : Nat) => numAt b (512 + 2 * l) 2
  let tag := fun (k : Nat) => tags / 4 ^ k % 4
  let regs := ((List.range 64).filter c.allotted).foldl (fun (acc : List RegVal × Nat) k =>
    let o := acc.2
    match tag k with
    | 1 => (modNth acc.1 k (fun _ => .aff (word o) (word (o + 8))), o + 16)
    | 2 => (modNth acc.1 k (fun _ => .gen (lanes.map fun l => word (o + 8 * l))), o + 256)
    | _ => (modNth acc.1 k (fun _ => .uni (word o)), o + 8)) (c.regs, 1024)
  let len := regs.2 + 64 * bits 55 48 sum
  let ctmr := numAt b 608 8
  let sasb := numAt b 660 4
  ({ c with
      threads := c.threads.mapIdx fun l t =>
        { t with pc := word (8 * l), m := word (256 + 8 * l), exited := bit 7 (bits16 l), skip := bits 14 8 (bits16 l) }
      preds := c.preds.mapIdx fun p _ => maskOf fun l => bit p (bits16 l)
      regs := regs.1
      cnt := (List.range 6).map fun n => bits (7 * n + 6) (7 * n) sum
      forced := bit 56 sum, gpend := bit 58 sum
      sp := { c.sp with fstat := BitVec.ofNat 5 (numAt b 600 8), ctmrArm := bit 63 ctmr, ctmr := BitVec.ofNat 48 ctmr, gangr := BitVec.ofNat 33 (numAt b 616 8)
                        key0 := word 624, key1 := word 632, cancel := bit 1 (numAt b 672 8), preempt := bit 0 (numAt b 672 8) }
      repi := numAt b 640 8
      seq := numAt b 648 4, tw := numAt b 652 4, gw := numAt b 656 4
      sa := bits 5 0 sasb, sb := bits 13 8 sasb
      bar := BitVec.ofNat 16 (numAt b 664 2)
      ep := { grid := numAt b 696 2, peers := ((List.range 4).filter fun i => bit 31 (numAt b (704 + 4 * i) 4)).map fun i => numAt b (704 + 4 * i) 3 } },
    (len + 63) / 64 * 64)

/-- A team with the fields of its record (R416). -/
def Team.ofRecord (t : Team) (b : List Byte) : Team :=
  { t with
    bound := bit 31 (numAt b 16 4), baton := numAt b 160 4, epoch := numAt b 164 4
    barriers := t.barriers.mapIdx fun i _ =>
      { arrived := ((List.range t.crews.length).filter fun j => bit j (numAt b (32 + 8 * i) 4)).map fun j => t.crews.getD j 0
        n := bits 5 0 (numAt b (36 + 8 * i) 4) }
    tiles := ((List.range 16).filter fun i => bit 82 (numAt b (168 + 16 * i) 16)).map fun i =>
      let v := numAt b (168 + 16 * i) 16
      { cell := BitVec.ofNat 64 v, held0 := bits 71 64 v, held1 := bits 79 72 v, infin := bit 80 v, out := bit 81 v, got := bit 83 v } }

/-- A core with the accumulator store and the neighbour queues of its block (R414). -/
def Core.ofBlock (c : Core) (b : List Byte) : Core :=
  let at_ := fun (d : Nat) => 400 * 1024 + 4096 * d
  let count := fun (d : Nat) => numAt b (at_ d + 2048) 8
  { c with
    acc := ((List.range 65536).map fun i => (i, numAt b (4 * i) 4)).filter fun e => e.2 != 0
    nq := (List.range 4).map fun d => (List.range (count d % 16)).map fun e => lanes.map fun l => BitVec.ofNat 64 (numAt b (at_ d + 256 * e + 8 * l) 8)
    credits := (List.range 4).map fun d => bits 7 4 (count d) }

/-- What reading the teams of an image has come to: the rest of the image, teams and crews read, local memory. -/
structure Parse where
  rest : List Byte
  teams : List Team := []
  crews : List Crew := []
  locs : List (Nat × List Byte) := []
  lands : List (Nat × List Byte) := []

/-- One team of an image read. -/
def Parse.team (p : Parse) (v : Saved) (t : Team) : Parse :=
  let g := (v.grids.find? fun g => g.id == t.grid).getD {}
  let t := t.ofRecord p.rest
  let p := (v.crewsOf t).foldl (fun (p : Parse) c =>
    let (c, n) := c.ofImage p.rest
    { p with rest := p.rest.drop n, crews := p.crews ++ [c] }) { p with rest := p.rest.drop 1024, teams := p.teams ++ [t] }
  let n := g.launch.localg * 1024
  let p := { p with locs := p.locs ++ [(t.id, p.rest.take n)], rest := p.rest.drop n }
  ((v.crewsOf t).filter (·.landed)).foldl (fun (p : Parse) c =>
    { p with lands := p.lands ++ [(c.id, p.rest.take 16384)], rest := p.rest.drop 16384 }) p

/-- The context and the save that an image describes (R414). -/
def Saved.ofImage (v : Saved) (x : Ctx) (b : List Byte) : Ctx × Nat × Saved × Parse :=
  let h := numAt b 0 64
  let x := { x with
    cmr := BitVec.ofNat 32 (bits 127 96 h), gridEpoch := bits 207 192 h
    decls := ((List.range 64).filter fun i => bit 88 (numAt b (1024 + 16 * i) 16)).map fun i =>
      let e := numAt b (1024 + 16 * i) 16
      (BitVec.ofNat 64 e, bits 87 64 e) }
  let cores := b.drop (4096 + v.towers.length * 64 * 1024)
  let size := 416 * 1024
  let p := v.imageTeams.foldl (fun (p : Parse) t => p.team v t) { rest := cores.drop (v.cores.length * size) }
  (x, bits 191 160 h,
    { v with
      cores := v.cores.mapIdx fun i e => (e.1, e.2.ofBlock ((cores.drop (i * size)).take size))
      teams := v.teams.map fun t => (p.teams.find? fun y => y.id == t.id).getD t
      crews := v.crews.map fun c => (p.crews.find? fun y => y.id == c.id).getD c },
    p)

/-! ## The switch (R412, R413) -/

/-- The crews of a context, while it is resident. -/
def Dev.crewsIn (d : Dev) (p : Part) : List Crew := d.crews.filter fun c => !c.handler && p.towers.contains c.place.tower

/-- A switch begun (R412): PREEMPT is set in every resident crew, and its deadline starts; while the partition is halted this
waits for the resumption (R413). -/
def Work.beginSwitch (w : Work) (p : Part) (x : Ctx) (cmd : Nat × Nat × Nat) : Work :=
  w.mod fun d =>
    { (d.modCtx x.ctxid fun x => { x with switch := .stopping, switchCmd := some cmd }) with
      crews := d.crews.map fun c => if !c.handler && p.halt.phase == .running && p.towers.contains c.place.tower
        then { c with sp := { c.sp with preempt := true }, deadline := d.deadlineOf c } else c }

/-- Whether an operation may be outstanding in a save: it is complete, it can be withdrawn, or it is a sampler run. Atomics, ordered ones
included, run to completion first (R118, R147; assumption 51). -/
def Op.saveable (o : Op) : Bool := o.done || o.withdrawn.isSome || o.reissues || o.kind == .sampler

/-- Whether a core has nothing to do that must end before a save (R413 step 2): an array stands between sweeps, and a wait of its KSWP for
snapshots has been counted (R356). -/
def Dev.coreQuiet (d : Dev) (t k : Nat) : Bool :=
  let c := d.core t k
  let x := c.kiln
  c.copies.isEmpty && c.sq.isEmpty && c.mxq.isEmpty && d.kilnWaits t k && x.phase.isNone && d.slipWaits t k
    && (x.fresh || x.stalled || x.windowEnd || x.queue.isEmpty || !((d.part t).map fun p => p.debugHalted.isEmpty).getD true)

/-- Whether the operations of a context have drained or can be withdrawn, and no digest of it is being computed (R118, R413, R429). -/
def Work.quiet (w : Work) (p : Part) : Bool :=
  let crews := (w.d.crewsIn p).map (·.id)
  (w.d.ops.all fun o => !crews.contains o.crew || o.saveable) && (w.d.fences.all fun f => !crews.contains f.crew || f.done)
    && (p.towers.all fun t => (w.cores t).all fun k => w.d.coreQuiet t k)
    && !(w.d.races.any fun r => p.towers.contains (r.gid / 2 ^ 21))
    && !(w.d.grids.any fun g => p.ctx == some g.ctx && g.owesDigest && g.drain.isSome)

/-- A core as a context that leaves it leaves it. -/
def Core.vacated (c : Core) : Core :=
  { c with l1 := [], fills := [], acc := [], nq := [[], [], [], []], credits := [8, 8, 8, 8], kiln := { quarantined := c.kiln.quarantined }, slip := {}
           pending := [], landing := [], granUsed := [], dictOwner := none, dict := [] }

/-- A tower as a context that leaves it leaves it. -/
def Tower.vacated (z : Tower) : Tower :=
  { z with queues := [[], [], [], [], [], [], [], []], bins := List.replicate 64 {}, pairs := [], held := [], walks := [], waitingWalks := [] }

/-- A crew as it is saved: PREEMPT is cleared by the save. -/
def Crew.saved (c : Crew) : Crew := { c with sp := { c.sp with preempt := false }, held := false, holdCount := 0, stalled := false, walkFails := [], issued := false }

/-- A team's local memory, and the landing allotment of a landed crew. -/
def Work.localsOf (w : Work) (v : Saved) : Locals :=
  { team := fun id => match v.teams.find? fun t => t.id == id with
      | some t => (List.range (t.gran.length * 1024)).map fun i => w.get (granKey t.tower t.core t.gran i)
      | none => []
    crew := fun id => match v.teams.findSome? fun t => t.lands.find? fun e => e.1 == id with
      | some e => e.2
      | none => match v.crews.find? fun c => c.id == id with
        | some c => w.gets (localKey c.place.tower c.place.core (landingGranule * 1024)) 16384
        | none => [] }

/-- The local references of the operations queued in a core's array and tile changed, crew by crew. -/
def Core.mapRows (c : Core) (f : Nat → BRef → BRef) : Core :=
  { c with
    kiln := { c.kiln with queue := c.kiln.queue.map fun q => { q with kind := q.kind.withRows (q.kind.rows.map fun r => r.map (f q.crew)) } }
    slip := { c.slip with queue := c.slip.queue.map fun q => { q with kind := q.kind.withRows (q.kind.rows.map fun r => r.map (f q.crew)) } } }

/-- A reference of a crew's as it is kept: a local one by its place in the team's allotment (R356, R368). -/
def Dev.unplacedRef (d : Dev) (crew : Nat) (r : BRef) : BRef := { r with key := unplacedKey (((d.crew crew).map d.localGranules).getD []) r.key }

/-- A kept reference of a crew's in the allotment that its team holds now. -/
def Dev.placedRef (d : Dev) (crew : Nat) (r : BRef) : BRef :=
  match d.crew crew with
  | some c => if r.key < localBase then r else { r with key := granKey c.place.tower c.place.core (d.localGranules c) (r.key - localBase) }
  | none => r

/-- A crew as the image of its context has it: one that waits to land again is saved as landed, and the request by which it asks for that is
not counted (R197, R416). -/
def Dev.inImage (d : Dev) (c : Crew) : Crew :=
  (match d.relanding c.id with
    | some _ => (d.asLanded c).modCount 6 (· - 1)
    | none => c).saved

/-- What is saved of a context. -/
def Work.savedOf (w : Work) (p : Part) (x : Ctx) (mark : Nat) : Saved :=
  let crews := w.d.crewsIn p
  let ids := crews.map (·.id)
  let grids := w.d.grids.filter fun g => g.ctx == x.ctxid
  let mine := fun (g : Nat) => grids.any fun y => y.id == g
  { mark := mark, layout := w.logical p
    cores := (w.logical p).map fun c => (coreKey c.1 c.2, (w.d.core c.1 c.2).mapRows w.d.unplacedRef)
    towers := p.towers.map fun t => (t, w.d.tower t)
    grids := grids
    teams := w.d.teams.filter fun t => mine t.grid
    crews := crews.map w.d.inImage
    ops := (w.d.ops.filter fun o => ids.contains o.crew && !o.reissues).map fun o => w.d.keptOp ((o.withdrawn).getD o)
    deliveries := w.d.deliveries.filter fun e => mine e.grid
    horizons := w.d.horizons.filter fun h => mine h.2.1
    dealing := p.dealing, head := p.head }

/-- The machine as it is saved: what is complete of the context's operations has retired, and its crews have given up their slots (R118, R157,
R416). -/
def Work.readyToSave (w : Work) (p : Part) : Work :=
  (w.retireDone ((w.d.crewsIn p).map (·.id))).mod fun d => (d.crewsIn p).foldl (fun d c => d.leaveSlot c) d

/-- Step 4 of a switch (R413, R414): the image is written and the context leaves the partition; where it does not fit, the
switch fails and the context resumes. -/
def Work.saveContext (w : Work) (p : Part) (x : Ctx) : Work :=
  let cmd := x.switchCmd.getD (0, 0, 0)
  let (mark, w) := w.freeAt
  let w0 := w
  let w := w.readyToSave p
  let v := w.savedOf p x mark
  let img := v.image x p.halt.halts (w.localsOf v)
  if p.saveSize < img.length then
    (w0.mod fun d =>
      { ((d.modCtx x.ctxid fun x => { x with switch := .idle, switchCmd := none }).modPart p.low fun p => { p with drain := none }) with
        crews := d.crews.map fun (c : Crew) => if !c.handler && p.towers.contains c.place.tower then
          ({ c with sp := { c.sp with preempt := false }, status := if c.status == .stopped then .running else c.status, forced := false } : Crew).release else c }).respond cmd stSaveArea
  else
    let w := w.puts (areaKey p.low 1 0) img
    (w.mod fun d =>
      let ids := v.crews.map (·.id)
      let d := { d with
        crews := d.crews.filter fun c => !ids.contains c.id
        teams := d.teams.filter fun t => !v.teams.any fun y => y.id == t.id
        grids := d.grids.filter fun g => g.ctx != x.ctxid
        ops := d.ops.filter fun o => !ids.contains o.crew
        fences := d.fences.filter fun f => !ids.contains f.crew
        deliveries := d.deliveries.filter fun e => !v.grids.any fun g => g.id == e.grid
        horizons := d.horizons.filter fun h => !v.grids.any fun g => g.id == h.2.1
        homes := d.homes.filter fun h => h.tag.tensor == 0, copies := d.copies.filter fun c => c.tag.tensor == 0 }
      let d := v.layout.foldl (fun d c => d.modCore c.1 c.2 Core.vacated) d
      let d := p.towers.foldl (fun d t => d.modTower t Tower.vacated) d
      let d := d.modPart p.low fun p => { p with ctx := none, dealing := none, head := none, drain := none }
      d.modCtx x.ctxid fun x => { x with switch := .idle, switchCmd := none, resident := false, saved := some v }).respond cmd 0

/-- CONTEXT_SWITCH_STEP (R413): the next step of the switch of a partition's context, once the step before it is done on every
core. -/
def execContextSwitchStep (low : Nat) (s : State) : Out :=
  event s fun w =>
    match w.d.parts.find? fun p => p.low == low with
    | none => none
    | some p =>
      match p.ctx.bind w.d.ctx with
      | none => none
      | some x =>
        let to_ := fun (w : Work) (y : SwitchPhase) => some (w.mod fun d => d.modCtx x.ctxid fun x => { x with switch := y })
        if p.halt.phase != .running then none
        else match x.switch with
          | .idle => none
          | .stopping =>
            let crews := w.d.crewsIn p
            if crews.any (fun c => c.status == .running || w.d.departs c.id) then none
            else
              let w := w.mod fun d => d.withdraw (crews.map (·.id))
              let w := w.unissue (w.d.ops.filter fun o => o.reissues && !w.d.relands o.crew && crews.any fun c => c.id == o.crew)
              let still (c : Crew) : Crew := if crews.any (fun y => y.id == c.id) then c.atRest else c
              to_ (w.mod fun d => { d with crews := d.crews.map still }) .draining
          | .draining =>
            if !w.quiet p then none
            else
              let (ids, w) := w.drainPart p .switch fun _ => true
              to_ (w.mod fun d => d.modPart low fun p => { p with drain := some ids }) .cmbs
          | .cmbs =>
            let dirty := p.towers.any fun t => (List.range 12).any fun c => !(w.d.cluster t c).cmb.isEmpty
            if dirty || !w.d.drained (p.drain.getD []) then none else to_ w .image
          | .image => some (w.saveContext p x)

/-! ## Restore (R414, R416, R417) -/

/-- A Slip tile as it is restored: a physical run settles again before it goes on (R368). -/
def Slip.restored (x : Slip) : Slip :=
  match x.queue with
  | q :: _ =>
    match q.kind with
    | .run _ settle .. => if x.mode == 0 && x.running then { x with resettle := settle } else x
    | _ => x
  | [] => x

/-- A core with the state of a saved one put back. -/
def Core.restored (c y : Core) : Core :=
  { c with acc := y.acc, nq := y.nq, credits := y.credits, kiln := { y.kiln with quarantined := c.kiln.quarantined }, slip := y.slip.restored
           pending := y.pending, dictOwner := y.dictOwner, dict := y.dict }

/-- A tower with the scheduler of a saved one put back, and CYC going on from the value saved (R417). -/
def Tower.restored (z y : Tower) : Tower :=
  { z with queues := y.queues, bins := y.bins, pairs := y.pairs, held := y.held, cyc := y.cyc }

/-- A crew put back into the lowest free slot of its core, or a landed one into slot 33 of its landing core once that is free (R184, R197,
R416). -/
def Work.restoreCrew (w : Work) (c : Crew) : Work :=
  match (w.d.freeSlots c.home.tower c.home.core).head? with
  | none => w
  | some slot =>
    let keep (x : Wait) : Bool := x.cond == .registers || (maskLanes x.mask).all fun l => (c.thread l).pc == x.addr
    let status := if c.status == .stopped then CrewStatus.running else c.status
    w.replaceCrew { c with status := status, forced := false, waits := c.waits.filter keep } c.home.tower c.home.core slot

/-- A team put back on its core, with its local memory and what its landed crews had in theirs (R197, R416). -/
def Work.restoreSaved (w : Work) (v : Saved) (x : Ctx) (bytes : List Byte) (lands : List (Nat × List Byte)) (t : Team) : Work :=
  let crews := v.crewsOf t
  let (gran, w) := w.takeGranules t.tower t.core x.ctxid (bytes.length / 1024)
  let w := w.putLocal t.tower t.core gran 0 bytes
  let kept := (crews.filter (·.landed)).map fun c => (c.id, ((lands.find? fun e => e.1 == c.id).map (·.2)).getD [])
  let w := w.mod fun d => { d with teams := d.teams ++ [{ t with gran := gran, lands := kept }] }
  let w := crews.foldl (fun w c => w.restoreCrew c) (w.acquire t.tower t.core 3)
  w.mod fun d => d.modTeam t.id fun y => { y with tag := (((t.crews.head?).bind d.crew).map (·.place.gid)).getD t.tag }

/-- A restore (R414): the image in the save area is checked and the context put back; its status. A bad image faults and restores nothing; so
does one with blocks of cores that the partition has no more (assumption 77). CYC goes on from the first issue (R417). -/
def Work.restoreContext (w : Work) (p : Part) (x : Ctx) : Nat × Work :=
  match x.saved with
  | none => (stRefused, w)
  | some v =>
    let used := w.num (areaKey p.low 1 0) 8
    let img := w.gets (areaKey p.low 1 0) (Nat.min used p.saveSize)
    let (x', halts, v', q) := v.ofImage x img
    let m : Locals :=
      { team := fun id => ((q.locs.find? fun e => e.1 == id).map (·.2)).getD []
        crew := fun id => ((q.lands.find? fun e => e.1 == id).map (·.2)).getD [] }
    if p.saveSize < used || v'.image x' halts m != img || bits 75 64 (numAt img 0 64) != x.ctxid || v.layout.any (fun c => !(w.logical p).contains c) then
      let w := w.mod fun d => d.modPart p.low fun p => { p with ctx := some x.ctxid }
      (stImage, w.raise { reason := .malformedImage, engine := .scheduler, tower := p.low })
    else
      let w := w.mod fun d =>
        let d := v'.cores.foldl (fun d e => d.modCore (e.1 / 48) (e.1 % 48) fun c => c.restored e.2) d
        let d := v'.towers.foldl (fun d e => d.modTower e.1 fun z => z.restored e.2) d
        let d := { d with
          grids := d.grids ++ v'.grids, deliveries := d.deliveries ++ v'.deliveries, horizons := d.horizons ++ v'.horizons
          teams := d.teams ++ v'.teams.filter fun (t : Team) => t.phase != TeamPhase.resident }
        let d := d.modCtx x.ctxid fun _ => { x' with resident := true, saved := none, cycHeld := true }
        d.modPart p.low fun p => { p with ctx := some x.ctxid, dealing := v'.dealing, head := v'.head, halt := { p.halt with halts := halts, count := 0, ovf := false } }
      let w := match w.d.part p.low with
        | some p => w.putHeader p
        | none => w
      let w := v'.imageTeams.foldl (fun w t => w.restoreSaved v' x (m.team t.id) q.lands t) w
      let w := w.mod fun d =>
        let d := v'.cores.foldl (fun d e => d.modCore (e.1 / 48) (e.1 % 48) fun c => c.mapRows d.placedRef) d
        { d with ops := d.ops ++ v'.ops }
      let w := w.resendSaved v'.ops
      let late := p.halt.deferred
      (0, (w.mod fun d => d.modPart p.low fun p => { p with halt := { p.halt with deferred := [] } }).raiseAll late)

end Sys2Proof.Machine
end

