-- ==== Sys2Proof/Machine/Transport.lean ====
section
/-! DEFINITION. Transport: the frames, queues and sessions of the port, and the commands that reach device memory
(23_host_boot_security.md R432 to R438, 01_address_spaces.md R43 to R46). -/

namespace Sys2Proof.Machine

/-! ## Frames (R432 to R434) -/

/-- A frame as it reaches the device: the UDP port and the address it is sent to, whether it passes the IP and UDP checks, and its bytes. An
address is a number of 128 bits, as an IPv6 address in transmission order, an IPv4 address as the IPv4-mapped one. -/
structure Arrived where
  port : Nat
  addr : Nat
  checks : Bool
  bytes : List Byte

/-- The device port of the transport (R432). -/
def transportPort : Nat := 47000

/-- Bytes in transmission order as a number. -/
def beNat (bs : List Byte) : Nat := bs.foldl (fun n b => n * 256 + b.toNat) 0

/-- The IPv6 link-local address of a MAC address by the modified EUI-64 rule (R432, R447): the universal/local bit of its first byte inverted,
and FF FE in its middle. -/
def linkLocal (mac : BitVec 48) : Nat :=
  0xFE80 * 2 ^ 112 + ((bits 47 24 mac.toNat).xor 0x020000) * 2 ^ 40 + 0xFFFE * 2 ^ 24 + bits 23 0 mac.toNat

/-- The address of a stored IPv4 subcommand value, as the number that `Arrived` says. -/
def ipv4Addr (v : List Byte) : Nat := 0xFFFF * 2 ^ 32 + beNat (v.take 4)

/-- The address of a stored IPv6 subcommand value. -/
def ipv6Addr (v : List Byte) : Nat := beNat (v.take 16)

/-- Whether the device has an address: its link-local one, or a configured one (R432, R447). -/
def Work.hasAddr (w : Work) (addr : Nat) : Bool :=
  addr == linkLocal w.fx.mac || (!w.d.nv.ipv4.isEmpty && addr == ipv4Addr w.d.nv.ipv4) || (!w.d.nv.ipv6.isEmpty && addr == ipv6Addr w.d.nv.ipv6)

/-- The fields of a transport header (R433). -/
structure FrameHead where
  ack : Nat
  seq : Nat
  len : Nat
  kind : Nat
  queue : Nat
  session : Nat
  ok : Bool

/-- The header of a frame. -/
def FrameHead.ofNat (v : Nat) : FrameHead :=
  { ack := bits 127 96 v, seq := bits 95 64 v, len := bits 63 48 v, kind := bits 47 40 v, queue := bits 21 16 v, session := bits 15 8 v
    ok := bits 7 0 v == 1 && bits 39 22 v == 0 && decide (bits 63 48 v ≤ 9120) && decide (bits 47 40 v ≤ 3) }

/-- The GCM nonce of a frame the host sends (R433). -/
def FrameHead.nonce (h : FrameHead) : List Byte := frameNonce h.session h.queue (if h.kind == 2 then 2 else 0) h.seq

/-- A frame verified: its header, its session and its payload; `none` for one that the device discards (R432, R433). -/
def Work.openFrame (w : Work) (f : Arrived) : Option (FrameHead × Session × List Byte) :=
  let h := FrameHead.ofNat (leNat (f.bytes.take 16))
  if !w.d.boot.running || !f.checks || f.port != transportPort || !w.hasAddr f.addr || 9216 < f.bytes.length || f.bytes.length != 32 + h.len || !h.ok then none
  else match w.d.host.sessions.find? fun s => s.number == h.session with
    | none => none
    | some s => (Config.gcmOpen s.hostKey h.nonce (f.bytes.take 16) (f.bytes.drop 16)).map fun p => (h, s, p)

/-- A queue whose frames up to an ACK are acknowledged, and the frames that enter the window by it (R434). -/
def Queue.acknowledge (k : Queue) (ack : Nat) : Queue × List SentFrame :=
  let n := (ack + 2 ^ 32 - k.acked) % 2 ^ 32
  if n ≤ Nat.min k.unacked.length windowSize then
    ({ k with acked := ack, unacked := k.unacked.drop n }, (k.unacked.drop windowSize).take n)
  else (k, [])

/-- An ACK on a queue taken (R433, R434). -/
def HostSide.acked (h : HostSide) (sess q ack : Nat) : HostSide :=
  match h.sessions.find? fun s => s.id == sess with
  | none => h
  | some s =>
    let (k, out) := (s.queue q).acknowledge ack
    { h.modQueue sess q (fun _ => k) with sent := h.sent ++ out }

/-- An acknowledgement-only frame sent (R433). -/
def HostSide.sendAck (h : HostSide) (sess q : Nat) : HostSide :=
  match h.sessions.find? fun s => s.id == sess with
  | none => h
  | some s =>
    let k := s.queue q
    { h.modQueue sess q (fun k => { k with ackCount := k.ackCount + 1 }) with
      sent := h.sent ++ [s.frame q 2 k.ackCount k.expected []] }

/-- FRAME_RECEIVE (R432 to R434): a command frame is verified; the one that is expected is accepted, its ACK is taken, and the
expected number is returned; any other that verifies is discarded with the last ACK repeated. A failing frame changes
nothing. -/
def execFrameReceive (port addr : Nat) (checks : Bool) (bytes : List Byte) (s : State) : Out :=
  event s fun w =>
    match w.openFrame { port := port, addr := addr, checks := checks, bytes := bytes } with
    | none => none
    | some (h, ss, p) =>
      if h.kind != 0 then none
      else
        let k := ss.queue h.queue
        if h.seq == k.expected then
          some (w.mod fun d =>
            let x := (d.host.acked ss.id h.queue h.ack).modQueue ss.id h.queue fun k =>
              { k with expected := (k.expected + 1) % 2 ^ 32, commands := k.commands ++ [p] }
            { d with host := x.sendAck ss.id h.queue })
        else some (w.mod fun d => { d with host := d.host.sendAck ss.id h.queue })

/-- ACKNOWLEDGEMENT_FRAME (R433, R434): a verified frame of KIND 2 advances the window of the queue it names. -/
def execAcknowledgementFrame (port addr : Nat) (checks : Bool) (bytes : List Byte) (s : State) : Out :=
  event s fun w =>
    match w.openFrame { port := port, addr := addr, checks := checks, bytes := bytes } with
    | none => none
    | some (h, ss, _) =>
      if h.kind != 2 then none else some (w.mod fun d => { d with host := d.host.acked ss.id h.queue h.ack })

/-- RETRANSMIT_TIMEOUT (R434): every unacknowledged frame of a queue that has been sent is sent again as it was. -/
def execRetransmitTimeout (sess q : Nat) (s : State) : Out :=
  event s fun w =>
    match w.d.host.sessions.find? fun x => x.id == sess with
    | none => none
    | some x =>
      let fs := (x.queue q).unacked.take windowSize
      if fs.isEmpty || !w.d.boot.running then none else some (w.mod fun d => { d with host := { d.host with sent := d.host.sent ++ fs } })

/-! ## Sessions (R435) -/

/-- Sessions the device holds at once (R435). -/
def sessionCount : Nat := 4

/-- A signature of the device under its identity key (R435, R439). -/
def Boot.sign (b : Boot) (msg : List Byte) : List Byte := (List.range 4627).map fun i => Config.signatureByte b.identity msg i

/-- SESSION_ESTABLISH (R435): a host whose exchange on queue 0 is signed under an enrolled key, or under any key while none is
enrolled, opens a session; the device signs the exchange in its turn. -/
def execSessionEstablish (addr : Nat) (key msg sig : List Byte) (s : State) : Out :=
  event s fun w =>
    let hash := sha3 key
    let known := w.d.nv.keys.any fun e => e.1 == hash
    if !w.d.boot.running || !w.hasAddr addr || sessionCount ≤ w.d.host.sessions.length || !Config.signatureOk key msg sig
        || !(known || w.d.nv.keys.isEmpty) then none
    else
      match (List.range 256).find? fun n => n != 0 && !w.d.host.sessions.any fun x => x.number == n with
      | none => none
      | some n =>
        let (id, w) := w.newId
        let x : Session := { id := id, number := n, key := if known then some hash else none, keyEpoch := id, address := addr }
        some (w.mod fun d => { d with host := { d.host with sessions := d.host.sessions ++ [x], proofs := d.host.proofs ++ [d.boot.sign msg] } })

/-- SESSION_REKEY (R435): a session takes new keys. -/
def execSessionRekey (sess : Nat) (s : State) : Out :=
  event s fun w =>
    if !w.d.boot.running || !w.d.host.sessions.any fun x => x.id == sess then none
    else
      let (id, w) := w.newId
      some (w.mod fun d => { d with host := { d.host with sessions := d.host.sessions.map fun x => if x.id == sess then { x with keyEpoch := id } else x } })

/-! ## Commands (R436 to R438) -/

/-- A command at the head of a queue: its header's fields, whether its zero fields are zero, and its operand block. -/
structure Cmd where
  session : Nat
  queue : Nat
  tag : Nat
  part : Nat
  ctxid : Nat
  code : Nat
  ok : Bool
  ops : List Byte

/-- A command payload read (R436). -/
def Cmd.ofBytes (session queue : Nat) (b : List Byte) : Cmd :=
  let v := leNat (b.take 16)
  { session := session, queue := queue, tag := bits 127 64 v, part := bits 51 48 v, ctxid := bits 47 36 v, code := bits 15 0 v
    ok := decide (16 ≤ b.length) && bits 63 52 v == 0 && bits 35 16 v == 0, ops := b.drop 16 }

/-- What a response needs of it. -/
def Cmd.id (c : Cmd) : Nat × Nat × Nat := (c.session, c.queue, c.tag)

/-- A field of the operand block, by bits. -/
def Cmd.field (c : Cmd) (hi lo : Nat) : Nat := bits hi lo (leNat c.ops)

/-- Codes whose operand block begins with SUB. -/
def subCodes : List Nat := [7, 8, 0xA, 0xB, 0xE]

/-- What a command is: its CODE, with its SUB above where it has one. -/
def Cmd.kind (c : Cmd) : Nat := if subCodes.contains c.code then c.code + c.field 31 0 * 2 ^ 16 else c.code

/-- The KIND of a code with a SUB. -/
def subKind (code sub : Nat) : Nat := code + sub * 2 ^ 16

/-- The commands that exist (R438, R442, R448). -/
def knownKinds : List Nat :=
  [1, 2, 3, 4, 5, 6, 9, 0xC, 0xD]
    ++ (List.range 10).map (fun n => subKind 7 (n + 1)) ++ (List.range 4).map (fun n => subKind 8 (n + 1))
    ++ (List.range 5).map (fun n => subKind 0xA (n + 1)) ++ (List.range 2).map (fun n => subKind 0xB (n + 1))
    ++ (List.range 6).map (fun n => subKind 0xE (n + 1))

/-- The KIND of the enrolment of a host key. -/
def enrolKind : Nat := subKind 0xE 3

/-- The command at the head of a queue, while the device runs. -/
def Dev.headCmd (d : Dev) (sess q : Nat) : Option (Cmd × Session × Queue) :=
  if !d.boot.running then none
  else match d.host.sessions.find? fun x => x.id == sess with
    | none => none
    | some x =>
      let k := x.queue q
      (k.commands.head?).map fun b => (Cmd.ofBytes sess q b, x, k)

/-- One command of a given kind applied (R434, R437): a malformed one, or one on a session that carries only an enrolment, is
refused. -/
def command (kind sess q : Nat) (len : Cmd → Nat) (s : State) (f : Work → Cmd → Session → Work) : Out :=
  event s fun w =>
    match w.d.headCmd sess q with
    | none => none
    | some (c, x, k) =>
      if k.busy || c.kind != kind then none
      else if x.key.isNone && kind != enrolKind then some (w.respond c.id stRefused)
      else if !c.ok || c.ops.length != len c then some (w.respond c.id stMalformed)
      else some (f w c x)

/-- The partition a command names (R436). -/
def Cmd.partOf (c : Cmd) (d : Dev) : Option Part := d.parts.find? fun p => p.low == c.part

/-- The partition and the context a command names; the context belongs to the partition. -/
def Cmd.ctxOf (c : Cmd) (d : Dev) : Option (Part × Ctx) :=
  match c.partOf d, d.ctx c.ctxid with
  | some p, some x => if x.part == p.low then some (p, x) else none
  | _, _ => none

/-- A command whose effect completes later holds its queue (R437). -/
def Work.hold (w : Work) (c : Cmd) : Work :=
  w.mod fun d => { d with host := d.host.modQueue c.session c.queue fun k => { k with busy := true } }

/-- UNKNOWN_COMMAND (R436, R437, R442): a command with an unknown code is refused, and so is an unknown subcommand. -/
def execUnknownCommand (sess q : Nat) (s : State) : Out :=
  event s fun w =>
    match w.d.headCmd sess q with
    | none => none
    | some (c, x, k) =>
      if k.busy || knownKinds.contains c.kind then none
      else if x.key.isNone then some (w.respond c.id stRefused)
      else if subCodes.contains c.code || !c.ok then some (w.respond c.id stMalformed)
      else some (w.respond c.id 0xFFFFFFFF)

/-- LAUNCH (R378, R313): a root grid's record is read, checked and queued; the status of R313. -/
def execLaunch (sess q : Nat) (s : State) : Out :=
  command 1 sess q (fun _ => 8) s fun w c _ =>
    match c.ctxOf w.d with
    | none => w.respond c.id stRefused
    | some (p, x) =>
      if !x.resident then w.respond c.id stRefused
      else
        let (st, w) := w.acceptRoot p x (BitVec.ofNat 64 (c.field 63 0)) (some (c.session, c.queue)) c.id.2.2
        w.respond c.id st

/-! ## Reading and writing memory (R101, R436, R444) -/

/-- The agent a transport command is (R436). -/
def Part.transport (p : Part) (x : Ctx) : Who := { p.who x with transport := true }

/-- The bytes a read or write names (R436): a status, or where they stand. -/
def Work.named (w : Work) (c : Cmd) (a : Acc) (space addr n : Nat) : Except Nat (List BRef) :=
  match c.partOf w.d with
  | none => .error stMalformed
  | some p =>
    let at_ := fun (x : Ctx) => match w.locate (p.transport x) [] a space addr n with
      | .ok refs => if (w.d.meetsBad (a == .store) refs).isSome then .error stViolation else .ok refs
      | _ => .error stViolation
    if space == 0 then
      match c.ctxOf w.d with
      | none => .error stRefused
      | some (_, x) => at_ x
    else at_ {}

/-- The STATUS word of R446. -/
def Boot.status (b : Boot) : Nat := b.stage % 16 * 16 + (if b.safe then 1 else 0)

/-- The SPLITR register (R444). -/
def Dev.splitr (d : Dev) : Nat := (d.parts.map fun p => 2 ^ p.low).sum

/-- A management register (R444). -/
def Work.mgmtReg (w : Work) (off : Nat) : Nat :=
  match off with
  | 0x00 => 0x0008 * 2 ^ 16 + w.fx.stepping.toNat * 2 ^ 8
  | 0x08 => w.d.boot.status
  | 0x10 => w.d.splitr
  | 0x18 => (w.d.parts.flatMap fun p => p.debugHalted.map fun t => 2 ^ t).sum
  | 0xE0 => w.d.nv.keys.length
  | _ =>
    if off % 8 != 0 then 0
    else if 0x20 ≤ off && off < 0x60 then (w.fx.harv.getD ((off - 0x20) / 8) 0).toNat
    else if 0x60 ≤ off && off < 0xA0 then
      match w.d.parts.find? fun p => p.low == (off - 0x60) / 8 with
      | some p => (if p.halt.phase == .running then 0 else 2 ^ 33) + (match p.ctx with | some x => 2 ^ 32 + x | none => 0)
      | none => 0
    else if 0xA0 ≤ off && off < 0xE0 then (w.d.tower ((off - 0xA0) / 8)).arrayClock
    else 0

/-- READ (R436, R438, R444): bytes at their executing places, or management registers; an access that fails any check reads
nothing. -/
def execRead (sess q : Nat) (s : State) : Out :=
  command 2 sess q (fun _ => 16) s fun w c _ =>
    let addr := c.field 63 0
    let n := c.field 95 64
    let space := c.field 98 96
    if c.field 127 99 != 0 || n == 0 || 8192 < n || !([0, 1, 3, 4].contains space) then w.respond c.id stMalformed
    else if space == 4 then
      if n % 8 != 0 || addr % 8 != 0 then w.respond c.id stMalformed
      else w.respond c.id 0 ((List.range (n / 8)).flatMap fun i => natLe 8 (w.mgmtReg (addr % 2 ^ 36 + 8 * i)))
    else match w.named c .load space addr n with
      | .error e => w.respond c.id e
      | .ok refs => (w.logAccess 8 c.part 0 refs).respond c.id 0 (w.bytesAt refs)

/-- WRITE (R436, R438, R444): bytes applied at their executing places, copies of their lines gone; an access that fails any
check writes nothing, and a management register is never written. -/
def execWrite (sess q : Nat) (s : State) : Out :=
  command 3 sess q (fun c => 16 + c.field 95 64) s fun w c _ =>
    let n := c.field 95 64
    let space := c.field 98 96
    if c.field 127 99 != 0 || n == 0 || 8192 < n || !([0, 1, 3, 4].contains space) then w.respond c.id stMalformed
    else if space == 4 then w.respond c.id stRefused
    else match w.named c .store space (c.field 63 0) n with
      | .error e => w.respond c.id e
      | .ok refs => ((w.logAccess 8 c.part 0 refs).agentWrite c.part refs (c.ops.drop 16)).respond c.id 0

/-- TRANSPORT_FLUSH (R438): every CMB line with bytes of the range drains; the response follows when the drains are over. -/
def execTransportFlush (sess q : Nat) (s : State) : Out :=
  event s fun w =>
    match w.d.headCmd sess q with
    | none => none
    | some (c, x, k) =>
      if c.kind != 4 then none
      else if k.busy then (if w.d.drained k.drains then some (w.respond c.id 0) else none)
      else if x.key.isNone then some (w.respond c.id stRefused)
      else if !c.ok || c.ops.length != 16 then some (w.respond c.id stMalformed)
      else match c.ctxOf w.d with
        | none => some (w.respond c.id stRefused)
        | some (p, _) =>
          let r := (c.field 63 0, c.field 127 64)
          let (ids, w) := w.drainPart p .flush fun l => l.dirty.any fun b => inRanges [r] b.1.va
          some ((w.hold c).mod fun d => { d with host := d.host.modQueue sess q fun k => { k with drains := ids } })

/-- Lines of an L1 that hold bytes of a range of virtual addresses (R138): by the blocks they were named by, or by their
tensor's segments. -/
def Ctx.lineIn (x : Ctx) (r : Nat × Nat) (tag : Tag) (vas : List Nat) : Bool :=
  (vas.any fun v => decide (r.1 < v + 256) && decide (v < r.1 + r.2))
    || (match x.ranges.find? fun e => e.2.2.1 == tag.tensor with
      | some (_, _, _, v) => ((Desc.ofNat v).segments tag).any fun s => decide (r.1 < s + (Desc.ofNat v).tileW) && decide (s < r.1 + r.2)
      | none => false)

/-- The lines of a core's L1 that a test picks dropped. -/
def Core.dropWhere (k : Core) (f : Tag → List Nat → Bool) : Core :=
  let tags := (k.l1.filter fun l => f l.tag l.vas).map (·.tag) ++ (k.fills.filter fun l => f l.tag l.vas).map (·.tag)
  k.l1Drop fun l => tags.contains l.tag

/-- TRANSPORT_INVALIDATE (R138): every L1 of the partition drops its lines that hold bytes of the range. -/
def execTransportInvalidate (sess q : Nat) (s : State) : Out :=
  command 5 sess q (fun _ => 16) s fun w c _ =>
    match c.ctxOf w.d with
    | none => w.respond c.id stRefused
    | some (p, x) =>
      let r := (c.field 63 0, c.field 127 64)
      (w.mod fun d => (w.logical p).foldl (fun d k => d.modCore k.1 k.2 fun y => y.dropWhere (x.lineIn r)) d).respond c.id 0

/-! ## Shootdown (R43 to R46) -/

/-- SHOOTDOWN (R43): a shootdown is put behind the partition's others; its response is returned at its step 5. -/
def execShootdown (sess q : Nat) (s : State) : Out :=
  command 6 sess q (fun _ => 16) s fun w c _ =>
    match c.ctxOf w.d with
    | none => w.respond c.id stRefused
    | some (p, x) =>
      if c.field 127 101 != 0 || c.field 15 0 != 0 || c.field 63 52 != 0 then w.respond c.id stMalformed
      else
        let z : Shootdown := { part := p.low, ctx := x.ctxid, step := 0, start := c.field 63 0, pages := c.field 99 64, globals := bit 100 (leNat c.ops), cmd := c.id }
        (w.hold c).mod fun d => { d with shootdowns := d.shootdowns ++ [z] }

/-- Whether a page range covers a virtual address. -/
def Shootdown.covers (z : Shootdown) (va : Nat) : Bool := z.pages == 0 || (z.start ≤ va && decide (va < z.start + z.pages * 2 ^ 16))

/-- Whether a TLB entry goes at step 4 (R44). -/
def Shootdown.takes (z : Shootdown) (e : TlbEntry) : Bool :=
  let lo := e.vpn * 2 ^ pageBits e.level
  let hi := lo + 2 ^ pageBits e.level
  let range := z.pages == 0 || (decide (z.start < hi) && decide (lo < z.start + z.pages * 2 ^ 16))
  range && (if bit 5 e.leaf.toNat then z.globals else e.ctx == z.ctx)

/-- Whether an operation's accesses, translated already, have still to complete or to reach their executing places (R44): loads, stores and
unordered atomics until they are done, ordered atomics, ring and version-cell operations until they are there. What an engine has queued, and what
was sent back or withdrawn, is translated when it goes on. -/
def Op.unsettled (o : Op) : Bool :=
  match o.kind with
  | .load .. => true
  | .store .. => true
  | .atomic _ _ _ _ _ none _ => true
  | .atomic _ _ _ _ ls (some _) _ => ls.any fun a => !a.done && !a.accepted
  | .ring _ _ ls _ => ls.any fun a => a.state == 0
  | .version _ _ _ _ _ _ state _ _ => state == 0
  | _ => false

/-- The fills on their way to the L1s of a partition, by when they were sent. -/
def Work.fillsSent (w : Work) (p : Part) : List Nat := (w.logical p).flatMap fun k => (w.d.core k.1 k.2).fills.map (·.sent)

/-- The accesses already translated that step 2 waits for (R44): those in flight of the partition's crews, and its fills. -/
def Work.inFlight (w : Work) (p : Part) : List Nat :=
  ((w.d.ops.filter fun o => !o.done && o.unsettled && (match w.d.crew o.crew with
    | some c => p.towers.contains c.place.tower
    | none => false)).map (·.id)) ++ w.fillsSent p

/-- The lines of a partition whose drain has failed checked again: one that passes now may drain (R411). -/
def Work.retryFailed (w : Work) (p : Part) : Work :=
  (p.towers.flatMap fun t => (List.range 12).map fun cl => (t, cl)).foldl (fun w tc =>
    (w.d.cluster tc.1 tc.2).cmb.foldl (fun w l =>
      if l.failed.isNone || l.bad || l.segs.any fun va => (w.segRefuses tc.1 tc.2 l va).isSome then w
      else w.mod fun d => d.modLine tc.1 tc.2 l.tag fun l => { l with failed := none }) w) w

/-- Step 4 of a shootdown (R44): TLB entries, walk-cache entries and walks in progress, and tensor lines with a segment in the range. No fill of
one is on its way with a segment of the range: step 2 has waited for the older ones, and a later one leaves held pages out. -/
def Work.invalidate (w : Work) (p : Part) (x : Ctx) (z : Shootdown) : Work :=
  let hit := fun (tag : Tag) => tag.tensor != 0 && (match x.ranges.find? fun e => e.2.2.1 == tag.tensor with
    | some (_, _, _, v) => ((Desc.ofNat v).segments tag).any z.covers
    | none => false)
  w.mod fun d =>
    let d := (w.logical p).foldl (fun d k => d.modCore k.1 k.2 fun y =>
      { y.dropWhere (fun tag _ => hit tag) with tlb := y.tlb.filter fun e => !z.takes e }) d
    let d := p.towers.foldl (fun d t =>
      let d := (List.range 12).foldl (fun d c => d.modCluster t c fun y => { y with tlb := y.tlb.filter fun e => !z.takes e }) d
      d.modTower t fun y =>
        let fresh := fun (a : Walk) => if a.ctx == z.ctx then { a with level := 0, node := x.root } else a
        { y with walkCache := y.walkCache.filter (fun e => e.ctx != z.ctx), walks := y.walks.map fresh, waitingWalks := y.waitingWalks.map fresh }) d
    let drop := fun (c : Crew) => if p.towers.contains c.place.tower && !c.walkFails.isEmpty
      then { c with walkFails := c.walkFails.filter fun f => !z.covers (f.1 * 2 ^ 16) } else c
    { d with homes := d.homes.filter (fun h => !hit h.tag), copies := d.copies.filter (fun c => !hit c.tag), crews := d.crews.map drop }

/-- SHOOTDOWN_STEP (R44, R45): the next step of the shootdown at the head of a partition's, once the step before it is done
everywhere. Step 3 checks held lines again through the old entries (R411). -/
def execShootdownStep (low : Nat) (s : State) : Out :=
  event s fun w =>
    match w.d.parts.find? (fun p => p.low == low), w.d.shootdowns.find? fun z => z.part == low with
    | some p, some z =>
      let set := fun (w : Work) (f : Shootdown → Shootdown) => some (w.mod fun d => { d with shootdowns := d.shootdowns.map fun y => if y == z then f y else y })
      let over_ := fun (w : Work) => some ((w.mod fun d => { d with shootdowns := d.shootdowns.erase z }).respond z.cmd 0)
      match w.d.ctx z.ctx with
      | none => over_ w
      | some x =>
        let here := p.ctx == some z.ctx
        match z.step with
        | 0 => set w fun y => { y with step := 1 }
        | 1 => set w fun y => { y with step := 2, settle := some (if here then w.inFlight p else []) }
        | 2 =>
          let early := z.settle.getD []
          if (w.d.ops.any fun o => early.contains o.id && !o.done && o.unsettled && (w.d.crew o.crew).isSome) || (w.fillsSent p).any early.contains then none
          else
            let (ids, w) := if here then (w.retryFailed p).drainPart p .shootdown fun l => l.failed.isNone else ([], w)
            set w fun y => { y with step := 3, drains := some ids }
        | 3 =>
          let failed := fun (f : FenceRec) => f.lines.all fun g => (((w.d.cluster f.tower f.cluster).line g).map (·.failed.isSome)).getD true
          if w.d.fences.any fun f => (z.drains.getD []).contains f.id && !f.done && !failed f then none
          else
            let w := w.mod fun d => { d with fences := d.fences.filter fun f => !(z.drains.getD []).contains f.id }
            set (w.invalidate p x z) fun y => { y with step := 4 }
        | 4 => set w fun y => { y with step := 5 }
        | _ => over_ w
    | _, _ => none

end Sys2Proof.Machine
end

