-- ==== Sys2Proof/Machine/Partition.lean ====
section
/-! DEFINITION. Partition: partition management, contexts, the debugger and the checkpoints of towers
(23_host_boot_security.md R438 to R442, 21_traps_and_preemption.md R412 to R421, 02_memory_hierarchy.md R67). -/

namespace Sys2Proof.Machine

/-! ## Partition management (R440, R442, R451) -/

/-- A value folded into a measurement register (R451). -/
def Dev.measure (d : Dev) (i : Nat) (bytes : List Byte) : Dev :=
  { d with boot := { d.boot with meas := modNth d.boot.meas i fun m => sha3 (m ++ sha3 bytes) } }

/-- One subcommand of partition management on the partition that PART names: a status, or the machine with the value in
force, which is measured (R440, R442, R451). -/
def partitionCmd (sub len sess q : Nat) (s : State) (f : Work → Cmd → Part → Except Nat Work) : Out :=
  command (subKind 7 sub) sess q (fun _ => 8 + len) s fun w c _ =>
    match c.partOf w.d with
    | none => w.respond c.id stMalformed
    | some p =>
      if c.field 63 32 != 0 then w.respond c.id stMalformed
      else match f w c p with
        | .error e => w.respond c.id e
        | .ok w => (w.mod fun d => d.measure (4 + Config.measureIndex sub % 4) c.ops).respond c.id 0

/-- A value that takes effect only while the partition holds no resident context (R440). -/
def Part.idle (p : Part) (f : Work) : Except Nat Work := if p.ctx.isSome then .error stRefused else .ok f

/-- The value of a partition subcommand: the operand block after SUB. -/
def Cmd.value (c : Cmd) (hi lo : Nat) : Nat := c.field (hi + 64) (lo + 64)

/-- The partitions that a PSTART mask describes, as lists of towers. -/
def splitTowers (pstart : Nat) : List (List Nat) :=
  (List.range 8).foldl (fun acc t => if bit t pstart || t == 0 then acc ++ [[t]] else
    match acc.getLast? with
    | some g => acc.dropLast ++ [g ++ [t]]
    | none => acc ++ [[t]]) []

/-- Whether a split is legal (R6): whole aligned groups of 1, 2, 4 or 8 towers. -/
def splitLegal (ps : List (List Nat)) : Bool :=
  ps.all fun g => [1, 2, 4, 8].contains g.length && g.headD 0 % g.length == 0

/-- SET_SPLIT (R6, R442): the towers divided into partitions; a partition that stays as it was keeps its values. -/
def execSetSplit (sess q : Nat) (s : State) : Out :=
  partitionCmd 1 8 sess q s fun w c _ =>
    let ps := splitTowers (c.value 7 0)
    if c.part != 0 || c.value 63 8 != 0 || !bit 0 (c.value 7 0) || !splitLegal ps then .error stMalformed
    else
      let gone := w.d.parts.filter fun p => !ps.contains p.towers
      if gone.any fun p => p.ctx.isSome then .error stRefused
      else .ok (w.mod fun d => { d with parts := ps.map fun g => (d.parts.find? fun p => p.towers == g).getD { towers := g } })

/-- The number that names a partition as the holder of a vault (R67). -/
def Part.holder (p : Part) : Nat := p.low * 16 + p.towers.length

/-- The vault allotment of a tower in force (R15, R67). -/
def Work.allot (w : Work) (p : Part) (t : Nat) (mask : BitVec 48) : Work :=
  w.mod fun d =>
    let d := d.modPart p.low fun p => { p with vaults := putA p.vaults t mask }
    { d with vaultOwner := (List.range 48).foldl (fun l v => if mask.getLsbD v then putA l (48 * t + v) p.holder else l) d.vaultOwner }

/-- SET_VAULT_ALLOTMENT (R15, R67): the allotment takes effect at once where no vault comes from another holder; otherwise after
the zeroing. -/
def execSetVaultAllotment (sess q : Nat) (s : State) : Out :=
  event s fun w =>
    match w.d.headCmd sess q with
    | none => none
    | some (c, x, k) =>
      if k.busy || c.kind != subKind 7 2 then none
      else if x.key.isNone then some (w.respond c.id stRefused)
      else if !c.ok || c.ops.length != 24 || c.field 63 32 != 0 || c.value 63 3 != 0 || c.value 127 112 != 0 then some (w.respond c.id stMalformed)
      else match c.partOf w.d with
        | none => some (w.respond c.id stMalformed)
        | some p =>
          let t := c.value 2 0
          let mask := BitVec.ofNat 48 (c.value 111 64)
          if !p.towers.contains t then some (w.respond c.id stMalformed)
          else if p.ctx.isSome then some (w.respond c.id stRefused)
          else
            let foreign := BitVec.ofNat 48 (((List.range 48).map fun v =>
              if mask.getLsbD v && getA w.d.vaultOwner (48 * t + v) 0 != p.holder then 2 ^ v else 0).sum)
            if foreign == 0 then
              some (((w.allot p t mask).mod fun d => d.measure (4 + Config.measureIndex 2 % 4) c.ops).respond c.id 0)
            else some ((w.hold c).mod fun d =>
              { d with zeroings := d.zeroings ++ [{ tower := t, mask := foreign, newMask := mask, part := p.low, cmd := c.id }] })

/-- VAULT_ZEROING_COMPLETE (R67): the vaults a new holder takes read zero (a byte that memory does not list reads zero already),
and the allotment takes effect. -/
def execVaultZeroingComplete (i : Nat) (s : State) : Out :=
  event s fun w =>
    match w.d.zeroings[i]? with
    | none => none
    | some z =>
      match w.d.parts.find? fun p => p.low == z.part with
      | none => some ((w.mod fun d => { d with zeroings := d.zeroings.eraseIdx i }).respond z.cmd stRefused)
      | some p =>
        let first := fun v => vaultKey (z.tower * 2 ^ 29 + v * 2 ^ 23)
        let here := fun (k : Nat) => (List.range 48).any fun v => z.mask.getLsbD v && decide (first v ≤ k) && decide (k < first v + 2 ^ 23)
        let w := w.apply ((w.mem.filter fun c => here c.1).map fun c => ({ key := c.1 }, 0))
        let w := (w.allot p z.tower z.newMask).mod fun d =>
          { d.measure (4 + Config.measureIndex 2 % 4) (natLe 8 z.tower ++ natLe 8 z.newMask.toNat) with
            zeroings := d.zeroings.eraseIdx i, bad := d.bad.filter fun s => !s.any here }
        some (w.respond z.cmd 0)

/-- SET_HOST_WINDOW_REGION (R17, R442). -/
def execSetHostWindowRegion (sess q : Nat) (s : State) : Out :=
  partitionCmd 3 8 sess q s fun w c p =>
    let base := c.value 19 0
    let size := c.value 52 32
    if c.value 31 20 != 0 || c.value 63 53 != 0 || base % 4096 != 0 || size % 4096 != 0 || 0x100000 < base + size then .error stMalformed
    else p.idle (w.mod fun d => d.modPart p.low fun p => { p with hostBase := base, hostSize := size })

/-- SET_RACE_MODE (R154, R155, R442): the partition's mode and shadow bases, effective at its next root grid. -/
def execSetRaceMode (sess q : Nat) (s : State) : Out :=
  partitionCmd 4 72 sess q s fun w c p =>
    let bases := (List.range 8).map fun t => c.value (64 * t + 127) (64 * t + 64)
    if 2 < c.value 1 0 || c.value 63 2 != 0 || bases.any (fun b => 2 ^ 40 ≤ b) || (List.range 8).any (fun t => !p.towers.contains t && bases.getD t 0 != 0) then
      .error stMalformed
    else .ok (w.mod fun d => d.modPart p.low fun p => { p with race := some (c.value 1 0, bases) })

/-- SET_CONE_WINDOW (R355, R442): a new WC takes effect at the next window of each monitor. -/
def execSetConeWindow (sess q : Nat) (s : State) : Out :=
  partitionCmd 5 8 sess q s fun w c p =>
    if c.value 31 0 < 2 ^ 16 || c.value 63 48 != 0 then .error stMalformed
    else .ok (w.mod fun d => d.modPart p.low fun p => { p with coneWc := c.value 31 0, coneL := c.value 47 32 })

/-- SET_HANDLER_ENTRY (R407, R442). -/
def execSetHandlerEntry (sess q : Nat) (s : State) : Out :=
  partitionCmd 6 24 sess q s fun w c p =>
    if c.value 63 40 != 0 || c.value 127 104 != 0 || c.value 191 160 != 0 then .error stMalformed
    else p.idle (w.mod fun d => d.modPart p.low fun p => { p with handler := some (c.value 39 0, c.value 103 64, c.value 159 128) })

/-- SET_SAVE_AREA_SIZE (R414, R442). -/
def execSetSaveAreaSize (sess q : Nat) (s : State) : Out :=
  partitionCmd 7 8 sess q s fun w c p =>
    let n := c.value 31 0
    if c.value 63 32 != 0 || n % 2 ^ 16 != 0 || 2 ^ 28 < n then .error stMalformed
    else p.idle (w.mod fun d => d.modPart p.low fun p => { p with saveSize := n })

/-- SET_BIN_STORE_VAULT (R388, R442). -/
def execSetBinStoreVault (sess q : Nat) (s : State) : Out :=
  partitionCmd 8 8 sess q s fun w c p =>
    let t := c.value 2 0
    if c.value 63 12 != 0 || 47 < c.value 8 3 || !p.towers.contains t then .error stMalformed
    else p.idle (w.mod fun d => d.modTower t fun z => { z with binVault := 1 + c.value 8 3 * 8 + c.value 11 9 })

/-- Whether two towers are adjacent (R2): a horizontal or a vertical link joins them. -/
def adjacentTowers (a b : Nat) : Bool :=
  (a / 4 == b / 4 && (a % 4 + 1 == b % 4 || b % 4 + 1 == a % 4)) || (a % 4 == b % 4 && a / 4 != b / 4)

/-- SET_CHECKPOINT_REGION (R420, R442): a region in the HBM of an adjacent tower of the partition; SIZE 0 disables. -/
def execSetCheckpointRegion (sess q : Nat) (s : State) : Out :=
  partitionCmd 9 32 sess q s fun w c p =>
    let t := c.value 2 0
    let host := c.value 5 3
    let base := c.value 127 64
    let size := c.value 191 128
    let inside := size == 0 || (decide (base < 2 ^ 39) && base / 2 ^ 36 == host && decide (base % 2 ^ 36 + size ≤ hbmSize))
    if c.value 63 6 != 0 || p.towers.length < 2 || !p.towers.contains t || !p.towers.contains host || !adjacentTowers t host || !inside then .error stMalformed
    else p.idle (w.mod fun d =>
      let rest := d.checkpoints.filter fun y => y.tower != t
      { d with checkpoints := if size == 0 then rest else rest ++ [{ tower := t, host := host, base := base, size := size, interval := c.value 255 192 }] })

/-- QUARANTINE_CLEAR (R355, R442). -/
def execQuarantineClear (sess q : Nat) (s : State) : Out :=
  partitionCmd 10 8 sess q s fun w c p =>
    let t := c.value 2 0
    let k := c.value 8 3
    if c.value 63 9 != 0 || !p.towers.contains t || !w.present t k then .error stMalformed
    else .ok (w.modKiln t k fun x => { x with quarantined := false })

/-! ## Contexts (R438, R440) -/

/-- The operand block of a context command: DEBUG and ROOT, and whether its zero fields are zero. -/
def Cmd.ctxOps (c : Cmd) (create : Bool) : Bool :=
  c.field 63 33 == 0 && (create || (c.field 32 32 == 0 && c.field 127 64 == 0))

/-- CONTEXT_CREATE (R21, R34, R207, R323, R344, R357, R403, R440): a context becomes resident in a partition that holds none,
with every array, tile and store at its reset value; CTXID, root pointer and debug mode are measured (R451). The base and count of its descriptor
table are the driver's. -/
def execContextCreate (sess q descBase descCount : Nat) (s : State) : Out :=
  command (subKind 8 1) sess q (fun _ => 16) s fun w c _ =>
    let root := c.field 127 64
    match c.partOf w.d with
    | none => w.respond c.id stMalformed
    | some p =>
      if !c.ctxOps true || root % 4096 != 0 || 2 ^ 40 ≤ root || descBase % 32 != 0 || descCount == 0 || 4096 < descCount then w.respond c.id stMalformed
      else if p.ctx.isSome || p.handler.isNone || (w.d.ctx c.ctxid).isSome then w.respond c.id stRefused
      else
        let x : Ctx := { ctxid := c.ctxid, part := p.low, root := root, debug := bit 32 (leNat c.ops), descBase := BitVec.ofNat 64 descBase, descCount := descCount }
        let late := p.halt.deferred
        let w := w.mod fun d =>
          let d := { d with ctxs := d.ctxs ++ [x] }
          let d := (w.logical p).foldl (fun d k => d.modCore k.1 k.2 Core.vacated) d
          let d := p.towers.foldl (fun d t => d.modTower t fun z => { z.vacated with cyc := 0 }) d
          d.modPart p.low fun p => { p with ctx := some c.ctxid, halt := {}, dealing := none, head := none, drain := none }
        let w := match w.d.part p.low with
          | some p => w.putHeader p
          | none => w
        ((w.raiseAll late).mod fun d => d.measure (4 + Config.measureIndex (subKind 8 1) % 4) (natLe 2 c.ctxid ++ c.ops)).respond c.id 0

/-- A context removed from its partition with everything it runs. -/
def Work.clearPartition (w : Work) (p : Part) (x : Ctx) : Work :=
  w.mod fun d =>
    let here := d.crews.filter fun c => p.towers.contains c.place.tower
    let ids := here.map (·.id)
    let mine := fun (g : Nat) => match d.grid g with
      | some g => g.ctx == x.ctxid
      | none => false
    let d := { d with
      deliveries := d.deliveries.filter fun e => !mine e.grid
      horizons := d.horizons.filter fun h => !mine h.2.1
      teams := d.teams.filter fun t => !mine t.grid
      grids := d.grids.filter fun g => g.ctx != x.ctxid
      crews := d.crews.filter fun c => !ids.contains c.id
      ops := d.ops.filter fun o => !ids.contains o.crew
      fences := d.fences.filter fun f => !ids.contains f.crew
      gangs := d.gangs.filter fun a => !ids.contains a.crew
      pairs := d.pairs.filter fun a => !ids.contains a.crew
      races := d.races.filter fun r => !p.towers.contains (r.gid / 2 ^ 21)
      homes := d.homes.filter fun h => h.tag.tensor == 0
      copies := d.copies.filter fun c => c.tag.tensor == 0
      checkpoints := d.checkpoints.map fun (k : Checkpoint) => if p.towers.contains k.tower then { k with failed := false, taken := false, replay := none, taking := false } else k }
    let d := (w.logical p).foldl (fun d k => d.modCore k.1 k.2 fun y => { y.vacated with copies := [], mxq := [], outbox := [], sq := [] }) d
    let d := p.towers.foldl (fun d t => (List.range 12).foldl (fun d cl => d.modCluster t cl fun y => { y with cmb := y.cmb.filter fun l => l.failed.isNone })
      (d.modTower t Tower.vacated)) d
    d.modPart p.low fun p => { p with ctx := none, dealing := none, head := none, drain := none, debugHalted := [], halt := { p.halt with phase := .running, records := [], stopped := [] } }

/-- A granule's last holder forgotten as a context: it reads zero to the next (R53). -/
def Core.forget (k : Core) (ctxid : Nat) : Core :=
  { k with granCtx := k.granCtx.map (fun e => if e.2 == ctxid + 1 then (e.1, 2 ^ 13) else e), landCtx := if k.landCtx == some ctxid then some (2 ^ 13) else k.landCtx }

/-- CONTEXT_DESTROY (R438): a context and everything it runs is gone. -/
def execContextDestroy (sess q : Nat) (s : State) : Out :=
  command (subKind 8 2) sess q (fun _ => 16) s fun w c _ =>
    if !c.ctxOps false then w.respond c.id stMalformed
    else match c.ctxOf w.d with
      | none => w.respond c.id stRefused
      | some (p, x) =>
        let w := if p.ctx == some x.ctxid then w.clearPartition p x else w
        (w.mod fun d => { d with
          ctxs := d.ctxs.filter fun y => y.ctxid != x.ctxid
          cores := d.cores.map fun e => (e.1, e.2.forget x.ctxid) }).respond c.id 0

/-- SWITCH_OUT (R412, R413, R419): the context is to leave its partition; the response follows its image. -/
def execSwitchOut (sess q : Nat) (s : State) : Out :=
  command (subKind 8 3) sess q (fun _ => 16) s fun w c _ =>
    if !c.ctxOps false then w.respond c.id stMalformed
    else match c.ctxOf w.d with
      | none => w.respond c.id stRefused
      | some (p, x) =>
        if p.ctx != some x.ctxid || !x.resident || x.switch != .idle || !p.debugHalted.isEmpty then w.respond c.id stRefused
        else (w.hold c).beginSwitch p x c.id

/-- CONTEXT_RESTORE (R414, R417): a context that was switched out is put back from the image in the save area. -/
def execContextRestore (sess q : Nat) (s : State) : Out :=
  command (subKind 8 4) sess q (fun _ => 16) s fun w c _ =>
    if !c.ctxOps false then w.respond c.id stMalformed
    else match c.ctxOf w.d with
      | none => w.respond c.id stRefused
      | some (p, x) =>
        if p.ctx.isSome || x.resident then w.respond c.id stRefused
        else
          let (st, w) := w.restoreContext p x
          w.respond c.id st

/-! ## The debugger (R375, R418, R419, R438) -/

/-- One debug subcommand; `free` says that it is accepted whether or not the context was created in debug mode. -/
def debugCmd (sub sess q : Nat) (free : Bool) (s : State) (f : Work → Cmd → Part → Work) : Out :=
  command (subKind 0xA sub) sess q (fun _ => 24) s fun w c _ =>
    if c.field 63 35 != 0 || (sub != 4 && c.field 191 128 != 0) || (sub ≤ 2 && c.field 127 64 != 0) || (3 ≤ sub && c.field 34 32 != 0) then
      w.respond c.id stMalformed
    else match c.ctxOf w.d with
      | none => w.respond c.id stRefused
      | some (p, x) => if p.ctx != some x.ctxid || !(x.debug || free) then w.respond c.id stRefused else f w c p

/-- HALT_TOWER (R418): a tower of a context in debug mode stops: its engines run on to where R401 lets them stop, its merge buffers drain, and no
records are written. -/
def execHaltTower (sess q : Nat) (s : State) : Out :=
  debugCmd 1 sess q false s fun w c p =>
    let t := c.field 34 32
    if !p.towers.contains t then w.respond c.id stMalformed
    else ((w.releaseCores .halt ((w.cores t).map fun k => (t, k))).2.mod fun d =>
      let d := d.modPart p.low fun p => { p with debugHalted := if p.debugHalted.contains t then p.debugHalted else p.debugHalted ++ [t] }
      { d with crews := d.crews.map fun (y : Crew) => if y.place.tower == t then { y with held := false, holdCount := 0, repGroup := 0 } else y }).respond c.id 0

/-- RESUME_TOWER (R419): a debug-halted tower goes on; complete holds of its crews are released. -/
def execResumeTower (sess q : Nat) (s : State) : Out :=
  debugCmd 2 sess q false s fun w c p =>
    let t := c.field 34 32
    if !p.debugHalted.contains t then w.respond c.id stRefused
    else (w.mod fun d =>
      let d := d.modPart p.low fun p => { p with debugHalted := p.debugHalted.filter (· != t) }
      { d with crews := d.crews.map fun (y : Crew) => if y.place.tower == t then y.release else y }).respond c.id 0

/-- DEBUG_READ_ITEM (R375, R376, R438): an item of a stopped crew, and the status. -/
def execDebugReadItem (sess q : Nat) (s : State) : Out :=
  debugCmd 3 sess q false s fun w c _ =>
    let r := w.winRead (BitVec.ofNat 64 (c.field 127 64)) none
    w.respond c.id 0 (natLe 8 r.1.toNat ++ natLe 8 r.2)

/-- DEBUG_WRITE_ITEM (R375, R376, R438); holds that it completes in a crew which is not debug-halted are released (R180). -/
def execDebugWriteItem (sess q : Nat) (s : State) : Out :=
  debugCmd 4 sess q false s fun w c _ =>
    let (st, w) := w.winStore (BitVec.ofNat 64 (c.field 127 64)) (BitVec.ofNat 64 (c.field 191 128)) none
    let free := fun (y : Crew) => !y.handler && (w.d.part y.place.tower).any fun p => p.halt.phase == .running && !p.debugHalted.contains y.place.tower
    (w.mod fun d => { d with crews := d.crews.map fun y => if y.place.gid == bits 55 32 (c.field 127 64) && free y then y.release else y }).respond c.id 0
      (natLe 8 0 ++ natLe 8 st)

/-- END_HANDLER_CREW (R373, R408, R438): a handler crew that has stopped by its own fault ends, as by its ERET. -/
def execEndHandlerCrew (sess q : Nat) (s : State) : Out :=
  debugCmd 5 sess q true s fun w c p =>
    let a := c.field 127 64
    if bits 63 56 a != 0 || bits 31 0 a != 0 || bits 46 41 a != 32 then w.respond c.id stMalformed
    else match w.d.crews.find? fun (y : Crew) => y.handler && y.status == .faulted && y.place.gid == bits 55 32 a && p.towers.contains y.place.tower with
      | none => w.respond c.id stRefused
      | some y => (w.endHandler y).respond c.id 0

/-! ## Checkpoints and warm reset (R420, R421) -/

/-- The state of one tower (R420). -/
def Work.slice (w : Work) (t : Nat) : TowerSlice :=
  let d := w.d
  let crews := d.crews.filter fun c => c.place.tower == t
  let ids := crews.map (·.id)
  let base := localKey t 0 0
  { crews := crews, grids := d.grids.filter (fun g => g.tower == t), gangs := d.gangs.filter (fun a => ids.contains a.crew)
    pairs := d.pairs.filter fun a => ids.contains a.crew
    teams := d.teams.filter fun x => x.tower == t, ops := d.ops.filter fun o => ids.contains o.crew
    fences := d.fences.filter fun f => f.tower == t
    cores := d.cores.filter fun e => e.1 / 48 == t, clusters := d.clusters.filter fun e => e.1 / 12 == t, tower := d.tower t
    locals := w.mem.filter fun c => decide (base ≤ c.1) && decide (c.1 < base + 48 * 2 ^ 18) }

/-- The state of one tower put in the place of what it holds. -/
def Work.putSlice (w : Work) (t : Nat) (x : TowerSlice) : Work :=
  let base := localKey t 0 0
  let now := w.mem.filter fun c => decide (base ≤ c.1) && decide (c.1 < base + 48 * 2 ^ 18)
  let w := w.putAt (now.map fun c => (c.1, 0))
  let w := w.putAt x.locals
  w.mod fun d =>
    let ids := (d.crews.filter fun c => c.place.tower == t).map (·.id)
    { d with
      crews := d.crews.filter (fun c => !ids.contains c.id) ++ x.crews
      grids := d.grids.filter (fun g => g.tower != t) ++ x.grids
      gangs := d.gangs.filter (fun a => !ids.contains a.crew) ++ x.gangs
      pairs := d.pairs.filter (fun a => !ids.contains a.crew) ++ x.pairs
      teams := d.teams.filter (fun y => y.tower != t) ++ x.teams
      ops := d.ops.filter (fun o => !ids.contains o.crew) ++ x.ops
      fences := d.fences.filter (fun f => f.tower != t) ++ x.fences
      cores := x.cores.foldl (fun l e => putA l e.1 e.2) (d.cores.filter fun e => e.1 / 48 != t)
      clusters := x.clusters.foldl (fun l e => putA l e.1 e.2) (d.clusters.filter fun e => e.1 / 12 != t)
      towers := putA d.towers t x.tower }

/-- A checkpoint of a tower changed. -/
def Dev.modCheckpoint (d : Dev) (t : Nat) (f : Checkpoint → Checkpoint) : Dev :=
  { d with checkpoints := d.checkpoints.map fun c => if c.tower == t then f c else c }

/-- A checkpoint begun: the tower's issue pauses (R420). -/
def Dev.beginCheckpoint (d : Dev) (t : Nat) (cmd : Option (Nat × Nat × Nat)) : Dev :=
  d.modCheckpoint t fun c => { c with taking := true, cmd := cmd }

/-- Whether a checkpoint of a tower may begin: it has a region, and its context runs. -/
def Dev.mayCheckpoint (d : Dev) (t : Nat) : Bool :=
  (d.checkpoints.any fun c => c.tower == t && !c.taking && !c.failed) &&
    (match d.part t with
      | some p => p.ctx.isSome && p.halt.phase == .running
      | none => false)

/-- CHECKPOINT_TAKE (R420, R438): a checkpoint on command; the response follows its completion. -/
def execCheckpointTake (sess q : Nat) (s : State) : Out :=
  command (subKind 0xB 1) sess q (fun _ => 16) s fun w c _ =>
    if c.field 63 35 != 0 || c.field 127 64 != 0 then w.respond c.id stMalformed
    else match c.partOf w.d with
      | none => w.respond c.id stMalformed
      | some p =>
        let t := c.field 34 32
        if !p.towers.contains t || !w.d.mayCheckpoint t then w.respond c.id stRefused
        else (w.hold c).mod fun d => d.beginCheckpoint t (some c.id)

/-- CHECKPOINT_INTERVAL_EXPIRE (R420): the interval of a tower's checkpoints runs out. -/
def execCheckpointIntervalExpire (t : Nat) (s : State) : Out :=
  event s fun w =>
    if w.d.mayCheckpoint t && w.d.checkpoints.any (fun c => c.tower == t && c.interval != 0 && decide (c.interval ≤ c.elapsed)) then
      some (w.mod fun d => d.beginCheckpoint t none)
    else none

/-- CHECKPOINT_COMPLETE (R420): the tower's state is captured, undo copies and the log of messages begin anew, and issue goes on. -/
def execCheckpointComplete (t : Nat) (s : State) : Out :=
  event s fun w =>
    match w.d.checkpoints.find? fun c => c.tower == t && c.taking with
    | none => none
    | some c =>
      let x := w.slice t
      let w := w.mod fun d => d.modCheckpoint t fun c => { c with taking := false, cmd := none, taken := true, used := 0, undo := [], log := [], elapsed := 0, snap := x }
      some (match c.cmd with
        | some cmd => w.respond cmd 0
        | none => w)

/-- WARM_RESET (R421): accepted only while the partition is halted. The tower's memory is rolled back through the undo copies
and its state is loaded from the checkpoint; what the logged messages lead to again is kept, and the replay begins. -/
def execWarmReset (sess q : Nat) (s : State) : Out :=
  command (subKind 0xB 2) sess q (fun _ => 16) s fun w c _ =>
    if c.field 63 35 != 0 then w.respond c.id stMalformed
    else match c.partOf w.d with
      | none => w.respond c.id stMalformed
      | some p =>
        let t := c.field 34 32
        match w.d.checkpoints.find? fun k => k.tower == t && k.taken && !k.failed && k.replay.isNone with
        | none => w.respond c.id stRefused
        | some k =>
          if !p.towers.contains t || p.halt.phase != .handling then w.respond c.id stRefused
          else
            let now := w.slice t
            let redo := k.undo.map fun u => (u.1, w.get u.1)
            let handlers := now.crews.filter (·.handler)
            let w := (w.putAt k.undo).putSlice t { k.snap with crews := (k.snap.crews.filter fun y => !y.handler) ++ handlers }
            let w := w.mod fun d => { d.modCheckpoint t (fun k => { k with replay := some (c.field 127 64, c.id), again := now, redo := redo }) with
              bad := d.bad.filter fun s => !k.undo.any fun u => s.contains u.1 }
            w.hold c

/-- The partition resumes where its handler crews ended while a replay was still on. -/
def Work.afterReplay (w : Work) (t : Nat) : Work :=
  match w.d.part t with
  | some p => if p.halt.phase == .handling && p.halt.handlersLeft == 0 then w.resume p.low else w
  | none => w

/-- The end of a warm reset that has diverged or outlasted its limit (R421): the tower stays halted. -/
def Work.diverged (w : Work) (t : Nat) (cmd : Nat × Nat × Nat) : Work :=
  ((w.mod fun d => d.modCheckpoint t fun k => { k with replay := none, again := {}, redo := [], failed := true }).raise
    { reason := .replayDivergence, engine := .replay, tower := t }).respond cmd stRefused |>.afterReplay t

/-- The end of the replay of a warm reset (R421 steps 3 to 5): every logged message is consumed and matched, and the tower
stops, its engines with work in progress leaving their records; or a message differs. -/
def Work.endReplay (w : Work) (t : Nat) : Option Work :=
  match w.d.checkpoints.find? fun k => k.tower == t && k.replay.isSome with
  | none => none
  | some k =>
    let cmd := (k.replay.getD (0, 0, 0, 0)).2
    let (n, w) := w.freeAt
    if !Config.replayOk n then some (w.diverged t cmd)
    else
      let handlers := w.d.crews.filter fun y => y.place.tower == t && y.handler
      let w := (w.putAt k.redo).putSlice t { k.again with crews := (k.again.crews.filter fun y => !y.handler) ++ handlers }
      let w := w.mod fun d => d.modCheckpoint t fun k => { k with replay := none, again := {}, redo := [] }
      let w := (w.cores t).foldl (fun w c => (List.range 5).foldl (fun w e => (w.stopEngine t c e).getD w) w) w
      some ((w.respond cmd 0).afterReplay t)

/-- ENGINE_HALT_STOP (R400, R401, R421): one engine of a halting partition stops, or the replay of a tower ends. -/
def execEngineHaltStop (t k eng : Nat) (s : State) : Out :=
  event s fun w => if w.d.checkpoints.any (fun c => c.tower == t && c.replay.isSome) then w.endReplay t else w.haltStop t k eng

/-- WARM_RESET_LIMIT_EXPIRE (R421): the replay of a tower outlasts the driver's limit. -/
def execWarmResetLimitExpire (t : Nat) (s : State) : Out :=
  event s fun w =>
    match w.d.checkpoints.find? fun k => k.tower == t && k.replay.isSome with
    | none => none
    | some k => some (w.diverged t (k.replay.getD (0, 0, 0, 0)).2)

end Sys2Proof.Machine
end

