-- ==== Sys2Proof/Machine/Bringup.lean ====
section
/-! DEFINITION. Bringup: power, the self-test and the loading of firmware, the management endpoint, telemetry, the links, the
power manager, firmware updates, attestation, addresses and host keys (23_host_boot_security.md R441 to R451,
02_memory_hierarchy.md R70, R71, R73, 00_scope.md R5). -/

namespace Sys2Proof.Machine

/-! ## Power-up and power loss (R445, R446, R448 to R451) -/

/-- A failure of the self-test: the stage that found it (R446: 1 I/O die, 2 towers, 3 links, 4 harvest), die, tower, test
number and detail. -/
structure SelfTest where
  stage : Nat
  die : Nat
  tower : Nat
  test : Nat
  detail : Nat

/-- A FAILREC record (R446). -/
def SelfTest.record (f : SelfTest) : List Byte :=
  natLe 64 (f.detail % 2 ^ 64 * 2 ^ 64 + f.test % 2 ^ 32 * 2 ^ 32 + f.die % 2 ^ 8 * 2 ^ 24 + f.tower % 2 ^ 4 * 2 ^ 20)

/-- Whether a failure is one the self-test can find (R445, R446). -/
def SelfTest.real (f : SelfTest) : Bool := decide (1 ≤ f.stage) && decide (f.stage ≤ 4) && decide (f.die ≤ 5) && decide (f.tower < 8)

/-- The safe state entered at a stage, with the failures found (R446). -/
def Boot.fail (b : Boot) (stage : Nat) (fs : List SelfTest) : Boot :=
  { b with stage := stage, safe := true, running := false, failures := fs.map (·.record) }

/-- Whether image `i` is accepted (R450): its hash is that of its body, its signature verifies under the signing key whose hash is fused, and its
version is not below the fused rollback counter. -/
def Fused.accepts (fx : Fused) (i : Nat) (img : List Byte) : Bool :=
  sha3 (Config.imageBody img) == Config.imageHash img
    && (sha3 (Config.imageKey img) == fx.keyHash && Config.signatureOk (Config.imageKey img) (Config.imageSigned img) (Config.imageSignature img))
    && decide (fx.rollback.getD i 0 ≤ Config.imageVersion img)

/-- The images loaded in order from number `i`: each is checked, then extends its measurement register; the number of the first
that is rejected (R449 to R451). -/
def loadImages (fx : Fused) (i : Nat) (meas : List (List Byte)) : List (List Byte) → List (List Byte) × Option Nat
  | [] => (meas, none)
  | img :: rest =>
    if fx.accepts i img then loadImages fx (i + 1) (modNth meas i fun m => sha3 (m ++ sha3 img)) rest
    else (meas, some i)

/-- The identity public key (R451). -/
def identityKey (fx : Fused) (meas0 : List Byte) : List Byte := (List.range 2592).map fun i => Config.identityByte fx.secret meas0 i

/-- Bring-up after a passing self-test: the images are loaded, and the device runs; a rejected image leaves it in the safe state
with a record of die 0 (R449, R450). -/
def Boot.load (b : Boot) (fx : Fused) (images : List (List Byte)) (test detail : Nat) : Boot :=
  match loadImages fx 0 b.meas (images.take 4) with
  | (meas, none) => { b with stage := 15, running := true, meas := meas, identity := identityKey fx (meas.headD []) }
  | (meas, some _) => { b with meas := meas }.fail 5 [{ stage := 5, die := 0, tower := 0, test := test, detail := detail }]

/-- POWER_UP (R445, R446, R449 to R451): the self-test finds the failures `fails` names; with none, the firmware is loaded.
`test` and `detail` are what the record of a rejected image holds, which the spec leaves open. -/
def execPowerUp (fails : List (Nat × Nat × Nat × Nat × Nat)) (test detail : Nat) (s : State) : Out :=
  event s fun w =>
    let b := w.d.boot
    let fs := (fails.map fun (stage, die, tower, test, detail) => SelfTest.mk stage die tower test detail).filter SelfTest.real
    if b.running || b.safe || b.stage != 0 then none
    else if fs.isEmpty then some (w.mod fun d => { d with boot := b.load w.fx d.nv.images test detail })
    else
      let stage := fs.foldl (fun n f => Nat.min n f.stage) 4
      some (w.mod fun d => { d with boot := b.fail stage fs })

/-- The device as power comes up: only the non-volatile store is kept (R448), and the model's own counters and agenda. -/
def Dev.powered (d : Dev) : Dev :=
  { nv := d.nv, agenda := d.agenda, free := d.free, nextId := d.nextId, parts := State.reset.d.parts }

/-- POWER_LOSS (R446, R448): everything but the fused values and the non-volatile store is gone. -/
def execPowerLoss (s : State) : Out :=
  .next { s with mem := [], cont := none, d := s.d.powered }

/-! ## The management endpoint (R446, R447) -/

/-- A reply of the management endpoint to a datagram: the query with COUNT, and the entries. -/
def mgmtReply (q : Nat) (entries : List (List Byte)) : List Byte :=
  natLe 8 (entries.length * 2 ^ 32 + q % 2 ^ 32) ++ entries.flatten

/-- The port of the management endpoint (R447). -/
def mgmtPort : Nat := 47001

/-- A datagram's destination as one number: its UDP port above its IP address. -/
def destOf (port addr : Nat) : Nat := port * 2 ^ 128 + addr

/-- A management query (R447): 8 bytes to the management port at an address of the device, with the wanted operation; any other is discarded. -/
def mgmtQuery (dest op : Nat) (bytes : List Byte) (s : State) (f : Dev → Nat → Option (List (List Byte))) : Out :=
  event s fun w =>
    let v := leNat bytes
    if dest / 2 ^ 128 != mgmtPort || !w.hasAddr (dest % 2 ^ 128) || bytes.length != 8 || bits 31 16 v != 0 || bits 15 8 v != op || bits 7 0 v != 1 then none
    else (f w.d (bits 63 32 v)).map fun es => w.mod fun d => { d with host := { d.host with mgmt := d.host.mgmt ++ [mgmtReply v es] } }

/-- MGMT_STATUS_QUERY (R446, R447): one STATUS word, in every state. -/
def execMgmtStatusQuery (dest : Nat) (bytes : List Byte) (s : State) : Out :=
  mgmtQuery dest 1 bytes s fun d index => if index == 0 then some [natLe 8 d.boot.status] else none

/-- MGMT_FAILREC_QUERY (R446, R447): up to 128 failure records from INDEX on; none outside the safe state. -/
def execMgmtFailrecQuery (dest : Nat) (bytes : List Byte) (s : State) : Out :=
  mgmtQuery dest 2 bytes s fun d index => some (if d.boot.safe then (d.boot.failures.drop index).take 128 else [])

/-! ## Links and the power manager (R5, R70, R71, R207, R441) -/

/-- A UCIe link changed. -/
def Dev.modLink (d : Dev) (l : Nat) (f : Link → Link) : Dev := { d with links := setNth {} d.links l f }

/-- A counter one higher, saturating (R441). -/
def satSucc (n : Nat) : Nat := Nat.min (n + 1) (2 ^ 32 - 1)

/-- FLIT_REPLAY (R70): a link replays corrupted flits; nothing else changes. -/
def execFlitReplay (link : Nat) (s : State) : Out :=
  event s fun w =>
    if 10 ≤ link || (w.d.links.getD link {}).width == 0 then none
    else some (w.mod fun d => d.modLink link fun l => { l with replays := satSucc l.replays })

/-- LINK_RETRAIN (R70): a link of full width retrains to two modules. -/
def execLinkRetrain (link : Nat) (s : State) : Out :=
  event s fun w =>
    if 10 ≤ link || (w.d.links.getD link {}).width != 4 then none
    else some (w.mod fun d => d.modLink link fun l => { l with retrains := satSucc l.retrains, width := 2 })

/-- The links of the route from tower `a` to tower `b` (R63, R405): along a's row, then the vertical link of b's column. -/
def route (a b : Nat) : List Nat :=
  let lo := Nat.min (a % 4) (b % 4)
  let hi := Nat.max (a % 4) (b % 4)
  ((List.range 3).filter fun i => decide (lo ≤ i) && decide (i < hi)).map (fun i => if a < 4 then i else 3 + i)
    ++ if a / 4 == b / 4 then [] else [6 + b % 4]

/-- Whether a route between two towers of a partition uses a link (R70); the route of its host window alone is not counted (assumption 63). -/
def Part.usesLink (p : Part) (link : Nat) : Bool :=
  p.towers.any fun a => p.towers.any fun b => (route a b).contains link

/-- LINK_DOWN (R70): a link that cannot train is marked down, and every partition whose routes use it halts; its stop record
names the link. -/
def execLinkDown (link : Nat) (s : State) : Out :=
  event s fun w =>
    if 10 ≤ link || (w.d.links.getD link {}).width == 0 then none
    else
      let w := w.mod fun d => d.modLink link fun l => { l with width := 0 }
      some (w.raiseAll ((w.d.parts.filter fun p => p.usesLink link).map fun p =>
        { reason := .linkDown, engine := .link, tower := p.low, unit := link }))

/-- NEIGHBOUR_LINK_ERROR (R71): an uncorrectable beat of a neighbour link halts the partition; the stop record names the cluster
and the direction. -/
def execNeighbourLinkError (t cluster dir : Nat) (s : State) : Out :=
  event s fun w =>
    if 8 ≤ t || 12 ≤ cluster || 4 ≤ dir || (neighbourCluster cluster dir).isNone then none
    else some (w.raise { reason := .neighbourLink, engine := .neighbour, tower := t, unit := 4 * cluster + dir })

/-- ARRAY_CLOCK_CHANGE (R5): the power manager sets a tower's array-die clock, in MHz. -/
def execArrayClockChange (t mhz : Nat) (s : State) : Out :=
  event s fun w =>
    if 8 ≤ t || 3000 < mhz || mhz == 0 then none else some (w.mod fun d => d.modTower t fun z => { z with arrayClock := mhz })

/-- SKIPD_CHANGE (R207): the power manager sets a tower's SKIPD, always a finite FP16 value. -/
def execSkipdChange (t : Nat) (v : BitVec 16) (s : State) : Out :=
  event s fun w =>
    if 8 ≤ t || v.extractLsb' 10 5 == 31#5 then none else some (w.mod fun d => d.modTower t fun z => { z with skipd := v })

/-- POWER_SAMPLE (R441, R443): the power of a rail in mW and, for a die, its temperature in tenths of a degree. -/
def execPowerSample (rail mw : Nat) (temp : Word) (s : State) : Out :=
  event s fun w =>
    if 33 < rail then none
    else some (w.mod fun d => { d with tele := { d.tele with
      power := putA d.tele.power rail (mw % 2 ^ 64)
      temperature := if rail == 0 then d.tele.temperature else putA d.tele.temperature rail temp.toNat } })

/-! ## Telemetry (R441, R443) -/

/-- Whether a structure index of items 1 and 2 exists (R443). -/
def structureIndex (i : Nat) : Bool := decide (i < 128) && decide (i % 16 ≤ 13) && (i % 16 != 13 || i / 16 == 0)

/-- A counter as telemetry returns it. -/
def counted (n : Nat) : List Byte := natLe 8 (Nat.min n (2 ^ 32 - 1))

/-- The data of a telemetry item, `none` for an item or index outside the table (R443). -/
def Work.item (w : Work) (item index : Nat) : Option (List Byte) :=
  match item with
  | 1 => if structureIndex index then some (counted (getA w.d.tele.soft index 0)) else none
  | 2 => if structureIndex index then some (counted (getA w.d.tele.recovered index 0)) else none
  | 3 => if index < 10 then
      let l := w.d.links.getD index {}
      some (counted l.replays ++ counted l.retrains ++ natLe 8 l.width)
    else none
  | 4 => if index < 384 then some (counted (w.d.core (index / 48) (index % 48)).runOverflow) else none
  | 5 => if index ≤ 33 then some (natLe 8 (getA w.d.tele.power index 0)) else none
  | 6 => if 1 ≤ index && index ≤ 33 then some (natLe 8 (getA w.d.tele.temperature index 0)) else none
  | 7 => if index < 8 then some (natLe 8 (w.d.tower index).arrayClock) else none
  | 8 => if index < 8 then some (natLe 8 (w.d.tower index).skipd.toNat) else none
  | 9 => if index == 0 then some (natLe 8 (w.mgmtReg 0x18)) else none
  | _ => none

/-- The counters of a telemetry item cleared; items 5 to 9 have none (R443). -/
def Dev.clearItem (d : Dev) (item index : Nat) : Dev :=
  match item with
  | 1 => { d with tele := { d.tele with soft := putA d.tele.soft index 0 } }
  | 2 => { d with tele := { d.tele with recovered := putA d.tele.recovered index 0 } }
  | 3 => d.modLink index fun l => { l with replays := 0, retrains := 0 }
  | 4 => d.modCore (index / 48) (index % 48) fun k => { k with runOverflow := 0 }
  | _ => d

/-- TELEMETRY (R438, R441, R443): an item read, or read and cleared. -/
def execTelemetry (sess q : Nat) (s : State) : Out :=
  command 9 sess q (fun _ => 8) s fun w c _ =>
    let item := c.field 15 0
    let index := c.field 31 16
    if c.field 63 33 != 0 then w.respond c.id stMalformed
    else match w.item item index with
      | none => w.respond c.id stMalformed
      | some data => (if c.field 32 32 == 1 then w.mod fun d => d.clearItem item index else w).respond c.id 0 data

/-! ## Attestation and firmware (R438, R439, R450, R451) -/

/-- The attestation report for a nonce (R439). -/
def Work.report (w : Work) (nonce : List Byte) : List Byte :=
  let b := w.d.boot
  let body := nonce ++ b.meas.flatten ++ sha3 b.identity ++ natLe 8 w.d.splitr
  body ++ b.sign body

/-- ATTEST (R439, R451): the signed report. -/
def execAttest (sess q : Nat) (s : State) : Out :=
  command 0xC sess q (fun _ => 32) s fun w c _ => w.respond c.id 0 (w.report c.ops)

/-- FIRMWARE_CHUNK (R438, R450): the next chunk of an update; the one that ends at TOTAL has the image verified, and a verified
image is what the next boot loads. -/
def execFirmwareChunk (sess q : Nat) (s : State) : Out :=
  command 0xD sess q (fun c => 16 + c.field 95 64) s fun w c _ =>
    let offset := c.field 31 0
    let total := c.field 63 32
    let n := c.field 95 64
    let h := w.d.host
    let drop := fun (w : Work) => w.mod fun d => { d with host := { d.host with fwParts := [], fwTotal := 0 } }
    if c.field 127 96 != 0 || n == 0 || 8192 < n then w.respond c.id stMalformed
    else if offset != h.fwParts.length || (offset != 0 && total != h.fwTotal) || total < offset + n then (drop w).respond c.id stMalformed
    else
      let img := h.fwParts ++ c.ops.drop 16
      if offset + n < total then
        (w.mod fun d => { d with host := { d.host with fwParts := img, fwTotal := total } }).respond c.id 0
      else if w.fx.accepts (Config.imageIndex img % 4) img then
        ((drop w).mod fun d => { d with nv := { d.nv with images := modNth d.nv.images (Config.imageIndex img % 4) fun _ => img } }).respond c.id 0
      else (drop w).respond c.id stImage

/-! ## Addresses and host keys (R448) -/

/-- The keys that the device holds at most (R448). -/
def keyCapacity : Nat := 16

/-- Whether a session was authenticated by an owner key (R448). -/
def Dev.owner (d : Dev) (x : Session) : Bool :=
  match x.key with
  | none => false
  | some k => d.nv.keys.any fun e => e.1 == k && e.2

/-- One manage subcommand: on queue 0, with PART and CTXID zero, and under an owner key where it needs one (R448). -/
def manageCmd (sub len : Nat) (needsOwner : Bool) (sess q : Nat) (s : State) (f : Work → Cmd → Session → Work) : Out :=
  command (subKind 0xE sub) sess q (fun _ => 8 + len) s fun w c x =>
    if q != 0 then w.respond c.id stRefused
    else if c.part != 0 || c.ctxid != 0 || c.field 63 32 != 0 then w.respond c.id stMalformed
    else if needsOwner && !w.d.nv.keys.isEmpty && !w.d.owner x then w.respond c.id stRefused
    else f w c x

/-- The value of a manage subcommand: the operand block after SUB. -/
def Cmd.manageValue (c : Cmd) : List Byte := c.ops.drop 8

/-- Sessions that end after the response (R448). -/
def Work.endSessions (w : Work) (sel : Session → Bool) : Work :=
  w.mod fun d => { d with host := { d.host with sessions := d.host.sessions.map fun x => if sel x then { x with ending := true } else x } }

/-- An address as the store keeps it: nothing for the all-zero address that removes one. -/
def keptAddr (n : Nat) (v : List Byte) : List Byte := if (v.take n).all (· == 0#8) then [] else v

/-- SET_IPV4 (R448): the IPv4 address set or removed; sessions at the old one end when it goes. -/
def execSetIpv4 (sess q : Nat) (s : State) : Out :=
  manageCmd 1 16 true sess q s fun w c _ =>
    let v := c.manageValue
    if 32 < (v.getD 4 0).toNat || !((v.drop 5).take 3 ++ (v.drop 12).take 4).all (· == 0#8) then w.respond c.id stMalformed
    else
      let gone := (w.d.nv.ipv4.take 4) != (keptAddr 4 v).take 4
      let w := w.endSessions fun x => gone && !w.d.nv.ipv4.isEmpty && x.address == ipv4Addr w.d.nv.ipv4
      (w.mod fun d => { d with nv := { d.nv with ipv4 := keptAddr 4 v } }).respond c.id 0

/-- SET_IPV6 (R448): the IPv6 address set or removed; sessions at the old one end when it goes. -/
def execSetIpv6 (sess q : Nat) (s : State) : Out :=
  manageCmd 2 40 true sess q s fun w c _ =>
    let v := c.manageValue
    if 128 < (v.getD 16 0).toNat || !((v.drop 17).take 7).all (· == 0#8) then w.respond c.id stMalformed
    else
      let gone := (w.d.nv.ipv6.take 16) != (keptAddr 16 v).take 16
      let w := w.endSessions fun x => gone && !w.d.nv.ipv6.isEmpty && x.address == ipv6Addr w.d.nv.ipv6
      (w.mod fun d => { d with nv := { d.nv with ipv6 := keptAddr 16 v } }).respond c.id 0

/-- ENROL_HOST_KEY (R448): a key hash enrolled; the first becomes an owner key, and its session ends after the response. -/
def execEnrolHostKey (sess q : Nat) (s : State) : Out :=
  manageCmd 3 72 true sess q s fun w c _ =>
    let v := c.manageValue
    let hash := v.take 64
    let flags := leNat (v.drop 64)
    if 1 < flags then w.respond c.id stMalformed
    else if keyCapacity ≤ w.d.nv.keys.length || w.d.nv.keys.any (fun e => e.1 == hash) then w.respond c.id stRefused
    else
      let first := w.d.nv.keys.isEmpty
      let w := w.endSessions fun x => first && x.id == sess
      (w.mod fun d => { d with nv := { d.nv with keys := d.nv.keys ++ [(hash, first || flags == 1)] } }).respond c.id 0

/-- REVOKE_HOST_KEY (R448): a key removed, unless it is the last owner key; the sessions it authenticated end. -/
def execRevokeHostKey (sess q : Nat) (s : State) : Out :=
  manageCmd 4 64 true sess q s fun w c _ =>
    let hash := c.manageValue
    let rest := w.d.nv.keys.filter fun e => e.1 != hash
    if rest.length == w.d.nv.keys.length || !rest.any (·.2) then w.respond c.id stRefused
    else
      let w := w.endSessions fun x => x.key == some hash
      (w.mod fun d => { d with nv := { d.nv with keys := rest } }).respond c.id 0

/-- RELEASE_OWNERSHIP (R448): every key removed, and every session ends after the response. -/
def execReleaseOwnership (sess q : Nat) (s : State) : Out :=
  manageCmd 5 0 true sess q s fun w c _ =>
    ((w.endSessions fun _ => true).mod fun d => { d with nv := { d.nv with keys := [] } }).respond c.id 0

/-- LIST_KEYS (R448): 72 bytes for each key, on any session. -/
def execListKeys (sess q : Nat) (s : State) : Out :=
  manageCmd 6 0 false sess q s fun w c _ =>
    w.respond c.id 0 (w.d.nv.keys.flatMap fun e => e.1 ++ natLe 8 (if e.2 then 1 else 0))

end Sys2Proof.Machine
end

