-- ==== Sys2Proof/Machine/Control.lean ====
section
/-! DEFINITION. Control: branches, calls, jumps, the meeting register, NOP and REP (R246 to R248, R256 to R260). -/

namespace Sys2Proof.Machine

/-- NOP (R256). -/
def execNop (o : OpG) (s : State) : Out := issue s o.g {} fun _ w => .ok w

/-- The target of a format B instruction (R236): own address + 4 · displacement. -/
def Cur.branchTo (cu : Cur) (disp : BitVec 22) : Word := cu.addr + sext disp <<< 2

/-- BR (R257). -/
def execBr (o : OpBr) (s : State) : Out :=
  issue s o.g {} fun i w => .ok (i.mod w fun c => c.setPc i.act (i.cu.branchTo o.disp))

/-- CALL (R257). -/
def execCall (o : OpBr) (s : State) : Out :=
  issue s o.g { writes := [0], values := true } fun i w =>
    (i.put w 0 (.uni i.cu.ret)).bind fun w => .ok (i.mod w fun c => c.setPc i.act (i.cu.branchTo o.disp))

/-- SETM (R257). -/
def execSetm (o : OpBr) (s : State) : Out :=
  issue s o.g {} fun i w => .ok (i.mod w fun c => c.modThreads i.act fun t => { t with m := i.cu.branchTo o.disp })

/-- The threads of a mask changed, each by its lane. -/
def Crew.eachThread (c : Crew) (m : Mask) (f : Nat → Thread → Thread) : Crew :=
  { c with threads := c.threads.mapIdx fun l t => if m.getLsbD l then f l t else t }

/-- A target a PC may hold: bits [63:52] and [1:0] zero (R175, R259). -/
def okPc (a : Word) : Bool := a.toNat % 4 == 0 && decide (a.toNat < 2 ^ 52)

/-- A jump of each active lane to its own target, refused where a target is no PC (R258, R259). -/
def Iss.jump (i : Iss) (w : Work) (t : Nat → Word) : Res :=
  if (maskLanes i.act).all fun l => okPc (t l) then
    .ok (i.mod w fun c => c.eachThread i.act fun l x => { x with pc := t l })
  else .fault (i.illegal .badAddress)

/-- JMP (R258). -/
def execJmp (o : OpA) (s : State) : Out :=
  issue s o.g { reads := [o.a.toNat], values := true } fun i w => i.jump w fun l => i.val o.a.toNat l

/-- CALLR (R258): the target is read before v0 is written. -/
def execCallr (o : OpA) (s : State) : Out :=
  issue s o.g { reads := [o.a.toNat], writes := [0], values := true } fun i w =>
    (i.jump w fun l => i.val o.a.toNat l).bind fun w => i.put w 0 (i.spread [o.a.toNat] fun _ => i.cu.ret)

/-- RET (R258). -/
def execRet (o : OpG) (s : State) : Out :=
  issue s o.g { reads := [0], values := true } fun i w => i.jump w fun l => i.val 0 l

/-- GETM (R260). -/
def execGetm (o : OpD) (s : State) : Out := genOp s o.g [] o.d fun i l => (i.c.thread l).m

/-- PUTM (R260). -/
def execPutm (o : OpA) (s : State) : Out :=
  issue s o.g { reads := [o.a.toNat] } fun i w =>
    .ok (i.mod w fun c => c.eachThread i.act fun l x => { x with m := i.val o.a.toNat l })

/-- CLRM (R260). -/
def execClrm (o : OpG) (s : State) : Out :=
  issue s o.g {} fun i w => .ok (i.mod w fun c => c.modThreads i.act fun t => { t with m := mNone })

/-! ## REP (R246 to R248) -/

/-- Whether the vd field of an instruction is a register number (R245). -/
def vdIsReg (major minor : Nat) : Bool :=
  match major with
  | 0x00 => minor == 3 || minor == 13 || minor == 14
  | 0x06 => false
  | 0x0C => false
  | 0x15 => false
  | 0x1A => minor != 11
  | 0x1B => minor ≤ 2 || 8 ≤ minor
  | 0x24 => minor == 0
  | 0x38 => minor != 10
  | 0x3A => true
  | 0x3C => minor == 4 || minor == 6
  | 0x3D => minor == 1 || minor == 5 || minor == 10
  | 0x3E => minor == 5 || minor == 6 || minor == 12 || minor == 13 || minor == 15
  | 0x3F => minor == 0 || minor == 4 || minor == 6 || minor == 7 || minor == 11
  | m => m < 0x20 || m == 0x36 || m == 0x37

/-- Whether a major has the RI format (R249). -/
def isRI (major : Nat) : Bool := 0x07 ≤ major && major ≤ 0x0D

/-- The lowest bit of the vd, va and vb fields of a first word (R236). -/
def fieldLow (major : Nat) : Nat × Nat × Nat := if isRI major then (20, 14, 4) else (16, 10, 4)

/-- Whether REP may not repeat a target (R247): its major, a stepped vb of an RI target, a stepped vd that is no
register number; or a stepped field that would pass 63 (R246). -/
def repBad (o : OpRep) (word : Nat) : Bool :=
  let major := word / 2 ^ 26 % 64
  let f := fieldLow major
  let last := o.cnt.toNat * (o.step.toNat + 1)
  let past := fun lo => decide (63 < word / 2 ^ lo % 64 + last)
  major == 0 || (0x1D ≤ major && major ≤ 0x35) || major == 0x3F
    || (o.stepB && isRI major) || (o.stepD && !vdIsReg major (word / 2 ^ 22 % 16))
    || (o.stepD && past f.1) || (o.stepA && past f.2.1) || (o.stepB && past f.2.2)

/-- The first word of repeat `i`: each stepped field raised by i steps (R246). -/
def repStepped (o : OpRep) (word i : Nat) : Nat :=
  let f := fieldLow (word / 2 ^ 26 % 64)
  let n := i * (o.step.toNat + 1)
  word + (if o.stepD then n * 2 ^ f.1 else 0) + (if o.stepA then n * 2 ^ f.2.1 else 0) + (if o.stepB then n * 2 ^ f.2.2 else 0)

/-- REP (R246): the target is checked (R247), and the group is committed to the repeats from REPI on, which issue one
by one with no choice of R178 between them. The PCs stay on the REP. -/
def execRep (o : OpRep) (s : State) : Out :=
  issue s .always {} fun i w =>
    match i.cu.target with
    | none => .fault (i.illegal .repeated)
    | some t =>
      if repBad o t.1 then .fault (i.illegal .repeated)
      else .ok (i.mod w fun c => { c.setPc i.cu.group i.cu.addr with repGroup := i.cu.group })

end Sys2Proof.Machine
end

