-- ==== Sys2Proof/Machine/Fetch.lean ====
section
/-! DEFINITION. Fetch: the words of code as an instruction cache gives them, the layout of clauses, the check of a whole
clause, and the codes of a dictionary word (11_instruction_encoding.md R230 to R234, R242 to R247, R251). -/

namespace Sys2Proof.Machine

/-! ## Words of code (R233, R251) -/

/-- The range in which code is parsed (R233), and the tag its words have in an instruction cache. -/
structure CodeRange where
  base : Nat
  len : Nat
  tag : Nat

/-- The range of a crew's code: its grid's, or the region that the driver gave the handler crews. -/
def Dev.codeRange (d : Dev) (c : Crew) : Option CodeRange :=
  if c.handler then (d.part c.place.tower).bind fun p => p.handler.map fun h => { base := h.2.1, len := h.2.2, tag := 4096 + p.low }
  else (d.gridOf c).map fun g => { base := g.launch.code.toNat, len := g.launch.codelen, tag := g.ctx }

/-- Why a group issues nothing at its PC: an illegal-instruction trap with its word, a violation (reason of R33, tensor id,
address), an uncorrectable error at an address, or a shootdown. -/
inductive Stop where
  | illegal (cls : Illegal) (word : Nat)
  | violation (why tensor addr : Nat)
  | uncorrectable (addr : Nat)
  /-- A shootdown holds the translation (R44): the group waits. -/
  | held
deriving DecidableEq, Repr

/-- The bytes of memory of a word of code that a crew fetches (R26, R31). -/
def Work.codeRefs (w : Work) (c : Crew) (a : Nat) : Except Stop (List BRef) :=
  match w.d.who c with
  | none => .error (.illegal .badAddress 0)
  | some q =>
    match (if c.handler then w.locatePhys q (2 ^ 63 + a) 4 else w.locate { q with via := .now, fails := [] } [] .fetch 0 a 4) with
    | .ok refs => if (w.d.meetsBad false refs).isSome || (w.d.nearBad q.t q.k refs).isSome then .error (.uncorrectable a) else .ok refs
    | .bad why tensor => .error (.violation why tensor a)
    | .miss _ => .error .held
    | .held => .error .held

/-- The word that memory holds for a fetch of a crew: from its cluster's CMB outward (R26, R31, R47, R75). -/
def Work.rawWord (w : Work) (c : Crew) (a : Nat) : Except Stop Nat :=
  (w.codeRefs c a).map fun refs => leNat (refs.map fun r => w.nearByte c.place.tower c.place.core r)

/-- The lines of words fetched used in the home slices and gateway caches, as by loads (R25, R47). -/
def Work.fetchLines (w : Work) (c : Crew) (as : List Nat) : Work :=
  let refs := as.flatMap fun a => match w.codeRefs c a with
    | .ok refs => refs.filter (·.cached)
    | .error _ => []
  let t := c.place.tower
  let k := c.place.core
  (lineHeads (refs.filter fun r => ((w.d.cluster t (clusterOf k)).byte r.tag r.pos).isNone)).foldl (fun w r => w.inCaches fun w =>
    let (home, slice) := w.homeOf t k r.tag r.key
    w.lineRead t k r.tag 0 (w.d.gridId c) home slice) w

/-- The words an instruction cache holds for an address. -/
def Core.fetched (k : Core) (tag a : Nat) : List Nat := (k.icache.filter fun e => e.1 == tag && e.2.1.toNat == a).map (·.2.2)

/-- The word a fetch returns: one that the instruction cache has held since the last launch, or the one in memory; which of
them is left open (R251; assumption 22). -/
def Work.codeWord (w : Work) (c : Crew) (tag a : Nat) : Except Stop Nat :=
  match w.rawWord c a with
  | .error e => .error e
  | .ok v =>
    match distinct ((w.d.core c.place.tower c.place.core).fetched tag a ++ [v]) with
    | [x] => .ok x
    | xs => .ok (xs.getD (Config.fetchPick w.d.free a % xs.length) v)

/-- Words from an address on. -/
def codeWords (read : Nat → Except Stop Nat) : Nat → Nat → Except Stop (List Nat)
  | 0, _ => .ok []
  | n + 1, a =>
    match read a with
    | .error e => .error e
    | .ok v => (codeWords read n (a + 4)).map fun r => v :: r

/-- Words an instruction cache holds (R3): 64 KiB. -/
def cacheWords : Nat := 16384

/-- The instruction cache with the words of memory at some addresses kept, the oldest leaving a full one (R3, R251). -/
def Work.keepWords (w : Work) (c : Crew) (tag : Nat) (as : List Nat) : Work :=
  let new_ := as.filterMap fun a => match w.rawWord c a with
    | .ok v => if ((w.d.core c.place.tower c.place.core).fetched tag a).contains v then none else some (tag, BitVec.ofNat 64 a, v)
    | .error _ => none
  if new_.isEmpty then w else (w.fetchLines c (new_.map fun e => e.2.1.toNat)).mod fun d => d.modCore c.place.tower c.place.core fun k =>
    { k with icache := (k.icache ++ new_).drop ((k.icache ++ new_).length - cacheWords) }

/-! ## Clauses (R230 to R233) -/

/-- A clause: the address of its header, its header, its body words. -/
structure Clause where
  head : Nat
  hdr : Nat
  words : List Nat
deriving DecidableEq, Repr

/-- COUNT of a header (R230). -/
def hdrCount (v : Nat) : Nat := bits 27 24 v

/-- CLASS of a clause (R230). -/
def Clause.cls (c : Clause) : Nat := bits 23 21 c.hdr
/-- DICT of a clause (R230). -/
def Clause.dict (c : Clause) : Bool := bit 20 c.hdr
/-- RUNEND of a clause (R230). -/
def Clause.runEnd (c : Clause) : Bool := bit 19 c.hdr
/-- YIELDPT of a clause (R230). -/
def Clause.yieldPt (c : Clause) : Bool := bit 18 c.hdr
/-- WCLASS of a clause (R230). -/
def Clause.waitClass (c : Clause) : Nat := bits 17 15 c.hdr
/-- WTHR of a clause (R230). -/
def Clause.waitThr (c : Clause) : Nat := bits 14 9 c.hdr
/-- The address of body word `i`. -/
def Clause.at_ (c : Clause) (i : Nat) : Nat := c.head + 4 + 4 * i

/-- A header that R232 refuses: SIG, COUNT, zero bits, WCLASS. -/
def badHeader (v : Nat) : Bool := bits 31 28 v != 0b1010 || hdrCount v == 0 || bits 8 0 v != 0 || bits 17 15 v == 7

/-- The clause whose header or body a PC names, found from a header on: the header's address and the header (R233). -/
def findClause (read : Nat → Except Stop Nat) (pc : Nat) : Nat → Nat → Except Stop (Nat × Nat)
  | 0, _ => .error (.illegal .badAddress 0)
  | n + 1, h =>
    match read h with
    | .error e => .error e
    | .ok v => if pc < h + 4 + 4 * hdrCount v then .ok (h, v) else findClause read pc n (h + 4 + 4 * hdrCount v)

/-- The major opcode of a first word (R236). -/
def majorOf (word : Nat) : Nat := bits 31 26 word

/-- Majors that R249 reserves. -/
def reservedMajor (m : Nat) : Bool := (0x1D ≤ m && m ≤ 0x1F) || (0x26 ≤ m && m ≤ 0x35)

/-- The engine class of a major, 0 for plain and for a reserved major, which passes every clause (R231). -/
def majorClass (m : Nat) : Nat :=
  match m with
  | 0x38 => 1
  | 0x39 => 1
  | 0x3A => 2
  | 0x3B => 2
  | 0x3C => 3
  | 0x3D => 4
  | 0x3E => 5
  | 0x3F => 6
  | _ => 0

/-- Whether a clause may hold an instruction with a first word (R231). -/
def Clause.allows (c : Clause) (word : Nat) : Bool := majorClass (majorOf word) == 0 || c.cls == 7 || majorClass (majorOf word) == c.cls

/-- The positions of the first words of a plain clause's instructions; `none` where the first word of a two-word instruction is
the last body word (R232). -/
def bodyStarts (i : Nat) : List Nat → Option (List Nat)
  | [] => some []
  | [v] => if isTwoWord v then none else some [i]
  | v :: x :: r => if isTwoWord v then (bodyStarts (i + 2) r).map fun l => i :: l else (bodyStarts (i + 1) (x :: r)).map fun l => i :: l

/-- The major of REP. -/
def repMajor : Nat := 0x25

/-- The check of a clause with DICT = 0 (R232): the starts of its instructions, or the trap. -/
def Clause.plain (c : Clause) : Except Stop (List Nat) :=
  match bodyStarts 0 c.words with
  | none => .error (.illegal .header 0)
  | some ss =>
    let first := fun i => c.words.getD i 0
    if ss.all (fun i => c.allows (first i)) && majorOf (first (ss.getLastD 0)) != repMajor then .ok ss else .error (.illegal .header 0)

/-! ## Dictionary words (R243 to R245) -/

/-- What a code stands for: padding, an entry's first word and extension with the override made, or a trap's class. -/
inductive Code where
  | pad
  | entry (word ext : Nat)
  | bad (cls : Illegal)
deriving DecidableEq, Repr

/-- The dictionary a crew's codes index: its core's, with DICTN of its grid; none for a handler crew (R242). -/
def Dev.dictOf (d : Dev) (c : Crew) : List Word :=
  match d.gridOf c with
  | some g => (d.core c.place.tower c.place.core).dict.take g.launch.dictn
  | none => []

/-- A code looked up (R243, R245); `padOk` where padding is legal. -/
def Clause.code (c : Clause) (dict : List Word) (code : Nat) (padOk : Bool) : Code :=
  if code == 0xFFFF then (if padOk then .pad else .bad .dictionary)
  else
    match dict[bits 9 0 code]? with
    | none => .bad .dictionary
    | some e =>
      let word := bits 31 0 e.toNat
      let ext := bits 63 32 e.toNat
      let m := majorOf word
      let ovr := bits 15 10 code
      if bits 31 28 word == 0b1010 || reservedMajor m || m == repMajor || (!isTwoWord word && ext != 0) then .bad .dictionary
      else if ovr != 0 && !vdIsReg m (bits 25 22 word) then .bad .dictionary
      else
        let lo := if isRI m then 20 else 16
        let word := if ovr == 0 then word else word - word / 2 ^ lo % 64 * 2 ^ lo + ovr * 2 ^ lo
        if c.allows word then .entry word ext else .bad .header

/-- Whether an entry can move a PC other than to the next instruction, change M, end a thread or move a crew (R244). -/
def movesPc (word : Nat) : Bool :=
  let m := majorOf word
  (0x20 ≤ m && m ≤ 0x24) || (m == 0 && [2, 5, 6, 7, 12].contains (bits 25 22 word)) || (m == 0x3F && bits 25 22 word == 9)

/-- The two codes of body word `i`: code 0, and code 1 where it is not padding; or the trap (R243 to R245). -/
def Clause.pair (c : Clause) (dict : List Word) (i : Nat) : Except Stop ((Nat × Nat) × Option (Nat × Nat)) :=
  let v := c.words.getD i 0
  match c.code dict (bits 15 0 v) false, c.code dict (bits 31 16 v) (i + 1 == c.words.length) with
  | .bad cls, _ => .error (.illegal cls v)
  | _, .bad cls => .error (.illegal cls v)
  | .entry w0 x0, .entry w1 x1 => if movesPc w0 then .error (.illegal .dictionary v) else .ok ((w0, x0), some (w1, x1))
  | .entry w0 x0, .pad => .ok ((w0, x0), none)
  | .pad, _ => .error (.illegal .dictionary v)

/-- The check of a clause with DICT = 1 (R232): the first trap of its words. -/
def Clause.dictBad (c : Clause) (dict : List Word) : Option Stop :=
  (List.range c.words.length).findSome? fun i => match c.pair dict i with
    | .error e => some e
    | .ok _ => none

/-- The first body word of a clause with a code whose dictionary entry holds an uncorrectable error (R75). -/
def Clause.dictLost (c : Clause) (bad : List Nat) : Option Stop :=
  if bad.isEmpty then none
  else (List.range c.words.length).findSome? fun i =>
    let v := c.words.getD i 0
    if [bits 15 0 v, bits 31 16 v].any fun x => x != 0xFFFF && bad.contains (bits 9 0 x) then some (.uncorrectable (c.at_ i)) else none

/-! ## What a PC names (R232, R233) -/

/-- The clause at a PC, checked whole, and the body word the PC names, `none` for the header (R232, R233). -/
def Work.clauseAt (w : Work) (c : Crew) (pc : Nat) : Except Stop (Clause × Option Nat) :=
  match w.d.codeRange c with
  | none => .error (.illegal .badAddress 0)
  | some r =>
    if pc % 4 != 0 || pc < r.base || r.base + r.len ≤ pc then .error (.illegal .badAddress 0)
    else
      let read := w.codeWord c r.tag
      match findClause read pc (r.len / 4 + 1) r.base with
      | .error e => .error e
      | .ok (h, v) =>
        if badHeader v then .error (.illegal .header 0)
        else if r.base + r.len < h + 4 + 4 * hdrCount v then .error (.illegal .badAddress 0)
        else
          match codeWords read (hdrCount v) (h + 4) with
          | .error e => .error e
          | .ok ws =>
            let cl : Clause := { head := h, hdr := v, words := ws }
            if cl.dict then
              match (cl.dictLost (w.d.core c.place.tower c.place.core).badDict).or (cl.dictBad (w.d.dictOf c)) with
              | some e => .error e
              | none => .ok (cl, if pc == h then none else some ((pc - h - 4) / 4))
            else
              match cl.plain with
              | .error e => .error e
              | .ok ss =>
                if pc == h then .ok (cl, none)
                else if ss.contains ((pc - h - 4) / 4) then .ok (cl, some ((pc - h - 4) / 4))
                else .error (.illegal .badAddress 0)

/-- The stop record of a group that meets a stop at its PC (R31, R377, R398); a group that a shootdown holds has none and waits
(see `State.crewFront`). -/
def Crew.stopAt (c : Crew) (pc : Word) (group : Mask) (e : Stop) : FaultInfo :=
  match e with
  | .illegal cls word => c.illegal cls word pc group
  | .held => c.illegal .badAddress 0 pc group
  | .violation why tensor a =>
    { c.fault .violation pc group with
      aform := if c.handler then 2 else 1, addr := if c.handler then physForm a else BitVec.ofNat 64 a
      viol := some { tensor := tensor, why := why, access := Acc.fetch.code, space := 0 } }
  | .uncorrectable a =>
    { c.fault .uncorrectable pc group with aform := if c.handler then 2 else 1, addr := if c.handler then physForm a else BitVec.ofNat 64 a }

/-- DICT_ISSUE_UNIT (R244): the two codes of a body word of the chosen group are looked up together; nothing has an effect unless
both are legal. They then issue in order, with nothing between them. -/
def execDictIssueUnit (crew : Nat) (s : State) : Out :=
  match s.d.cur with
  | none => .next s
  | some cu =>
    match s.d.crew crew with
    | none => .next s
    | some c =>
      let cl : Clause := { head := 0, hdr := 7 * 2 ^ 21, words := [cu.word] }
      match cl.pair (s.d.dictOf c) 0 with
      | .error e => .next (s.stop cu (c.stopAt cu.addr cu.group e))
      | .ok (a, b) =>
        let d := { s.d.setCrew (c.choose cu) with cur := none }
        .next { s with d := d, cont := some { phase := .first, crew := crew, group := cu.group, addr := cu.addr, next := cu.ret, first := a
                                              second := b, before := { mem := s.mem, dev := d }, runEnd := cu.runEnd } }

/-! ## The choice of R178 -/

/-- The PC, the issue group and the skip counts of a crew's next choice (R178). -/
def Crew.pick (c : Crew) : Option (Word × Mask × List Nat) :=
  let e := c.eligible
  match maskLanes e with
  | [] => none
  | t :: ts =>
    let g := match (t :: ts).find? fun l => (c.thread l).skip == 64 with
      | some l => (c.thread l).pc
      | none => ts.foldl (fun m l => if (c.thread l).pc.toNat < m.toNat then (c.thread l).pc else m) (c.thread t).pc
    let group := maskOf fun l => e.getLsbD l && (c.thread l).pc == g
    some (g, group, lanes.map fun l => if group.getLsbD l then 0 else if e.getLsbD l then Nat.min ((c.thread l).skip + 1) 64 else 0)

/-- The group of a REP between its repeats: the same threads, at the REP; `none` where they are no longer one group (R178,
R248). -/
def Crew.repPick (c : Crew) : Option (Word × Mask) :=
  match maskLanes c.repGroup with
  | [] => none
  | t :: ts =>
    let pc := (c.thread t).pc
    if (t :: ts).all fun l => !(c.thread l).exited && (c.thread l).pc == pc && (c.thread l).m != pc then some (pc, c.repGroup) else none

end Sys2Proof.Machine
end

