-- ==== Sys2Proof/Machine/Wake.lean ====
section
/-! DEFINITION. Wake: what follows by itself between the steps of the agents: waits that are met end, barriers, rendezvous and
batons are looked at, holds end, timers count (R116, R180, R182, R207, R235, R300, R309, R330, R339 to R342, R390, R417). -/

namespace Sys2Proof.Machine

/-! ## Waits (R182) -/

/-- Whether the operation a group waits for has written its result: it is done or gone, or it is a publish that its cell has
taken (R306). -/
def Dev.resultThere (d : Dev) (id : Nat) : Bool :=
  match d.op id with
  | none => true
  | some o => o.done || (match o.kind with
    | .version _ _ _ _ _ _ state _ _ => state == 2
    | _ => false)

/-- Whether an operation still keeps back later accesses of its threads: it is an acquire, or it has bytes left to access (R84,
R91); none of a ring operation that waits at its executing place (R135, R310). -/
def Dev.keepsBack (d : Dev) (id : Nat) : Bool :=
  !d.resultThere id && match d.op id with
    | none => false
    | some o => o.kind.acquires || lanes.any fun (l : Nat) => !(o.kind.keysOf l).isEmpty

/-- Whether a queue or store of an engine has room for `n` more. -/
def Dev.roomAt (d : Dev) (t i : Nat) (e : Engine) (n : Nat) : Bool :=
  let k := d.core t i
  match e with
  | .request => decide (k.copies.length + n ≤ recordStore)
  | .matrix => decide (d.mxUsed t i < mxQueue)
  | .kiln => decide (k.kiln.queue.length < samplerQueue)
  | .slip => decide (k.slip.queue.length < samplerQueue)
  | _ => true

/-- Whether a wait is met (R182). -/
def Work.met (w : Work) (c : Crew) (x : Wait) : Bool :=
  let k := w.d.core c.place.tower c.place.core
  match x.cond with
  | .counter cls thr => decide (c.count cls ≤ thr)
  | .counterRoom cls n => decide (c.count cls + n ≤ 127)
  | .fence id => (w.d.fences.find? fun f => f.id == id).all (·.done)
  | .barrier b => !c.bar.getLsbD b
  | .gridBarrier => !c.gpend
  | .over => true
  | .arrival key want => genReached (w.genAt key) want
  | .result id => if x.again then !w.d.keepsBack id else w.d.resultThere id
  | .baton => (w.d.teamOf c).all fun t => t.baton == c.index
  | .neighbour dir _ => !(k.nq.getD dir []).isEmpty
  | .credit dir => k.credits.getD dir 0 != 0
  | .room e n => w.d.roomAt c.place.tower c.place.core e n
  | .outboxRoom n => decide (k.outbox.length + n ≤ outboxSize)
  | .pairSlot dir role => !w.d.pairSlotTaken c dir role
  | .rendezvous id => !w.d.arrived id
  | .walk id => !((w.d.tower c.place.tower).walks ++ (w.d.tower c.place.tower).waitingWalks).any fun y => y.id == id
  | .held ctx => !w.d.shootdowns.any fun z => z.ctx == ctx && 1 ≤ z.step && z.step ≤ 4
  | .checks => c.checksLeft &&& ~~~ x.mask == 0
  | .storeRoom => decide (k.sq.length < storeQueue)
  | .requests => decide (w.d.requests c.place.tower c.place.core < coreRequests)
  | .registers => !c.mustWait x.mask
  | .migration op => (w.d.op op).all (·.done)

/-- Whether a crew's partition lets it go on: kernel crews while no halt is on, handler crews while they handle one (R400,
R407), and neither while its tower's warm reset has failed. -/
def Dev.goesOn (d : Dev) (c : Crew) : Bool :=
  match d.part c.place.tower with
  | none => false
  | some p => if c.handler then p.halt.phase == .handling && c.status == .running else p.halt.phase == .running

/-- A wait that is met ended (R182): threads that still stand on its instruction go on behind it, unless the instruction is to
issue again, and the acquire that it makes is made. -/
def Work.endWait (w : Work) (id : Nat) (x : Wait) : Work :=
  match w.d.crew id with
  | none => w
  | some c =>
    let w := match x.cond with
      | .neighbour dir op => w.receive dir op (x.dests.headD 0)
      | _ => w
    let w := w.mod fun d => d.modCrew id fun c =>
      let c := { c with waits := c.waits.erase x }
      if x.again || x.second.isSome then c
      else (c.modThreads x.mask fun t => if !t.exited && t.pc == x.addr then { t with pc := x.next } else t).release
    match x.acquire with
    | some s => w.acquire c.place.tower c.place.core s
    | none => w

/-- The waits of a crew that are met and whose end needs no further issue ended, in the order they were entered. -/
def Work.endWaits (w : Work) (c : Crew) : Work :=
  if !w.d.goesOn c then w else (c.waits.filter fun x => x.second.isNone).foldl (fun w x => if w.met c x then w.endWait c.id x else w) w

/-! ## Holds (R235, R393) -/

/-- A hold ends when its crew has no eligible thread or has stopped; the crew becomes the youngest. A crew held back by a pending register waits
for nothing and keeps its hold (R182, R235, R240). -/
def Dev.endHolds (d : Dev) : Dev :=
  d.crews.foldl (fun d c =>
    let back := c.waits.any fun x => x.cond == .registers
    if c.held && ((c.eligible == 0 && !back) || c.status != .running) then d.modCrew c.id fun c => { c with held := false, holdCount := 0, age := d.youngest } else d) d

/-! ## What a whole team or partition waits for -/

/-- Barriers, rendezvous and batons of every team, rings, cells and grid barriers looked at. -/
def Work.meetings (w : Work) : Work :=
  let w := w.settle.ringWakeAll.versionWakeAll
  let w := (w.d.teams.filter fun t => t.phase == .resident).foldl (fun w t => ((w.barriersCheck t.id).gangEnded t).batonCheck t) w
  let w := (w.d.teams.filter fun t => t.phase == .resident).foldl (fun w t => w.gangCheck t) w
  let w := w.d.pairs.foldl (fun w a => w.pairCheck a.crew) w
  w.gridBarriers

/-! ## Time (R207, R341, R390, R412, R417, R418, R420) -/

/-- Whether the context of a partition is resident and not past the first step of a switch, so that its timers count (R417). -/
def Dev.counts (d : Dev) (p : Part) : Bool :=
  match p.ctx.bind d.ctx with
  | some x => x.switch == .idle || x.switch == .stopping
  | none => false

/-- The timers of a crew `n` cycles on: CTMR, and its deadline while it is to stop. -/
def Crew.tick (c : Crew) (n : Nat) : Crew :=
  { c with
    sp := if c.sp.ctmrArm then { c.sp with ctmr := BitVec.ofNat 48 (c.sp.ctmr.toNat - n) } else c.sp
    deadline := if c.sp.preempt then c.deadline - n else c.deadline }

/-- The bin timers of a tower `n` cycles on. -/
def Tower.tickBins (z : Tower) (n : Nat) : Tower :=
  if z.bins.any (fun b => b.timer.isSome) then { z with bins := z.bins.map fun b => { b with timer := b.timer.map (· - n) } } else z

/-- A partition `n` cycles on: CYC of its towers, the timers of its crews, and, while it is not halted, bin timers, watchdogs and
checkpoint intervals. -/
def Dev.tickPart (d : Dev) (n : Nat) (p : Part) : Dev :=
  if !d.counts p then d
  else
    let still := ((p.ctx.bind d.ctx).map (·.cycHeld)).getD false
    let d := if still then d else p.towers.foldl (fun d t => d.modTower t fun z => { z with cyc := z.cyc + BitVec.ofNat 64 n }) d
    let d := { d with crews := d.crews.map fun (c : Crew) =>
      if p.towers.contains c.place.tower && !p.debugHalted.contains c.place.tower && (c.sp.ctmrArm || c.sp.preempt) then c.tick n else c }
    if p.halt.phase != .running then d
    else
      let d := p.towers.foldl (fun d t => if p.debugHalted.contains t then d else d.modTower t fun z => z.tickBins n) d
      let runs (a : PairArrival) : Bool := p.towers.contains a.tower && p.debugHalted.isEmpty
      { d with
        pairs := d.pairs.map fun (a : PairArrival) => if runs a then { a with watchdog := a.watchdog - n } else a
        checkpoints := d.checkpoints.map fun (c : Checkpoint) => if p.towers.contains c.tower then { c with elapsed := c.elapsed + n } else c }

/-- CYC of restored contexts goes on once a crew of theirs has issued (R417). -/
def Dev.cycsBegin (d : Dev) : Dev :=
  (d.parts.filter fun p => d.crews.any fun c => c.issued && p.towers.contains c.place.tower).foldl (fun d p =>
    match (p.ctx.bind d.ctx).filter (·.cycHeld) with
    | some x => d.modCtx x.ctxid fun x => { x with cycHeld := false }
    | none => d) d

/-- The cycles of one step pass; how many is left open (assumption 20). -/
def Dev.tick (d : Dev) : Dev :=
  let n := Config.cycles d.free
  let d := d.cycsBegin
  d.parts.foldl (fun d p => d.tickPart n p) { d with free := d.free + 1, turn := d.turn + 1 }

/-- Checkpoints that begin because their region is full (R420). -/
def Dev.fullRegions (d : Dev) : Dev :=
  (d.checkpoints.filter fun c => c.taken && !c.taking && c.size != 0 && decide (c.size ≤ c.used) && d.mayCheckpoint c.tower).foldl
    (fun d c => d.beginCheckpoint c.tower none) d

/-- The queues of a session, by direction, and of its acknowledgements, whose next number stands in the upper half of its range. -/
def Session.upper (x : Session) : List Nat :=
  x.queues.flatMap fun k => ((List.range 3).zip [k.expected, k.sendSeq, k.ackCount % 2 ^ 32]).filterMap fun e =>
    if 2 ^ 31 ≤ e.2 then some (3 * k.id + e.1) else none

/-- Sessions rekeyed before a queue of theirs reaches 2^32 frames under the same keys: as it passes a half of its numbers (R435; assumption
59). -/
def Work.rekeys (w : Work) : Work :=
  w.d.host.sessions.foldl (fun w x =>
    if x.upper == x.halves then w
    else
      let (id, w) := w.newId
      w.mod fun d => { d with host := { d.host with sessions := d.host.sessions.map fun y =>
        if y.id == x.id then { y with keyEpoch := id, halves := x.upper } else y } }) w

/-- What happens by itself before a step. While the two codes of a dictionary word issue, nothing does (R244). -/
def State.wake (s : State) : State :=
  if s.cont.isSome then s
  else
    let w := s.work.rekeys.meetings
    let w := w.d.crews.foldl (fun w c => w.endWaits c) w
    s.after (w.mod fun d => d.endHolds.fullRegions.tick)

end Sys2Proof.Machine
end

