-- ==== Sys2Proof/Machine/Front.lean ====
section
/-! DEFINITION. Front: which instruction a crew issues next and how it is issued: clause headers, yield points, runs, REP and
dictionary words (R178, R198, R234, R235, R244, R246 to R248, R393, R395). -/

noncomputable section

namespace Sys2Proof.Machine

/-! ## The arbiter (R235, R393, R395) -/

/-- The class and the additions of an instruction by its first word (R114, R395): KICK by its vb in the lowest of the lanes that its guard
leaves active. -/
def classAdds (c : Crew) (group : Mask) (word : Nat) : Nat × Nat :=
  let act := group &&& c.guard (Guard.read word)
  let m := majorOf word
  let minor := bits 25 22 word
  match m with
  | 0x38 => if minor == 10 then (0, 0) else (1, 1)
  | 0x39 => (2, 1)
  | 0x3A => (1, 1)
  | 0x3B => (2, 1)
  | 0x3C =>
    if minor == 0 then (3, if act == 0 then 0 else (c.val (bits 9 4 word) (lowLane act)).toNat)
    else if minor == 3 || minor == 10 then (0, 0) else if minor == 4 || minor == 6 then (1, 1) else (2, 1)
  | 0x3D => if [0, 1, 2, 3, 4, 5, 9, 10].contains minor then (4, 1) else (0, 0)
  | 0x3E => (5, 1)
  | 0x3F => (6, 1)
  | _ => (0, 0)

/-- The first words of the instructions in straight-line order from a PC to the next RUNEND (R395). -/
def Work.straight (w : Work) (c : Crew) : Nat → Nat → List Nat
  | 0, _ => []
  | n + 1, pc =>
    match w.clauseAt c pc with
    | .error _ => []
    | .ok (cl, idx) =>
      let i := idx.getD 0
      let here := if cl.dict then
          (List.range cl.words.length).flatMap fun j => if j < i then [] else match cl.pair (w.d.dictOf c) j with
            | .ok (a, some b) => [a.1, b.1]
            | .ok (a, none) => [a.1]
            | .error _ => []
        else (((bodyStarts 0 cl.words).getD []).filter fun j => i ≤ j).map fun j => cl.words.getD j 0
      if cl.runEnd then here else here ++ w.straight c n (cl.at_ cl.words.length)

/-- Counter additions by class and outbox entries of a list of instructions; a REP multiplies the one after it (R395). -/
def runAdds (c : Crew) (group : Mask) : Nat → List Nat → List (Nat × Nat) × Nat
  | _, [] => ([], 0)
  | m, v :: r =>
    if majorOf v == repMajor then runAdds c group (bits 25 20 v + 1) r
    else
      let (as, ob) := runAdds c group 1 r
      let a := classAdds c group v
      ((a.1, a.2 * m) :: as, ob + if majorOf v == 0x3B then 32 * m else 0)

/-- The instructions the arbiter looks ahead (R395). -/
def runLimit : Nat := 24

/-- Whether a crew may start a hold (R395): no counter would pass 127 and the outbox has room, over the scanned path. -/
def Work.mayStart (w : Work) (c : Crew) (pc : Word) (group : Mask) : Bool :=
  let (as, ob) := runAdds c group 1 ((w.straight c runLimit pc.toNat).take runLimit)
  let need := fun cls => ((as.filter fun a => a.1 == cls).map (·.2)).sum
  let used := (w.d.core c.place.tower c.place.core).outbox.length
  ([1, 2, 3, 4, 5, 6].all fun cls => decide (c.count cls + need cls ≤ 127))
    && decide (used + ob ≤ outboxSize)

/-- The crews of a core in a hold of an issue slot (R235). -/
def Dev.holds (d : Dev) (t k : Nat) : Nat := (d.crews.filter fun c => c.held && c.place.tower == t && c.place.core == k).length

/-- Issue slots of a core (R3). -/
def issueSlots : Nat := 2

/-- Whether a crew's state is on its way to slot 33, or has been restored and has still to land there again (R194, R197). -/
def Dev.inTransit (d : Dev) (c : Crew) : Bool :=
  d.relands c.id || d.ops.any fun o => o.crew == c.id && !o.done && (match o.kind with
    | .migrate stage _ _ => stage == 5
    | _ => false)

/-- Whether a crew's core issues for it: its engine runs, its partition lets it go on, and the crew has not stopped, is not past its deadline
in a switch (R412), and stands in its slot. -/
def Dev.issues (d : Dev) (c : Crew) : Bool :=
  d.goesOn c && c.status == .running && !c.stalled && !d.overdue c && !d.inTransit c && (c.handler || d.engineRuns c.place.tower c.place.core .issue)
    && (c.held || decide (d.holds c.place.tower c.place.core < issueSlots))

/-! ## What a crew does next -/

/-- What a step does. -/
inductive Front where
  /-- Nothing can be done. -/
  | idle
  /-- The machine moves on without issuing an instruction. -/
  | moved (s : State)
  /-- An instruction or a row of the device is executed. -/
  | run (i : Instr) (s : State)

/-- A group that issues nothing at its PC: the choice is made, and the stop is taken (R232, R398). -/
def State.stopGroup (s : State) (c : Crew) (pc : Word) (group : Mask) (skips : List Nat) (e : Stop) : State :=
  s.stop { crew := c.id, group := group, addr := pc, skips := skips } (c.stopAt pc group e)

/-- An instruction of a crew about to be executed; a word that the decoder rejects is a trap (R238, R249, R377). -/
def State.launch (s : State) (c : Crew) (cu : Cur) (ext : Nat) : Front :=
  match decodeWord cu.word ext with
  | .ok i => .run i { s with d := { s.d with cur := some cu } }
  | .error cls => .moved (s.stop cu (c.illegal cls cu.word cu.addr cu.group))

/-- The instruction after a word of a plain clause that begins at body word `i`: its position. -/
def Clause.after (cl : Clause) (i : Nat) : Nat := if isTwoWord (cl.words.getD i 0) then i + 2 else i + 1

/-- An instruction of a plain clause (R236), or a REP with its target (R246 to R248). -/
def State.plainWord (s : State) (c : Crew) (cl : Clause) (i : Nat) (group : Mask) (skips : List Nat) (repeating : Bool) : Front :=
  let word := cl.words.getD i 0
  let addr := BitVec.ofNat 64 (cl.at_ i)
  let n := cl.words.length
  let after := cl.after i
  if majorOf word != repMajor then
    s.launch c { crew := c.id, group := group, addr := addr, ret := BitVec.ofNat 64 (cl.at_ after), word := word, skips := skips
                 runEnd := cl.runEnd && after == n } (cl.words.getD (i + 1) 0)
  else
    let target := (cl.words.getD after 0, cl.words.getD (after + 1) 0)
    let rest := cl.after after
    if !repeating then
      s.launch c { crew := c.id, group := group, addr := addr, ret := addr, word := word, skips := skips, target := some target, counts := false
                   weight := 0 } 0
    else
      match decodeWord word 0 with
      | .ok (.rep o) =>
        let last := c.repi == o.cnt.toNat
        if o.cnt.toNat < c.repi then
          .moved { s with d := s.d.setCrew { ((c.choose { skips := skips }).setPc group (BitVec.ofNat 64 (cl.at_ rest))) with repi := 0, repGroup := 0 } }
        else s.launch c
                   { crew := c.id, group := group, addr := addr, ret := if last then BitVec.ofNat 64 (cl.at_ rest) else addr
                     word := repStepped o target.1 c.repi, repi := some (if last then 0 else c.repi + 1)
                     runEnd := last && cl.runEnd && rest == n, weight := if last then 2 else 0 } target.2
      | _ => .moved (s.stop { crew := c.id, group := group, addr := addr } (c.illegal .repeated word addr group))

/-- A group at a body word of a checked clause: its yield point (R198), then its instruction or its dictionary word. -/
def State.bodyWord (s : State) (c : Crew) (cl : Clause) (i : Nat) (group : Mask) (skips : List Nat) (repeating : Bool) : Front :=
  let entered := c.entered &&& group != 0
  let s := if entered then { s with d := s.d.modCrew c.id fun c => { c with entered := c.entered &&& ~~~ group } } else s
  if entered && s.d.mustStop c then
    .moved (s.after ((s.work.mod fun d => d.modCrew c.id fun c => c.choose { skips := skips }).stopCrew c false))
  else if cl.dict then
    let addr := BitVec.ofNat 64 (cl.at_ i)
    let cu : Cur :=
      { crew := c.id, group := group, addr := addr, ret := BitVec.ofNat 64 (cl.at_ (i + 1)), word := cl.words.getD i 0, skips := skips
        runEnd := cl.runEnd && i + 1 == cl.words.length }
    .run (.dictIssueUnit c.id) { s with d := { s.d with cur := some cu } }
  else s.plainWord c cl i group skips repeating

/-- A group at a clause header (R234): it waits for the clause wait, or passes to the first body word; threads whose meeting
point that word is are held there, and the others issue it. -/
def State.header (s : State) (c : Crew) (cl : Clause) (pc : Word) (group : Mask) (skips : List Nat) : Front :=
  let body := BitVec.ofNat 64 (cl.at_ 0)
  let chosen := c.choose { skips := skips }
  let chosen := if cl.yieldPt then { chosen with entered := chosen.entered ||| group } else chosen
  if cl.waitClass != 0 && decide (cl.waitThr < c.count cl.waitClass) then
    .moved { s with d := s.d.setCrew { chosen with
      waits := c.waits ++ [{ mask := group, cond := .counter cl.waitClass cl.waitThr, again := false, next := body, addr := pc }]
      held := false, holdCount := 0, age := s.d.youngest } }
  else
    let moved := (chosen.setPc group body).release
    let s := { s with d := s.d.setCrew moved }
    let left := group &&& moved.eligible
    if left == 0 then .moved s else s.bodyWord moved cl 0 left [] false

/-- The words of a clause kept in the instruction cache, with its header (R251). -/
def State.fetched (s : State) (c : Crew) (cl : Clause) : State :=
  match s.d.codeRange c with
  | none => s
  | some r => { s with d := (s.work.keepWords c r.tag ((List.range (cl.words.length + 1)).map fun i => cl.head + 4 * i)).d }

/-- Code 1 of a dictionary word whose code 0 waited, the wait being met (R244): it issues for the threads still on the word. -/
def State.secondCode (s : State) (c : Crew) (x : Wait) (code : Nat × Nat) : State :=
  let w := s.work.endWait c.id x
  { s with d := w.d, cont := some { phase := .half, crew := c.id, group := x.mask, addr := x.addr, next := x.next, second := some code,
                                    before := { mem := s.mem, dev := w.d }, late := x.late, runEnd := x.runEnd, resumed := true
                                    weight := if x.cond == .registers then 2 else 1 } }

/-- What a crew does next: code 1 of a dictionary word after a wait, a repeat of a REP, or the choice of R178. A crew held
back by a register that a wait of such a word needs does nothing else. -/
def State.crewFront (s : State) (id : Nat) : Front :=
  match s.d.crew id with
  | none => .idle
  | some c =>
    if !s.d.issues c then .idle
    else if c.sp.ctmrArm && c.sp.ctmr == 0 && s.d.resident c then .run (.ctmrExpire id) s
    else
      match c.waits.find? fun x => x.second.isSome && s.work.met c x with
      | some x => .moved (s.secondCode c x (x.second.getD (0, 0)))
      | none =>
        if c.waits.any fun x => x.cond == .registers then .idle
        else
          let choice : Option (Word × Mask × List Nat × Bool) := match c.repPick with
            | some (pc, group) => if group &&& c.waiting == 0 then some (pc, group, [], true) else none
            | none => c.pick.map fun p => (p.1, p.2.1, p.2.2, false)
          match choice with
          | none => .idle
          | some (pc, group, skips, repeating) =>
            let x := ((s.d.ctxOf c.place.tower).map (·.ctxid)).getD 0
            if !c.handler && s.d.shot x pc.toNat then .idle
            else if !c.held && !s.work.mayStart c pc group then .idle
            else
              let s := if repeating || c.repGroup == 0 then s else
                let stays := (c.thread (lowLane c.repGroup)).pc == pc
                { s with d := s.d.modCrew id fun c => { c with repGroup := 0, repi := if stays then c.repi else 0 } }
              match s.work.clauseAt c pc.toNat with
              | .error .held => .idle
              | .error e => .moved (s.stopGroup c pc group skips e)
              | .ok (cl, none) => (s.fetched c cl).header c cl pc group skips
              | .ok (cl, some i) => (s.fetched c cl).bodyWord c cl i group skips repeating

/-! ## Dictionary words (R244) -/

/-- A dictionary word over: the faults of the results it has written are taken (R223, R244). -/
def State.endUnit (s : State) (k : Cont) : State := { s.after (s.work.raiseAll k.late) with cont := none }

/-- The next part of a dictionary word: both codes are decoded before either has an effect; then code 0, then code 1 for the threads that code 0 did not send elsewhere; where code 0
has entered a wait, code 1 is checked on a copy. -/
def State.unitFront (s : State) (k : Cont) : Front :=
  match s.d.crew k.crew with
  | none => .moved (s.endUnit k)
  | some c =>
    let left := maskOf fun l => k.group.getLsbD l && !(c.thread l).exited && (c.thread l).pc == k.addr
    match k.phase, k.second with
    | .first, _ =>
      let alone := k.second.isNone
      let cu : Cur := { crew := k.crew, group := k.group, addr := k.addr }
      let bad := k.second.bind fun e => match decodeWord e.1 e.2 with
        | .ok _ => none
        | .error cls => some (c.illegal cls e.1 cu.addr cu.group)
      match bad with
      | some f => .moved (s.stop cu f)
      | none => ({ s with cont := some { k with phase := .half } }).launch c
        { crew := k.crew, group := k.group, addr := k.addr, ret := if alone then k.next else k.addr, word := k.first.1
          runEnd := alone && k.runEnd, weight := if alone then 1 else 0 } k.first.2
    | _, some code =>
      if left == 0 || c.status != .running then .moved (s.endUnit k)
      else
        let waits := c.waiting &&& left != 0
        let k := if k.phase == .trial then k else if waits then { k with phase := .trial, after := some { mem := s.mem, dev := s.d } } else { k with phase := .second }
        ({ s with cont := some k }).launch c
          { crew := k.crew, group := left, addr := k.addr, ret := k.next, word := code.1, code := 1, runEnd := k.runEnd, weight := k.weight } code.2
    | _, none => .moved (s.endUnit k)

/-- After an instruction: a dictionary word whose last code has issued is over. -/
def State.settleUnit (s : State) : State :=
  match s.cont with
  | none => s
  | some k =>
    match k.phase with
    | .second => s.endUnit k
    | .half => if k.second.isNone then s.endUnit k else s
    | _ => s

end Sys2Proof.Machine

end
end

