-- ==== Sys2Proof/Machine/Agenda.lean ====
section
/-! DEFINITION. Agenda: who moves next. The agenda of the state names it; where it is empty, the device goes on by itself, in
one of the orders it may take: the oldest crew that can issue, else the first of its rows that has something to do
(20_scheduling.md R393, 03_consistency_model.md R87). -/

noncomputable section

namespace Sys2Proof.Machine

/-! ## Rows that can have something to do -/

/-- The rows of a core. -/
def coreRows (t k : Nat) (c : Core) : List Instr :=
  List.flatten
    [[.cmbStoreArrive t k],
     (List.range c.fills.length).flatMap fun i =>
      [Instr.sliceLoadRequest t k i false, .gatewayLoad t k i false, .hbmFillReturn t k i, .l1FillArrive t k i],
     [.mxOperationComplete t k, .nlEntryArrive t k], (List.range 4).map fun dir => Instr.nlCreditReturn t k dir,
     c.kiln.bindings.map fun b => Instr.subscriberRegister t k b.g0,
     [.snapshotArrive t k 0, .engineWindowEnd false t k, .kilnSweep t k, .kilnOperationExecute t k],
     [.engineWindowEnd true t k, .slipStep t k, .slipOperationExecute t k], [.restoreTeam t k, .dispatchEvaluate t k none]]

/-- The rows of a cluster's merge buffer. -/
def clusterRows (t cl : Nat) (c : Cluster) : List Instr :=
  (List.range c.cmb.length).flatMap fun i => [.drainAck t cl i, .cmbDrainArrive t cl i]

/-- The next granule of a copy request (R126). -/
def Dev.nextGranule (d : Dev) (c : Crew) (r : CopyReq) : List Instr :=
  match d.engineWho c with
  | none => []
  | some q =>
    let cp := Copy.ofNat r.recd
    let here := fun u => (List.range (cp.blocks q.x u)).find? fun j => !r.applied.contains (u * 2 ^ 32 + j)
    match (List.range (cp.units).1).findSome? fun u => (here u).map fun j => (u, j) with
    | some (u, j) => [.copyGranule r.op u j]
    | none => []

/-- The rows of an operation in flight. -/
def Dev.opRows (d : Dev) (o : Op) : List Instr :=
  match o.kind with
  | .load accs .. => .loadResponse o.id false :: accs.flatMap fun a => [.accessAtExecutingPlace o.id a.lane, .partitionAreaAccess o.id a.lane]
  | .store _ accs => accs.flatMap fun a => [.accessAtExecutingPlace o.id a.lane, .partitionAreaAccess o.id a.lane]
  | .atomic _ _ _ _ ls ord _ => ls.flatMap fun a => match ord with
    | none => [.atomicAtPlace o.id a.lane]
    | some _ => [.orderedAtomicResend o.id a.lane, .orderedAtomicAccept o.id a.lane, .orderedAtomicApply o.id a.lane]
  | .copy => .copyRequestStart o.id :: match d.copyReq o.id with
    | some (c, r) => if r.started && !r.stopped then d.nextGranule c r else []
    | none => []
  | .ring _ _ ls _ => ls.flatMap fun a => [.ringOpResend o.id a.lane, .ringOpAtPlace o.id a.lane]
  | .version .. => [.ringOpResend o.id 0, .versionOpAtSlice o.id]
  | .binPush .. => [.binPush o.id]
  | .migrate .. => [.migrationLand o.id, .migrationResend o.id, .migrationRequest o.id]
  | .arrival .. => [.accessAtExecutingPlace o.id 0]
  | _ => []

/-- The rows of a tower's walker and scheduler. -/
def towerRows (t : Nat) (z : Tower) : List Instr :=
  z.walks.map (fun x => .walkNodeRead t x.id false)
    ++ ((List.range z.bins.length).filter fun b => ((z.bins.getD b {}).owner).isSome).flatMap (fun b => [.binTimerExpire t b, .binLaunchDecision t b])
    ++ z.pairs.map (fun p => .cancellationRequest p.id) ++ [.checkpointComplete t, .checkpointIntervalExpire t]

/-- The rows of a grid. -/
def gridRows (g : Grid) : List Instr :=
  [.horizonReport g.id] ++ (List.range 8).map (fun t => .horizonUpdate t g.id)
    ++ [.settleWordUpdate g.id, .digestCompute g.id, .completionWordAtomic g.id, .gridRetire g.id]

/-- The rows of a partition's scheduler, halts and switches. -/
def Work.partRows (w : Work) (p : Part) : List Instr :=
  (if p.halt.phase == .stopping then ((w.engines p).filter fun e => !p.halt.stopped.contains e).map fun e => .engineHaltStop e.1 e.2.1 e.2.2 else [])
    ++ [.haltComplete p.low, .shootdownStep p.low, .contextSwitchStep p.low, .rangeTableLoad p.low, .cmrChange p.low, .dealTeam p.low]

/-- The rows that may take the command at the head of a queue (R436). -/
def commandRows (s q : Nat) : List Instr :=
  List.flatten
    [[.launch s q, .read s q, .write s q, .transportFlush s q, .transportInvalidate s q, .shootdown s q, .setSplit s q],
     [.setVaultAllotment s q, .setHostWindowRegion s q, .setRaceMode s q, .setConeWindow s q, .setHandlerEntry s q],
     [.setSaveAreaSize s q, .setBinStoreVault s q, .setCheckpointRegion s q, .quarantineClear s q, .contextCreate s q 0 1],
     [.contextDestroy s q, .switchOut s q, .contextRestore s q, .telemetry s q, .haltTower s q, .resumeTower s q],
     [.debugReadItem s q, .debugWriteItem s q, .endHandlerCrew s q, .checkpointTake s q, .warmReset s q, .attest s q, .firmwareChunk s q],
     [.setIpv4 s q, .setIpv6 s q, .enrolHostKey s q, .revokeHostKey s q, .releaseOwnership s q, .listKeys s q, .unknownCommand s q]]

/-- The invalidations of a home write still to be done (R52). -/
def homeRows (h : HomeWrite) : List Instr :=
  let done := h.sectors.map (·.2) ++ h.gateways.map fun g => g.2.2
  let left := (List.range done.length).filter fun i => !(done.getD i true)
  left.map (fun i => Instr.copyInvalidate h.id i) ++ [Instr.invalidateAck h.id]

/-- The rows of the device's engines: partitions, towers, cores, clusters and home slices. -/
def State.unitRows (s : State) : List Instr :=
  List.flatten
    [s.d.parts.flatMap fun p => s.work.partRows p, s.d.towers.flatMap fun e => towerRows e.1 e.2,
     s.d.cores.flatMap fun e => coreRows (e.1 / 48) (e.1 % 48) e.2, s.d.clusters.flatMap fun e => clusterRows (e.1 / 12) (e.1 % 12) e.2,
     s.d.homeWrites.flatMap homeRows]

/-- The rows of what is in flight, and of crews, teams and grids. -/
def State.workRows (s : State) : List Instr :=
  List.flatten
    [s.d.ops.flatMap fun o => if o.done then [] else s.d.opRows o, s.d.races.map fun r => Instr.raceCheck r.id,
     (List.range s.d.deliveries.length).map fun i => Instr.subscriptionDelivery i,
     s.d.crews.flatMap fun c => [Instr.crewEnd c.id, Instr.pairWatchdogExpire c.id, Instr.preemptDeadlineExpire c.id],
     s.d.teams.flatMap fun t => [Instr.teamEnd t.id, Instr.evictTeam t.id], s.d.grids.flatMap gridRows]

/-- The rows of the host's commands, of vaults being zeroed, and of merge buffers that drain with age. -/
def State.lastRows (s : State) : List Instr :=
  List.flatten
    [(List.range s.d.zeroings.length).map fun i => Instr.vaultZeroingComplete i,
     s.d.host.sessions.flatMap fun x => x.queues.flatMap fun q => if q.commands.isEmpty then [] else commandRows x.id q.id,
     s.d.clusters.flatMap fun e => (List.range e.2.cmb.length).map fun i => Instr.cmbAgeDrain (e.1 / 12) (e.1 % 12) i]

/-- The rows that may have something to do, in the order they are tried. -/
def State.rows (s : State) : List Instr := s.unitRows ++ s.workRows ++ s.lastRows

/-! ## Who moves next -/

/-- The first crew, oldest first, that can do something (R393). -/
def State.arbiter (s : State) : List Crew → Front
  | [] => .idle
  | c :: r => match s.crewFront c.id with
    | .idle => s.arbiter r
    | f => f

/-- Whether a crew may take a free slot of its core: it is in a hold already, or no older crew there that is in none can do something, so that
at most 31 holds of others start before one of its own does (R393, R396). -/
def State.mayTake (s : State) (c : Crew) : Bool :=
  c.held || (s.d.crews.filter fun y => y.place.tower == c.place.tower && y.place.core == c.place.core && !y.held && decide (y.age < c.age)).all fun y =>
    match s.crewFront y.id with
    | .idle => true
    | _ => false

/-- What a crew that the agenda names does; one that can do nothing, or that must leave the slot to an older one, is passed over. -/
def State.named (s : State) (id : Nat) : Front :=
  match (s.d.crew id).filter s.mayTake with
  | none => .moved s
  | some _ => match s.crewFront id with
    | .idle => .moved s
    | f => f

/-- A choice of the agenda, taken from it; an error strikes. -/
def State.chosenFront (s : State) (x : Choice) : Front :=
  match x with
  | .crew id => s.named id
  | .row (.dictIssueUnit id) => s.named id
  | .row i => .run i s
  | .error e => .moved (s.strike e)

/-- Whether the device's rows have their turn before the crews: no agenda says who moves, no dictionary word is in progress, and every other
step is theirs, so that what is under way goes on however long crews can issue (R88, R179, R199; assumption 20). -/
def State.rowsTurn (s : State) : Bool := s.cont.isNone && s.d.agenda.isEmpty && s.d.boot.running && s.d.turn % 2 == 0

/-- The rows in the order they are tried on a step of their own: each step begins one further on, so that each has its turn. -/
def State.turnRows (s : State) : List Instr := s.rows.rotateLeft (s.d.turn / 2 % (s.rows.length + 1))

/-- What the next step does: the dictionary word in progress, else the head of the agenda, else bring-up, else the oldest crew
that can issue. -/
def State.front (s : State) : Front :=
  match s.cont with
  | some k => s.unitFront k
  | none =>
    match s.d.agenda with
    | x :: r => ({ s with d := { s.d with agenda := r } }).chosenFront x
    | [] =>
      if s.d.boot.stage == 0 && !s.d.boot.safe && !s.d.boot.running then .run (.powerUp [] 0 0) s
      else s.arbiter (sortOn (·.age) s.d.crews)

end Sys2Proof.Machine

end
end

