-- ==== Sys2Proof/Machine/Cross.lean ====
section
/-! DEFINITION. Cross: the cross-lane instructions (R183, R192, R226, R284, R285). -/

namespace Sys2Proof.Machine

/-- Element `i` of the crew's vector at width `w` (R183). -/
def Crew.vecElem (c : Crew) (r w i : Nat) : Nat := elem w (c.val r (i / (64 / w))) (i % (64 / w))

/-- SHFL at a width (R284): every element takes the element its index names, modulo the count. -/
def shflOp (w : Nat) (o : OpRR) (s : State) : Out :=
  genOp s o.g [o.a, o.b] o.d fun i l =>
    eachElem w fun j => i.c.vecElem o.a.toNat w (elem w (i.val o.b.toNat l) j % (32 * (64 / w)))

/-- SHFL64 (R284). -/
def execShfl64 (o : OpRR) (s : State) : Out := shflOp 64 o s
/-- SHFL32 (R284). -/
def execShfl32 (o : OpRR) (s : State) : Out := shflOp 32 o s
/-- SHFL16 (R284). -/
def execShfl16 (o : OpRR) (s : State) : Out := shflOp 16 o s
/-- SHFL8 (R284). -/
def execShfl8 (o : OpRR) (s : State) : Out := shflOp 8 o s

/-- A result that is one value for the crew: U on a full write (R203). -/
def uniOp (s : State) (g : Guard) (a d : Reg) (f : Iss → Word) : Out :=
  issue s g { reads := [a.toNat], writes := [d.toNat], pure := true } fun i w => i.put w d.toNat (.uni (f i))

/-- BCAST (R284). -/
def execBcast (o : OpLane) (s : State) : Out := uniOp s o.g o.a o.d fun i => i.val o.a.toNat o.k.toNat
/-- XORL (R284). -/
def execXorl (o : OpLane) (s : State) : Out :=
  genOp s o.g [o.a] o.d fun i l => i.val o.a.toNat (Nat.xor l o.k.toNat)
/-- ROTL (R284). -/
def execRotl (o : OpLane) (s : State) : Out :=
  genOp s o.g [o.a] o.d fun i l => i.val o.a.toNat ((l + o.k.toNat) % 32)

/-! ## Reductions (R226, R285) -/

/-- The element width of a function code: an integer width, or that of a floating format (R285). -/
def redWidth (fn : BitVec 4) (t : BitVec 2) : Nat := if fn.toNat ≤ 7 then widOf t else (Fmt.ofCode t.toNat).width

/-- Combine of two present elements (R285). -/
def combine (c : FCtl) (fn : BitVec 4) (t : BitVec 2) (a b : Nat) : FRes :=
  let w := redWidth fn t
  let f := Fmt.ofCode t.toNat
  let x := f.input c a
  let y := f.input c b
  match fn.toNat with
  | 0 => ⟨(a + b) % 2 ^ w, fNone⟩
  | 1 => ⟨if toSigned w a ≤ toSigned w b then a else b, fNone⟩
  | 2 => ⟨if toSigned w a ≤ toSigned w b then b else a, fNone⟩
  | 3 => ⟨Nat.min a b, fNone⟩
  | 4 => ⟨Nat.max a b, fNone⟩
  | 5 => ⟨Nat.land a b, fNone⟩
  | 6 => ⟨Nat.lor a b, fNone⟩
  | 7 => ⟨Nat.xor a b, fNone⟩
  | 8 => fadd c f x y
  | 9 => fminmax c f false false x y
  | 10 => fminmax c f true false x y
  | 11 => fminmax c f false true x y
  | _ => fminmax c f true true x y

/-- Combine with absent elements (R226). -/
def combineOpt (c : FCtl) (fn : BitVec 4) (t : BitVec 2) (a b : Option Nat) : Option Nat × Flags :=
  match a, b with
  | some x, some y => let r := combine c fn t x y; (some r.bits, r.fl)
  | some x, none => (some x, fNone)
  | none, y => (y, fNone)

/-- One level of the tree. -/
def treeLevel (c : FCtl) (fn : BitVec 4) (t : BitVec 2) : List (Option Nat) → List (Option Nat) × Flags
  | a :: b :: r =>
    let x := combineOpt c fn t a b
    let y := treeLevel c fn t r
    (x.1 :: y.1, x.2 ||| y.2)
  | r => (r, fNone)

/-- The fixed pairwise tree over up to 2^n elements (R226). -/
def tree (c : FCtl) (fn : BitVec 4) (t : BitVec 2) : Nat → List (Option Nat) → Option Nat × Flags
  | 0, l => ((l.headD none), fNone)
  | n + 1, l =>
    let x := treeLevel c fn t l
    let y := tree c fn t n x.1
    (y.1, x.2 ||| y.2)

/-- The crew's elements of the lanes of a mask; the others are absent. -/
def Crew.present (c : Crew) (r w : Nat) (m : Mask) : List (Option Nat) :=
  (List.range (32 * (64 / w))).map fun i => if m.getLsbD (i / (64 / w)) then some (c.vecElem r w i) else none

/-- The reduction of the elements of a set of lanes; 0 for none (R284). -/
def Crew.reduce (c : Crew) (k : FCtl) (o : OpRed) (m : Mask) : Word × Flags :=
  let r := tree k o.fn o.t 8 (c.present o.a.toNat (redWidth o.fn o.t) m)
  (BitVec.ofNat 64 (r.1.getD 0), r.2)

/-- RED (R284). -/
def execRed (o : OpRed) (s : State) : Out :=
  issue s o.g { reads := [o.a.toNat], writes := [o.d.toNat], pure := true } fun i w =>
    let r := i.c.reduce (.ofCmr (w.d.cmr i.c)) o i.act
    (i.put w o.d.toNat (.uni r.1)).bind fun w => .ok (i.flags w r.2)

/-- The running combination of a list of present or absent elements (R226): each position's value. -/
def scanList (c : FCtl) (fn : BitVec 4) (t : BitVec 2) : Option Nat → List (Option Nat) → List (Option Nat) × Flags
  | _, [] => ([], fNone)
  | acc, e :: r =>
    let x := match e with
      | none => (acc, fNone)
      | e => combineOpt c fn t acc e
    let y := scanList c fn t x.1 r
    (x.1 :: y.1, x.2 ||| y.2)

/-- SCAN (R284). -/
def execScan (o : OpRed) (s : State) : Out :=
  issue s o.g { reads := [o.a.toNat], writes := [o.d.toNat], pure := true } fun i w =>
    let wd := redWidth o.fn o.t
    let r := scanList (.ofCmr (w.d.cmr i.c)) o.fn o.t none (i.c.present o.a.toNat wd i.act)
    (i.put w o.d.toNat (i.general fun l => eachElem wd fun j => (r.1.getD (l * (64 / wd) + j) none).getD 0)).bind fun w =>
      .ok (i.flags w r.2)

/-- SEGRED (R284): each active lane reduces the lanes its vd names that are active. -/
def execSegred (o : OpRed) (s : State) : Out :=
  issue s o.g { reads := [o.a.toNat, o.d.toNat], writes := [o.d.toNat], pure := true } fun i w =>
    let c := FCtl.ofCmr (w.d.cmr i.c)
    let rs := lanes.map fun l =>
      if i.act.getLsbD l then i.c.reduce c o ((i.val o.d.toNat l).setWidth 32 &&& i.act) else (0, fNone)
    (i.put w o.d.toNat (.gen (rs.map (·.1)))).bind fun w => .ok (i.flags w (rs.foldl (fun a r => a ||| r.2) fNone))

/-! ## Masks and votes (R192, R284) -/

/-- A mask as a register value. -/
def maskWord (m : Mask) : Word := m.setWidth 64

/-- MATCH (R192). -/
def execLaneMatch (o : OpMatch) (s : State) : Out :=
  genOp s o.g [o.a] o.d fun i l =>
    let key := fun k => if o.k32 then elem 32 (i.val o.a.toNat k) 0 else (i.val o.a.toNat k).toNat
    maskWord (maskOf fun k => i.act.getLsbD k && key k == key l)

/-- BALLOT (R284). -/
def execBallot (o : OpBallot) (s : State) : Out :=
  genOp s o.g [] o.d fun i _ => maskWord (maskOf fun k => i.act.getLsbD k && i.c.predSrc o.neg o.q k)

/-- VOTE (R284): ALL, ANY or UNI over the active lanes. -/
def execVote (o : OpVote) (s : State) : Out :=
  predOp s o.g [] o.q fun i _ =>
    let vs := (maskLanes i.act).map fun k => i.c.predSrc o.neg o.s k
    match o.mode.toNat with
    | 0 => vs.all id
    | 1 => vs.any id
    | _ => vs.all id || vs.all (!·)

/-- SPERM (R284). -/
def execSperm (o : OpRR) (s : State) : Out :=
  genOp s o.g [o.a, o.b] o.d fun i l =>
    eachElem 8 fun j =>
      let t := elem 8 (i.val o.b.toNat l) j
      if 128 ≤ t then 0 else elem 8 (i.val o.a.toNat l) (t % 8)

/-- ACTV (R284). -/
def execActv (o : OpD) (s : State) : Out :=
  genOp s o.g [] o.d fun i l =>
    BitVec.ofNat 64 (i.act.toNat + 2 ^ 32 * ((maskLanes i.act).filter (· < l)).length)

end Sys2Proof.Machine
end

