-- ==== Sys2Proof/Machine/Dispatch.lean ====
section
/-! DEFINITION. Dispatch: one arm per constructor of `Instr`, each one direct call of that row's meaning. -/

namespace Sys2Proof.Machine

/-- The meaning of an instruction or device step at a state. -/
def exec (i : Instr) (s : State) : Host.Outcome State Fault Refusal :=
  match i with
  | .nop o => Sys2Proof.Machine.execNop o s
  | .waitc o => Sys2Proof.Machine.execWaitc o s
  | .yield o => Sys2Proof.Machine.execYield o s
  | .srd o => Sys2Proof.Machine.execSrd o s
  | .swrFstat o => Sys2Proof.Machine.execSwrFstat o s
  | .swrCtmr o => Sys2Proof.Machine.execSwrCtmr o s
  | .swrGangr o => Sys2Proof.Machine.execSwrGangr o s
  | .swrKey0 o => Sys2Proof.Machine.execSwrKey0 o s
  | .swrKey1 o => Sys2Proof.Machine.execSwrKey1 o s
  | .trap o => Sys2Proof.Machine.execTrap o s
  | .bkpt o => Sys2Proof.Machine.execBkpt o s
  | .exit o => Sys2Proof.Machine.execExit o s
  | .bar o => Sys2Proof.Machine.execBar o s
  | .bara o => Sys2Proof.Machine.execBara o s
  | .barw o => Sys2Proof.Machine.execBarw o s
  | .fence o => Sys2Proof.Machine.execFence o s
  | .eret o => Sys2Proof.Machine.execEret o s
  | .winr o => Sys2Proof.Machine.execWinr o s
  | .winw o => Sys2Proof.Machine.execWinw o s
  | .i64Add o => Sys2Proof.Machine.execI64Add o s
  | .i64Sub o => Sys2Proof.Machine.execI64Sub o s
  | .i64Mul o => Sys2Proof.Machine.execI64Mul o s
  | .i64Mulh o => Sys2Proof.Machine.execI64Mulh o s
  | .i64Mulhu o => Sys2Proof.Machine.execI64Mulhu o s
  | .i64Min o => Sys2Proof.Machine.execI64Min o s
  | .i64Max o => Sys2Proof.Machine.execI64Max o s
  | .i64Minu o => Sys2Proof.Machine.execI64Minu o s
  | .i64Maxu o => Sys2Proof.Machine.execI64Maxu o s
  | .i64And o => Sys2Proof.Machine.execI64And o s
  | .i64Or o => Sys2Proof.Machine.execI64Or o s
  | .i64Xor o => Sys2Proof.Machine.execI64Xor o s
  | .i64Shl o => Sys2Proof.Machine.execI64Shl o s
  | .i64Shr o => Sys2Proof.Machine.execI64Shr o s
  | .i64Sar o => Sys2Proof.Machine.execI64Sar o s
  | .i64Addsat o => Sys2Proof.Machine.execI64Addsat o s
  | .i32Add o => Sys2Proof.Machine.execI32Add o s
  | .i32Sub o => Sys2Proof.Machine.execI32Sub o s
  | .i32Mul o => Sys2Proof.Machine.execI32Mul o s
  | .i32Mulh o => Sys2Proof.Machine.execI32Mulh o s
  | .i32Mulhu o => Sys2Proof.Machine.execI32Mulhu o s
  | .i32Min o => Sys2Proof.Machine.execI32Min o s
  | .i32Max o => Sys2Proof.Machine.execI32Max o s
  | .i32Minu o => Sys2Proof.Machine.execI32Minu o s
  | .i32Maxu o => Sys2Proof.Machine.execI32Maxu o s
  | .i32And o => Sys2Proof.Machine.execI32And o s
  | .i32Or o => Sys2Proof.Machine.execI32Or o s
  | .i32Xor o => Sys2Proof.Machine.execI32Xor o s
  | .i32Shl o => Sys2Proof.Machine.execI32Shl o s
  | .i32Shr o => Sys2Proof.Machine.execI32Shr o s
  | .i32Sar o => Sys2Proof.Machine.execI32Sar o s
  | .i32Addsat o => Sys2Proof.Machine.execI32Addsat o s
  | .i16Add o => Sys2Proof.Machine.execI16Add o s
  | .i16Sub o => Sys2Proof.Machine.execI16Sub o s
  | .i16Mul o => Sys2Proof.Machine.execI16Mul o s
  | .i16Mulh o => Sys2Proof.Machine.execI16Mulh o s
  | .i16Mulhu o => Sys2Proof.Machine.execI16Mulhu o s
  | .i16Min o => Sys2Proof.Machine.execI16Min o s
  | .i16Max o => Sys2Proof.Machine.execI16Max o s
  | .i16Minu o => Sys2Proof.Machine.execI16Minu o s
  | .i16Maxu o => Sys2Proof.Machine.execI16Maxu o s
  | .i16And o => Sys2Proof.Machine.execI16And o s
  | .i16Or o => Sys2Proof.Machine.execI16Or o s
  | .i16Xor o => Sys2Proof.Machine.execI16Xor o s
  | .i16Shl o => Sys2Proof.Machine.execI16Shl o s
  | .i16Shr o => Sys2Proof.Machine.execI16Shr o s
  | .i16Sar o => Sys2Proof.Machine.execI16Sar o s
  | .i16Addsat o => Sys2Proof.Machine.execI16Addsat o s
  | .i8Add o => Sys2Proof.Machine.execI8Add o s
  | .i8Sub o => Sys2Proof.Machine.execI8Sub o s
  | .i8Mul o => Sys2Proof.Machine.execI8Mul o s
  | .i8Mulh o => Sys2Proof.Machine.execI8Mulh o s
  | .i8Mulhu o => Sys2Proof.Machine.execI8Mulhu o s
  | .i8Min o => Sys2Proof.Machine.execI8Min o s
  | .i8Max o => Sys2Proof.Machine.execI8Max o s
  | .i8Minu o => Sys2Proof.Machine.execI8Minu o s
  | .i8Maxu o => Sys2Proof.Machine.execI8Maxu o s
  | .i8And o => Sys2Proof.Machine.execI8And o s
  | .i8Or o => Sys2Proof.Machine.execI8Or o s
  | .i8Xor o => Sys2Proof.Machine.execI8Xor o s
  | .i8Shl o => Sys2Proof.Machine.execI8Shl o s
  | .i8Shr o => Sys2Proof.Machine.execI8Shr o s
  | .i8Sar o => Sys2Proof.Machine.execI8Sar o s
  | .i8Addsat o => Sys2Proof.Machine.execI8Addsat o s
  | .iunNeg o => Sys2Proof.Machine.execIunNeg o s
  | .iunAbs o => Sys2Proof.Machine.execIunAbs o s
  | .iunNot o => Sys2Proof.Machine.execIunNot o s
  | .iunClz o => Sys2Proof.Machine.execIunClz o s
  | .iunCtz o => Sys2Proof.Machine.execIunCtz o s
  | .iunPopc o => Sys2Proof.Machine.execIunPopc o s
  | .iunBrev o => Sys2Proof.Machine.execIunBrev o s
  | .iunBswap o => Sys2Proof.Machine.execIunBswap o s
  | .iunSxt o => Sys2Proof.Machine.execIunSxt o s
  | .iunZxt o => Sys2Proof.Machine.execIunZxt o s
  | .icmp o => Sys2Proof.Machine.execIcmp o s
  | .addi o => Sys2Proof.Machine.execAddi o s
  | .andi o => Sys2Proof.Machine.execAndi o s
  | .ori o => Sys2Proof.Machine.execOri o s
  | .xori o => Sys2Proof.Machine.execXori o s
  | .shli o => Sys2Proof.Machine.execShli o s
  | .shri o => Sys2Proof.Machine.execShri o s
  | .sari o => Sys2Proof.Machine.execSari o s
  | .rori o => Sys2Proof.Machine.execRori o s
  | .cmpi o => Sys2Proof.Machine.execCmpi o s
  | .movi o => Sys2Proof.Machine.execMovi o s
  | .lea o => Sys2Proof.Machine.execLea o s
  | .bfxu o => Sys2Proof.Machine.execBfxu o s
  | .bfxs o => Sys2Proof.Machine.execBfxs o s
  | .bfi o => Sys2Proof.Machine.execBfi o s
  | .bfm o => Sys2Proof.Machine.execBfm o s
  | .f64Fadd o => Sys2Proof.Machine.execF64Fadd o s
  | .f64Fsub o => Sys2Proof.Machine.execF64Fsub o s
  | .f64Fmul o => Sys2Proof.Machine.execF64Fmul o s
  | .f64Fma o => Sys2Proof.Machine.execF64Fma o s
  | .f64Fms o => Sys2Proof.Machine.execF64Fms o s
  | .f64Fnma o => Sys2Proof.Machine.execF64Fnma o s
  | .f64Fmin o => Sys2Proof.Machine.execF64Fmin o s
  | .f64Fmax o => Sys2Proof.Machine.execF64Fmax o s
  | .f64Fminnm o => Sys2Proof.Machine.execF64Fminnm o s
  | .f64Fmaxnm o => Sys2Proof.Machine.execF64Fmaxnm o s
  | .f64Fabd o => Sys2Proof.Machine.execF64Fabd o s
  | .f64Fscale o => Sys2Proof.Machine.execF64Fscale o s
  | .f64Fdiv o => Sys2Proof.Machine.execF64Fdiv o s
  | .f64Fcpys o => Sys2Proof.Machine.execF64Fcpys o s
  | .f32Fadd o => Sys2Proof.Machine.execF32Fadd o s
  | .f32Fsub o => Sys2Proof.Machine.execF32Fsub o s
  | .f32Fmul o => Sys2Proof.Machine.execF32Fmul o s
  | .f32Fma o => Sys2Proof.Machine.execF32Fma o s
  | .f32Fms o => Sys2Proof.Machine.execF32Fms o s
  | .f32Fnma o => Sys2Proof.Machine.execF32Fnma o s
  | .f32Fmin o => Sys2Proof.Machine.execF32Fmin o s
  | .f32Fmax o => Sys2Proof.Machine.execF32Fmax o s
  | .f32Fminnm o => Sys2Proof.Machine.execF32Fminnm o s
  | .f32Fmaxnm o => Sys2Proof.Machine.execF32Fmaxnm o s
  | .f32Fabd o => Sys2Proof.Machine.execF32Fabd o s
  | .f32Fscale o => Sys2Proof.Machine.execF32Fscale o s
  | .f32Fdiv o => Sys2Proof.Machine.execF32Fdiv o s
  | .f32Fcpys o => Sys2Proof.Machine.execF32Fcpys o s
  | .f16Fadd o => Sys2Proof.Machine.execF16Fadd o s
  | .f16Fsub o => Sys2Proof.Machine.execF16Fsub o s
  | .f16Fmul o => Sys2Proof.Machine.execF16Fmul o s
  | .f16Fma o => Sys2Proof.Machine.execF16Fma o s
  | .f16Fms o => Sys2Proof.Machine.execF16Fms o s
  | .f16Fnma o => Sys2Proof.Machine.execF16Fnma o s
  | .f16Fmin o => Sys2Proof.Machine.execF16Fmin o s
  | .f16Fmax o => Sys2Proof.Machine.execF16Fmax o s
  | .f16Fminnm o => Sys2Proof.Machine.execF16Fminnm o s
  | .f16Fmaxnm o => Sys2Proof.Machine.execF16Fmaxnm o s
  | .f16Fabd o => Sys2Proof.Machine.execF16Fabd o s
  | .f16Fscale o => Sys2Proof.Machine.execF16Fscale o s
  | .f16Fdiv o => Sys2Proof.Machine.execF16Fdiv o s
  | .f16Fcpys o => Sys2Proof.Machine.execF16Fcpys o s
  | .b16Fadd o => Sys2Proof.Machine.execB16Fadd o s
  | .b16Fsub o => Sys2Proof.Machine.execB16Fsub o s
  | .b16Fmul o => Sys2Proof.Machine.execB16Fmul o s
  | .b16Fma o => Sys2Proof.Machine.execB16Fma o s
  | .b16Fms o => Sys2Proof.Machine.execB16Fms o s
  | .b16Fnma o => Sys2Proof.Machine.execB16Fnma o s
  | .b16Fmin o => Sys2Proof.Machine.execB16Fmin o s
  | .b16Fmax o => Sys2Proof.Machine.execB16Fmax o s
  | .b16Fminnm o => Sys2Proof.Machine.execB16Fminnm o s
  | .b16Fmaxnm o => Sys2Proof.Machine.execB16Fmaxnm o s
  | .b16Fabd o => Sys2Proof.Machine.execB16Fabd o s
  | .b16Fscale o => Sys2Proof.Machine.execB16Fscale o s
  | .b16Fdiv o => Sys2Proof.Machine.execB16Fdiv o s
  | .b16Fcpys o => Sys2Proof.Machine.execB16Fcpys o s
  | .f8Fadd o => Sys2Proof.Machine.execF8Fadd o s
  | .f8Fsub o => Sys2Proof.Machine.execF8Fsub o s
  | .f8Fmul o => Sys2Proof.Machine.execF8Fmul o s
  | .f8Fmin o => Sys2Proof.Machine.execF8Fmin o s
  | .f8Fmax o => Sys2Proof.Machine.execF8Fmax o s
  | .fcmp o => Sys2Proof.Machine.execFcmp o s
  | .fsqrt o => Sys2Proof.Machine.execFsqrt o s
  | .frcp o => Sys2Proof.Machine.execFrcp o s
  | .frsq o => Sys2Proof.Machine.execFrsq o s
  | .fexp2 o => Sys2Proof.Machine.execFexp2 o s
  | .flog2 o => Sys2Proof.Machine.execFlog2 o s
  | .fsin o => Sys2Proof.Machine.execFsin o s
  | .fcos o => Sys2Proof.Machine.execFcos o s
  | .ftanh o => Sys2Proof.Machine.execFtanh o s
  | .fsigm o => Sys2Proof.Machine.execFsigm o s
  | .frint o => Sys2Proof.Machine.execFrint o s
  | .ffloor o => Sys2Proof.Machine.execFfloor o s
  | .fceil o => Sys2Proof.Machine.execFceil o s
  | .ftrunc o => Sys2Proof.Machine.execFtrunc o s
  | .fneg o => Sys2Proof.Machine.execFneg o s
  | .fabs o => Sys2Proof.Machine.execFabs o s
  | .fclass o => Sys2Proof.Machine.execFclass o s
  | .cvt o => Sys2Proof.Machine.execCvt o s
  | .cvtsPack o => Sys2Proof.Machine.execCvtsPack o s
  | .cvtsUnpack o => Sys2Proof.Machine.execCvtsUnpack o s
  | .dot8s o => Sys2Proof.Machine.execDot8s o s
  | .dot8u o => Sys2Proof.Machine.execDot8u o s
  | .dot4s o => Sys2Proof.Machine.execDot4s o s
  | .dot4u o => Sys2Proof.Machine.execDot4u o s
  | .dote4 o => Sys2Proof.Machine.execDote4 o s
  | .dote5 o => Sys2Proof.Machine.execDote5 o s
  | .dotb o => Sys2Proof.Machine.execDotb o s
  | .doth o => Sys2Proof.Machine.execDoth o s
  | .dot2s o => Sys2Proof.Machine.execDot2s o s
  | .shfl64 o => Sys2Proof.Machine.execShfl64 o s
  | .shfl32 o => Sys2Proof.Machine.execShfl32 o s
  | .shfl16 o => Sys2Proof.Machine.execShfl16 o s
  | .shfl8 o => Sys2Proof.Machine.execShfl8 o s
  | .bcast o => Sys2Proof.Machine.execBcast o s
  | .xorl o => Sys2Proof.Machine.execXorl o s
  | .rotl o => Sys2Proof.Machine.execRotl o s
  | .red o => Sys2Proof.Machine.execRed o s
  | .scan o => Sys2Proof.Machine.execScan o s
  | .laneMatch o => Sys2Proof.Machine.execLaneMatch o s
  | .ballot o => Sys2Proof.Machine.execBallot o s
  | .vote o => Sys2Proof.Machine.execVote o s
  | .sperm o => Sys2Proof.Machine.execSperm o s
  | .actv o => Sys2Proof.Machine.execActv o s
  | .segred o => Sys2Proof.Machine.execSegred o s
  | .mov o => Sys2Proof.Machine.execMov o s
  | .sel o => Sys2Proof.Machine.execSel o s
  | .movp o => Sys2Proof.Machine.execMovp o s
  | .pset o => Sys2Proof.Machine.execPset o s
  | .pand o => Sys2Proof.Machine.execPand o s
  | .por o => Sys2Proof.Machine.execPor o s
  | .pxor o => Sys2Proof.Machine.execPxor o s
  | .pnot o => Sys2Proof.Machine.execPnot o s
  | .setu o => Sys2Proof.Machine.execSetu o s
  | .seta o => Sys2Proof.Machine.execSeta o s
  | .tagr o => Sys2Proof.Machine.execTagr o s
  | .clrv o => Sys2Proof.Machine.execClrv o s
  | .rng64 o => Sys2Proof.Machine.execRng64 o s
  | .rngu o => Sys2Proof.Machine.execRngu o s
  | .rngb o => Sys2Proof.Machine.execRngb o s
  | .br o => Sys2Proof.Machine.execBr o s
  | .call o => Sys2Proof.Machine.execCall o s
  | .setm o => Sys2Proof.Machine.execSetm o s
  | .jmp o => Sys2Proof.Machine.execJmp o s
  | .callr o => Sys2Proof.Machine.execCallr o s
  | .ret o => Sys2Proof.Machine.execRet o s
  | .getm o => Sys2Proof.Machine.execGetm o s
  | .putm o => Sys2Proof.Machine.execPutm o s
  | .clrm o => Sys2Proof.Machine.execClrm o s
  | .rep o => Sys2Proof.Machine.execRep o s
  | .movxLo o => Sys2Proof.Machine.execMovxLo o s
  | .movxMid o => Sys2Proof.Machine.execMovxMid o s
  | .movxHi o => Sys2Proof.Machine.execMovxHi o s
  | .bfxiBfxu o => Sys2Proof.Machine.execBfxiBfxu o s
  | .bfxiBfxs o => Sys2Proof.Machine.execBfxiBfxs o s
  | .bfxiBfi o => Sys2Proof.Machine.execBfxiBfi o s
  | .ld8u o => Sys2Proof.Machine.execLd8u o s
  | .ld8s o => Sys2Proof.Machine.execLd8s o s
  | .ld16u o => Sys2Proof.Machine.execLd16u o s
  | .ld16s o => Sys2Proof.Machine.execLd16s o s
  | .ld32u o => Sys2Proof.Machine.execLd32u o s
  | .ld32s o => Sys2Proof.Machine.execLd32s o s
  | .ld64 o => Sys2Proof.Machine.execLd64 o s
  | .ld128 o => Sys2Proof.Machine.execLd128 o s
  | .ldt o => Sys2Proof.Machine.execLdt o s
  | .ldnc o => Sys2Proof.Machine.execLdnc o s
  | .pref o => Sys2Proof.Machine.execPref o s
  | .ldaq o => Sys2Proof.Machine.execLdaq o s
  | .ldaq32 o => Sys2Proof.Machine.execLdaq32 o s
  | .st8 o => Sys2Proof.Machine.execSt8 o s
  | .st16 o => Sys2Proof.Machine.execSt16 o s
  | .st32 o => Sys2Proof.Machine.execSt32 o s
  | .st64 o => Sys2Proof.Machine.execSt64 o s
  | .st128 o => Sys2Proof.Machine.execSt128 o s
  | .stt o => Sys2Proof.Machine.execStt o s
  | .stnc o => Sys2Proof.Machine.execStnc o s
  | .strl o => Sys2Proof.Machine.execStrl o s
  | .strl32 o => Sys2Proof.Machine.execStrl32 o s
  | .aadd o => Sys2Proof.Machine.execAadd o s
  | .amin o => Sys2Proof.Machine.execAmin o s
  | .amax o => Sys2Proof.Machine.execAmax o s
  | .aminu o => Sys2Proof.Machine.execAminu o s
  | .amaxu o => Sys2Proof.Machine.execAmaxu o s
  | .aand o => Sys2Proof.Machine.execAand o s
  | .aor o => Sys2Proof.Machine.execAor o s
  | .axor o => Sys2Proof.Machine.execAxor o s
  | .aswp o => Sys2Proof.Machine.execAswp o s
  | .acas o => Sys2Proof.Machine.execAcas o s
  | .afadd o => Sys2Proof.Machine.execAfadd o s
  | .afmin o => Sys2Proof.Machine.execAfmin o s
  | .afmax o => Sys2Proof.Machine.execAfmax o s
  | .ainc o => Sys2Proof.Machine.execAinc o s
  | .adec o => Sys2Proof.Machine.execAdec o s
  | .aaddN o => Sys2Proof.Machine.execAaddN o s
  | .aminN o => Sys2Proof.Machine.execAminN o s
  | .amaxN o => Sys2Proof.Machine.execAmaxN o s
  | .aminuN o => Sys2Proof.Machine.execAminuN o s
  | .amaxuN o => Sys2Proof.Machine.execAmaxuN o s
  | .aandN o => Sys2Proof.Machine.execAandN o s
  | .aorN o => Sys2Proof.Machine.execAorN o s
  | .axorN o => Sys2Proof.Machine.execAxorN o s
  | .aswpN o => Sys2Proof.Machine.execAswpN o s
  | .afaddN o => Sys2Proof.Machine.execAfaddN o s
  | .afminN o => Sys2Proof.Machine.execAfminN o s
  | .afmaxN o => Sys2Proof.Machine.execAfmaxN o s
  | .aincN o => Sys2Proof.Machine.execAincN o s
  | .adecN o => Sys2Proof.Machine.execAdecN o s
  | .kick o => Sys2Proof.Machine.execKick o s
  | .arrs o => Sys2Proof.Machine.execArrs o s
  | .arra o => Sys2Proof.Machine.execArra o s
  | .arrw o => Sys2Proof.Machine.execArrw o s
  | .rclm o => Sys2Proof.Machine.execRclm o s
  | .rcmt o => Sys2Proof.Machine.execRcmt o s
  | .rawt o => Sys2Proof.Machine.execRawt o s
  | .rret o => Sys2Proof.Machine.execRret o s
  | .flush o => Sys2Proof.Machine.execFlush o s
  | .inval o => Sys2Proof.Machine.execInval o s
  | .rdet o => Sys2Proof.Machine.execRdet o s
  | .digb o => Sys2Proof.Machine.execDigb o s
  | .dige o => Sys2Proof.Machine.execDige o s
  | .lnch o => Sys2Proof.Machine.execLnch o s
  | .binp o => Sys2Proof.Machine.execBinp o s
  | .vpub o => Sys2Proof.Machine.execVpub o s
  | .vfin o => Sys2Proof.Machine.execVfin o s
  | .vget o => Sys2Proof.Machine.execVget o s
  | .vrel o => Sys2Proof.Machine.execVrel o s
  | .vwait o => Sys2Proof.Machine.execVwait o s
  | .stopref o => Sys2Proof.Machine.execStopref o s
  | .vsub o => Sys2Proof.Machine.execVsub o s
  | .migr o => Sys2Proof.Machine.execMigr o s
  | .gsync o => Sys2Proof.Machine.execGsync o s
  | .prdr o => Sys2Proof.Machine.execPrdr o s
  | .mma o => Sys2Proof.Machine.execMma o s
  | .mmap o => Sys2Proof.Machine.execMmap o s
  | .mmapPartner o => Sys2Proof.Machine.execMmapPartner o s
  | .macl o => Sys2Proof.Machine.execMacl o s
  | .macs o => Sys2Proof.Machine.execMacs o s
  | .macz o => Sys2Proof.Machine.execMacz o s
  | .rstat o => Sys2Proof.Machine.execRstat o s
  | .gang o => Sys2Proof.Machine.execGang o s
  | .btake o => Sys2Proof.Machine.execBtake o s
  | .bpass o => Sys2Proof.Machine.execBpass o s
  | .nls o => Sys2Proof.Machine.execNls o s
  | .nlr o => Sys2Proof.Machine.execNlr o s
  | .mscl o => Sys2Proof.Machine.execMscl o s
  | .kcpl o => Sys2Proof.Machine.execKcpl o s
  | .kbias o => Sys2Proof.Machine.execKbias o s
  | .kclmp o => Sys2Proof.Machine.execKclmp o s
  | .kclmpStates o => Sys2Proof.Machine.execKclmpStates o s
  | .kcol o => Sys2Proof.Machine.execKcol o s
  | .kswp o => Sys2Proof.Machine.execKswp o s
  | .kcnt o => Sys2Proof.Machine.execKcnt o s
  | .krds o => Sys2Proof.Machine.execKrds o s
  | .kmodeConfigure o => Sys2Proof.Machine.execKmodeConfigure o s
  | .kmodeQuar o => Sys2Proof.Machine.execKmodeQuar o s
  | .kmodeFree o => Sys2Proof.Machine.execKmodeFree o s
  | .kmodeInject o => Sys2Proof.Machine.execKmodeInject o s
  | .kbnd o => Sys2Proof.Machine.execKbnd o s
  | .kbndUnbind o => Sys2Proof.Machine.execKbndUnbind o s
  | .gcpl o => Sys2Proof.Machine.execGcpl o s
  | .gbias o => Sys2Proof.Machine.execGbias o s
  | .grun o => Sys2Proof.Machine.execGrun o s
  | .grdm o => Sys2Proof.Machine.execGrdm o s
  | .grdc o => Sys2Proof.Machine.execGrdc o s
  | .gmodeConfigure o => Sys2Proof.Machine.execGmodeConfigure o s
  | .gmodeSetState o => Sys2Proof.Machine.execGmodeSetState o s
  | .gres o => Sys2Proof.Machine.execGres o s
  | .dictIssueUnit crew => Sys2Proof.Machine.execDictIssueUnit crew s
  | .walkNodeRead t id err => Sys2Proof.Machine.execWalkNodeRead t id err s
  | .l1FillArrive t k ix => Sys2Proof.Machine.execL1FillArrive t k ix s
  | .cmbStoreArrive t k => Sys2Proof.Machine.execCmbStoreArrive t k s
  | .cmbAgeDrain t cl ix => Sys2Proof.Machine.execCmbAgeDrain t cl ix s
  | .cmbDrainArrive t cl ix => Sys2Proof.Machine.execCmbDrainArrive t cl ix s
  | .copyInvalidate id ix => Sys2Proof.Machine.execCopyInvalidate id ix s
  | .invalidateAck id => Sys2Proof.Machine.execInvalidateAck id s
  | .drainAck t cl ix => Sys2Proof.Machine.execDrainAck t cl ix s
  | .sliceLoadRequest t k ix err => Sys2Proof.Machine.execSliceLoadRequest t k ix err s
  | .gatewayLoad t k ix err => Sys2Proof.Machine.execGatewayLoad t k ix err s
  | .hbmFillReturn t k ix => Sys2Proof.Machine.execHbmFillReturn t k ix s
  | .loadResponse op err => Sys2Proof.Machine.execLoadResponse op err s
  | .accessAtExecutingPlace op lane => Sys2Proof.Machine.execAccessAtExecutingPlace op lane s
  | .partitionAreaAccess op lane => Sys2Proof.Machine.execPartitionAreaAccess op lane s
  | .atomicAtPlace op lane => Sys2Proof.Machine.execAtomicAtPlace op lane s
  | .orderedAtomicAccept op lane => Sys2Proof.Machine.execOrderedAtomicAccept op lane s
  | .orderedAtomicApply op lane => Sys2Proof.Machine.execOrderedAtomicApply op lane s
  | .orderedAtomicResend op lane => Sys2Proof.Machine.execOrderedAtomicResend op lane s
  | .horizonReport grid => Sys2Proof.Machine.execHorizonReport grid s
  | .horizonUpdate t grid => Sys2Proof.Machine.execHorizonUpdate t grid s
  | .raceCheck id => Sys2Proof.Machine.execRaceCheck id s
  | .patrolScrub unit key found => Sys2Proof.Machine.execPatrolScrub unit key found s
  | .copyRequestStart op => Sys2Proof.Machine.execCopyRequestStart op s
  | .copyGranule op u j => Sys2Proof.Machine.execCopyGranule op u j s
  | .ringOpAtPlace op lane => Sys2Proof.Machine.execRingOpAtPlace op lane s
  | .ringOpResend op lane => Sys2Proof.Machine.execRingOpResend op lane s
  | .versionOpAtSlice op => Sys2Proof.Machine.execVersionOpAtSlice op s
  | .subscriptionDelivery ix => Sys2Proof.Machine.execSubscriptionDelivery ix s
  | .cancellationRequest pair => Sys2Proof.Machine.execCancellationRequest pair s
  | .engineWindowEnd slip t k => Sys2Proof.Machine.execEngineWindowEnd slip t k s
  | .rangeTableLoad low => Sys2Proof.Machine.execRangeTableLoad low s
  | .cmrChange low => Sys2Proof.Machine.execCmrChange low s
  | .dealTeam low => Sys2Proof.Machine.execDealTeam low s
  | .dispatchEvaluate t k to_ => Sys2Proof.Machine.execDispatchEvaluate t k to_ s
  | .evictTeam team => Sys2Proof.Machine.execEvictTeam team s
  | .restoreTeam t k => Sys2Proof.Machine.execRestoreTeam t k s
  | .binPush op => Sys2Proof.Machine.execBinPush op s
  | .binTimerExpire t b => Sys2Proof.Machine.execBinTimerExpire t b s
  | .binLaunchDecision t b => Sys2Proof.Machine.execBinLaunchDecision t b s
  | .crewEnd id => Sys2Proof.Machine.execCrewEnd id s
  | .teamEnd team => Sys2Proof.Machine.execTeamEnd team s
  | .settleWordUpdate root => Sys2Proof.Machine.execSettleWordUpdate root s
  | .digestCompute grid => Sys2Proof.Machine.execDigestCompute grid s
  | .completionWordAtomic grid => Sys2Proof.Machine.execCompletionWordAtomic grid s
  | .gridRetire grid => Sys2Proof.Machine.execGridRetire grid s
  | .mxOperationComplete t k => Sys2Proof.Machine.execMxOperationComplete t k s
  | .nlEntryArrive t k => Sys2Proof.Machine.execNlEntryArrive t k s
  | .nlCreditReturn t k dir => Sys2Proof.Machine.execNlCreditReturn t k dir s
  | .kilnOperationExecute t k => Sys2Proof.Machine.execKilnOperationExecute t k s
  | .kilnSweep t k => Sys2Proof.Machine.execKilnSweep t k s
  | .snapshotArrive t k ix => Sys2Proof.Machine.execSnapshotArrive t k ix s
  | .subscriberRegister t k g0 => Sys2Proof.Machine.execSubscriberRegister t k g0 s
  | .coneWindowEnd t k => Sys2Proof.Machine.execConeWindowEnd t k s
  | .slipOperationExecute t k => Sys2Proof.Machine.execSlipOperationExecute t k s
  | .slipStep t k => Sys2Proof.Machine.execSlipStep t k s
  | .migrationRequest op => Sys2Proof.Machine.execMigrationRequest op s
  | .migrationResend op => Sys2Proof.Machine.execMigrationResend op s
  | .migrationLand op => Sys2Proof.Machine.execMigrationLand op s
  | .ctmrExpire crew => Sys2Proof.Machine.execCtmrExpire crew s
  | .pairWatchdogExpire crew => Sys2Proof.Machine.execPairWatchdogExpire crew s
  | .preemptDeadlineExpire crew => Sys2Proof.Machine.execPreemptDeadlineExpire crew s
  | .engineHaltStop t k eng => Sys2Proof.Machine.execEngineHaltStop t k eng s
  | .haltComplete low => Sys2Proof.Machine.execHaltComplete low s
  | .frameReceive port addr checks bytes => Sys2Proof.Machine.execFrameReceive port addr checks bytes s
  | .acknowledgementFrame port addr checks bytes => Sys2Proof.Machine.execAcknowledgementFrame port addr checks bytes s
  | .retransmitTimeout sess q => Sys2Proof.Machine.execRetransmitTimeout sess q s
  | .sessionEstablish addr key msg sig => Sys2Proof.Machine.execSessionEstablish addr key msg sig s
  | .sessionRekey sess => Sys2Proof.Machine.execSessionRekey sess s
  | .launch sess q => Sys2Proof.Machine.execLaunch sess q s
  | .read sess q => Sys2Proof.Machine.execRead sess q s
  | .write sess q => Sys2Proof.Machine.execWrite sess q s
  | .transportFlush sess q => Sys2Proof.Machine.execTransportFlush sess q s
  | .transportInvalidate sess q => Sys2Proof.Machine.execTransportInvalidate sess q s
  | .shootdown sess q => Sys2Proof.Machine.execShootdown sess q s
  | .shootdownStep low => Sys2Proof.Machine.execShootdownStep low s
  | .setSplit sess q => Sys2Proof.Machine.execSetSplit sess q s
  | .setVaultAllotment sess q => Sys2Proof.Machine.execSetVaultAllotment sess q s
  | .vaultZeroingComplete ix => Sys2Proof.Machine.execVaultZeroingComplete ix s
  | .setHostWindowRegion sess q => Sys2Proof.Machine.execSetHostWindowRegion sess q s
  | .setRaceMode sess q => Sys2Proof.Machine.execSetRaceMode sess q s
  | .setConeWindow sess q => Sys2Proof.Machine.execSetConeWindow sess q s
  | .setHandlerEntry sess q => Sys2Proof.Machine.execSetHandlerEntry sess q s
  | .setSaveAreaSize sess q => Sys2Proof.Machine.execSetSaveAreaSize sess q s
  | .setBinStoreVault sess q => Sys2Proof.Machine.execSetBinStoreVault sess q s
  | .setCheckpointRegion sess q => Sys2Proof.Machine.execSetCheckpointRegion sess q s
  | .quarantineClear sess q => Sys2Proof.Machine.execQuarantineClear sess q s
  | .contextCreate sess q descBase descCount => Sys2Proof.Machine.execContextCreate sess q descBase descCount s
  | .contextDestroy sess q => Sys2Proof.Machine.execContextDestroy sess q s
  | .switchOut sess q => Sys2Proof.Machine.execSwitchOut sess q s
  | .contextSwitchStep low => Sys2Proof.Machine.execContextSwitchStep low s
  | .contextRestore sess q => Sys2Proof.Machine.execContextRestore sess q s
  | .telemetry sess q => Sys2Proof.Machine.execTelemetry sess q s
  | .haltTower sess q => Sys2Proof.Machine.execHaltTower sess q s
  | .resumeTower sess q => Sys2Proof.Machine.execResumeTower sess q s
  | .debugReadItem sess q => Sys2Proof.Machine.execDebugReadItem sess q s
  | .debugWriteItem sess q => Sys2Proof.Machine.execDebugWriteItem sess q s
  | .endHandlerCrew sess q => Sys2Proof.Machine.execEndHandlerCrew sess q s
  | .checkpointTake sess q => Sys2Proof.Machine.execCheckpointTake sess q s
  | .checkpointIntervalExpire t => Sys2Proof.Machine.execCheckpointIntervalExpire t s
  | .warmReset sess q => Sys2Proof.Machine.execWarmReset sess q s
  | .attest sess q => Sys2Proof.Machine.execAttest sess q s
  | .firmwareChunk sess q => Sys2Proof.Machine.execFirmwareChunk sess q s
  | .setIpv4 sess q => Sys2Proof.Machine.execSetIpv4 sess q s
  | .setIpv6 sess q => Sys2Proof.Machine.execSetIpv6 sess q s
  | .enrolHostKey sess q => Sys2Proof.Machine.execEnrolHostKey sess q s
  | .revokeHostKey sess q => Sys2Proof.Machine.execRevokeHostKey sess q s
  | .releaseOwnership sess q => Sys2Proof.Machine.execReleaseOwnership sess q s
  | .listKeys sess q => Sys2Proof.Machine.execListKeys sess q s
  | .unknownCommand sess q => Sys2Proof.Machine.execUnknownCommand sess q s
  | .mgmtStatusQuery dest bytes => Sys2Proof.Machine.execMgmtStatusQuery dest bytes s
  | .mgmtFailrecQuery dest bytes => Sys2Proof.Machine.execMgmtFailrecQuery dest bytes s
  | .powerUp fails test detail => Sys2Proof.Machine.execPowerUp fails test detail s
  | .flitReplay link => Sys2Proof.Machine.execFlitReplay link s
  | .linkRetrain link => Sys2Proof.Machine.execLinkRetrain link s
  | .linkDown link => Sys2Proof.Machine.execLinkDown link s
  | .neighbourLinkError t cluster dir => Sys2Proof.Machine.execNeighbourLinkError t cluster dir s
  | .arrayClockChange t mhz => Sys2Proof.Machine.execArrayClockChange t mhz s
  | .skipdChange t v => Sys2Proof.Machine.execSkipdChange t v s
  | .powerSample rail mw temp => Sys2Proof.Machine.execPowerSample rail mw temp s
  | .warmResetLimitExpire t => Sys2Proof.Machine.execWarmResetLimitExpire t s
  | .checkpointComplete t => Sys2Proof.Machine.execCheckpointComplete t s
  | .powerLoss => Sys2Proof.Machine.execPowerLoss s

end Sys2Proof.Machine
end

