-- ==== Sys2Proof/Machine/Place.lean ====
section
/-! DEFINITION. Place: the state in which a given instruction is fetched next: what loading and launching a program has done by
then (assumption 23). -/

namespace Sys2Proof.Machine

/-- The physical address, and the virtual one, of the placed clause's header. -/
def placedCode : Nat := 0

/-- The header of the placed clause (R230): signature, two body words, CLASS 7, and nothing to wait for. -/
def placedHeader : Nat := 0b1010 * 2 ^ 28 + 2 * 2 ^ 24 + 7 * 2 ^ 21

/-- The bytes of the placed clause: its header, the first word and the extension, each little-endian (R10). -/
def placedBytes (v : Nat) : List Byte := natLe 4 placedHeader ++ natLe 8 v

/-- The leaf that maps the placed code: V, LEAF, W, X and ATOMIC, PA 0, KIND 0 (R22). -/
def placedLeaf : Word := 0x1F

/-- The crew that runs the placed instruction: every thread on the first body word, every register allotted. -/
def placedCrew : Crew :=
  { id := 3, team := 2, threads := List.replicate 32 { pc := BitVec.ofNat 64 (placedCode + 4) }, allot := BitVec.allOnes 64, gbud := 64 }

/-- The grid of that crew. -/
def placedGrid : Grid :=
  { id := 1, ctx := 0, root := 1, phase := .dealt, dealtTeams := 1, admitted := 1, launch :=
      { code := BitVec.ofNat 64 placedCode, codelen := 12, nregs := 64, gbud := 64 } }

/-- Its team. -/
def placedTeam : Team := { id := 2, grid := 1, phase := .resident, crews := [3], tag := 0 }

/-- Memory with bytes from a key on. -/
def Memory.putAll (m : Memory) (k : Nat) : List Byte → Memory
  | [] => m
  | b :: r => (m.put k b).putAll (k + 1) r

/-- A state with an instruction placed: the device runs, a context is resident in the partition of tower 0, and one crew of it
stands on the instruction (assumption 23). -/
def State.placed (s : State) (v : Nat) : State :=
  let core := s.d.core 0 0
  let d := s.d.modPart 0 fun p => { p with ctx := some 0, halt := {}, debugHalted := [] }
  let d := d.modCore 0 0 fun _ => { core with tlb := [{ ctx := 0, vpn := 0, level := 3, leaf := placedLeaf }], icache := [] }
  { s with
    mem := s.mem.putAll placedCode (placedBytes v)
    cont := none
    d := { d with
      nextId := 4, turn := 0, cur := none, agenda := [], crews := [placedCrew], teams := [placedTeam], grids := [placedGrid]
      ctxs := [{ ctxid := 0, part := 0 }], boot := { d.boot with stage := 15, safe := false, running := true } } }

end Sys2Proof.Machine
end

