-- ==== Sys2Proof/Machine/Step.lean ====
section
/-! DEFINITION. Step: one step of the machine, and the state in which a given instruction is fetched next. -/

noncomputable section

namespace Sys2Proof.Machine

/-- The state a row leaves where it does something. -/
def State.progress (s : State) (i : Instr) : Option State :=
  match exec i s with
  | .next t => if t = s then none else some t
  | _ => none

/-- The crews' part of a step: an instruction or a row that the agenda names is executed, or the machine moves on without one. With nothing
to do the machine stays as it is; in the safe state it stops for good (R446). -/
def State.issueStep (s : State) : Host.Outcome State Fault Refusal :=
  match s.front with
  | .run i t =>
    match exec i t with
    | .next u => .next u.settleUnit
    | .fault f => .fault f
    | .refused r => .refused r
  | .moved t => .next t
  | .idle =>
    match s.rows.findSome? s.progress with
    | some t => .next t
    | none => if s.d.boot.safe then .fault .safeState else .next s

/-- One step: what follows by itself, then what moves next: on its turn a row of the device that has something to do, else the crews'
part. -/
def step (s : State) : Host.Outcome State Fault Refusal :=
  let s := s.wake
  match if s.rowsTurn then s.turnRows.findSome? s.progress else none with
  | some t => .next t
  | none => s.issueStep

/-- The state with an instruction's words stored where the next step fetches them: a crew of one thread group at a clause of
its own (see `placed`), in a device that runs. -/
def State.withFetchWord (s : State) (nbits w : Nat) : State := s.placed (w % 2 ^ nbits)

end Sys2Proof.Machine

end
end

