-- ==== Sys2Proof/Safety.lean ====
section
/-! DEFINITION. Safety: what every state of the machine keeps, and the terms in which the statements speak of an issue: when
nothing withholds an instruction, and what an instruction leaves as it was. -/

namespace Sys2Proof.Machine

/-! ## The invariant of every state -/

/-- A snapshot of memory is in canonical form. -/
def Snap.wf (x : Snap) : Bool := x.mem.wf

/-- A dictionary word in progress keeps memories in canonical form. -/
def Cont.wf (k : Cont) : Bool := k.before.wf && (match k.after with
  | some x => x.wf
  | none => true)

/-- Memory is in canonical form: its own, and those a dictionary word in progress keeps. -/
def State.wf (s : State) : Bool := s.mem.wf && (match s.cont with
  | some k => k.wf
  | none => true)

/-! ## An instruction about to issue -/

/-- The lanes an instruction with this guard is active in (R177). -/
def activeLanes (cu : Cur) (c : Crew) (g : Guard) : Mask := cu.group &&& c.guard g

/-- The choice `cu` of the crew `c` is about to issue an instruction with guard `g` that touches the registers `rs`, and nothing
withholds or stops it: some lane is active (R177), no crew timer has expired (R207), no register it touches is pending in an active
lane and no thread of the group has run out its lookahead (R240), every register is allotted (R201) and free of uncorrectable errors
(R75), and no dictionary word is in progress. -/
structure Ready (s : State) (cu : Cur) (c : Crew) (g : Guard) (rs : List Nat) : Prop where
  cur : s.d.cur = some cu
  crew : s.d.crew cu.crew = some c
  alone : s.cont = none
  active : activeLanes cu c g ≠ 0
  timer : c.sp.ctmrFault = false
  free : ∀ p ∈ c.pend, ∀ l < 32, (cu.group.getLsbD l = true → p.left.getD l 0 ≠ 1) ∧
    ((activeLanes cu c g).getLsbD l = true → p.reg ∈ rs → p.left.getD l 0 < 2)
  allotted : ∀ r ∈ rs, r < 64 ∧ c.allot.getLsbD r = true
  sound : ∀ r ∈ rs, r ∉ c.badRegs

/-- The G-budget has room for one more register tagged G (R204). -/
def Crew.roomForG (c : Crew) (d : Nat) : Prop := c.gcount + (if (c.reg d).isGen then 0 else 1) ≤ c.gbud

/-! ## What an issue leaves -/

/-- The threads of a crew after an instruction that goes on to the next one: the group's PCs are past it, no thread has exited,
and a meeting register changes only by the release of a hold (R177, R180). -/
def threadsAdvance (cu : Cur) (c c' : Crew) : Prop :=
  c'.threads.length = c.threads.length ∧ ∀ l t, c.threads[l]? = some t → ∃ t', c'.threads[l]? = some t' ∧
    t'.pc = (if cu.group.getLsbD l then cu.ret else t.pc) ∧ t'.exited = t.exited ∧ (t'.m = t.m ∨ t'.m = mNone)

/-- What no register instruction changes in its crew: its place, team and budget, its counters, its special registers but FSTAT, its
barrier bits, epochs and order tags, its waits and its status. -/
def crewKept (c c' : Crew) : Prop :=
  c'.id = c.id ∧ c'.place = c.place ∧ c'.home = c.home ∧ c'.team = c.team ∧ c'.index = c.index ∧ c'.allot = c.allot ∧ c'.gbud = c.gbud ∧
  c'.cnt = c.cnt ∧ { c'.sp with fstat := c.sp.fstat } = c.sp ∧ c'.ep = c.ep ∧ c'.seq = c.seq ∧ c'.tw = c.tw ∧ c'.gw = c.gw ∧
  c'.sa = c.sa ∧ c'.sb = c.sb ∧ c'.bar = c.bar ∧ c'.gpend = c.gpend ∧ c'.waits = c.waits ∧ c'.status = c.status ∧
  c'.handler = c.handler ∧ c'.landed = c.landed

/-- Everything outside one crew is as it was: every byte of memory, the other crews, teams, grids, contexts, partitions and halts,
operations and fences, clusters, towers, links, the host side and bring-up; of the cores only the run-overflow count may advance
(R235). -/
def restKept (s t : State) (id : Nat) : Prop :=
  (∀ k, t.mem.get k = s.mem.get k) ∧ (∀ n, n ≠ id → t.d.crew n = s.d.crew n) ∧
  t.d.teams = s.d.teams ∧ t.d.grids = s.d.grids ∧ t.d.ctxs = s.d.ctxs ∧ t.d.parts = s.d.parts ∧ t.d.ops = s.d.ops ∧ t.d.fences = s.d.fences ∧
  t.d.clusters = s.d.clusters ∧ t.d.towers = s.d.towers ∧ t.d.links = s.d.links ∧ t.d.host = s.d.host ∧ t.d.nv = s.d.nv ∧ t.d.boot = s.d.boot ∧
  t.fx = s.fx ∧ ∀ tw k, ∃ n, t.d.core tw k = { s.d.core tw k with runOverflow := n }

/-- The register `d` holds in each active lane a value that `P` allows there; inactive lanes of threads that have not exited keep
their values, and every other register is as it was (R177, R203). -/
def writesReg (cu : Cur) (c c' : Crew) (g : Guard) (d : Nat) (P : Nat → Word → Prop) : Prop :=
  (∀ l < 32, (activeLanes cu c g).getLsbD l = true → P l (c'.val d l)) ∧
  (∀ l < 32, (activeLanes cu c g).getLsbD l = false → (c.thread l).exited = false → c'.val d l = c.val d l) ∧
  (∀ r, r ≠ d → c'.reg r = c.reg r)

/-- The predicate `q` holds `f` of each active lane and is otherwise kept, as is every other predicate (R177, R200). -/
def writesPred (cu : Cur) (c c' : Crew) (g : Guard) (q : Nat) (f : Nat → Bool) : Prop :=
  (∀ l < 32, (c'.pred q).getLsbD l = if (activeLanes cu c g).getLsbD l then f l else (c.pred q).getLsbD l) ∧
  (∀ p, p ≠ q → c'.pred p = c.pred p)

/-- An instruction of the crew is done and has written the register `d` alone. -/
def regDone (s t : State) (cu : Cur) (c : Crew) (g : Guard) (d : Nat) (P : Nat → Word → Prop) : Prop :=
  ∃ c', t.d.crew cu.crew = some c' ∧ writesReg cu c c' g d P ∧ (∀ p, c'.pred p = c.pred p) ∧ c'.sp = c.sp ∧
    threadsAdvance cu c c' ∧ crewKept c c' ∧ restKept s t cu.crew

/-- An instruction of the crew is done and has written the predicate `q` alone. -/
def predDone (s t : State) (cu : Cur) (c : Crew) (g : Guard) (q : Nat) (f : Nat → Bool) : Prop :=
  ∃ c', t.d.crew cu.crew = some c' ∧ writesPred cu c c' g q f ∧ (∀ r, c'.reg r = c.reg r) ∧ c'.sp = c.sp ∧
    threadsAdvance cu c c' ∧ crewKept c c' ∧ restKept s t cu.crew

/-- An instruction of the crew is done and has written the register `d` and ORed `fl` into FSTAT (R207). -/
def floatDone (s t : State) (cu : Cur) (c : Crew) (g : Guard) (d : Nat) (P : Nat → Word → Prop) (fl : Flags) : Prop :=
  ∃ c', t.d.crew cu.crew = some c' ∧ writesReg cu c c' g d P ∧ (∀ p, c'.pred p = c.pred p) ∧
    c'.sp = { c.sp with fstat := c.sp.fstat ||| fl } ∧ threadsAdvance cu c c' ∧ crewKept c c' ∧ restKept s t cu.crew

/-- An instruction of the crew is done and has written the `n` registers from `d` on, register `d + k` with `P k`, and ORed `fl` into
FSTAT. -/
def floatRangeDone (s t : State) (cu : Cur) (c : Crew) (g : Guard) (d n : Nat) (P : Nat → Nat → Word → Prop) (fl : Flags) : Prop :=
  ∃ c', t.d.crew cu.crew = some c' ∧
    (∀ k < n, (∀ l < 32, (activeLanes cu c g).getLsbD l = true → P k l (c'.val (d + k) l)) ∧
      ∀ l < 32, (activeLanes cu c g).getLsbD l = false → (c.thread l).exited = false → c'.val (d + k) l = c.val (d + k) l) ∧
    (∀ r, ¬ (d ≤ r ∧ r < d + n) → c'.reg r = c.reg r) ∧ (∀ p, c'.pred p = c.pred p) ∧
    c'.sp = { c.sp with fstat := c.sp.fstat ||| fl } ∧ threadsAdvance cu c c' ∧ crewKept c c' ∧ restKept s t cu.crew

/-- Registers and predicates of a crew are as they were. -/
def valuesKept (c c' : Crew) : Prop := (∀ r, c'.reg r = c.reg r) ∧ ∀ p, c'.pred p = c.pred p

/-- An instruction of the crew is done and has changed no register, predicate or special register: its threads are past it. -/
def nothingDone (s t : State) (cu : Cur) (c : Crew) : Prop :=
  ∃ c', t.d.crew cu.crew = some c' ∧ valuesKept c c' ∧ c'.sp = c.sp ∧ threadsAdvance cu c c' ∧ crewKept c c' ∧ restKept s t cu.crew

/-- The threads of a crew after an instruction that moves them: thread `l` is at `pc l` in the active lanes and past the instruction in
the rest of the group, and has the meeting register `m l`, or none where it is at that point and the hold has been released (R180). -/
def threadsGo (cu : Cur) (c c' : Crew) (act : Mask) (pc : Nat → Word) (m : Nat → Thread → Word) : Prop :=
  c'.threads.length = c.threads.length ∧ ∀ l t, c.threads[l]? = some t → ∃ t', c'.threads[l]? = some t' ∧
    t'.pc = (if act.getLsbD l then pc l else if cu.group.getLsbD l then cu.ret else t.pc) ∧ t'.exited = t.exited ∧
    (t'.m = m l t ∨ (t'.m = mNone ∧ t'.pc = m l t))

/-- Every element of width `w` of the word `v` is given by `f` (R183, R261). -/
def elements (w : Nat) (v : Word) (f : Nat → BitVec w) : Prop := ∀ e < 64 / w, v.extractLsb' (w * e) w = f e

/-- Element `e` of width `w` of a word. -/
def elementAt (w : Nat) (v : Word) (e : Nat) : BitVec w := v.extractLsb' (w * e) w

/-- The OR of the flags of the active lanes. -/
def laneFlags (act : Mask) (f : Nat → Flags) : Flags := (maskLanes act).foldl (fun a l => a ||| f l) fNone

/-- No trap of the floating-point flags is enabled in the crew's context (R209, R223). -/
def noTraps (s : State) (c : Crew) : Prop := ((s.d.cmr c) >>> 8).setWidth 5 = (0 : BitVec 5)

/-- The floating-point controls of the crew's context (R209). -/
def controls (s : State) (c : Crew) : FCtl := .ofCmr (s.d.cmr c)

/-! ## What taking a fault leaves -/

/-- The partition `p` of a tower goes from running to the first step of a halt, with one stop record, written at index 0 of its stop area
(R400, R403, R404). -/
def haltBegun (s t : State) (tower : Nat) (p : Part) (ok : FaultInfo → Prop) : Prop :=
  ∃ p' r, t.d.part tower = some p' ∧ p'.halt.phase = .stopping ∧ p'.halt.halts = (p.halt.halts + 1) % 2 ^ 32 ∧ p'.halt.count = 1 ∧
    p'.halt.ovf = false ∧ p'.halt.records = [r] ∧ r.index = 0 ∧ r.appended = false ∧ ok r.info ∧
    t.mem.get (recordKey p.low 0 + 31) = BitVec.ofNat 8 r.info.reason.code ∧ p'.towers = p.towers ∧ p'.ctx = p.ctx ∧ p'.vaults = p.vaults ∧
    p'.handler = p.handler ∧ ∀ k, ¬ (areaKey p.low 0 0 ≤ k ∧ k < areaKey p.low 0 128) → t.mem.get k = s.mem.get k

/-- The threads of a crew stand where they stood. -/
def threadsStand (c c' : Crew) : Prop :=
  c'.threads.length = c.threads.length ∧ ∀ (l : Nat) (t : Thread), c.threads[l]? = some t → ∃ t' : Thread, c'.threads[l]? = some t' ∧
    t'.pc = t.pc ∧ t'.m = t.m ∧ t'.exited = t.exited

/-- A precise fault of the instruction being issued whose record meets `ok` (R398): no register, predicate, counter or special register
has changed, the PCs stay, and the partition's halt has begun with the fault's record. -/
def faultWith (s t : State) (cu : Cur) (c : Crew) (p : Part) (ok : FaultInfo → Prop) : Prop :=
  (∃ c', t.d.crew cu.crew = some c' ∧ valuesKept c c' ∧ c'.cnt = c.cnt ∧ c'.sp = c.sp ∧ c'.pend = c.pend ∧ threadsStand c c') ∧
    haltBegun s t c.place.tower p ok

/-- The same for a fault of every active lane, with its reason. -/
def faultTaken (s t : State) (cu : Cur) (c : Crew) (g : Guard) (p : Part) (reason : Reason) : Prop :=
  faultWith s t cu c p fun f => f.reason = reason ∧ f.iaddr = cu.addr ∧ f.lanes = activeLanes cu c g ∧ f.crew = c.place.gid ∧ f.engine = .issue

/-- An illegal-instruction trap of a class, with the class in EXTRA [3:0] and the offending word in [35:4], 0 for classes 5 and 6 (R377). -/
def illegalTaken (s t : State) (cu : Cur) (c : Crew) (g : Guard) (p : Part) (cls : Nat) : Prop :=
  faultWith s t cu c p fun f => f.reason = .illegal ∧ f.iaddr = cu.addr ∧ f.lanes = activeLanes cu c g ∧ f.crew = c.place.gid ∧ f.engine = .issue ∧
    f.extra.toNat = cls + if cls = 5 ∨ cls = 6 then 0 else cu.word % 2 ^ 32 * 16

/-- The crew's partition runs its context and no halt is on. -/
structure Running (s : State) (c : Crew) (p : Part) : Prop where
  part : s.d.part c.place.tower = some p
  resident : p.ctx.isSome = true
  running : p.halt.phase = .running
  kernel : c.handler = false

/-! ## The tables of the integer chapter (12_isa_control_and_integer.md) -/

/-- The integer instructions of a width, in minor order (R261). -/
def intInstrs (w : Nat) : List (OpRR → Instr) :=
  match w with
  | 64 => [.i64Add, .i64Sub, .i64Mul, .i64Mulh, .i64Mulhu, .i64Min, .i64Max, .i64Minu, .i64Maxu, .i64And, .i64Or, .i64Xor, .i64Shl, .i64Shr,
           .i64Sar, .i64Addsat]
  | 32 => [.i32Add, .i32Sub, .i32Mul, .i32Mulh, .i32Mulhu, .i32Min, .i32Max, .i32Minu, .i32Maxu, .i32And, .i32Or, .i32Xor, .i32Shl, .i32Shr,
           .i32Sar, .i32Addsat]
  | 16 => [.i16Add, .i16Sub, .i16Mul, .i16Mulh, .i16Mulhu, .i16Min, .i16Max, .i16Minu, .i16Maxu, .i16And, .i16Or, .i16Xor, .i16Shl, .i16Shr,
           .i16Sar, .i16Addsat]
  | _ => [.i8Add, .i8Sub, .i8Mul, .i8Mulh, .i8Mulhu, .i8Min, .i8Max, .i8Minu, .i8Maxu, .i8And, .i8Or, .i8Xor, .i8Shl, .i8Shr, .i8Sar, .i8Addsat]

/-- F(a, b) of R262 in minor order, on bit vectors of the element width. -/
def intRule (w : Nat) : List (BitVec w → BitVec w → BitVec w) :=
  [fun a b => a + b, fun a b => a - b, fun a b => a * b,
   fun a b => (a.signExtend (2 * w) * b.signExtend (2 * w)).extractLsb' w w,
   fun a b => (a.setWidth (2 * w) * b.setWidth (2 * w)).extractLsb' w w,
   fun a b => if a.sle b then a else b, fun a b => if a.sle b then b else a,
   fun a b => if a.toNat ≤ b.toNat then a else b, fun a b => if a.toNat ≤ b.toNat then b else a,
   fun a b => a &&& b, fun a b => a ||| b, fun a b => a ^^^ b,
   fun a b => a <<< b.toNat, fun a b => a >>> b.toNat, fun a b => a.sshiftRight b.toNat,
   fun a b => BitVec.ofInt w (max (-2 ^ (w - 1)) (min (a.toInt + b.toInt) (2 ^ (w - 1) - 1)))]

/-- The one-operand integer instructions with the element function each stands for (R263). -/
def iunRule (w : Nat) : List ((OpDAW → Instr) × (BitVec w → BitVec w → Prop)) :=
  [(.iunNeg, fun a r => r = -a), (.iunAbs, fun a r => r = if a.slt 0 then -a else a), (.iunNot, fun a r => r = ~~~ a),
   (.iunClz, fun a r => r = BitVec.ofNat w ((List.range w).takeWhile fun i => !a.getMsbD i).length),
   (.iunCtz, fun a r => r = BitVec.ofNat w ((List.range w).takeWhile fun i => !a.getLsbD i).length),
   (.iunPopc, fun a r => r = BitVec.ofNat w ((List.range w).countP fun i => a.getLsbD i)),
   (.iunBrev, fun a r => ∀ i < w, r.getLsbD i = a.getLsbD (w - 1 - i)),
   (.iunBswap, fun a r => ∀ i < w, r.getLsbD i = a.getLsbD (8 * (w / 8 - 1 - i / 8) + i % 8))]

/-- The four bit-field functions of R270: each bit of the result, from the field's place and width. -/
def fieldRule (d a v : Word) (off wid : Nat) : List Prop :=
  [∀ i < 64, v.getLsbD i = (decide (i < wid) && a.getLsbD (off + i)),
   ∀ i < 64, v.getLsbD i = (decide (wid ≠ 0) && a.getLsbD (min (off + min i (wid - 1)) 63)),
   ∀ i < 64, v.getLsbD i = if off ≤ i ∧ i < off + wid then a.getLsbD (i - off) else d.getLsbD i,
   ∀ i < 64, v.getLsbD i = if off ≤ i ∧ i < off + wid then a.getLsbD (i - off) else false]

/-- A condition of R264 on two operands of one width. -/
def condition (w : Nat) (a b : BitVec w) : List Bool :=
  [a == b, a != b, a.slt b, a.sle b, b.slt a, b.sle a, a.ult b, a.ule b, b.ult a, b.ule a, (a &&& b) != 0, (a &&& b) == 0]

/-- The tag of the result of an integer operation on a full write, from the tags of its sources: width, minor, the tags of va and vb
(R203). -/
def intTag (w k x y : Nat) : Nat :=
  if x = 0 ∧ y = 0 then 0
  else if w = 64 ∧ (k = 0 ∨ k = 1) ∧ x ≤ 1 ∧ y ≤ 1 then 1
  else if w = 64 ∧ k = 2 ∧ x + y = 1 then 1
  else if w = 64 ∧ k = 12 ∧ x = 1 ∧ y = 0 then 1
  else 2

/-! ## The tables of the floating-point chapter (13_isa_vector_and_float.md) -/

/-- The operations of the vector majors in minor order (R274). -/
def vecFns : List VFn :=
  [.fadd, .fsub, .fmul, .fma, .fms, .fnma, .fmin, .fmax, .fminnm, .fmaxnm, .fabd, .fscale, .fdiv, .fcpys]

/-- The vector instructions with their formats, in minor order (R274). -/
def vecInstrs : List (Fmt × List (OpRR → Instr)) :=
  [(.fp64, [.f64Fadd, .f64Fsub, .f64Fmul, .f64Fma, .f64Fms, .f64Fnma, .f64Fmin, .f64Fmax, .f64Fminnm, .f64Fmaxnm, .f64Fabd, .f64Fscale,
            .f64Fdiv, .f64Fcpys]),
   (.fp32, [.f32Fadd, .f32Fsub, .f32Fmul, .f32Fma, .f32Fms, .f32Fnma, .f32Fmin, .f32Fmax, .f32Fminnm, .f32Fmaxnm, .f32Fabd, .f32Fscale,
            .f32Fdiv, .f32Fcpys]),
   (.fp16, [.f16Fadd, .f16Fsub, .f16Fmul, .f16Fma, .f16Fms, .f16Fnma, .f16Fmin, .f16Fmax, .f16Fminnm, .f16Fmaxnm, .f16Fabd, .f16Fscale,
            .f16Fdiv, .f16Fcpys]),
   (.bf16, [.b16Fadd, .b16Fsub, .b16Fmul, .b16Fma, .b16Fms, .b16Fnma, .b16Fmin, .b16Fmax, .b16Fminnm, .b16Fmaxnm, .b16Fabd, .b16Fscale,
            .b16Fdiv, .b16Fcpys])]

/-- The one-operand functions with their instructions, in minor order (R278). -/
def funInstrs : List ((OpDAW → Instr) × UFn) :=
  [(.fsqrt, .fsqrt), (.frcp, .frcp), (.frsq, .frsq), (.fexp2, .fexp2), (.flog2, .flog2), (.fsin, .fsin), (.fcos, .fcos), (.ftanh, .ftanh),
   (.fsigm, .fsigm), (.frint, .frint), (.ffloor, .ffloor), (.fceil, .fceil), (.ftrunc, .ftrunc), (.fneg, .fneg), (.fabs, .fabs),
   (.fclass, .fclass)]

/-- The rational number a finite value stands for. -/
def Val.rat : Val → Option ℚ
  | .fin n m e => some ((if n then -1 else 1) * (m : ℚ) * (2 : ℚ) ^ e)
  | _ => none

/-- Combine of present and absent elements taken one by one in ascending order, for the integer functions of R285. -/
def intCombine (fn w : Nat) (a b : BitVec w) : BitVec w :=
  [a + b, if a.sle b then a else b, if a.sle b then b else a, if a.toNat ≤ b.toNat then a else b, if a.toNat ≤ b.toNat then b else a,
   a &&& b, a ||| b, a ^^^ b].getD fn 0

/-- A list of elements combined from the left; 0 for none. -/
def combineAll {w : Nat} (f : BitVec w → BitVec w → BitVec w) : List (BitVec w) → BitVec w
  | [] => 0
  | a :: r => r.foldl f a

/-- Combine of two elements that may be absent, by a rule for two present ones: one present element is given unchanged (R226). -/
def combineIf (f : Nat → Nat → FRes) (x y : Option Nat) : Option Nat × Flags :=
  match x, y with
  | some a, some b => (some (f a b).bits, (f a b).fl)
  | some a, none => (some a, fNone)
  | none, b => (b, fNone)

/-- Element `i` of level `k` of the fixed pairwise tree over the elements `e`, with the flags raised in reaching it (R226). -/
def treeRule (f : Nat → Nat → FRes) (e : Nat → Option Nat) : Nat → Nat → Option Nat × Flags
  | 0, i => (e i, fNone)
  | k + 1, i =>
    let x := treeRule f e k (2 * i)
    let y := treeRule f e k (2 * i + 1)
    let z := combineIf f x.1 y.1
    (z.1, x.2 ||| y.2 ||| z.2)

/-- The elements up to the `i`th combined in ascending order, with the flags raised (R226). -/
def scanRule (f : Nat → Nat → FRes) (e : Nat → Option Nat) : Nat → Option Nat × Flags
  | 0 => (e 0, fNone)
  | i + 1 =>
    let x := scanRule f e i
    let z := combineIf f x.1 (e (i + 1))
    (z.1, x.2 ||| z.2)

/-- The floating functions of R285 in the order of their codes from 8 on. -/
def reduceFns : List VFn := [.fadd, .fmin, .fmax, .fminnm, .fmaxnm]

/-- The value that SRD gives for each special register, by number (R207, R370). -/
def specialRule (s : State) (c : Crew) (v : Word) : List Prop :=
  [v = (s.d.cmr c).setWidth 64, v = c.sp.fstat.setWidth 64, v = (s.d.tower c.place.tower).cyc,
   v.getLsbD 63 = c.sp.ctmrArm ∧ v.extractLsb' 48 15 = 0 ∧ v.extractLsb' 0 48 = c.sp.ctmr,
   v.getLsbD 1 = c.sp.cancel ∧ v.getLsbD 0 = c.sp.preempt ∧ v.extractLsb' 2 62 = 0, v = c.sp.gangr.setWidth 64, v = c.sp.key0, v = c.sp.key1,
   v = if (s.d.cmr c).getLsbD 6 = true ∨ (s.d.cmr c).getLsbD 7 = false then 0 else (s.d.tower c.place.tower).skipd.setWidth 64,
   (c.handler = true → v = 0) ∧ (c.handler = false → ∀ x, s.d.gridOf c = some x → v = x.recAddr),
   ∀ p, s.d.part c.place.tower = some p → v.toNat = 2 ^ 63 + areaKey p.low 2 0,
   ∀ p, s.d.part c.place.tower = some p → v.toNat = 2 ^ 63 + areaKey p.low 0 0,
   v = (s.fx.harv.getD c.place.tower 0).setWidth 64,
   v.extractLsb' 32 32 = 0 ∧ v.extractLsb' 16 16 = BitVec.ofNat 16 c.ep.grid ∧ ∀ x, s.d.teamOf c = some x → v.extractLsb' 0 16 = BitVec.ofNat 16 x.epoch]

/-! ## Memory and asynchronous instructions -/

/-- Nothing earlier withholds a memory, atomic, asynchronous, matrix, sampler or task instruction of the group: no fence of it is
incomplete (R297), no acquire of its threads is still to bind (R91), no earlier memory instruction of the crew has checks still to
pass (R85), and its core has room for another memory request (R3). -/
structure Unfenced (s : State) (cu : Cur) : Prop where
  checks : ∀ c, s.d.crew cu.crew = some c → c.checking = none
  requests : ∀ c, s.d.crew cu.crew = some c → s.d.requests c.place.tower c.place.core < 2048
  fences : ∀ f ∈ s.d.fences, f.crew = cu.crew → f.done = true ∨ f.mask &&& cu.group = 0
  acquires : ∀ o ∈ s.d.ops, o.crew = cu.crew → o.done = true ∨ o.kind.acquires = false ∨ o.lanes &&& cu.group = 0

/-- Nothing the crew has done is still on its way: its operations are complete, no fence of it stands, and its core's store queue and its
cluster's merge buffer are empty. -/
structure Quiet (s : State) (cu : Cur) (c : Crew) : Prop where
  ops : ∀ o ∈ s.d.ops, o.crew = cu.crew → o.done = true
  fences : ∀ f ∈ s.d.fences, f.crew ≠ cu.crew
  queue : (s.d.core c.place.tower c.place.core).sq = []
  merge : (s.d.cluster c.place.tower (clusterOf c.place.core)).cmb = []

/-- What an instruction of the crew `id` leaves of everything but its own crew, the operations, its core and its cluster: every byte of
memory, the other crews, teams, grids, contexts, partitions and their halts, links, the host side and bring-up. -/
def othersKept (s t : State) (id : Nat) : Prop :=
  (∀ k, t.mem.get k = s.mem.get k) ∧ (∀ n, n ≠ id → t.d.crew n = s.d.crew n) ∧ t.d.teams = s.d.teams ∧ t.d.grids = s.d.grids ∧
  t.d.ctxs = s.d.ctxs ∧ t.d.parts = s.d.parts ∧ t.d.links = s.d.links ∧ t.d.host = s.d.host ∧ t.d.nv = s.d.nv ∧ t.d.boot = s.d.boot ∧ t.fx = s.fx

/-- The instruction has changed nothing of its crew but the PCs of its group, and nothing outside its core, cluster, operations and
fences. -/
def crewGoesOn (s t : State) (cu : Cur) (c : Crew) : Prop :=
  ∃ c', t.d.crew cu.crew = some c' ∧ (∀ r, c'.reg r = c.reg r) ∧ (∀ p, c'.pred p = c.pred p) ∧ c'.sp = c.sp ∧ c'.cnt = c.cnt ∧
    threadsAdvance cu c c' ∧ othersKept s t cu.crew

/-- The crew after an instruction that left the operation `op` in flight: class counter one higher (R114), the destinations pending in the
active lanes with lookahead `la` (R240), no lane of a register, no predicate and no special register changed, the group past it. -/
def crewCounts (cu : Cur) (c c' : Crew) (g : Guard) (cls : Nat) (regs : List Nat) (la : Nat) (op : Nat) : Prop :=
  (∀ k, c'.cnt.getD k 0 = c.cnt.getD k 0 + if k + 1 = cls then 1 else 0) ∧
  (∀ r ∈ regs, ∃ p ∈ c'.pend, p.reg = r ∧ p.op = op ∧ ∀ l < 32, p.left.getD l 0 = if (activeLanes cu c g).getLsbD l then la + 1 else 0) ∧
  (∀ r, ∀ l < 32, c'.val r l = c.val r l) ∧ (∀ p, c'.pred p = c.pred p) ∧ c'.sp = c.sp ∧ threadsAdvance cu c c'

/-- The instruction has put one operation in flight, of its crew, address and active lanes, in the class `cls`, and `ok` holds of it. -/
def opPut (s t : State) (cu : Cur) (c : Crew) (g : Guard) (cls : Nat) (regs : List Nat) (la : Nat) (ok : Op → Prop) : Prop :=
  ∃ c' op, t.d.crew cu.crew = some c' ∧ t.d.ops = s.d.ops ++ [op] ∧ op.crew = cu.crew ∧ op.cls = cls ∧ op.iaddr = cu.addr ∧
    op.lanes = activeLanes cu c g ∧ ok op ∧ crewCounts cu c c' g cls regs la op.id

/-- The same, and everything outside its crew, core and cluster is as it was. -/
def opIssued (s t : State) (cu : Cur) (c : Crew) (g : Guard) (cls : Nat) (regs : List Nat) (la : Nat) (ok : Op → Prop) : Prop :=
  opPut s t cu c g cls regs la ok ∧ othersKept s t cu.crew

/-- The effective address of a lane (R288). -/
def Crew.ea (c : Crew) (a l : Nat) (off : Word) : Nat := (c.val a l + off).toNat

/-- An access of a crew is located: every page is translated and every check is passed, and these are its bytes (R13 to R42). -/
def locatedAt (s : State) (cu : Cur) (c : Crew) (a : Acc) (space n ea : Nat) (refs : List BRef) : Prop :=
  ∃ q, s.d.who c = some q ∧ (s.begun cu c).locate q (s.d.localGranules c) a space ea n = .ok refs

/-- The address at which each lane of a load or store accesses; none in a lane whose positions of a line are inert; nothing where the
access is misaligned (R288, R290, R292). -/
def laneAddrs (s : State) (c : Crew) (tile loose : Bool) (size space order a : Nat) (off : Word) (act : Mask) : Option (Nat → Option Nat) :=
  if tile then
    let ea := c.ea a (lowLane act) off
    match if space = 0 then (s.d.who c).bind fun q => q.x.tensorAt ea else none with
    | some (id, d) => if (d.tileOf id ea).2 = 0 then some fun l => d.addrOf (d.tileOf id ea).1 (8 * l) else none
    | none => if ea % 256 = 0 then some fun l => some (ea + 8 * l) else none
  else if (∀ l ∈ maskLanes act, c.ea a l off % size = 0) ∨ (loose = true ∧ order = 0 ∧ space ≠ 3) then some fun l => some (c.ea a l off)
  else none

/-- The bytes each active lane accesses. -/
def lanesLocated (s : State) (cu : Cur) (c : Crew) (acc : Acc) (space size : Nat) (act : Mask) (ea : Nat → Option Nat) (refs : Nat → List BRef) :
    Prop :=
  (s.d.who c).isSome = true ∧ ∀ l ∈ maskLanes act, match ea l with
    | some x => locatedAt s cu c acc space size x (refs l)
    | none => refs l = []

/-- Where no active lane of an LDT or STT accesses a byte, its line is located all the same (R42, R292). -/
def anchorLocated (s : State) (cu : Cur) (c : Crew) (acc : Acc) (space size : Nat) (act : Mask) (ea : Nat → Option Nat) (a : Nat) (off : Word) : Prop :=
  (∀ l ∈ maskLanes act, ea l = none) → ∃ refs, locatedAt s cu c acc space size (c.ea a (lowLane act) off) refs

/-- No older access of a thread that is still to be made touches a byte its lane accesses (R81, R84). -/
def noOverlap (s : State) (cu : Cur) (act : Mask) (refs : Nat → List BRef) : Prop :=
  ∀ x ∈ s.d.ops, x.crew = cu.crew → x.done = true ∨ ∀ l ∈ maskLanes act, ∀ r ∈ refs l, r.key ∉ x.kind.keysOf l

/-- No line of the bytes is dirty in the cluster's merge buffer. -/
def noneDirty (s : State) (c : Crew) (act : Mask) (refs : Nat → List BRef) : Prop :=
  ∀ l ∈ maskLanes act, ∀ r ∈ refs l, (s.d.cluster c.place.tower (clusterOf c.place.core)).line r.tag = none

/-- The G-budget holds the registers an instruction will write later (R204). -/
def Crew.lateRoom (c : Crew) (regs : List Nat) : Prop := c.wouldExceed { writes := regs } = false

/-- The load instructions with their form: bytes per lane, sign, a second register; whether they may be misaligned; whether they move one
line; whether their own access may take L1 bytes and merge-buffer bytes (R289, R290, R292, R293). -/
noncomputable def loadInstrs : List ((OpLd → Instr) × LoadSpec) :=
  [(.ld8u, ⟨⟨1, false, false⟩, false, false, true, true⟩), (.ld8s, ⟨⟨1, true, false⟩, false, false, true, true⟩),
   (.ld16u, ⟨⟨2, false, false⟩, true, false, true, true⟩), (.ld16s, ⟨⟨2, true, false⟩, true, false, true, true⟩),
   (.ld32u, ⟨⟨4, false, false⟩, true, false, true, true⟩), (.ld32s, ⟨⟨4, true, false⟩, true, false, true, true⟩),
   (.ld64, ⟨⟨8, false, false⟩, true, false, true, true⟩), (.ld128, ⟨⟨16, false, true⟩, false, false, true, true⟩),
   (.ldt, ⟨⟨8, false, false⟩, false, true, true, true⟩), (.ldnc, ⟨⟨8, false, false⟩, false, false, false, false⟩),
   (.ldaq, ⟨⟨8, false, false⟩, false, false, false, true⟩), (.ldaq32, ⟨⟨4, false, false⟩, false, false, false, true⟩)]

/-- The store instructions: bytes per lane, whether they may be misaligned, whether they move one line, whether they are performed at the
executing place, whether two registers are stored (R290, R292, R293, R295). -/
noncomputable def storeInstrs : List ((OpSt → Instr) × StoreSpec) :=
  [(.st8, ⟨1, false, false, false, false⟩), (.st16, ⟨2, true, false, false, false⟩), (.st32, ⟨4, true, false, false, false⟩),
   (.st64, ⟨8, true, false, false, false⟩), (.st128, ⟨16, false, false, false, true⟩), (.stt, ⟨8, false, true, false, false⟩),
   (.stnc, ⟨8, false, false, true, false⟩), (.strl, ⟨8, false, false, true, false⟩), (.strl32, ⟨4, false, false, true, false⟩)]

/-- Byte `j` of what a lane stores: of vb, and for sixteen bytes of vb and vb + 1 (R291). -/
def storeByte (c : Crew) (b l j : Nat) : Byte := (c.val (b + j / 8) l >>> (8 * (j % 8))).setWidth 8

/-- The returning atomics with their minors (R141). -/
noncomputable def atInstrs : List (Nat × (OpAt → Instr)) :=
  [(0, .aadd), (1, .amin), (2, .amax), (3, .aminu), (4, .amaxu), (5, .aand), (6, .aor), (7, .axor), (8, .aswp), (9, .acas), (10, .afadd),
   (11, .afmin), (12, .afmax), (13, .ainc), (14, .adec)]

/-- The posted atomics with their minors (R141). -/
noncomputable def atnInstrs : List (Nat × (OpAtn → Instr)) :=
  [(0, .aaddN), (1, .aminN), (2, .amaxN), (3, .aminuN), (4, .amaxuN), (5, .aandN), (6, .aorN), (7, .axorN), (8, .aswpN), (10, .afaddN),
   (11, .afminN), (12, .afmaxN), (13, .aincN), (14, .adecN)]

/-- Whether an operation is an atomic, which no enabled trap stops (R146). -/
def OpKind.isAtomic (k : OpKind) : Bool :=
  match k with
  | .atomic .. => true
  | _ => false

/-- What settles faults nothing: no operation in flight carries a flag that could trap when it retires (R223), and no fence has still to name the
lines that it drains (R95). -/
def noLateTraps (s : State) : Prop := (∀ x ∈ s.d.ops, x.flags = 0 ∨ x.kind.isAtomic = true) ∧ ∀ f ∈ s.d.fences, f.again = false

/-- Every byte of memory outside a list of keys is as it was. -/
def memKeptBut (s t : State) (keys : List Nat) : Prop := ∀ k, k ∉ keys → t.mem.get k = s.mem.get k

/-- The new value of an integer atomic on patterns of `w` bits, from the old value and the operand; compare-and-swap apart (R144). -/
def atomRule (w : Nat) : List (Nat × (BitVec w → BitVec w → BitVec w)) :=
  [(0, fun a b => a + b), (1, fun a b => if a.sle b then a else b), (2, fun a b => if a.sle b then b else a),
   (3, fun a b => if a.toNat ≤ b.toNat then a else b), (4, fun a b => if a.toNat ≤ b.toNat then b else a), (5, fun a b => a &&& b),
   (6, fun a b => a ||| b), (7, fun a b => a ^^^ b), (8, fun _ b => b), (13, fun a b => if b.toNat ≤ a.toNat then 0 else a + 1),
   (14, fun a b => if a = 0 ∨ b.toNat < a.toNat then b else a - 1)]

/-- The host-window route of a crew's tower stands, as far as an access needs it (R70). -/
def routeUp (s : State) (c : Crew) (refs : List BRef) : Prop := ∀ r ∈ refs, placeOf r.key = 2 → s.d.hostDown c.place.tower = none

/-- The rows of bytes that a queued operation of an engine of a core names, for the crew it belongs to, are at these places under the entries that
stand now, and nothing holds back or ends its access: no older message of the core is on their paths, the routes stand, and no byte is in error (R46,
R62, R63, R66, R70, R75). -/
def rowsReached (s : State) (t k crew : Nat) (a : Acc) (refs rows : List (List BRef)) : Prop :=
  ∃ (c : Crew) (q : Who), s.d.crew crew = some c ∧ s.d.engineWho c = some q ∧ s.work.afreshRows q a refs = .ok rows ∧
    s.work.passes t k rows.flatten = false ∧ s.d.linkFor t rows.flatten = none ∧ s.d.meetsBad (a == .store) rows.flatten = none

/-- What a matrix instruction of the crew `id` leaves beside its own crew, its operations and the cores: everything of `othersKept`, but that
its team is marked as one that has issued a matrix instruction (R343). -/
def matrixKept (s t : State) (id team : Nat) : Prop :=
  (∀ k, t.mem.get k = s.mem.get k) ∧ (∀ n, n ≠ id → t.d.crew n = s.d.crew n) ∧ t.d.grids = s.d.grids ∧ t.d.ctxs = s.d.ctxs ∧
  t.d.parts = s.d.parts ∧ t.d.links = s.d.links ∧ t.d.host = s.d.host ∧ t.d.nv = s.d.nv ∧ t.d.boot = s.d.boot ∧ t.fx = s.fx ∧
  (∀ n, n ≠ team → t.d.team n = s.d.team n) ∧ t.d.team team = (s.d.team team).map fun x => { x with bound := true }

/-! ## Commands (23_host_boot_security.md) -/

/-- The host side after the response to the command at the head of queue `q` of the session `x` (R434, R437, R448): TAGID, the length of the
data, the status and the data take the queue's next sequence number, with the number the queue expects as ACK, and go out while the window of
256 frames has room; the command is gone, the queue goes on, and sessions that were to end, or that `ends` picks, have ended. -/
def HostSide.answer (h : HostSide) (x : Session) (q tag status : Nat) (data : List Byte) (ends : Session → Bool) : HostSide :=
  let k := x.queue q
  let f := x.frame q 1 k.sendSeq k.expected (natLe 16 (tag * 2 ^ 64 + data.length * 2 ^ 32 + status) ++ data)
  let k' := { k with sendSeq := (k.sendSeq + 1) % 2 ^ 32, unacked := k.unacked ++ [f], commands := k.commands.tail, busy := false, drains := [] }
  { h with
    sent := if k.unacked.length < 256 then h.sent ++ [f] else h.sent
    sessions := (h.sessions.map fun y => if y.id == x.id then y.setQueue k' else y).filter fun y => !(y.ending || ends y) }

/-- The state with device `d` and the response to the command `c` of the session `x`. -/
def State.answered (s : State) (d : Dev) (x : Session) (c : Cmd) (status : Nat) (data : List Byte := []) (ends : Session → Bool := fun _ => false) :
    State :=
  { s with d := { d with host := d.host.answer x c.queue c.tag status data ends } }

/-- The device runs, and the command `c` stands at the head of queue `q` of the session `x`, not yet begun (R434, R437). -/
structure AtHead (s : State) (sess q : Nat) (x : Session) (c : Cmd) : Prop where
  running : s.d.boot.running = true
  unique : (s.d.host.sessions.map (·.id)).Nodup
  session : s.d.host.sessions.find? (fun y => y.id == sess) = some x
  head : ∃ b, (x.queue q).commands.head? = some b ∧ c = Cmd.ofBytes sess q b
  idle : (x.queue q).busy = false

/-- A well-formed command of the KIND `kind` with an operand block of `n` bytes stands at the head of a queue of an authenticated session. -/
structure Posted (s : State) (sess q : Nat) (x : Session) (c : Cmd) (kind n : Nat) : Prop extends AtHead s sess q x c where
  key : x.key.isSome = true
  zeros : c.ok = true
  isKind : c.kind = kind
  len : c.ops.length = n

/-- The commands with their KIND (the CODE, and SUB above it where the operand block begins with one) and the length their operand block must
have (R436, R438, R442, R448). -/
noncomputable def commandTable (s q a b : Nat) : List (Instr × Nat × (Cmd → Nat)) :=
  let sub := fun (code n : Nat) => code + n * 65536
  let is := fun (n : Nat) (_ : Cmd) => n
  let more := fun (c : Cmd) => 16 + c.field 95 64
  List.flatten
    [[(.launch s q, 1, is 8), (.read s q, 2, is 16), (.write s q, 3, more), (.transportFlush s q, 4, is 16), (.transportInvalidate s q, 5, is 16),
      (.shootdown s q, 6, is 16), (.telemetry s q, 9, is 8), (.attest s q, 12, is 32), (.firmwareChunk s q, 13, more)],
     [(.setSplit s q, sub 7 1, is 16), (.setVaultAllotment s q, sub 7 2, is 24), (.setHostWindowRegion s q, sub 7 3, is 16),
      (.setRaceMode s q, sub 7 4, is 80), (.setConeWindow s q, sub 7 5, is 16), (.setHandlerEntry s q, sub 7 6, is 32),
      (.setSaveAreaSize s q, sub 7 7, is 16), (.setBinStoreVault s q, sub 7 8, is 16), (.setCheckpointRegion s q, sub 7 9, is 40),
      (.quarantineClear s q, sub 7 10, is 16)],
     [(.contextCreate s q a b, sub 8 1, is 16), (.contextDestroy s q, sub 8 2, is 16), (.switchOut s q, sub 8 3, is 16),
      (.contextRestore s q, sub 8 4, is 16), (.haltTower s q, sub 10 1, is 24), (.resumeTower s q, sub 10 2, is 24),
      (.debugReadItem s q, sub 10 3, is 24), (.debugWriteItem s q, sub 10 4, is 24), (.endHandlerCrew s q, sub 10 5, is 24),
      (.checkpointTake s q, sub 11 1, is 16), (.warmReset s q, sub 11 2, is 16)],
     [(.setIpv4 s q, sub 14 1, is 24), (.setIpv6 s q, sub 14 2, is 48), (.enrolHostKey s q, sub 14 3, is 80), (.revokeHostKey s q, sub 14 4, is 72),
      (.releaseOwnership s q, sub 14 5, is 8), (.listKeys s q, sub 14 6, is 8)]]

end Sys2Proof.Machine
end

