-- ==== Sys2Proof/Certificates/Slice0/Obligations.lean ====
section
/-! DEFINITION. Obligations: the statements about the machine, in the order of the spec's chapters. Each names the rule it formalises. -/

open Sys2Proof Sys2Proof.Machine

/-! ## Encoding and the step -/

/-- Every well-formed instruction that has an encoding is read back from its words, with every operand (R236 to R239). -/
def Obligations.DecodeEncode : Prop :=  ∀ (i : Instr) (w x : Nat), i.wellFormed = true → encodeWords i = some (w, x) → decodeWord w x = .ok i

/-- The decoder accepts no word but an instruction's own: what it accepts is well formed and encodes to the same words (R238, R250). -/
def Obligations.DecodeIsExact : Prop :=  ∀ (w x : Nat) (i : Instr), decodeWord w x = .ok i → i.wellFormed = true ∧ encodeWords i = some (w, if isTwoWord w then x else 0)

/-- Words written out from the spec's own tables decode to the instructions they stand for (R254, R256, R269, R270, R279, R285, R369). -/
def Obligations.SpecWordsDecode : Prop :=
  decodeWord 0x00000007 0 = .ok (.nop ⟨.always⟩) ∧
  decodeWord 0xE1840807 0x20D00040 = .ok (.ld64 ⟨4, 2, 2, 0, 3, 1, 0, 0x40, .always⟩) ∧
  decodeWord 0x04051467 0 = .ok (.i64Add ⟨5, 5, 6, .always⟩) ∧
  decodeWord 0x2871C017 0 = .ok (.xori ⟨7, 7, 1, .always⟩) ∧
  decodeWord 0x44C81051 0 = .ok (.f32Fma ⟨8, 4, 5, ⟨false, 1⟩⟩) ∧
  decodeWord 0xD8010007 0x0F4A7C15 = .ok (.movxLo ⟨1, 0, 0xF4A7C15, .always⟩) ∧
  decodeWord 0xDC431007 0x0000083C = .ok (.bfxiBfxs ⟨3, 4, 0, 8, 60, .always⟩) ∧
  decodeWord 0x5D030917 0 = .ok (.cvt ⟨4, 3, 2, true, 1, .always⟩) ∧
  decodeWord 0x69C71A13 0 = .ok (.red ⟨7, 6, 8, 1, ⟨false, 3⟩⟩) ∧
  decodeWord 0x00C50807 0 = .ok (.srd ⟨5, 2, .always⟩) ∧
  decodeWord 0x01000C77 0 = .ok (.swrCtmr ⟨7, .always⟩) ∧
  decodeWord 0x01402A57 0 = .ok (.trap ⟨0x2A5, .always⟩)

/-- A step runs the instruction decoded at the program counter (R178, R230, R232): where the crew that moves next stands on a body word of a clause
that passes its checks, and the word and the one after it decode to an instruction, the step is that instruction executed by the chosen group, with
the words of its clause in the instruction cache, and then the dictionary word in progress, if any, settled. The word is the one the crew fetches at
its program counter. A crew that the agenda names takes a free slot only where no older crew of its core could (R393, R396). -/
def Obligations.StepRunsDecoded : Prop :=
  ∀ (s : State) (id k : Nat) (rest : List Choice) (c : Crew) (cl : Clause) (pc : Word) (group : Mask) (skips : List Nat) (i : Instr),
    let w := s.wake
    let s1 : State := { w with d := { w.d with agenda := rest } }
    w.cont = none → (w.d.agenda = .crew id :: rest ∧ s1.mayTake c = true ∨ w.d.agenda = [] ∧ rest = [] ∧ w.d.boot.running = true ∧ w.d.crews = [c] ∧ w.d.turn % 2 = 1) →
    s1.d.crew id = some c → s1.d.issues c = true → (c.sp.ctmrArm = true → c.sp.ctmr ≠ 0) → c.waits = [] → c.repPick = none → c.repGroup = 0 →
    c.pick = some (pc, group, skips) → s1.d.shootdowns = [] → (c.held = true ∨ s1.work.mayStart c pc group = true) →
    s1.work.clauseAt c pc.toNat = .ok (cl, some k) → cl.dict = false → c.entered &&& group = 0 →
    let word := cl.words.getD k 0
    let after := if isTwoWord word then k + 2 else k + 1
    let cu : Cur := { crew := id, group := group, addr := pc, ret := pc + (if isTwoWord word then 8 else 4), word := word, skips := skips
                      runEnd := cl.runEnd && after == cl.words.length }
    let f := s1.fetched c cl
    majorOf word ≠ repMajor → decodeWord word (cl.words.getD (k + 1) 0) = .ok i →
    (∃ r : CodeRange, s1.d.codeRange c = some r ∧ s1.work.codeWord c r.tag pc.toNat = .ok word) ∧
    step s = match exec i { f with d := { f.d with cur := some cu } } with
      | .next u => .next u.settleUnit
      | .fault e => .fault e
      | .refused e => .refused e

/-- Every step keeps memory in its one canonical form, the copies that a dictionary word in progress keeps included: keys rising, and no entry that
says what an unlisted byte reads as. That an unlisted byte reads 0 is the model's choice (assumption 1). -/
def Obligations.StepKeepsMemoryForm : Prop := ∀ s t : State, s.wf = true → step s = .next t → t.wf = true

/-- The machine right after reset: memory lists nothing and is in canonical form, nothing has begun, one partition holds all towers, array-die
clocks stand at 3,000 MHz, the measurement registers are zero, no session is open and no link is down (R5, R70, R432, R435, R444, R445, R451). That
the links' counters are 0 is the model's reading (assumption 35). -/
def Obligations.ResetValues : Prop :=
  let s := State.reset
  s.mem = [] ∧ s.wf = true ∧ s.cont = none ∧ s.d.parts.map (·.towers) = [[0, 1, 2, 3, 4, 5, 6, 7]] ∧ (∀ p ∈ s.d.parts, p.ctx = none ∧ p.debugHalted = []) ∧
    (∀ t : Nat, (s.d.tower t).arrayClock = 3000) ∧ s.d.boot.stage = 0 ∧ s.d.boot.safe = false ∧ s.d.boot.running = false ∧
    s.d.boot.meas = List.replicate 8 (List.replicate 64 0) ∧ s.d.host.sessions = [] ∧ s.d.crews = [] ∧ s.d.teams = [] ∧ s.d.grids = [] ∧
    (∀ l < 10, (s.d.links.getD l {}).width = 4 ∧ (s.d.links.getD l {}).replays = 0 ∧ (s.d.links.getD l {}).retrains = 0)

/-! ## Integer instructions (12_isa_control_and_integer.md) -/

/-- The sixteen integer operations at each width give every element of every active lane the value of R262, raise no flag, write no other register
and nothing else, and move the group past the instruction; only I64 ADD, SUB, MUL and SHL can give tag A (R255, R261, R262). -/
def Obligations.IntegerResults : Prop :=
  ∀ (s : State) (cu : Cur) (c : Crew) (o : OpRR) (w : Nat), w ∈ [64, 32, 16, 8] → Ready s cu c o.g [o.a.toNat, o.b.toNat, o.d.toNat] →
    c.roomForG o.d.toNat → ∀ p ∈ (intInstrs w).zip (intRule w), ∃ t : State, exec (p.1 o) s = .next t ∧
      (regDone s t cu c o.g o.d.toNat fun l v =>
        elements w v fun e => p.2 (elementAt w (c.val o.a.toNat l) e) (elementAt w (c.val o.b.toNat l) e)) ∧
      ((∀ i ∈ [Instr.i64Add, .i64Sub, .i64Mul, .i64Shl], p.1 ≠ i) → ∀ c' : Crew, t.d.crew cu.crew = some c' → (c'.reg o.d.toNat).tag ≠ 1)

/-- The one-operand integer instructions on every element of every active lane; SXT and ZXT extend the low bits of the whole lane (R263). The
immediate forms, shifts by a count, LEA and the constants of MOVX (R266 to R269). The bit-field instructions, with their place and width from vb or
from the extension (R270). The tag a full write of an integer operation gives, and G for any partial one (R203). -/
def Obligations.OneOperandAndImmediateResults : Prop :=
  (∀ (s : State) (cu : Cur) (c : Crew) (o : OpDAW), Ready s cu c o.g [o.a.toNat, o.d.toNat] → c.roomForG o.d.toNat →
    (∀ p ∈ iunRule (widOf o.w), ∃ t : State, exec (p.1 o) s = .next t ∧ regDone s t cu c o.g o.d.toNat fun l v =>
      ∀ e < 64 / widOf o.w, p.2 (elementAt (widOf o.w) (c.val o.a.toNat l) e) (elementAt (widOf o.w) v e)) ∧
    (∃ t : State, exec (.iunSxt o) s = .next t ∧ regDone s t cu c o.g o.d.toNat fun l v =>
      v = ((c.val o.a.toNat l).setWidth (widOf o.w)).signExtend 64) ∧
    (∃ t : State, exec (.iunZxt o) s = .next t ∧ regDone s t cu c o.g o.d.toNat fun l v => v = ((c.val o.a.toNat l).setWidth (widOf o.w)).setWidth 64)) ∧
  (∀ (s : State) (cu : Cur) (c : Crew),
    (∀ o : OpRI, Ready s cu c o.g [o.a.toNat, o.d.toNat] → c.roomForG o.d.toNat →
      ∀ p ∈ [(Instr.addi, fun (a b : Word) => a + b), (.andi, fun a b => a &&& b), (.ori, fun a b => a ||| b), (.xori, fun a b => a ^^^ b)],
        ∃ t : State, exec (p.1 o) s = .next t ∧
          regDone s t cu c o.g o.d.toNat fun l v => v = p.2 (c.val o.a.toNat l) (o.imm.signExtend 64)) ∧
    (∀ o : OpShi, Ready s cu c o.g [o.a.toNat, o.d.toNat] → c.roomForG o.d.toNat →
      ∀ p ∈ [(Instr.shli, fun (a : BitVec (widOf o.w)) n => a <<< n), (.shri, fun a n => a >>> n), (.sari, fun a n => a.sshiftRight n),
             (.rori, fun a n => a.rotateRight n)],
        ∃ t : State, exec (p.1 o) s = .next t ∧ regDone s t cu c o.g o.d.toNat fun l v =>
          elements (widOf o.w) v fun e => p.2 (elementAt (widOf o.w) (c.val o.a.toNat l) e) o.cnt.toNat) ∧
    (∀ o : OpLea, Ready s cu c o.g [o.a.toNat, o.b.toNat, o.d.toNat] → c.roomForG o.d.toNat → ∃ t : State, exec (.lea o) s = .next t ∧
      regDone s t cu c o.g o.d.toNat fun l v => v = c.val o.a.toNat l + c.val o.b.toNat l <<< o.sh.toNat) ∧
    (∀ o : OpMovi, Ready s cu c o.g [o.d.toNat] → c.roomForG o.d.toNat → ∃ t : State, exec (.movi o) s = .next t ∧
      regDone s t cu c o.g o.d.toNat fun _ v => v = o.imm.signExtend 64) ∧
    (∀ o : OpMovx, Ready s cu c o.g [o.d.toNat] → c.roomForG o.d.toNat → ∃ t : State, exec (.movxLo o) s = .next t ∧
      regDone s t cu c o.g o.d.toNat fun _ v => v = o.imm.signExtend 64) ∧
    (∀ o : OpMovx, Ready s cu c o.g [o.d.toNat, o.d.toNat] → c.roomForG o.d.toNat → ∃ t : State, exec (.movxMid o) s = .next t ∧
      regDone s t cu c o.g o.d.toNat fun l v => v.extractLsb' 28 28 = o.imm ∧ v.extractLsb' 0 28 = (c.val o.d.toNat l).extractLsb' 0 28 ∧
        v.extractLsb' 56 8 = (c.val o.d.toNat l).extractLsb' 56 8) ∧
    (∀ o : OpMovxHi, Ready s cu c o.g [o.d.toNat, o.d.toNat] → c.roomForG o.d.toNat → ∃ t : State, exec (.movxHi o) s = .next t ∧
      regDone s t cu c o.g o.d.toNat fun l v => v.extractLsb' 56 8 = o.imm ∧ v.extractLsb' 0 56 = (c.val o.d.toNat l).extractLsb' 0 56)) ∧
  (∀ (s : State) (cu : Cur) (c : Crew),
    (∀ o : OpRR, Ready s cu c o.g [o.a.toNat, o.b.toNat, o.d.toNat, o.d.toNat] → c.roomForG o.d.toNat →
      ∀ (k : Nat) (i : OpRR → Instr), (k, i) ∈ [(0, Instr.bfxu), (1, .bfxs), (2, .bfi), (3, .bfm)] → ∃ t : State, exec (i o) s = .next t ∧
        regDone s t cu c o.g o.d.toNat fun l v => (fieldRule (c.val o.d.toNat l) (c.val o.a.toNat l) v
          ((c.val o.b.toNat l).extractLsb' 0 6).toNat (min ((c.val o.b.toNat l).extractLsb' 8 7).toNat 64)).getD k False) ∧
    (∀ o : OpBfxi, o.wid.toNat ≤ 64 → Ready s cu c o.g [o.a.toNat, o.d.toNat, o.d.toNat] → c.roomForG o.d.toNat →
      ∀ (k : Nat) (i : OpBfxi → Instr), (k, i) ∈ [(0, Instr.bfxiBfxu), (1, .bfxiBfxs), (2, .bfxiBfi)] → ∃ t : State, exec (i o) s = .next t ∧
        regDone s t cu c o.g o.d.toNat fun l v =>
          (fieldRule (c.val o.d.toNat l) (c.val o.a.toNat l) v o.off.toNat o.wid.toNat).getD k False)) ∧
  ∀ (s : State) (cu : Cur) (c : Crew) (o : OpRR) (w k : Nat) (i : OpRR → Instr), w ∈ [64, 32, 16, 8] → (intInstrs w)[k]? = some i →
    Ready s cu c o.g [o.a.toNat, o.b.toNat, o.d.toNat] → c.roomForG o.d.toNat → ∃ (t : State) (c' : Crew), exec (i o) s = .next t ∧
      t.d.crew cu.crew = some c' ∧ ((∀ l < 32, (c.thread l).exited = false → (activeLanes cu c o.g).getLsbD l = true) →
        (c'.reg o.d.toNat).tag = intTag w k (c.reg o.a.toNat).tag (c.reg o.b.toNat).tag) ∧
      (∀ l < 32, (c.thread l).exited = false → (activeLanes cu c o.g).getLsbD l = false → (c'.reg o.d.toNat).tag = 2)

/-- MOV, SEL, MOVP, CLRV and TAGR (R271, R272, R286). SETU and SETA write every lane of vd, whatever its thread, and give it tag U or A (R286). -/
def Obligations.MoveResults : Prop :=
  (∀ (s : State) (cu : Cur) (c : Crew),
    (∀ o : OpDA, Ready s cu c o.g [o.a.toNat, o.d.toNat] → c.roomForG o.d.toNat → ∃ t : State, exec (.mov o) s = .next t ∧
      regDone s t cu c o.g o.d.toNat fun l v => v = c.val o.a.toNat l) ∧
    (∀ o : OpRR, Ready s cu c .always [o.a.toNat, o.b.toNat, o.d.toNat] → c.roomForG o.d.toNat → ∃ t : State, exec (.sel o) s = .next t ∧
      regDone s t cu c .always o.d.toNat fun l v => v = if (c.guard o.g).getLsbD l then c.val o.a.toNat l else c.val o.b.toNat l) ∧
    (∀ o : OpD, Ready s cu c o.g [o.d.toNat] → c.roomForG o.d.toNat →
      (∃ t : State, exec (.movp o) s = .next t ∧ regDone s t cu c o.g o.d.toNat fun l v =>
        (∀ i < 7, v.getLsbD i = (c.pred i).getLsbD l) ∧ v.getLsbD 7 = true ∧ v.extractLsb' 8 56 = 0) ∧
      ∃ t : State, exec (.clrv o) s = .next t ∧ regDone s t cu c o.g o.d.toNat fun _ v => v = 0) ∧
    (∀ o : OpTagr, Ready s cu c o.g [o.d.toNat] → c.roomForG o.d.toNat → ∃ t : State, exec (.tagr o) s = .next t ∧
      regDone s t cu c o.g o.d.toNat fun _ v => ∀ j < 32, (v.extractLsb' (2 * j) 2).toNat =
        let k := if o.h then j + 32 else j
        if c.allot.getLsbD k then (c.reg k).tag else 0)) ∧
  (∀ (s : State) (cu : Cur) (c : Crew) (o : OpDA), Ready s cu c o.g [o.a.toNat, o.d.toNat] → c.roomForG o.d.toNat →
    ∀ (i : OpDA → Instr) (n : Nat) (f : Nat → Word), (i, n, f) ∈
      [(Instr.setu, 0, fun _ => c.val o.a.toNat 0),
       (.seta, 1, fun l => c.val o.a.toNat 0 + BitVec.ofNat 64 l * (c.val o.a.toNat 1 - c.val o.a.toNat 0))] →
    ∃ (t : State) (c' : Crew), exec (i o) s = .next t ∧ t.d.crew cu.crew = some c' ∧ (c'.reg o.d.toNat).tag = n ∧ (∀ l < 32, c'.val o.d.toNat l = f l) ∧
      (∀ r : Nat, r ≠ o.d.toNat → c'.reg r = c.reg r) ∧ (∀ p : Nat, c'.pred p = c.pred p) ∧ c'.sp = c.sp ∧ threadsAdvance cu c c' ∧ crewKept c c' ∧
      restKept s t cu.crew)

/-- The comparisons and the predicate instructions write one predicate in the active lanes (R264, R265, R271). -/
def Obligations.PredicateResults : Prop :=
  ∀ (s : State) (cu : Cur) (c : Crew),
    (∀ o : OpIcmp, o.cond.toNat < 12 → o.q ≠ 7 → Ready s cu c o.g [o.a.toNat, o.b.toNat] → ∃ t : State, exec (.icmp o) s = .next t ∧
      predDone s t cu c o.g o.q.toNat fun l =>
        let w := if o.w32 then 32 else 64
        let r := (condition w ((c.val o.a.toNat l).setWidth w) ((c.val o.b.toNat l).setWidth w)).getD o.cond.toNat false
        let p := (c.pred o.q.toNat).getLsbD l
        [r, p && r, p || r, !r].getD o.comb.toNat false) ∧
    (∀ o : OpCmpi, o.q ≠ 7 → Ready s cu c o.g [o.a.toNat] → ∃ t : State, exec (.cmpi o) s = .next t ∧
      predDone s t cu c o.g o.q.toNat fun l =>
        let r := condition 64 (c.val o.a.toNat l) (o.imm.signExtend 64)
        [r.getD 0 false, r.getD 1 false, r.getD 2 false, r.getD 3 false, r.getD 4 false, r.getD 5 false, r.getD 6 false, r.getD 9 false].getD
          o.cond.toNat false) ∧
    (∀ o : OpPset, o.q ≠ 7 → Ready s cu c o.g [o.a.toNat] → ∃ t : State, exec (.pset o) s = .next t ∧
      predDone s t cu c o.g o.q.toNat fun l => (c.val o.a.toNat l).getLsbD o.bit.toNat) ∧
    (∀ o : OpPP, o.q ≠ 7 → Ready s cu c o.g [] → ∀ p ∈ [(Instr.pand, Bool.and), (.por, Bool.or), (.pxor, Bool.xor)],
      ∃ t : State, exec (p.1 o) s = .next t ∧ predDone s t cu c o.g o.q.toNat fun l =>
        p.2 ((c.pred o.s1.toNat).getLsbD l ^^ o.neg1) ((c.pred o.s2.toNat).getLsbD l ^^ o.neg2)) ∧
    (∀ o : OpPnot, o.q ≠ 7 → Ready s cu c o.g [] → ∃ t : State, exec (.pnot o) s = .next t ∧
      predDone s t cu c o.g o.q.toNat fun l => !((c.pred o.s1.toNat).getLsbD l ^^ o.neg1))

/-- A register that is named but not allotted stops every integer instruction, in any of its three fields, with nothing performed (R201, R255, R398,
R400). An integer instruction whose result would be one G register too many stops with shape overflow and nothing performed (R204). An instruction
that touches a pending register of an active lane among the first LA instructions stops with a lookahead violation, even where another thread would
have to wait (R240). Where no lane of the group is active, an instruction performs nothing and its threads go past it (R177). -/
def Obligations.IssueChecks : Prop :=
  (∀ (s : State) (cu : Cur) (c : Crew) (p : Part) (o : OpRR) (w : Nat) (r : Nat), w ∈ [64, 32, 16, 8] → Running s c p → s.cont = none →
    s.d.cur = some cu → s.d.crew cu.crew = some c → c.pend = [] → c.sp.ctmrFault = false → r ∈ [o.a.toNat, o.b.toNat, o.d.toNat] →
    c.allot.getLsbD r = false → ∀ i ∈ intInstrs w, ∃ t : State, exec (i o) s = .next t ∧ faultTaken s t cu c o.g p .beyondAllotment) ∧
  (∀ (s : State) (cu : Cur) (c : Crew) (p : Part) (o : OpRR) (w : Nat), w ∈ [64, 32, 16, 8] → Running s c p →
    Ready s cu c o.g [o.a.toNat, o.b.toNat, o.d.toNat] → (c.reg o.b.toNat).tag = 2 → (c.reg o.d.toNat).tag ≠ 2 →
    (∀ x ∈ c.pend, x.reg ≠ o.d.toNat) → (∀ x ∈ c.waits, o.d.toNat ∉ x.dests) → c.gbud ≤ c.gcount →
    ∀ i ∈ intInstrs w, ∃ t : State, exec (i o) s = .next t ∧ faultTaken s t cu c o.g p .shapeOverflow) ∧
  (∀ (s : State) (cu : Cur) (c : Crew) (p : Part) (o : OpRR) (w : Nat) (x : Pend) (l : Nat), w ∈ [64, 32, 16, 8] → Running s c p →
    s.cont = none → s.d.cur = some cu → s.d.crew cu.crew = some c → c.sp.ctmrFault = false → l < 32 →
    (activeLanes cu c o.g).getLsbD l = true → x ∈ c.pend → 2 ≤ x.left.getD l 0 → x.reg ∈ [o.a.toNat, o.b.toNat, o.d.toNat] →
    ∀ i ∈ intInstrs w, ∃ t : State, exec (i o) s = .next t ∧ faultTaken s t cu c o.g p .lookahead) ∧
  (∀ (s : State) (cu : Cur) (c : Crew) (o : OpRR) (w : Nat), w ∈ [64, 32, 16, 8] → s.cont = none → s.d.cur = some cu →
    s.d.crew cu.crew = some c → c.sp.ctmrFault = false → c.pend = [] → activeLanes cu c o.g = 0 →
    (∀ r ∈ [o.a.toNat, o.b.toNat, o.d.toNat], c.allot.getLsbD r = true) → ∀ i ∈ intInstrs w, ∃ t : State, exec (i o) s = .next t ∧
      nothingDone s t cu c)

/-! ## Floating-point instructions (10_number_formats.md, 13_isa_vector_and_float.md) -/

/-- The vector floating-point instructions write each element of each active lane, OR their flags into FSTAT, and change nothing else (R273 to
R276), where no flag is enabled to trap. A floating-point addition that raises a flag whose enable is set writes its results and its flags and moves
past itself, and then its crew's partition halts with a floating-point exception that names the instruction and the enabled flags (R223). -/
def Obligations.FloatVectorResults : Prop :=
  (∀ (s : State) (cu : Cur) (c : Crew), noTraps s c →
    (∀ (o : OpRR) (e : Fmt × List (OpRR → Instr)), e ∈ vecInstrs → Ready s cu c o.g [o.a.toNat, o.b.toNat, o.d.toNat] →
      c.roomForG o.d.toNat → ∀ p ∈ e.2.zip vecFns,
      let r := fun l => eachElemF e.1.width fun j => p.2.apply (controls s c) e.1 (elem e.1.width (c.val o.a.toNat l) j)
        (elem e.1.width (c.val o.b.toNat l) j) (elem e.1.width (c.val o.d.toNat l) j)
      ∃ t : State, exec (p.1 o) s = .next t ∧ floatDone s t cu c o.g o.d.toNat (fun l v => v = (r l).1)
        (laneFlags (activeLanes cu c o.g) fun l => (r l).2)) ∧
    (∀ o : OpF8, Ready s cu c o.g [o.a.toNat, o.b.toNat, o.d.toNat] → c.roomForG o.d.toNat →
      ∀ (i : OpF8 → Instr) (fn : VFn), (i, fn) ∈ [(Instr.f8Fadd, VFn.fadd), (.f8Fsub, .fsub), (.f8Fmul, .fmul), (.f8Fmin, .fmin),
        (.f8Fmax, .fmax)] →
      let f : Fmt := if o.e5m2 then .e5m2 else .e4m3
      let r := fun l => eachElemF 8 fun j => fn.apply (controls s c) f (elem 8 (c.val o.a.toNat l) j) (elem 8 (c.val o.b.toNat l) j)
        (elem 8 (c.val o.d.toNat l) j)
      ∃ t : State, exec (i o) s = .next t ∧ floatDone s t cu c o.g o.d.toNat (fun l v => v = (r l).1)
        (laneFlags (activeLanes cu c o.g) fun l => (r l).2))) ∧
  (∀ (s : State) (cu : Cur) (c : Crew) (o : OpRR) (p : Part) (e : Fmt × List (OpRR → Instr)), e ∈ vecInstrs →
    Ready s cu c o.g [o.a.toNat, o.b.toNat, o.d.toNat] → c.roomForG o.d.toNat → Running s c p → s.wf = true → ∀ k ∈ e.2.zip vecFns,
    let r := fun l => eachElemF e.1.width fun j => k.2.apply (controls s c) e.1 (elem e.1.width (c.val o.a.toNat l) j)
      (elem e.1.width (c.val o.b.toNat l) j) (elem e.1.width (c.val o.d.toNat l) j)
    let fl := laneFlags (activeLanes cu c o.g) fun l => (r l).2
    let en := fl &&& ((s.d.cmr c) >>> 8).setWidth 5
    en ≠ 0 → ∃ (t : State) (c' : Crew), exec (k.1 o) s = .next t ∧ t.d.crew cu.crew = some c' ∧ writesReg cu c c' o.g o.d.toNat (fun l v => v = (r l).1) ∧
      (∀ q : Nat, c'.pred q = c.pred q) ∧ c'.sp = { c.sp with fstat := c.sp.fstat ||| fl } ∧ threadsAdvance cu c c' ∧
      haltBegun s t c.place.tower p fun f => f.reason = .floatException ∧ f.iaddr = cu.addr ∧ f.crew = c.place.gid ∧ f.engine = .issue ∧
        f.detail = en.toNat ∧ f.lanes = activeLanes cu c o.g)

/-- The one-operand functions, the conversions and the dot products (R278 to R280, R283), where no flag is enabled to trap. The integer dot products
add the exact sum of the products of the packed elements to vd modulo 2^64, and raise no flag (R283). The comparison of FCMP on element 0, with its
flags (R277), where no flag is enabled to trap. CVTS converts between one packed register and a range of FP32 registers, with the scales of vb (R281,
R282), where no flag is enabled to trap. -/
def Obligations.FloatFunctionResults : Prop :=
  (∀ (s : State) (cu : Cur) (c : Crew), noTraps s c →
    (∀ o : OpDAW, Ready s cu c o.g [o.a.toNat, o.d.toNat] → c.roomForG o.d.toNat → ∀ p ∈ funInstrs,
      let f := Fmt.ofCode o.w.toNat
      let r := fun l => eachElemF f.width fun j => p.2.apply (controls s c) f (elem f.width (c.val o.a.toNat l) j)
      ∃ t : State, exec (p.1 o) s = .next t ∧ floatDone s t cu c o.g o.d.toNat (fun l v => v = (r l).1)
        (laneFlags (activeLanes cu c o.g) fun l => (r l).2)) ∧
    (∀ o : OpCvt, Ready s cu c o.g [o.a.toNat, o.d.toNat] → c.roomForG o.d.toNat →
      let d := Fmt.ofCode o.dst.toNat
      let f := Fmt.ofCode o.src.toNat
      let r := fun l => packRes d.width ((List.range (64 / max f.width d.width)).map fun j =>
        cvtElem (controls s c) d f o.sat (elem f.width (c.val o.a.toNat l) j))
      ∃ t : State, exec (.cvt o) s = .next t ∧ floatDone s t cu c o.g o.d.toNat (fun l v => v = (r l).1)
        (laneFlags (activeLanes cu c o.g) fun l => (r l).2)) ∧
    (∀ o : OpRR, Ready s cu c o.g [o.a.toNat, o.b.toNat, o.d.toNat, o.d.toNat] → c.roomForG o.d.toNat →
      ∀ (i : OpRR → Instr) (f : Fmt), (i, f) ∈ [(Instr.dote4, Fmt.e4m3), (.dote5, .e5m2), (.dotb, .bf16), (.doth, .fp16)] →
      let r := fun l => dotFloat (controls s c) f (c.val o.d.toNat l) (c.val o.a.toNat l) (c.val o.b.toNat l)
      ∃ t : State, exec (i o) s = .next t ∧ floatDone s t cu c o.g o.d.toNat (fun l v => v = (r l).1)
        (laneFlags (activeLanes cu c o.g) fun l => (r l).2))) ∧
  (∀ (s : State) (cu : Cur) (c : Crew) (o : OpRR), Ready s cu c o.g [o.a.toNat, o.b.toNat, o.d.toNat, o.d.toNat] → c.roomForG o.d.toNat →
    ∀ (i : OpRR → Instr) (w : Nat) (signed : Bool),
      (i, w, signed) ∈ [(Instr.dot8s, 8, true), (.dot8u, 8, false), (.dot4s, 4, true), (.dot4u, 4, false), (.dot2s, 2, true)] →
      ∃ t : State, exec (i o) s = .next t ∧ regDone s t cu c o.g o.d.toNat fun l v =>
        v = c.val o.d.toNat l + ((List.range (64 / w)).map fun e =>
          let x := elementAt w (c.val o.a.toNat l) e
          let y := elementAt w (c.val o.b.toNat l) e
          if signed then BitVec.ofInt 64 (x.toInt * y.toInt) else BitVec.ofNat 64 (x.toNat * y.toNat)).sum) ∧
  (∀ (s : State) (cu : Cur) (c : Crew) (o : OpFcmp), noTraps s c → o.cond.toNat < 8 → o.q ≠ 7 → Ready s cu c o.g [o.a.toNat, o.b.toNat] →
    let f := Fmt.ofCode o.fmt.toNat
    let x := fun l => f.input (controls s c) (elem f.width (c.val o.a.toNat l) 0)
    let y := fun l => f.input (controls s c) (elem f.width (c.val o.b.toNat l) 0)
    let nan := fun l => (x l).isNan || (y l).isNan
    let lt := fun (a b : Val) => !valEq a b && valLt a b
    let r := fun l => [!nan l && valEq (x l) (y l), nan l || !valEq (x l) (y l), !nan l && lt (x l) (y l),
      !nan l && (valEq (x l) (y l) || valLt (x l) (y l)), !nan l && lt (y l) (x l), !nan l && (valEq (x l) (y l) || valLt (y l) (x l)),
      nan l, !nan l].getD o.cond.toNat false
    let inv := fun l => if (if o.cond.toNat ∈ [2, 3, 4, 5] then nan l else (x l).isSig || (y l).isSig) then fInv else fNone
    ∃ (t : State) (c' : Crew), exec (.fcmp o) s = .next t ∧ t.d.crew cu.crew = some c' ∧
      writesPred cu c c' o.g o.q.toNat (fun l => r l && (!o.conj || (c.pred o.q.toNat).getLsbD l)) ∧ (∀ k : Nat, c'.reg k = c.reg k) ∧
      c'.sp = { c.sp with fstat := c.sp.fstat ||| laneFlags (activeLanes cu c o.g) inv } ∧ threadsAdvance cu c c' ∧ crewKept c c' ∧
      restKept s t cu.crew) ∧
  ∀ (s : State) (cu : Cur) (c : Crew) (o : OpCvts), noTraps s c →
    let x := s.d.slotOf c o.slot.toNat
    let f := x.format
    (Ready s cu c o.g (regRange o.a.toNat x.regsN ++ [o.b.toNat, o.d.toNat]) → c.roomForG o.d.toNat →
      let r := fun l => packRes f.width ((List.range (64 / f.width)).map fun j =>
        cvtsPack (controls s c) f x.scale (elem 32 (c.val (o.a.toNat + j / 2) l) (j % 2)) (c.scaleCode x o.b.toNat l j))
      ∃ t : State, exec (.cvtsPack o) s = .next t ∧ floatDone s t cu c o.g o.d.toNat (fun l v => v = (r l).1)
        (laneFlags (activeLanes cu c o.g) fun l => (r l).2)) ∧
    (Ready s cu c o.g ([o.a.toNat, o.b.toNat] ++ regRange o.d.toNat x.regsN) → c.gcount + x.regsN ≤ c.gbud →
      let r := fun k l => packRes 32 ((List.range 2).map fun h => if 64 / f.width ≤ 2 * k + h then ⟨0, fNone⟩ else
        cvtsUnpack (controls s c) f x.scale (elem f.width (c.val o.a.toNat l) (2 * k + h)) (c.scaleCode x o.b.toNat l (2 * k + h)))
      ∃ t : State, exec (.cvtsUnpack o) s = .next t ∧ floatRangeDone s t cu c o.g o.d.toNat x.regsN (fun k l v => v = (r k l).1)
        (laneFlags (activeLanes cu c o.g) fun l => ((List.range x.regsN).map fun k => (r k l).2).foldl (· ||| ·) fNone))

/-- Addition, subtraction, multiplication and the fused forms round once, from a value equal to the exact result (R217, R275). RoundTo leaves a
value that the format holds as it is, and raises no flag, in every rounding mode (R217). RoundTo in RNE gives a value of the format at no greater
distance than any other of its finite values, where the magnitude does not pass the format's largest (R217). -/
def Obligations.RoundingRules : Prop :=
  (∀ (c : FCtl) (f : Fmt) (x y z : Nat) (p q r : ℚ), f.isFloat = true → (f.input c x).rat = some p → (f.input c y).rat = some q →
    (f.input c z).rat = some r →
    ∀ (fn : VFn) (v : ℚ), (fn, v) ∈ [(VFn.fadd, p + q), (.fsub, p - q), (.fmul, p * q), (.fma, p * q + r), (.fms, p * q - r),
      (.fnma, -(p * q) + r)] → ∃ u : Val, u.rat = some v ∧ fn.apply c f x y z = roundTo c f u) ∧
  (∀ (c : FCtl) (f : Fmt) (b : Nat), f.isFloat = true → b < 2 ^ f.elemBits → (f.value b).rat ≠ none →
    (c.ftzr = true → f.isWide = true → f.isSub b = false) → roundTo c f (f.value b) = ⟨b, fNone⟩) ∧
  (∀ (c : FCtl) (f : Fmt) (n : Bool) (m : Nat) (e : Int) (v x : ℚ) (b : Nat) (y : ℚ), c.rnd = .rne → c.ftzr = false → f.isFloat = true →
    (Val.fin n m e).rat = some x → (f.value f.maxBits).rat = some v → |x| ≤ v → (f.value b).rat = some y → b < 2 ^ f.elemBits →
    ∃ r, (f.value (roundTo c f (.fin n m e)).bits).rat = some r ∧ |r - x| ≤ |y - x|)

/-! ## Cross-lane and random instructions (11, 13) -/

/-- The moves between lanes: SHFL at each width, BCAST, XORL, ROTL, SPERM and ACTV (R183, R284). MATCH, BALLOT and VOTE over the active lanes (R192,
R284). RNG64, RNGU and RNGB: VK64 of the lane's counter under KEY0 and KEY1, its U24 as FP32, and its Bern (R227, R228, R287). -/
def Obligations.CrossLaneResults : Prop :=
  (∀ (s : State) (cu : Cur) (c : Crew),
    (∀ o : OpRR, Ready s cu c o.g [o.a.toNat, o.b.toNat, o.d.toNat] → c.roomForG o.d.toNat →
      (∀ p ∈ [(Instr.shfl64, 64), (.shfl32, 32), (.shfl16, 16), (.shfl8, 8)], ∃ t : State, exec (p.1 o) s = .next t ∧
        regDone s t cu c o.g o.d.toNat fun l v => elements p.2 v fun e =>
          let i := (elementAt p.2 (c.val o.b.toNat l) e).toNat % (32 * (64 / p.2))
          elementAt p.2 (c.val o.a.toNat (i / (64 / p.2))) (i % (64 / p.2))) ∧
      ∃ t : State, exec (.sperm o) s = .next t ∧ regDone s t cu c o.g o.d.toNat fun l v => elements 8 v fun e =>
        let n := elementAt 8 (c.val o.b.toNat l) e
        if n.getLsbD 7 then 0 else elementAt 8 (c.val o.a.toNat l) (n.toNat % 8)) ∧
    (∀ o : OpLane, Ready s cu c o.g [o.a.toNat, o.d.toNat] → c.roomForG o.d.toNat →
      ∀ (i : OpLane → Instr) (src : Nat → Nat), (i, src) ∈ [(Instr.bcast, fun _ => o.k.toNat), (.xorl, fun l => l ^^^ o.k.toNat),
        (.rotl, fun l => (l + o.k.toNat) % 32)] →
      ∃ t : State, exec (i o) s = .next t ∧ regDone s t cu c o.g o.d.toNat fun l v => v = c.val o.a.toNat (src l)) ∧
    (∀ o : OpD, Ready s cu c o.g [o.d.toNat] → c.roomForG o.d.toNat → ∃ t : State, exec (.actv o) s = .next t ∧
      regDone s t cu c o.g o.d.toNat fun l v => v.extractLsb' 0 32 = activeLanes cu c o.g ∧
        (v.extractLsb' 32 5).toNat = (List.range l).countP (fun k => (activeLanes cu c o.g).getLsbD k) ∧ v.extractLsb' 37 27 = 0)) ∧
  (∀ (s : State) (cu : Cur) (c : Crew),
    (∀ o : OpMatch, Ready s cu c o.g [o.a.toNat, o.d.toNat] → c.roomForG o.d.toNat → ∃ t : State, exec (.laneMatch o) s = .next t ∧
      regDone s t cu c o.g o.d.toNat fun l v => v.extractLsb' 32 32 = 0 ∧ ∀ k < 32, v.getLsbD k =
        ((activeLanes cu c o.g).getLsbD k && if o.k32 then (c.val o.a.toNat k).setWidth 32 == (c.val o.a.toNat l).setWidth 32
          else c.val o.a.toNat k == c.val o.a.toNat l)) ∧
    (∀ o : OpBallot, Ready s cu c o.g [o.d.toNat] → c.roomForG o.d.toNat → ∃ t : State, exec (.ballot o) s = .next t ∧
      regDone s t cu c o.g o.d.toNat fun _ v => v.extractLsb' 32 32 = 0 ∧ ∀ k < 32, v.getLsbD k =
        ((activeLanes cu c o.g).getLsbD k && ((c.pred o.q.toNat).getLsbD k ^^ o.neg))) ∧
    (∀ o : OpVote, o.q ≠ 7 → o.mode.toNat < 3 → Ready s cu c o.g [] →
      let yes := fun k => (c.pred o.s.toNat).getLsbD k ^^ o.neg
      let on := fun k => decide (k < 32) && (activeLanes cu c o.g).getLsbD k
      ∃ (t : State) (b : Bool), exec (.vote o) s = .next t ∧ predDone s t cu c o.g o.q.toNat (fun _ => b) ∧
        (o.mode = 0 → (b = true ↔ ∀ k : Nat, on k = true → yes k = true)) ∧ (o.mode = 1 → (b = true ↔ ∃ k : Nat, on k = true ∧ yes k = true)) ∧
        (o.mode = 2 → (b = true ↔ ∀ j k : Nat, on j = true → on k = true → yes j = yes k)))) ∧
  (∀ (s : State) (cu : Cur) (c : Crew),
    let round := fun (k : Word) (r : Nat) (x : Word) =>
      let x := x + k + BitVec.ofNat 64 r * 0x9E3779B97F4A7C15#64
      let x := x ^^^ (x >>> 29)
      let x := x * 0xBF58476D1CE4E5B9#64
      x ^^^ (x >>> 32)
    let vk := fun x => (List.range 8).foldl (fun x r => round (if r % 2 = 0 then c.sp.key0 else c.sp.key1) r x) x
    (∀ o : OpDA, Ready s cu c o.g [o.a.toNat, o.d.toNat] → c.roomForG o.d.toNat →
      (∃ t : State, exec (.rng64 o) s = .next t ∧ regDone s t cu c o.g o.d.toNat fun l v => v = vk (c.val o.a.toNat l)) ∧
      ∃ t : State, exec (.rngu o) s = .next t ∧ regDone s t cu c o.g o.d.toNat fun l v => v.extractLsb' 32 32 = 0 ∧
        (Fmt.fp32.value v.toNat).rat = some ((((vk (c.val o.a.toNat l)).extractLsb' 40 24).toNat : ℚ) / 2 ^ 24)) ∧
    (∀ o : OpRR, Ready s cu c o.g [o.a.toNat, o.b.toNat, o.d.toNat] → c.roomForG o.d.toNat → ∃ t : State, exec (.rngb o) s = .next t ∧
      regDone s t cu c o.g o.d.toNat fun l v =>
        v = if (vk (c.val o.a.toNat l)).extractLsb' 48 16 < (c.val o.b.toNat l).extractLsb' 0 16 then 1 else 0))

/-- RED, SCAN and SEGRED with an integer function combine the elements of the lanes that take part; a SEGRED lane whose mask names no active lane
gets 0 (R226, R284, R285). RED, SCAN and SEGRED with a floating function combine by the fixed tree or in sequence, each Combine rounding once, and
OR their flags into FSTAT (R226, R285), where no flag is enabled to trap. -/
def Obligations.Reductions : Prop :=
  (∀ (s : State) (cu : Cur) (c : Crew) (o : OpRed), o.fn.toNat ≤ 7 → Ready s cu c o.g [o.a.toNat, o.d.toNat] →
    c.roomForG o.d.toNat →
    let w := widOf o.t
    let of := fun (m : Mask) => ((List.range 32).filter fun k => m.getLsbD k).flatMap fun k =>
      (List.range (64 / w)).map fun e => elementAt w (c.val o.a.toNat k) e
    let act := activeLanes cu c o.g
    (∃ t : State, exec (.red o) s = .next t ∧ regDone s t cu c o.g o.d.toNat fun _ v =>
      v = (combineAll (intCombine o.fn.toNat w) (of act)).setWidth 64) ∧
    (∃ t : State, exec (.segred o) s = .next t ∧ regDone s t cu c o.g o.d.toNat fun l v =>
      v = (combineAll (intCombine o.fn.toNat w) (of ((c.val o.d.toNat l).setWidth 32 &&& act))).setWidth 64) ∧
    ∃ t : State, exec (.scan o) s = .next t ∧ regDone s t cu c o.g o.d.toNat fun l v => elements w v fun e =>
      combineAll (intCombine o.fn.toNat w) (of (act &&& BitVec.ofNat 32 (2 ^ l - 1)) ++
        (List.range (e + 1)).map fun j => elementAt w (c.val o.a.toNat l) j)) ∧
  (∀ (s : State) (cu : Cur) (c : Crew) (o : OpRed), noTraps s c → 8 ≤ o.fn.toNat → o.fn.toNat ≤ 12 →
    Ready s cu c o.g [o.a.toNat, o.d.toNat] → c.roomForG o.d.toNat →
    let f := Fmt.ofCode o.t.toNat
    let act := activeLanes cu c o.g
    let combine := fun x y => (reduceFns.getD (o.fn.toNat - 8) .fadd).apply (controls s c) f x y 0
    let per := 64 / f.width
    let of := fun (m : Mask) (i : Nat) => if m.getLsbD (i / per) then some (elem f.width (c.val o.a.toNat (i / per)) (i % per)) else none
    let whole := fun m => treeRule combine (of m) (Nat.log2 (32 * per)) 0
    let seg := fun l => whole ((c.val o.d.toNat l).setWidth 32 &&& act)
    (∃ t : State, exec (.red o) s = .next t ∧ floatDone s t cu c o.g o.d.toNat (fun _ v => v = BitVec.ofNat 64 ((whole act).1.getD 0)) (whole act).2) ∧
    (∃ t : State, exec (.segred o) s = .next t ∧ floatDone s t cu c o.g o.d.toNat (fun l v => v = BitVec.ofNat 64 ((seg l).1.getD 0))
      (laneFlags act fun l => (seg l).2)) ∧
    ∃ t : State, exec (.scan o) s = .next t ∧ floatDone s t cu c o.g o.d.toNat
      (fun l v => ∀ e < per, some (elem f.width v e) = (scanRule combine (of act) (l * per + e)).1) (scanRule combine (of act) (32 * per - 1)).2)

/-! ## Control flow (08_execution_model.md, 12_isa_control_and_integer.md) -/

/-- BR, SETM, PUTM, CLRM and JMP, RET move the PC or the meeting register of each active lane and change nothing else; every PC named by JMP and RET
is one (R180, R181, R257 to R260). CALL and CALLR write the return address to v0 of each active lane and move its PC to the target, which CALLR
reads first (R257, R258). -/
def Obligations.ControlResults : Prop :=
  (∀ (s : State) (cu : Cur) (c : Crew),
    let go := fun (t : State) (g : Guard) (pc : Nat → Word) (m : Nat → Thread → Word) => ∃ c' : Crew, t.d.crew cu.crew = some c' ∧
      valuesKept c c' ∧ c'.sp = c.sp ∧ threadsGo cu c c' (activeLanes cu c g) pc m ∧ crewKept c c' ∧ restKept s t cu.crew
    let kept := fun (_ : Nat) (x : Thread) => x.m
    (∀ o : OpBr, Ready s cu c o.g [] →
      (∃ t : State, exec (.br o) s = .next t ∧ go t o.g (fun _ => cu.addr + o.disp.signExtend 64 * 4) kept) ∧
      ∃ t : State, exec (.setm o) s = .next t ∧ go t o.g (fun _ => cu.ret) fun l x =>
        if (activeLanes cu c o.g).getLsbD l then cu.addr + o.disp.signExtend 64 * 4 else x.m) ∧
    (∀ o : OpA, Ready s cu c o.g [o.a.toNat] →
      (∃ t : State, exec (.putm o) s = .next t ∧ go t o.g (fun _ => cu.ret) fun l x =>
        if (activeLanes cu c o.g).getLsbD l then c.val o.a.toNat l else x.m) ∧
      ((∀ l < 32, (activeLanes cu c o.g).getLsbD l = true → (c.val o.a.toNat l).toNat % 4 = 0 ∧ (c.val o.a.toNat l).toNat < 2 ^ 52) →
        ∃ t : State, exec (.jmp o) s = .next t ∧ go t o.g (fun l => c.val o.a.toNat l) kept)) ∧
    (∀ o : OpG,
      (Ready s cu c o.g [] → (∃ t : State, exec (.nop o) s = .next t ∧ nothingDone s t cu c) ∧
        ∃ t : State, exec (.clrm o) s = .next t ∧ go t o.g (fun _ => cu.ret) fun l x =>
          if (activeLanes cu c o.g).getLsbD l then BitVec.allOnes 64 else x.m) ∧
      (Ready s cu c o.g [0] →
        (∀ l < 32, (activeLanes cu c o.g).getLsbD l = true → (c.val 0 l).toNat % 4 = 0 ∧ (c.val 0 l).toNat < 2 ^ 52) →
        ∃ t : State, exec (.ret o) s = .next t ∧ go t o.g (fun l => c.val 0 l) kept)) ∧
    (∀ o : OpD, Ready s cu c o.g [o.d.toNat] → c.roomForG o.d.toNat → ∃ t : State, exec (.getm o) s = .next t ∧
      regDone s t cu c o.g o.d.toNat fun l v => v = (c.thread l).m)) ∧
  (∀ (s : State) (cu : Cur) (c : Crew) (g : Guard) (i : Instr) (rs : List Nat) (pc : Nat → Word), c.roomForG 0 →
    ((∃ o : OpBr, i = .call o ∧ g = o.g ∧ rs = [0] ∧ pc = fun _ => cu.addr + o.disp.signExtend 64 * 4) ∨
     (∃ o : OpA, i = .callr o ∧ g = o.g ∧ rs = [o.a.toNat, 0] ∧ (pc = fun l => c.val o.a.toNat l) ∧
       ∀ l < 32, (activeLanes cu c g).getLsbD l = true → (c.val o.a.toNat l).toNat % 4 = 0 ∧ (c.val o.a.toNat l).toNat < 2 ^ 52)) →
    Ready s cu c g rs → ∃ (t : State) (c' : Crew), exec i s = .next t ∧ t.d.crew cu.crew = some c' ∧ writesReg cu c c' g 0 (fun _ v => v = cu.ret) ∧
      (∀ p : Nat, c'.pred p = c.pred p) ∧ c'.sp = c.sp ∧ threadsGo cu c c' (activeLanes cu c g) pc (fun _ x => x.m) ∧ crewKept c c' ∧
      restKept s t cu.crew)

/-- After an instruction, no hold that is complete is left: each held thread has, among the threads with its meeting point, one that has not exited
and stands elsewhere (R180). REP commits its group to the repeats of the next instruction: the PCs stay on the REP, and the repeats issue from REPI
on; a target that R247 forbids, or a stepped field that would pass 63, stops it (R246 to R248). A word of a dictionary clause has its two codes
looked up together (R244): where both are entries, or the second is padding, the word is in progress with both, nothing else having changed;
otherwise the group stops with an illegal-instruction trap and neither has an effect. -/
def Obligations.HoldsAndDictionaryWords : Prop :=
  (∀ (c : Crew) (l : Nat) (t : Thread), c.release.threads[l]? = some t → t.exited = false → t.pc = t.m → t.m ≠ BitVec.allOnes 64 →
    ∃ (k : Nat) (u : Thread), c.release.threads[k]? = some u ∧ u.exited = false ∧ u.m = t.m ∧ u.pc ≠ t.m) ∧
  (∀ (s : State) (cu : Cur) (c : Crew) (o : OpRep) (w x : Nat), Ready s cu c .always [] → cu.target = some (w, x) → cu.ret = cu.addr →
    w < 2 ^ 32 →
    let major := w / 2 ^ 26
    let f := fieldLow major
    let past := fun (on : Bool) (lo : Nat) => on = true ∧ 63 < w / 2 ^ lo % 64 + o.cnt.toNat * (o.step.toNat + 1)
    let bad := major = 0 ∨ (0x1D ≤ major ∧ major ≤ 0x35) ∨ major = 0x3F ∨ (o.stepB = true ∧ 7 ≤ major ∧ major ≤ 0xD) ∨
      (o.stepD = true ∧ vdIsReg major (w / 2 ^ 22 % 16) = false) ∨ past o.stepD f.1 ∨ past o.stepA f.2.1 ∨ past o.stepB f.2.2
    (¬ bad → ∃ (t : State) (c' : Crew), exec (.rep o) s = .next t ∧ t.d.crew cu.crew = some c' ∧ c'.repGroup = cu.group ∧ valuesKept c c' ∧
      c'.sp = c.sp ∧ threadsGo cu c c' cu.group (fun _ => cu.addr) (fun _ y => y.m) ∧ crewKept c c' ∧ restKept s t cu.crew) ∧
    (bad → ∀ p : Part, Running s c p → ∃ t : State, exec (.rep o) s = .next t ∧ illegalTaken s t cu c .always p 8)) ∧
  (∀ (s : State) (cu : Cur) (c : Crew), s.cont = none → s.d.cur = some cu → s.d.crew cu.crew = some c →
    let cl : Clause := ⟨0, 7 * 2 ^ 21, [cu.word]⟩
    (∀ (a : Nat × Nat) (b : Option (Nat × Nat)), cl.pair (s.d.dictOf c) 0 = .ok (a, b) → ∃ (t : State) (k : Machine.Cont) (c' : Crew), exec (.dictIssueUnit cu.crew) s = .next t ∧ t.cont = some k ∧ k.first = a ∧ k.second = b ∧
      k.phase = .first ∧ k.crew = cu.crew ∧ k.group = cu.group ∧ k.addr = cu.addr ∧ k.next = cu.ret ∧ k.before.mem = s.mem ∧ k.before.dev = t.d ∧
      t.mem = s.mem ∧ t.d.crew cu.crew = some c' ∧ valuesKept c c' ∧ threadsStand c c' ∧ c'.sp = c.sp ∧ c'.cnt = c.cnt ∧
      (∀ n : Nat, n ≠ cu.crew → t.d.crew n = s.d.crew n) ∧ t.d.ops = s.d.ops ∧ t.d.parts = s.d.parts) ∧
    (∀ (e : Illegal) (p : Part), cl.pair (s.d.dictOf c) 0 = .error (.illegal e cu.word) → Running s c p → s.wf = true → ∃ t : State, exec (.dictIssueUnit cu.crew) s = .next t ∧
      faultWith s t cu c p fun f => f.reason = .illegal ∧ f.iaddr = cu.addr ∧ f.crew = c.place.gid))

/-! ## System instructions (14_isa_memory_and_sync.md, 19_isa_system.md) -/

/-- SRD of a number that R207 permits its crew gives that special register, of the fourteen, in every active lane. SWR of FSTAT, CTMR, GANGR, KEY0
and KEY1 writes it from the lowest active lane, bits the spec shows as zero being ignored; an armed timer of 0 expires at once (R207, R370). -/
def Obligations.SpecialRegisters : Prop :=
  ∀ (s : State) (cu : Cur) (c : Crew),
    (∀ o : OpSrd, o.num.toNat < 14 → (c.handler = false → o.num.toNat ≠ 10 ∧ o.num.toNat ≠ 11) → Ready s cu c o.g [o.d.toNat] →
      c.roomForG o.d.toNat → ∃ t : State, exec (.srd o) s = .next t ∧
        regDone s t cu c o.g o.d.toNat fun _ v => (specialRule s c v).getD o.num.toNat False) ∧
    (∀ o : OpB, Ready s cu c o.g [o.b.toNat] →
      let x := c.val o.b.toNat (lowLane (activeLanes cu c o.g))
      let wrote := fun (t : State) (sp : Special) => ∃ c' : Crew, t.d.crew cu.crew = some c' ∧ valuesKept c c' ∧ c'.sp = sp ∧ threadsAdvance cu c c' ∧
        crewKept c { c' with sp := c.sp } ∧ restKept s t cu.crew
      (∃ t : State, exec (.swrFstat o) s = .next t ∧ wrote t { c.sp with fstat := x.setWidth 5 }) ∧
      (∃ t : State, exec (.swrCtmr o) s = .next t ∧ wrote t (if x.getLsbD 63 = true ∧ x.setWidth 48 = 0
        then { c.sp with ctmrArm := false, ctmr := 0, ctmrFault := true } else { c.sp with ctmrArm := x.getLsbD 63, ctmr := x.setWidth 48 })) ∧
      (∃ t : State, exec (.swrGangr o) s = .next t ∧ wrote t { c.sp with gangr := x.setWidth 33 }) ∧
      (∃ t : State, exec (.swrKey0 o) s = .next t ∧ wrote t { c.sp with key0 := x }) ∧
      ∃ t : State, exec (.swrKey1 o) s = .next t ∧ wrote t { c.sp with key1 := x })

/-- A jump to an address that is no PC, by JMP, CALLR or RET, is an illegal-instruction trap of class 6, and no lane moves (R259). An SRD of a
number that R207 does not permit is one of class 9, and an instruction outside its slots one of class 4, ERET, WINR and WINW in a kernel slot as
TRAP, BKPT and EXIT in the handler's, where it stops the handler crew alone (R207, R250, R369, R373, R377). The barrier faults: a count above the team's crews, and
one that differs from the generation's (R302). The faults a version-cell or task instruction meets at issue, with nothing performed (R165, R187,
R313 to R315). -/
def Obligations.InstructionTraps : Prop :=
  (∀ (s : State) (cu : Cur) (c : Crew) (p : Part) (o : OpA) (l : Nat), Running s c p → Ready s cu c o.g [o.a.toNat, 0] → l < 32 →
    (activeLanes cu c o.g).getLsbD l = true → ((c.val o.a.toNat l).toNat % 4 ≠ 0 ∨ 2 ^ 52 ≤ (c.val o.a.toNat l).toNat) →
    (∃ t : State, exec (.jmp o) s = .next t ∧ illegalTaken s t cu c o.g p 6) ∧
    ∃ t : State, exec (.callr o) s = .next t ∧ illegalTaken s t cu c o.g p 6) ∧
  (∀ (s : State) (cu : Cur) (c : Crew) (p : Part) (o : OpG) (l : Nat), Running s c p → Ready s cu c o.g [0] → l < 32 →
    (activeLanes cu c o.g).getLsbD l = true → ((c.val 0 l).toNat % 4 ≠ 0 ∨ 2 ^ 52 ≤ (c.val 0 l).toNat) →
    ∃ t : State, exec (.ret o) s = .next t ∧ illegalTaken s t cu c o.g p 6) ∧
  (∀ (s : State) (cu : Cur) (c : Crew) (p : Part) (i : Instr), c.handler = true → s.d.part c.place.tower = some p → p.ctx.isSome = true →
    p.halt.phase = .handling → p.halt.count < 16383 → s.cont = none → s.d.cur = some cu → s.d.crew cu.crew = some c →
    (∀ y ∈ s.d.crews, y.handler = true → y.place.gid = c.place.gid → y.place = c.place) → ((∃ o : OpG, i = .exit o) ∨ ∃ o : OpCode, i = .trap o ∨ i = .bkpt o) →
    ∃ (t : State) (c' : Crew) (p' : Part) (r : HaltRec), exec i s = .next t ∧ t.d.crew cu.crew = some c' ∧ c'.status = .faulted ∧ valuesKept c c' ∧
      c'.cnt = c.cnt ∧ c'.sp = c.sp ∧ threadsStand c c' ∧ t.d.part c.place.tower = some p' ∧ p'.halt.phase = .handling ∧
      p'.halt.halts = p.halt.halts ∧ p'.halt.count = p.halt.count + 1 ∧ p'.halt.records = p.halt.records ++ [r] ∧ r.index = p.halt.count ∧
      r.appended = false ∧ r.info.reason = .illegal ∧ r.info.engine = .handler ∧ r.info.iaddr = cu.addr ∧ r.info.crew = c.place.gid ∧
      r.info.extra.toNat = 4 + cu.word % 2 ^ 32 * 16) ∧
  (∀ (s : State) (cu : Cur) (c : Crew) (p : Part), Running s c p →
    (∀ o : OpSrd, (14 ≤ o.num.toNat ∨ o.num.toNat = 10 ∨ o.num.toNat = 11) → Ready s cu c o.g [o.d.toNat] →
      ∃ t : State, exec (.srd o) s = .next t ∧ illegalTaken s t cu c o.g p 9) ∧
    (s.cont = none → s.d.cur = some cu → s.d.crew cu.crew = some c →
      (∀ o : OpG, ∃ t : State, exec (.eret o) s = .next t ∧ illegalTaken s t cu c o.g p 4) ∧
      (∀ o : OpDA, ∃ t : State, exec (.winr o) s = .next t ∧ illegalTaken s t cu c o.g p 4) ∧
      ∀ o : OpRR, ∃ t : State, exec (.winw o) s = .next t ∧ illegalTaken s t cu c o.g p 4)) ∧
  (∀ (s : State) (cu : Cur) (c : Crew) (p : Part) (tm : Team) (o : OpBar), Running s c p → c.landed = false → Ready s cu c o.g [] →
    s.d.team c.team = some tm → ∀ i ∈ [Instr.bar, .bara],
    c.bar.getLsbD o.bar.toNat = false →
    (tm.crews.length < o.n.toNat → ∃ t : State, exec (i o) s = .next t ∧ faultTaken s t cu c o.g p .barrierCount) ∧
    (o.n.toNat ≤ tm.crews.length → (tm.barriers.getD o.bar.toNat {}).arrived ≠ [] → (tm.barriers.getD o.bar.toNat {}).n ≠ o.n.toNat →
      ∃ t : State, exec (i o) s = .next t ∧ faultTaken s t cu c o.g p .barrierMismatch)) ∧
  (∀ (s : State) (cu : Cur) (c : Crew) (p : Part) (tm : Team) (g root : Grid), Running s c p → c.landed = false → Unfenced s cu →
    c.cnt.getD 5 0 < 127 → s.d.teamOf c = some tm → s.d.gridOf c = some g → s.d.rootOf c = some root →
    (∀ o : OpTkDA, Ready s cu c o.g [o.a.toNat, o.d.toNat] →
      (c.index ≠ 0 ∨ (activeLanes cu c o.g).getLsbD 0 = false → ∃ t : State, exec (.lnch o) s = .next t ∧ faultTaken s t cu c o.g p .launchNonLeader) ∧
      (c.index = 0 → (activeLanes cu c o.g).getLsbD 0 = true → 10 ≤ g.depth →
        ∃ t : State, exec (.lnch o) s = .next t ∧ faultTaken s t cu c o.g p .nestingTooDeep)) ∧
    (∀ o : OpTkG, Ready s cu c o.g [] → g.launch.coop = false → ∃ t : State, exec (.gsync o) s = .next t ∧ faultTaken s t cu c o.g p .gridBarrier) ∧
    (∀ (o : OpTkAB) (refs : List BRef), Ready s cu c o.g [o.a.toNat, o.b.toNat] →
      let l := lowLane (activeLanes cu c o.g)
      let ea := c.ea o.a.toNat l (o.off.signExtend 64)
      ea % 64 = 0 → locatedAt s cu c .load 2 64 ea refs → refs ≠ [] →
      (root.graph.bind fun x => x.nodes[(c.val o.b.toNat l).toNat % 256]?) = none →
      ∃ t : State, exec (.binp o) s = .next t ∧ faultTaken s t cu c o.g p .badNode) ∧
    (∀ (o : OpTkQA) (refs : List BRef), Ready s cu c o.g [o.a.toNat] →
      let l := lowLane (activeLanes cu c o.g)
      let ea := c.ea o.a.toNat l (o.off.signExtend 64)
      locatedAt s cu c .atomic 0 (if ea % 32 = 0 then 32 else 1) ea refs → refs ≠ [] →
      noOverlap s cu (BitVec.ofNat 32 (2 ^ l)) (fun _ => refs) →
      (tm.inputsFinal = false → ∃ t : State, exec (.vfin o) s = .next t ∧ faultTaken s t cu c o.g p .prematureFinal) ∧
      (s.d.tableFull tm (BitVec.ofNat 64 ea) = true → ∃ t : State, exec (.vpub o) s = .next t ∧ faultTaken s t cu c o.g p .tileTableFull)) ∧
    ∀ (o : OpTkRel) (refs : List BRef), Ready s cu c o.g [o.a.toNat] →
      let l := lowLane (activeLanes cu c o.g)
      let ea := c.ea o.a.toNat l (o.off.signExtend 64)
      locatedAt s cu c .atomic 0 (if ea % 32 = 0 then 32 else 1) ea refs → refs ≠ [] →
      noOverlap s cu (BitVec.ofNat 32 (2 ^ l)) (fun _ => refs) →
      ((tm.tiles.find? fun e => e.cell == BitVec.ofNat 64 ea).map fun e => if o.buf then e.held1 else e.held0).getD 0 = 0 →
      ∃ t : State, exec (.vrel o) s = .next t ∧ faultTaken s t cu c o.g p .readerUnderflow)

/-- The wait a group enters: its threads stay on the instruction, and go on past it when the condition is met (R182). TRAP and BKPT begin the
partition's halt with their code in the record; after a TRAP the group stands past it, after a BKPT its active lanes stand on it (R371, R398, R400).
EXIT sets the exited bit of each active lane and no other; a crew with no thread left stops issuing, and one with a thread left goes on, all else
kept (R372). -/
def Obligations.StopsAndWaits : Prop :=
  (∀ (s : State) (cu : Cur) (c : Crew), Ready s cu c .always [] → cu.group ≠ 0 →
    (∀ o : OpWaitc, Ready s cu c o.g [] → 1 ≤ o.cls.toNat → o.cls.toNat ≤ 6 →
      (c.cnt.getD (o.cls.toNat - 1) 0 ≤ o.thr.toNat → ∃ t : State, exec (.waitc o) s = .next t ∧ nothingDone s t cu c) ∧
      (o.thr.toNat < c.cnt.getD (o.cls.toNat - 1) 0 → ∃ (t : State) (c' : Crew) (w : Wait), exec (.waitc o) s = .next t ∧ t.d.crew cu.crew = some c' ∧
        c'.waits = c.waits ++ [w] ∧ w.mask = cu.group ∧ w.cond = .counter o.cls.toNat o.thr.toNat ∧ w.again = false ∧ w.next = cu.ret ∧
        valuesKept c c' ∧ c'.sp = c.sp ∧ threadsGo cu c c' cu.group (fun _ => cu.addr) (fun _ x => x.m) ∧
        crewKept c { c' with waits := c.waits } ∧ restKept s t cu.crew)) ∧
    (∀ o : OpG, Ready s cu c o.g [] →
      (c.sp.preempt = false → c.sp.cancel = false → ∃ t : State, exec (.yield o) s = .next t ∧ nothingDone s t cu c) ∧
      (s.d.pairing c = true → ∃ t : State, exec (.yield o) s = .next t ∧ nothingDone s t cu c) ∧
      (c.sp.preempt = true → c.sp.cancel = false → s.d.pairing c = false → ∃ (t : State) (c' : Crew), exec (.yield o) s = .next t ∧
        t.d.crew cu.crew = some c' ∧ c'.status = .stopped ∧ valuesKept c c' ∧ c'.sp = c.sp ∧
        threadsAdvance cu c c' ∧ crewKept c { c' with status := c.status } ∧ restKept s t cu.crew) ∧
      (c.sp.cancel = true → s.d.pairing c = false → ∃ (t : State) (c' : Crew), exec (.yield o) s = .next t ∧
        t.d.crew cu.crew = some c' ∧ c'.status = .cancelled ∧ valuesKept c c' ∧ c'.sp = c.sp ∧ threadsAdvance cu c c' ∧ c'.waits = [] ∧
        (∀ a : Nat, t.mem.get a = s.mem.get a) ∧ (∀ n : Nat, n ≠ cu.crew → t.d.crew n = s.d.crew n) ∧ t.d.teams = s.d.teams ∧ t.d.parts = s.d.parts ∧
        ∀ x ∈ t.d.ops, x ∈ s.d.ops ∧ (x.crew = cu.crew → x.done = true ∨ ∀ op reg ls sc, x.kind = .ring op reg ls sc → ∃ a ∈ ls, a.state = 0)))) ∧
  (∀ (s : State) (cu : Cur) (c : Crew) (p : Part) (o : OpCode), Running s c p → Ready s cu c o.g [] →
    ∀ (i : OpCode → Instr) (reason : Reason) (pc : Word), (i, reason, pc) ∈ [(Instr.trap, Reason.trap, cu.ret), (.bkpt, .breakpoint, cu.addr)] →
    ∃ (t : State) (c' : Crew), exec (i o) s = .next t ∧ t.d.crew cu.crew = some c' ∧ valuesKept c c' ∧ c'.cnt = c.cnt ∧ c'.sp = c.sp ∧
      threadsGo cu c c' (activeLanes cu c o.g) (fun _ => pc) (fun _ x => x.m) ∧
      haltBegun s t c.place.tower p fun f => f.reason = reason ∧ f.extra = o.code.setWidth 64 ∧ f.iaddr = cu.addr ∧
        f.lanes = activeLanes cu c o.g ∧ f.crew = c.place.gid) ∧
  (∀ (s : State) (cu : Cur) (c : Crew) (o : OpG), c.handler = false → Ready s cu c o.g [] →
    let left := fun l => l < 32 ∧ (c.thread l).exited = false ∧ (activeLanes cu c o.g).getLsbD l = false
    ∃ (t : State) (c' : Crew), exec (.exit o) s = .next t ∧ t.d.crew cu.crew = some c' ∧ valuesKept c c' ∧ c'.cnt = c.cnt ∧ c'.sp = c.sp ∧
      (∀ (l : Nat) (x : Thread), c.threads[l]? = some x → ∃ x' : Thread, c'.threads[l]? = some x' ∧
        x'.exited = (x.exited || (activeLanes cu c o.g).getLsbD l) ∧ x'.pc = if cu.group.getLsbD l then cu.ret else x.pc) ∧
      ((∀ l : Nat, ¬ left l) → c.status = .running → c'.status = .draining) ∧
      (∀ l : Nat, left l → crewKept c c' ∧ restKept s t cu.crew))

/-- An arrival at a team barrier sets PEND and joins the generation; where that meets its count, the generation takes no later arrival, and once
what the arrivals release has taken effect, its waiters are released and the team's epoch and TW advance. BAR then waits until PEND is clear and BARA
goes on; with PEND set already, neither adds an arrival, but what the group's threads have still to perform is released too. BARW only waits (R96,
R149, R156, R300, R301). -/
def Obligations.BarrierResults : Prop :=
  ∀ (s : State) (cu : Cur) (c : Crew) (tm : Team) (o : OpBar), c.handler = false → c.landed = false → Ready s cu c o.g [] →
    s.d.team c.team = some tm → o.n.toNat ≤ tm.crews.length → (s.d.ops.map (·.id)).Nodup → (∀ x ∈ s.d.crews, x.tw < 2 ^ 32 - 1) →
    let k := o.bar.toNat
    let b := tm.barriers.getD k {}
    let owed := (s.d.ops.filter fun x => x.crew == cu.crew && !x.done && x.owedBy (some 1) && x.lanes &&& cu.group != 0).map (·.id)
    let older := ∃ e ∈ tm.closing, e.1 = k
    let settled := s.d.opsDone b.owes = true ∧ owed = [] ∧ ¬ older
    let full := if o.n.toNat = 0 then ∀ x ∈ tm.crews, x ∈ b.arrived ++ [cu.crew] ∨ s.d.crewEnded x = true
      else o.n.toNat ≤ b.arrived.length + 1
    let waiting := fun (c' : Crew) => (∃ w : Wait, c'.waits = c.waits ++ [w] ∧ w.mask = cu.group ∧ w.cond = .barrier k ∧ w.again = false ∧
      w.next = cu.ret) ∧ threadsGo cu c c' cu.group (fun _ => cu.addr) (fun _ x => x.m)
    let arrived := fun (t : State) (c' : Crew) (tm' : Team) => t.d.crew cu.crew = some c' ∧ t.d.team c.team = some tm' ∧ valuesKept c c' ∧ c'.sp = c.sp ∧
      ∀ a : Nat, t.mem.get a = s.mem.get a
    let b' : Barrier := { arrived := b.arrived ++ [cu.crew], n := o.n.toNat, owes := b.owes ++ owed }
    let ended := fun (c' : Crew) (tm' : Team) => c'.bar.getLsbD k = false ∧ tm'.barriers.getD k {} = {} ∧ tm'.closing = tm.closing ∧
      tm'.epoch = tm.epoch + 1 ∧ c'.tw = c.tw + 1 ∧ threadsAdvance cu c c' ∧ ∀ w ∈ c'.waits, w.cond ≠ .barrier k
    let joined := fun (c' : Crew) (tm' : Team) => c'.bar = c.bar ||| (1#16 <<< k) ∧ tm'.epoch = tm.epoch ∧ c'.tw = c.tw ∧
      (full → tm'.barriers.getD k {} = {} ∧ tm'.closing = tm.closing ++ [(k, b')]) ∧ (¬ full → tm'.barriers.getD k {} = b' ∧ tm'.closing = tm.closing)
    let same := fun (t : State) => ∃ (c' : Crew) (tm' : Team), arrived t c' tm' ∧ c'.bar = c.bar ∧ tm'.epoch = tm.epoch ∧ c'.tw = c.tw ∧
      (tm'.barriers.getD k {}).arrived = b.arrived ∧ (tm'.barriers.getD k {}).n = b.n ∧
      tm'.closing.map (fun e => (e.1, e.2.arrived)) = tm.closing.map (fun e => (e.1, e.2.arrived)) ∧
      (cu.crew ∈ b.arrived → (tm'.barriers.getD k {}).owes = b.owes ++ owed) ∧ (∀ e ∈ tm'.closing, e.1 = k → cu.crew ∈ e.2.arrived → ∀ x ∈ owed, x ∈ e.2.owes)
    let held := fun (t : State) => ∃ c' : Crew, t.d.crew cu.crew = some c' ∧ valuesKept c c' ∧ c'.sp = c.sp ∧ waiting c' ∧ restKept s t cu.crew
    (c.bar.getLsbD k = false → (b.arrived = [] ∨ b.n = o.n.toNat) → (∀ e ∈ tm.closing, e.1 = k → s.d.opsDone e.2.owes = false) →
      (full ∧ settled → (∃ (t : State) (c' : Crew) (tm' : Team), exec (.bar o) s = .next t ∧ arrived t c' tm' ∧ ended c' tm') ∧
        ∃ (t : State) (c' : Crew) (tm' : Team), exec (.bara o) s = .next t ∧ arrived t c' tm' ∧ ended c' tm') ∧
      (¬ (full ∧ settled) → (∃ (t : State) (c' : Crew) (tm' : Team), exec (.bar o) s = .next t ∧ arrived t c' tm' ∧ joined c' tm' ∧ waiting c') ∧
        ∃ (t : State) (c' : Crew) (tm' : Team), exec (.bara o) s = .next t ∧ arrived t c' tm' ∧ joined c' tm' ∧ threadsAdvance cu c c')) ∧
    (c.bar.getLsbD k = true → owed = [] → (∃ t : State, exec (.bar o) s = .next t ∧ held t) ∧ ∃ t : State, exec (.bara o) s = .next t ∧ nothingDone s t cu c) ∧
    (c.bar.getLsbD k = true → (∃ t : State, exec (.bar o) s = .next t ∧ same t ∧ ∃ c' : Crew, t.d.crew cu.crew = some c' ∧ waiting c') ∧
      ∃ t : State, exec (.bara o) s = .next t ∧ same t ∧ ∃ c' : Crew, t.d.crew cu.crew = some c' ∧ threadsAdvance cu c c' ∧ c'.waits = c.waits) ∧
    ∀ q : OpBarw, q.bar = o.bar → q.g = o.g →
      (c.bar.getLsbD k = false → ∃ t : State, exec (.barw q) s = .next t ∧ nothingDone s t cu c) ∧
      (c.bar.getLsbD k = true → ∃ t : State, exec (.barw q) s = .next t ∧ held t)

/-! ## Memory instructions (01 to 03, 14_isa_memory_and_sync.md) -/

/-- A load whose accesses are located and aligned goes into flight in GLD with its lanes' bytes, its registers pending and no lane of any register
written yet; bytes it has already bound are those of its core's store queue or L1 (R87, R288 to R293). A store whose accesses are located and
aligned goes into flight in GST while its core's store queue has room, and waits, whatever its form, while that is full (R58). Its bytes for KIND 0 lines are the newest of its core's store queue, the highest lane's where lanes meet; its other
bytes, and all bytes of STNC, STRL and STRL32, wait to be applied at their executing place; no byte of memory has changed yet, and a release finds
nothing still on its way (R49, R78, R86, R90, R291 to R295). How many entries the store queue has is open (assumption 40). -/
def Obligations.LoadsAndStoresIssue : Prop :=
  (∀ (s : State) (cu : Cur) (c : Crew) (o : OpLd) (e : (OpLd → Instr) × LoadSpec) (ea : Nat → Option Nat) (refs : Nat → List BRef),
    e ∈ loadInstrs →
    let regs := if e.2.form.double then [o.d.toNat, o.d.toNat + 1] else [o.d.toNat]
    let act := activeLanes cu c o.g
    Ready s cu c o.g (o.a.toNat :: regs) → Unfenced s cu → c.cnt.getD 0 0 < 127 → c.lateRoom regs →
    laneAddrs s c e.2.tile e.2.loose e.2.form.size o.space.toNat o.order.toNat o.a.toNat (o.off.signExtend 64) act = some ea →
    lanesLocated s cu c .load o.space.toNat e.2.form.size act ea refs → anchorLocated s cu c .load o.space.toNat e.2.form.size act ea o.a.toNat (o.off.signExtend 64) →
    noOverlap s cu act refs →
    (e.2.l1 = false ∧ e.2.cmb = false → noneDirty s c act refs) →
    ∃ t : State, exec (e.1 o) s = .next t ∧ opIssued s t cu c o.g 1 regs o.la.toNat fun op => op.done = false ∧ ∃ accs : List LaneAcc,
      op.kind = .load accs e.2.form o.d.toNat e.2.l1 e.2.cmb o.hint.toNat (if o.order = 1 then some o.scope.toNat else none) ∧
      accs.map (fun a => (a.lane, a.refs)) = (maskLanes act).map (fun l => (l, refs l)) ∧
      ∀ a ∈ accs, ∀ x ∈ a.got, ∃ r : BRef, a.refs[x.1]? = some r ∧ r.cached = true ∧ e.2.l1 = true ∧
        (s.d.core c.place.tower c.place.core).l1Byte r.tag r.pos = some x.2) ∧
  (∀ (s : State) (cu : Cur) (c : Crew) (o : OpSt) (e : (OpSt → Instr) × StoreSpec) (ea : Nat → Option Nat) (refs : Nat → List BRef),
    e ∈ storeInstrs →
    let act := activeLanes cu c o.g
    let srcs := if e.2.double then [o.b.toNat, o.b.toNat + 1] else [o.b.toNat]
    Ready s cu c o.g (o.a.toNat :: srcs) → Unfenced s cu → c.cnt.getD 1 0 < 127 →
    laneAddrs s c e.2.tile e.2.loose e.2.size o.space.toNat o.order.toNat o.a.toNat (o.off.signExtend 64) act = some ea →
    lanesLocated s cu c .store o.space.toNat e.2.size act ea refs → anchorLocated s cu c .store o.space.toNat e.2.size act ea o.a.toNat (o.off.signExtend 64) →
    noOverlap s cu act refs →
    (e.2.direct = true → noneDirty s c act refs) → (o.order = 2 → Quiet s cu c) →
    let thru := fun (r : BRef) => r.cached = true ∧ e.2.direct = false
    let k := fun (x : State) => x.d.core c.place.tower c.place.core
    (Config.storeQueue < (k s).sq.length → ∃ (t : State) (c' : Crew) (w : Wait), exec (e.1 o) s = .next t ∧ t.d.crew cu.crew = some c' ∧
      c'.waits = c.waits ++ [w] ∧ w.mask = cu.group ∧ w.cond = .storeRoom ∧ w.again = true ∧ valuesKept c c' ∧ c'.cnt = c.cnt ∧ threadsStand c c' ∧
      t.d.ops = s.d.ops ∧ othersKept s t cu.crew) ∧
    ((k s).sq.length ≤ Config.storeQueue → ∃ t : State, exec (e.1 o) s = .next t ∧ opIssued s t cu c o.g 2 [] 0 fun op => ∃ (left : Nat) (accs : List LaneAcc) (new : List SqEntry), op.kind = .store left accs ∧
      (k t).sq = (k s).sq ++ new ∧ (op.done = true ↔ left = 0 ∧ accs = []) ∧ left = new.length ∧
      (∀ l ∈ maskLanes act, ∀ (j : Nat) (r : BRef), (refs l)[j]? = some r →
        (¬ thru r → ∃ a ∈ accs, a.lane = l ∧ a.done = false ∧ ∃ n : Nat, a.refs[n]? = some r ∧ a.data[n]? = some (storeByte c o.b.toNat l j)) ∧
        (thru r → (∀ l' ∈ maskLanes act, ∀ (j' : Nat) (r' : BRef), (refs l')[j']? = some r' → r'.tag = r.tag → r'.pos = r.pos → thru r' →
            l' < l ∨ (l' = l ∧ j' ≤ j)) →
          (k t).sqByte r.tag r.pos = some (storeByte c o.b.toNat l j))) ∧
      ∀ x ∈ new, ∃ (tag : Tag) (bytes : List (BRef × Byte)) (segs : List Word) (ctx : Nat), x = .store op.id cu.crew tag bytes segs ctx ∧ ∀ b ∈ bytes, ∃ l ∈ maskLanes act, ∃ j : Nat,
        (refs l)[j]? = some b.1 ∧ b.2 = storeByte c o.b.toNat l j))

/-- A load or store that is misaligned where it may not be stops with nothing performed and no violation logged; one whose checks fail in some lane
stops in every lane, with one new violation-log entry and the halt begun (R31, R32, R290). Which REASON an access has that fails several checks, and
that a failed walk is logged under the access that needed it, with ACCESS 0 for a load's and 1 for a store's, are the model's readings (assumptions 9,
38). -/
def Obligations.AccessFaults : Prop :=
  ∀ (s : State) (cu : Cur) (c : Crew) (p : Part) (i : Instr) (g : Guard) (acc : Acc) (tile loose : Bool) (size space order a : Nat) (off : Word)
    (touched : List Nat), Running s c p →
    ((∃ (o : OpLd) (e : (OpLd → Instr) × LoadSpec), e ∈ loadInstrs ∧ i = e.1 o ∧ g = o.g ∧ acc = .load ∧ tile = e.2.tile ∧ loose = e.2.loose ∧
        size = e.2.form.size ∧ space = o.space.toNat ∧ order = o.order.toNat ∧ a = o.a.toNat ∧ off = o.off.signExtend 64 ∧ c.cnt.getD 0 0 < 127 ∧
        let regs := if e.2.form.double then [o.d.toNat, o.d.toNat + 1] else [o.d.toNat]
        touched = o.a.toNat :: regs ∧ c.lateRoom regs) ∨
      ∃ (o : OpSt) (e : (OpSt → Instr) × StoreSpec), e ∈ storeInstrs ∧ i = e.1 o ∧ g = o.g ∧ acc = .store ∧ tile = e.2.tile ∧ loose = e.2.loose ∧
        size = e.2.size ∧ space = o.space.toNat ∧ order = o.order.toNat ∧ a = o.a.toNat ∧ off = o.off.signExtend 64 ∧ c.cnt.getD 1 0 < 127 ∧
        touched = o.a.toNat :: if e.2.double then [o.b.toNat, o.b.toNat + 1] else [o.b.toNat]) →
    let act := activeLanes cu c g
    let addrs := laneAddrs s c tile loose size space order a off act
    s.wf = true → Ready s cu c g touched → Unfenced s cu →
    (addrs = none → ∃ t : State, exec i s = .next t ∧ faultWith s t cu c p fun f =>
      f.reason = .misaligned ∧ f.iaddr = cu.addr ∧ f.crew = c.place.gid ∧ f.viol = none) ∧
    ∀ (q : Who) (ea : Nat → Option Nat) (l : Nat) (x why tensor : Nat), addrs = some ea → s.d.who c = some q → l ∈ maskLanes act →
      ea l = some x → why < 16 → tensor < 2 ^ 12 →
      (s.begun cu c).locate q (s.d.localGranules c) acc space x size = .bad why tensor →
      (∀ k ∈ maskLanes act, ∀ y : Nat, ea k = some y → ∃ (refs : List BRef) (z v : Nat),
        (s.begun cu c).locate q (s.d.localGranules c) acc space y size ∈ [.ok refs, .bad z v]) →
      (∀ k ∈ maskLanes act, k < l → ∀ y : Nat, ea k = some y →
        ∃ refs : List BRef, (s.begun cu c).locate q (s.d.localGranules c) acc space y size = .ok refs) →
      let count := s.work.num (areaKey p.low 2 0) 4
      let entry := fun (t : State) => t.work.num (areaKey p.low 2 (64 + 32 * (count % 256))) 32
      ∃ (t : State) (c' : Crew) (p' : Part), exec i s = .next t ∧ t.d.crew cu.crew = some c' ∧ valuesKept c c' ∧ c'.cnt = c.cnt ∧ c'.sp = c.sp ∧
        threadsStand c c' ∧ t.d.ops = s.d.ops ∧ t.d.part c.place.tower = some p' ∧ p'.halt.phase = .stopping ∧
        (∃ r : HaltRec, p'.halt.records = [r] ∧ r.info.reason = .violation ∧ r.info.lanes.getLsbD l = true) ∧
        t.work.num (areaKey p.low 2 0) 4 = (count + 1) % 2 ^ 32 ∧ Machine.bit 255 (entry t) = true ∧ Machine.bits 254 240 (entry t) = count % 2 ^ 15 ∧
        Machine.bits 203 200 (entry t) = why ∧ Machine.bits 199 197 (entry t) = (if acc = .load then 0 else 1) ∧ Machine.bits 194 192 (entry t) = space ∧
        Machine.bits 183 160 (entry t) = c.place.gid % 2 ^ 24 ∧ Machine.bits 127 64 (entry t) = cu.addr.toNat ∧ Machine.bits 63 0 (entry t) = x % 2 ^ 64

/-- FENCE, FLUSH, INVAL, PREF and RDET: what each changes, and that none changes a register (R51, R94, R95, R136, R137, R158, R294, R297, R303,
R304). -/
def Obligations.FencesAndHints : Prop :=
  ∀ (s : State) (cu : Cur) (c : Crew),
    let k := fun (x : State) => x.d.core c.place.tower c.place.core
    (∀ o : OpFence, Ready s cu c o.g [] →
      (Quiet s cu c → ∃ t : State, exec (.fence o) s = .next t ∧ crewGoesOn s t cu c ∧ t.d.ops = s.d.ops ∧ t.d.fences = s.d.fences ∧
        (k t).l1 = if o.kind ≠ 1 ∧ 2 ≤ o.scope.toNat then [] else (k s).l1) ∧
      (∀ x ∈ s.d.ops, x.crew = cu.crew → x.done = false → x.owedBy (if o.kind = 0 then none else some o.scope.toNat) = true →
        x.lanes &&& activeLanes cu c o.g ≠ 0 → (∀ f ∈ s.d.fences, f.id ≠ s.d.nextId) → ∃ (t : State) (f : FenceRec), exec (.fence o) s = .next t ∧ t.d.fences = s.d.fences ++ [f] ∧ f.crew = cu.crew ∧
          f.mask = cu.group ∧ f.done = false ∧ x.id ∈ f.ops ∧ t.d.ops = s.d.ops)) ∧
    (∀ o : OpSt, Ready s cu c o.g [o.a.toNat, o.b.toNat] → Unfenced s cu → c.cnt.getD 1 0 < 127 →
      let ranges := fun l => (c.ea o.a.toNat l (o.off.signExtend 64), (c.val o.b.toNat l).toNat)
      (Quiet s cu c → ∃ t : State, exec (.flush o) s = .next t ∧ opIssued s t cu c o.g 2 [] 0 fun op => op.kind = .flush ∧ op.done = true) ∧
      (o.space = 0 → (∃ x ∈ (k s).sq, ∃ l ∈ maskLanes (activeLanes cu c o.g), x.inRange [ranges l] = true ∧ (ranges l).2 ≠ 0) → (∀ f ∈ s.d.fences, f.id ≠ s.d.nextId ∧ f.id ≠ s.d.nextId + 1) →
        ∃ t : State, exec (.flush o) s = .next t ∧ opIssued s t cu c o.g 2 [] 0 fun op => op.kind = .flush ∧ op.done = false ∧
          ∃ f : FenceRec, t.d.fences = s.d.fences ++ [f] ∧ f.op = some op.id ∧ f.mask = 0) ∧
      ∃ t : State, exec (.inval o) s = .next t ∧ (opIssued s t cu c o.g 2 [] 0 fun op => op.kind = .instant ∧ op.done = true) ∧
        (∀ x ∈ (k t).l1, x ∈ (k s).l1) ∧ (k t).sq = (k s).sq ∧
        (o.space = 0 → ∀ x ∈ (k t).l1, ∀ v ∈ x.vas, ∀ l ∈ maskLanes (activeLanes cu c o.g),
          ¬ ((ranges l).2 ≠ 0 ∧ (ranges l).1 < v + 256 ∧ v < (ranges l).1 + (ranges l).2)) ∧
        (o.space ≠ 0 → (k t).l1 = (k s).l1)) ∧
    (∀ o : OpAd, Ready s cu c o.g [o.a.toNat] → Unfenced s cu →
      (∃ t : State, exec (.pref o) s = .next t ∧ crewGoesOn s t cu c ∧ t.d.ops = s.d.ops ∧ (k t).l1 = (k s).l1 ∧ (k t).sq = (k s).sq ∧
        (o.space = 0 → ∀ l ∈ maskLanes (activeLanes cu c o.g), ∀ r : BRef,
          locatedAt s cu c .load 0 1 (c.ea o.a.toNat l (o.off.signExtend 64)) [r] → r.cached = true → (k s).l1Byte r.tag r.pos = none →
          ∃ f ∈ (k t).fills, f.tag = r.tag ∧ ((∀ x ∈ (k s).fills, x.tag ≠ r.tag) ∨ o.hint ≠ 3 → f.homeOnly = decide (o.hint = 3)))) ∧
      ∀ q : Who, s.d.who c = some q →
        let addr := c.val o.a.toNat (lowLane (activeLanes cu c o.g)) + o.off.signExtend 64
        (q.x.raceMode = 0 → ∃ t : State, exec (.rdet o) s = .next t ∧ nothingDone s t cu c) ∧
        (q.x.raceMode ≠ 0 → o.order = 2 → ∃ (t : State) (x : Ctx), exec (.rdet o) s = .next t ∧ t.d.ctx q.x.ctxid = some x ∧
          x.decls.head? = some (addr, c.place.gid) ∧ x.decls.length ≤ 64 ∧ (∀ y ∈ x.decls.tail, y ∈ q.x.decls ∧ y.1 ≠ addr) ∧
          ∃ c' : Crew, t.d.crew cu.crew = some c' ∧ valuesKept c c' ∧ c'.ep = c.ep ∧ threadsAdvance cu c c') ∧
        (q.x.raceMode ≠ 0 → o.order = 1 → ∀ y : Word × Nat, q.x.decls.find? (fun y => y.1 == addr) = some y → ∃ (t : State) (x : Ctx) (c' : Crew), exec (.rdet o) s = .next t ∧
          t.d.ctx q.x.ctxid = some x ∧ x.decls.head? = some y ∧ t.d.crew cu.crew = some c' ∧ valuesKept c c' ∧ threadsAdvance cu c c' ∧
          c'.ep.peers.length ≤ 4 ∧ c'.ep.peers.getLast? = some y.2))

/-- How a store goes on from issue to memory: a part at its executing place is applied there; a part in the store queue enters the cluster's merge
buffer; a line drains once its pages pass their check again and takes its dirty bytes along when it arrives; the home slice invalidates the copies, applies the bytes and
frees the line (R55, R57, R58, R60, R86). -/
def Obligations.StoresReachMemory : Prop :=
  (∀ (s : State) (op lane : Nat) (o : Op) (c : Crew) (left : Nat) (accs : List LaneAcc) (a : LaneAcc) (area : Bool), s.d.op op = some o →
    s.d.crew o.crew = some c → o.kind = .store left accs → o.done = false → accs.find? (fun a => a.lane == lane && !a.done) = some a →
    a.refs ≠ [] → a.loose = false → (∀ r ∈ a.refs, (placeOf r.key == 3) = area) → s.d.linesPending c a.refs = false →
    s.work.overtakes c.place.tower c.place.core (max op a.sent) a.refs = false → routeUp s c a.refs →
    (∀ y ∈ accs, y.lane < lane → y.done = true ∨ ∀ r ∈ y.refs, ∀ z ∈ a.refs, r.key ≠ z.key) → s.d.meetsBad true a.refs = none →
    (a.refs.map (·.key)).Nodup → a.data.length = a.refs.length → noLateTraps s → s.wf = true →
    ∃ t : State, exec (if area then .partitionAreaAccess op lane else .accessAtExecutingPlace op lane) s = .next t ∧
      (∀ (j : Nat) (r : BRef) (b : Byte), a.refs[j]? = some r → a.data[j]? = some b → t.mem.get r.key = b) ∧ memKeptBut s t (a.refs.map (·.key))) ∧
  (∀ (s : State) (tw k op crew : Nat) (tag : Tag) (bs : List (BRef × Byte)) (segs : List Word) (ctx : Nat) (r : List SqEntry),
    (s.d.core tw k).sq = .store op crew tag bs segs ctx :: r → (bs.map (·.1.pos)).Nodup → noLateTraps s →
    let cl := fun (x : State) => x.d.cluster tw (clusterOf k)
    ((cl s).cmb.length < 256 ∨ ((cl s).line tag).isSome = true → ∃ (t : State) (l : CmbLine), exec (.cmbStoreArrive tw k) s = .next t ∧ (t.d.core tw k).sq = r ∧
      (cl t).line tag = some l ∧ (∀ b ∈ bs, l.dirty.find? (fun x => x.1.pos == b.1.pos) = some b) ∧
      (∀ pos : Nat, (∀ b ∈ bs, b.1.pos ≠ pos) → l.dirty.find? (fun x => x.1.pos == pos) =
        ((((cl s).line tag).map (·.dirty)).getD []).find? fun x => x.1.pos == pos) ∧
      ((cl s).cmb.length < 192 → ∀ n : Nat, t.mem.get n = s.mem.get n)) ∧
    (256 ≤ (cl s).cmb.length → (cl s).line tag = none → exec (.cmbStoreArrive tw k) s = .next s)) ∧
  (∀ (s : State) (tw cn i : Nat) (l : CmbLine), (s.d.cluster tw cn).cmb[i]? = some l → (∀ x ∈ (s.d.cluster tw cn).cmb, x.tag = l.tag → x = l) →
    (l.draining = false → l.failed = none → l.bad = false → (∀ va ∈ l.segs, s.work.segRefuses tw cn l va = none) →
      ∃ t : State, exec (.cmbAgeDrain tw cn i) s = .next t ∧
      (t.d.cluster tw cn).line l.tag = some { l with draining := true, sent := s.d.nextId, arrived := false, fresh := [], applied := false } ∧ t.mem = s.mem ∧ t.d.parts = s.d.parts) ∧
    (l.draining = true → l.arrived = false → (∀ h ∈ s.d.homeWrites, ¬ (h.tag = l.tag ∧ h.tower = tw ∧ h.cluster = cn)) →
      s.work.overtakes tw (4 * cn) l.sent [(l.dirty.head?.map (·.1)).getD { key := 0 }] = false →
      let bytes := l.dirty
      (bytes.map (·.1.key)).Nodup → s.wf = true →
      ((∀ h : HomeLine, s.d.home tw l.tag = some h → h.sectors = [] ∧ h.gateways = []) → s.d.meetsBad true (bytes.map (·.1)) = none →
        ∃ (t : State) (h : HomeWrite), exec (.cmbDrainArrive tw cn i) s = .next t ∧ (∀ b ∈ bytes, t.mem.get b.1.key = b.2) ∧ memKeptBut s t (bytes.map (·.1.key)) ∧
          h ∈ t.d.homeWrites ∧ h.tag = l.tag ∧ h.tower = tw ∧ h.cluster = cn ∧ h.applied = true) ∧
      (∀ h : HomeLine, s.d.home tw l.tag = some h → h.sectors ≠ [] → ∃ (t : State) (x : HomeWrite), exec (.cmbDrainArrive tw cn i) s = .next t ∧ t.mem = s.mem ∧ x ∈ t.d.homeWrites ∧
        x.tag = l.tag ∧ x.bytes = bytes ∧ x.applied = false ∧ x.sectors.map (·.1) = h.sectors ∧ ∀ y ∈ x.sectors, y.2 = false)) ∧
    (l.draining = true → l.fresh = [] → (∃ h ∈ s.d.homeWrites, h.tag = l.tag ∧ h.tower = tw ∧ h.cluster = cn ∧ h.applied = true) → noLateTraps s →
      ∃ t : State, exec (.drainAck tw cn i) s = .next t ∧ (t.d.cluster tw cn).line l.tag = none ∧ (∀ n : Nat, t.mem.get n = s.mem.get n) ∧
        ∀ h ∈ t.d.homeWrites, ¬ (h.tag = l.tag ∧ h.tower = tw ∧ h.cluster = cn))) ∧
  (∀ (s : State) (id i : Nat) (h : HomeWrite), s.d.homeWrites.find? (fun h => h.id == id) = some h →
    (∀ sector : Nat, (h.sectors[i]?).map (·.1) = some sector → ∃ (t : State) (h' : HomeWrite), exec (.copyInvalidate id i) s = .next t ∧
      t.d.homeWrites.find? (fun h => h.id == id) = some h' ∧ (h'.sectors[i]?).map (·.2) = some true ∧ h'.bytes = h.bytes ∧ t.mem = s.mem ∧
      ∀ x ∈ t.d.homes, x.tag = h.tag → t.d.samePart x.home h.tower = true → sector ∉ x.sectors) ∧
    (h.applied = false → (∀ x ∈ h.sectors, x.2 = true) → (∀ x ∈ h.gateways, x.2.2 = true) → (h.bytes.map (·.1.key)).Nodup → s.wf = true →
      s.d.meetsBad true (h.bytes.map (·.1)) = none → ∃ t : State, exec (.invalidateAck id) s = .next t ∧ (∀ b ∈ h.bytes, t.mem.get b.1.key = b.2) ∧
        memKeptBut s t (h.bytes.map (·.1.key)) ∧ ∀ x ∈ t.d.homeWrites, x.id = id → x.applied = true) ∧
    ((∃ x ∈ h.sectors, x.2 = false) ∨ (∃ x ∈ h.gateways, x.2.2 = false) → exec (.invalidateAck id) s = .next s))

/-- How a load gets its value: a walk reads one entry at a step and fills the TLBs of the cores that asked for it, or tells them why it failed; a
fill is served by its home or a copy and brings its cluster's dirty bytes and otherwise its home's, which enter the L1 where they are not valid yet,
the core's store queue over them, the line being evicted first where that would tear an aligned 8 B unit (assumption 39), and the response writes the load's registers, in its lanes, once all its bytes are bound (R21, R28 to R30, R49, R56, R59, R64, R68, R87, R91, R99). -/
def Obligations.LoadsReachRegisters : Prop :=
  (∀ (s : State) (tw id : Nat) (x : Walk) (p : Part), (s.d.tower tw).walks.find? (fun x => x.id == id) = some x → s.d.part tw = some p →
    s.d.shot x.ctx (x.vpn * 2 ^ 16) = false →
    (∀ e ∈ (s.d.tower tw).walkCache, ¬ (e.ctx = x.ctx ∧ e.level = x.level ∧ e.index = walkPrefix x.level x.vpn)) →
    s.d.isBad (x.node + 8 * levelIndex x.level (x.vpn * 2 ^ 16)) = false →
    (∀ v : Nat, s.work.walkStep p x.level x.node (x.vpn * 2 ^ 16) = .leaf v → ∃ t : State, exec (.walkNodeRead tw id false) s = .next t ∧ t.mem = s.mem ∧
      ∀ k ∈ x.cores, t.d.tlbLook tw k x.ctx (x.vpn * 2 ^ 16) = some { leaf := v, off := pageBits x.level }) ∧
    (∀ pa : Nat, s.work.walkStep p x.level x.node (x.vpn * 2 ^ 16) = .node pa → ∃ (t : State) (y : Walk), exec (.walkNodeRead tw id false) s = .next t ∧ t.mem = s.mem ∧
      (t.d.tower tw).walks.find? (fun y => y.id == id) = some y ∧ y.level = x.level + 1 ∧ y.node = pa ∧ y.vpn = x.vpn ∧ y.cores = x.cores) ∧
    (∀ why : Nat, s.work.walkStep p x.level x.node (x.vpn * 2 ^ 16) = .fail why → ∃ t : State, exec (.walkNodeRead tw id false) s = .next t ∧ t.mem = s.mem ∧
      ∀ c ∈ s.d.crews, (∃ y ∈ c.waits, y.cond = .walk id) → { c with walkFails := c.walkFails ++ [(x.vpn, why)] } ∈ t.d.crews)) ∧
  (∀ (s : State) (tw k i : Nat) (f : Fill), (s.d.core tw k).fills[i]? = some f → s.d.writing tw f.tag = false → (∀ r ∈ f.refs, s.d.isBad r.2 = false) →
    (∀ l : CmbLine, (s.d.cluster tw (clusterOf k)).line f.tag = some l → l.bad = false) → s.work.overtakes tw k f.sent [f.head] = false →
    let at_ := s.work.homeOf tw k f.tag f.head.key
    let becomes := fun (t : State) (x : FillState) => t.mem = s.mem ∧ ∀ g ∈ (t.d.core tw k).fills, g.tag = f.tag → g.state = x
    let bs := s.work.lineBytes tw k f.tag f.refs
    ((at_.1 = tw ∧ f.state = .requested) ∨ (at_.1 ≠ tw ∧ f.state = .atGateway) →
      ((s.d.home tw f.tag).isSome = true → ∃ t : State, exec (.sliceLoadRequest tw k i false) s = .next t ∧ becomes t .served) ∧
      (s.d.home tw f.tag = none → ∃ t : State, exec (.sliceLoadRequest tw k i false) s = .next t ∧ becomes t .atHbm)) ∧
    (at_.1 ≠ tw → f.state = .requested →
      (∀ h : HomeLine, s.d.home tw f.tag = some h → (tw, firstPort tw at_.1) ∈ h.gateways → ∃ t : State, exec (.gatewayLoad tw k i false) s = .next t ∧ becomes t .served) ∧
      ((∀ h : HomeLine, s.d.home tw f.tag = some h → (tw, firstPort tw at_.1) ∉ h.gateways) →
        ∃ t : State, exec (.gatewayLoad tw k i false) s = .next t ∧ becomes t .atGateway)) ∧
    (f.state = .atHbm → ∃ t : State, exec (.hbmFillReturn tw k i) s = .next t ∧ becomes t .served) ∧
    (f.state = .served → (bs.map (·.1)).Nodup → f.hint ≠ 3 → f.homeOnly = false →
      let torn := (s.d.core tw k).l1.any fun l => l.tag == f.tag && l.torn bs ((s.d.core tw k).sqByte f.tag)
      ∃ t : State, exec (.l1FillArrive tw k i) s = .next t ∧ t.mem = s.mem ∧ (∀ g ∈ (t.d.core tw k).fills, g.tag ≠ f.tag) ∧
        ∀ b ∈ bs, (t.d.core tw k).l1Byte f.tag b.1 = some ((if torn then (s.d.core tw k).sqByte f.tag b.1 else (s.d.core tw k).l1Byte f.tag b.1).getD b.2)) ∧
    (f.state = .served → f.homeOnly = true → ∃ t : State, exec (.l1FillArrive tw k i) s = .next t ∧ t.mem = s.mem ∧
      (t.d.core tw k).l1 = (s.d.core tw k).l1 ∧ ∀ g ∈ (t.d.core tw k).fills, g.tag ≠ f.tag)) ∧
  (∀ (s : State) (op lane : Nat) (o : Op) (c : Crew) (accs : List LaneAcc) (form : LoadForm) (reg : Nat) (l1 cmb : Bool) (hint : Nat)
    (acq : Option Nat) (a : LaneAcc) (area : Bool), s.d.op op = some o → s.d.crew o.crew = some c → o.kind = .load accs form reg l1 cmb hint acq →
    o.done = false → accs.find? (fun a => a.lane == lane && !a.done) = some a → a.got = [] → a.refs ≠ [] → a.loose = false →
    (∀ r ∈ a.refs, (placeOf r.key == 3) = area ∧ (r.cached = true → l1 = false ∧ cmb = false)) → s.d.linesPending c a.refs = false →
    s.work.overtakes c.place.tower c.place.core (max op a.sent) a.refs = false → routeUp s c a.refs → s.d.meetsBad false a.refs = none →
    ∃ (t : State) (o' : Op) (accs' : List LaneAcc) (a' : LaneAcc), exec (if area then .partitionAreaAccess op lane else .accessAtExecutingPlace op lane) s = .next t ∧ t.mem = s.mem ∧
      t.d.op op = some o' ∧ o'.kind = .load accs' form reg l1 cmb hint acq ∧ a' ∈ accs' ∧ a'.lane = lane ∧ a'.done = true ∧
      ∀ (j : Nat) (r : BRef), a.refs[j]? = some r → getA a'.got j 0 = s.mem.get r.key) ∧
  ∀ (s : State) (op : Nat) (o : Op) (c : Crew) (accs : List LaneAcc) (form : LoadForm) (reg : Nat) (l1 cmb : Bool) (hint : Nat) (acq : Option Nat),
    s.d.op op = some o → s.d.crew o.crew = some c → o.kind = .load accs form reg l1 cmb hint acq → o.done = false → (∀ a ∈ accs, a.done = true) →
    let acc := fun (l : Nat) => (accs.find? fun a => a.lane == l).getD { lane := l }
    let low := fun l => (List.range (min form.size 8)).map fun j => getA (acc l).got j 0
    let word := fun l => BitVec.ofNat 64 (leNat (low l))
    ∃ (t : State) (c' : Crew), exec (.loadResponse op false) s = .next t ∧ t.d.crew o.crew = some c' ∧ (∀ p ∈ c'.pend, p.op ≠ op) ∧
      (∀ l < 32, o.lanes.getLsbD l = true →
        (form.double = false → form.signed = false → form.size ≤ 8 → c'.val reg l = word l) ∧
        (form.double = false → form.signed = true → form.size ∈ [1, 2, 4] →
          c'.val reg l = ((word l).setWidth (8 * form.size)).signExtend 64) ∧
        (form.double = true → form.size = 16 → form.signed = false → c'.val reg l = word l ∧
          c'.val (reg + 1) l = BitVec.ofNat 64 (leNat ((List.range 8).map fun j => getA (acc l).got (8 + j) 0)))) ∧
      (∀ r l : Nat, l < 32 → r ≠ reg → (form.double = true → r ≠ reg + 1) → c'.val r l = c.val r l) ∧
      (l1 = true → ∀ sc : Nat, acq = some sc → 2 ≤ sc → (t.d.core c.place.tower c.place.core).l1 = [])

/-! ## Atomics (06_slice_atomics_and_races.md) -/

/-- An atomic whose lanes are located, aligned and of a type their places support goes into flight, in GLD with its result pending or, where it is
posted, in GST with one outbox entry a lane; it carries its lanes' operands, and an ordered one its order tag, SEQ advancing by one (R139 to R142,
R147 to R149). A posted one with a release issues without waiting for any response, and goes to its place after it (R90, R147). -/
def Obligations.AtomicsIssue : Prop :=
  ∀ (s : State) (cu : Cur) (c : Crew) (i : Instr) (minor typ : Nat) (d : Option Nat) (a b space scope order la : Nat) (ordBit : Bool) (off : Word)
    (g : Guard) (reads : List Nat) (refs : Nat → List BRef),
    ((∃ (o : OpAt) (f : OpAt → Instr), (minor, f) ∈ atInstrs ∧ i = f o ∧ d = some o.d.toNat ∧ typ = o.typ.toNat ∧
        a = o.a.toNat ∧ b = o.b.toNat ∧ space = o.space.toNat ∧ scope = o.scope.toNat ∧ order = o.order.toNat ∧ la = o.la.toNat ∧
        ordBit = o.ord ∧ off = o.off.signExtend 64 ∧ g = o.g ∧ reads = o.a.toNat :: o.b.toNat :: (if o.typ = 2 then [o.b.toNat + 1] else []) ++
          (if minor = 9 then (if o.typ = 2 then [o.d.toNat, o.d.toNat + 1] else [o.d.toNat]) else [])) ∨
      (∃ (o : OpAtn) (f : OpAtn → Instr), (minor, f) ∈ atnInstrs ∧ i = f o ∧ d = none ∧ typ = o.typ.toNat ∧ a = o.a.toNat ∧
        b = o.b.toNat ∧ space = o.space.toNat ∧ scope = o.scope.toNat ∧ order = o.order.toNat ∧ la = 0 ∧ ordBit = o.ord ∧
        off = o.off.signExtend 64 ∧ g = o.g ∧ reads = [o.a.toNat, o.b.toNat])) →
    let regs := match d with
      | some r => if typ = 2 then [r, r + 1] else [r]
      | none => []
    let act := activeLanes cu c g
    let cls := if d.isSome then 1 else 2
    let k := fun (x : State) => x.d.core c.place.tower c.place.core
    let ord := c.handler = false ∧ (ordBit = true ∨ 3 ≤ typ ∧ (s.d.cmr c).getLsbD 6 = true)
    let two := fun (r l : Nat) => ((c.val r l).toNat + if typ = 2 then 2 ^ 64 * (c.val (r + 1) l).toNat else 0) % 2 ^ (8 * atomSize typ)
    Ready s cu c g (reads ++ regs) → Unfenced s cu → c.cnt.getD (cls - 1) 0 < 127 → (d.isSome = true → c.lateRoom regs) →
    (d = none → (k s).outbox.length + (maskLanes act).length ≤ 4096) → (∀ l ∈ maskLanes act, c.ea a l off % atomSize typ = 0) →
    (∀ l ∈ maskLanes act, locatedAt s cu c .atomic space (atomSize typ) (c.ea a l off) (refs l)) →
    (2 ≤ typ → ∀ l ∈ maskLanes act, ∀ r ∈ refs l, placeOf r.key ≠ 2 ∧ placeOf r.key ≠ 3) → (ord → c.seq ≠ 2 ^ 32 - 1) →
    (d ≠ none → noOverlap s cu act refs) →
    (d = none → ∃ (t : State) (c' : Crew) (op : Op), exec i s = .next t ∧ t.d.crew cu.crew = some c' ∧ threadsAdvance cu c c' ∧ c'.waits = c.waits ∧
      op ∈ t.d.ops ∧ op.crew = cu.crew ∧ op.iaddr = cu.addr ∧ op.done = false ∧ op.kind.isAtomic = true ∧
      (2 ≤ order → (∃ x ∈ s.d.ops, x.crew = cu.crew ∧ x.done = false ∧ x.owedBy (some scope) = true ∧ x.lanes &&& act ≠ 0) → t.d.gated op = true)) ∧
    (noneDirty s c act refs → (2 ≤ order → Quiet s cu c) → ∃ t : State, exec i s = .next t ∧
      (opIssued s t cu c g cls regs la fun op => op.done = false ∧ ∃ (lns : List AtomicLane) (tag : Option OrderTag), op.kind = .atomic minor typ (s.d.cmr c) d lns tag
          (if order % 2 = 1 then some scope else none) ∧
        lns.map (fun x => (x.lane, x.refs, x.opnd, x.newv)) = (maskLanes act).map (fun l =>
          (l, refs l, two b l, match d with | some r => if minor = 9 then two r l else 0 | none => 0)) ∧
        (∀ x ∈ lns, x.done = false ∧ x.accepted = false ∧ x.returned = false) ∧
        (ord → ∃ y : OrderTag, tag = some y ∧ y.gw = c.gw ∧ y.tw = c.tw ∧ y.crew = c.index ∧ y.seq = c.seq ∧
          ∀ tm : Team, s.d.teamOf c = some tm → y.team = tm.index) ∧ (¬ ord → tag = none) ∧
        (d = none → (k t).outbox = (k s).outbox ++ (maskLanes act).map fun l => (op.id, l))) ∧
      ∀ c' : Crew, t.d.crew cu.crew = some c' → (ord → c'.seq = c.seq + 1) ∧ (¬ ord → c'.seq = c.seq))

/-- At its executing place a lane of an unordered atomic reads the old value, writes the new one and nothing else, as one step, and keeps the old
value for its result register, which is written when every lane is done. The new value of an integer atomic is that of R144, and of a compare-and-
swap that of R145 (R142 to R145). -/
def Obligations.AtomicsAtTheirPlace : Prop :=
  (∀ (typ w minor : Nat) (cmr : BitVec 32) (old b new_ : BitVec w) (f : BitVec w → BitVec w → BitVec w), (typ, w) ∈ [(0, 32), (1, 64)] →
    ((minor, f) ∈ atomRule w → atomNew minor typ cmr old.toNat b.toNat new_.toNat = ((f old b).toNat, fNone)) ∧
    atomNew 9 typ cmr old.toNat b.toNat new_.toNat = ((if old = b then new_ else old).toNat, fNone)) ∧
  (∀ (cmr : BitVec 32) (old b new_ : Nat), atomNew 9 2 cmr old b new_ = (if old = b then new_ else old, fNone)) ∧
  ∀ (s : State) (op lane : Nat) (o : Op) (c : Crew) (minor typ : Nat) (cmr : BitVec 32) (reg : Option Nat) (ls : List AtomicLane)
    (acq : Option Nat) (x : AtomicLane), s.d.op op = some o → s.d.crew o.crew = some c → o.kind = .atomic minor typ cmr reg ls none acq →
    o.done = false → ls.find? (fun a => a.lane == lane && !a.done) = some x → (ls.map (·.lane)).Nodup →
    (∀ y ∈ ls, y.lane < lane → y.done = true ∨ ∀ r ∈ y.refs, ∀ z ∈ x.refs, r.key ≠ z.key) → s.work.inTurn o c false x = true →
    routeUp s c x.refs → s.d.meetsBad false x.refs = none → (x.refs.map (·.key)).Nodup → noLateTraps s → s.wf = true →
    let old := leNat (x.refs.map fun r => s.mem.get r.key)
    let new_ := (atomNew minor typ cmr old x.opnd x.newv).1
    ∃ t : State, exec (.atomicAtPlace op lane) s = .next t ∧ leNat (x.refs.map fun r => t.mem.get r.key) = new_ % 2 ^ (8 * x.refs.length) ∧
      memKeptBut s t (x.refs.map (·.key)) ∧
      ((∃ y ∈ ls, y.lane ≠ lane ∧ y.done = false) → ∃ (o' : Op) (ls' : List AtomicLane), t.d.op op = some o' ∧ o'.done = false ∧
        o'.kind = .atomic minor typ cmr reg ls' none acq ∧ ∃ y ∈ ls', y.lane = lane ∧ y.done = true ∧ y.old = old) ∧
      ((∀ y ∈ ls, y.lane ≠ lane → y.done = true) → ∀ r : Nat, reg = some r → typ ≠ 2 → o.lanes.getLsbD lane = true →
        (∀ z ∈ s.d.ops, z.id = op → z = o) → ∃ c' : Crew, t.d.crew o.crew = some c' ∧ c'.val r lane = BitVec.ofNat 64 old)

/-- The horizon reports and updates raise the value a place holds and never lower it; a reorder queue with room takes an ordered lane; one sent back
is sent again; and the lowest-tagged held lane of its line below the horizon, and only that, is applied (R150, R151, R153). A race check reads and
writes shadow words alone, and an access that races with no one reports nothing (R155, R157). -/
def Obligations.OrderedAtomicsAndRaces : Prop :=
  (∀ (s : State) (g : Grid) (id : Nat), s.d.grid id = some g → ∃ (t : State) (h : OrderTag), exec (.horizonReport id) s = .next t ∧ t.d.heldH 8 id = some h ∧
    (s.d.heldH 8 id = none → h = s.d.horizon g) ∧ (∀ old : OrderTag, s.d.heldH 8 id = some old → h = if old.lt (s.d.horizon g) then s.d.horizon g else old) ∧
    (∀ k : Nat, t.mem.get k = s.mem.get k) ∧ t.d.crews = s.d.crews ∧ t.d.ops = s.d.ops) ∧
  (∀ (s : State) (tower id : Nat) (h : OrderTag), tower < 8 → s.d.heldH 8 id = some h → ∃ (t : State) (h' : OrderTag), exec (.horizonUpdate tower id) s = .next t ∧
    t.d.heldH tower id = some h' ∧ t.d.heldH 8 id = some h ∧ (s.d.heldH tower id = none → h' = h) ∧
    (∀ old : OrderTag, s.d.heldH tower id = some old → h' = if old.lt h then h else old) ∧ (∀ k : Nat, t.mem.get k = s.mem.get k) ∧ t.d.ops = s.d.ops) ∧
  (∀ (s : State) (op lane : Nat) (o : Op) (c : Crew) (minor typ : Nat) (cmr : BitVec 32) (reg : Option Nat) (ls : List AtomicLane) (tag : OrderTag)
    (acq : Option Nat) (x : AtomicLane), s.d.op op = some o → s.d.crew o.crew = some c → o.kind = .atomic minor typ cmr reg ls (some tag) acq →
    (ls.map (·.lane)).Nodup → (∀ z ∈ s.d.ops, z.id = op → z = o) → x ∈ ls → x.lane = lane → x.done = false →
    let p := s.work.reorderPlace c x.refs
    let here := (s.d.tower p.1).held.filter fun h => h.place == p.2.1
    (x.accepted = false → x.returned = true → ∃ (t : State) (o' : Op) (ls' : List AtomicLane), exec (.orderedAtomicResend op lane) s = .next t ∧ t.d.op op = some o' ∧
      o'.kind = .atomic minor typ cmr reg ls' (some tag) acq ∧ (∃ y ∈ ls', y.lane = lane ∧ y.returned = false) ∧ t.mem = s.mem) ∧
    (x.accepted = false → x.returned = false → s.work.inTurn o c true x = true → here.length < 64 → ∃ (t : State) (e : Held), exec (.orderedAtomicAccept op lane) s = .next t ∧
      (t.d.tower p.1).held = (s.d.tower p.1).held ++ [e] ∧ e.place = p.2.1 ∧ e.line = p.2.2 ∧ e.op = op ∧ e.lane = lane ∧
      e.tag = { tag with lane := lane } ∧ e.faulted = false ∧ t.mem = s.mem) ∧
    (∀ (e : Held) (h : OrderTag), x.accepted = true → (s.d.tower p.1).held.find? (fun h => h.place == p.2.1 && h.op == op && h.lane == lane) = some e →
      s.d.heldH p.1 e.grid = some h → e.cancelled = false → routeUp s c x.refs → s.d.meetsBad false x.refs = none → (x.refs.map (·.key)).Nodup → noLateTraps s → s.wf = true →
      let line := (s.d.tower p.1).held.filter fun h => h.place == p.2.1 && h.line == e.line
      let old := leNat (x.refs.map fun r => s.mem.get r.key)
      ((∀ y ∈ line, y.faulted = false ∧ (y = e ∨ y.grid ≠ e.grid ∨ e.tag.lt y.tag = true)) → e.tag.lt h = true →
        ∃ t : State, exec (.orderedAtomicApply op lane) s = .next t ∧ e ∉ (t.d.tower p.1).held ∧ memKeptBut s t (x.refs.map (·.key)) ∧
          leNat (x.refs.map fun r => t.mem.get r.key) = (atomNew minor typ cmr old x.opnd x.newv).1 % 2 ^ (8 * x.refs.length)) ∧
      ((∃ y ∈ line, y.faulted = true ∨ (y ≠ e ∧ y.grid = e.grid ∧ e.tag.lt y.tag = false)) ∨ e.tag.lt h = false → exec (.orderedAtomicApply op lane) s = .next s))) ∧
  ∀ (s : State) (id : Nat) (r : RaceReq) (c : Crew) (p : Part) (x : Ctx), s.d.races.find? (fun r => r.id == id) = some r → r.lanes ≠ [] →
    s.d.crew r.crew = some c → s.d.part c.place.tower = some p → s.d.ctxOf c.place.tower = some x →
    (∀ l ∈ r.lanes, p.hbm (s.d.shadowKey l.2.1) = true ∧
      let v := s.work.num (s.d.shadowKey l.2.1) 8
      (Machine.bit 0 v = false ∨ Machine.bits 63 40 v = r.gid) ∧ (r.kind = 0 ∨ Machine.bit 1 v = false)) →
    (r.lanes.map fun l => s.d.shadowKey l.2.1).Nodup → (∀ l ∈ r.lanes, s.d.shadowKey l.2.1 % 8 = 0) → s.wf = true →
    ∃ t : State, exec (.raceCheck id) s = .next t ∧ (∀ y ∈ t.d.races, y.id ≠ id) ∧ t.d.parts = s.d.parts ∧ t.d.crews = s.d.crews ∧
      memKeptBut s t (r.lanes.flatMap fun l => (List.range 8).map fun j => s.d.shadowKey l.2.1 + j) ∧
      ∀ l ∈ r.lanes, r.kind = 1 → r.gid < 2 ^ 24 → let v := t.work.num (s.d.shadowKey l.2.1) 8
        Machine.bits 63 40 v = r.gid ∧ Machine.bits 39 32 v = r.te % 256 ∧ Machine.bits 31 24 v = r.ge % 256 ∧ Machine.bit 0 v = true ∧
        Machine.bit 1 v = false ∧ Machine.bit 2 v = true

/-! ## Copies, arrival words and rings (05, 15) -/

/-- KICK takes its records at issue, each an operation of CPY, and writes the kick register; ARRS and ARRA go into flight in GST; ARRW waits for a
generation that is not reached; DIGB and DIGE add to the root grid's digest declaration (R124, R125, R131, R306 to R309, R311). That requests in
progress count among the 512 records is the model's choice (assumption 47). -/
def Obligations.AsyncIssues : Prop :=
  ∀ (s : State) (cu : Cur) (c : Crew), c.handler = false → Unfenced s cu →
    let k := fun (x : State) => x.d.core c.place.tower c.place.core
    let idle := ∀ x ∈ s.d.ops, x.crew = cu.crew → x.done = true
    (∀ o : OpSt, Ready s cu c o.g [o.a.toNat, o.b.toNat] →
      let l := lowLane (activeLanes cu c o.g)
      let n := (c.val o.b.toNat l).toNat
      let ea := c.ea o.a.toNat l (o.off.signExtend 64)
      let kicked := fun (t : State) => (k t).kick.extractLsb' 32 24 = BitVec.ofNat 24 c.place.gid ∧ ((k t).kick.extractLsb' 18 7).toNat = n ∧
        (k t).kick.extractLsb' 5 13 = (BitVec.ofNat 64 ea).extractLsb' 5 13 ∧ (k t).kick.extractLsb' 0 5 = 0
      (n = 0 → ∃ t : State, exec (.kick o) s = .next t ∧ crewGoesOn s t cu c ∧ kicked t ∧ (k t).copies = (k s).copies ∧ t.d.ops = s.d.ops) ∧
      (127 < n → ∀ p : Part, Running s c p → ∃ t : State, exec (.kick o) s = .next t ∧ faultTaken s t cu c o.g p .badKickCount) ∧
      (∀ refs : List BRef, 1 ≤ n → n ≤ 127 → idle → c.cnt.getD 2 0 + n ≤ 127 → (k s).copies.length + n ≤ 512 →
        locatedAt s cu c .load 2 (32 * n) (ea / 32 * 32) refs → s.d.meetsBad false refs = none → ∃ (t : State) (c' : Crew) (ops : List Op) (recs : List CopyReq), exec (.kick o) s = .next t ∧ kicked t ∧
          t.d.crew cu.crew = some c' ∧ (∀ j : Nat, c'.cnt.getD j 0 = c.cnt.getD j 0 + if j = 2 then n else 0) ∧ (∀ r : Nat, ∀ j < 32, c'.val r j = c.val r j) ∧
          c'.sp = c.sp ∧ threadsAdvance cu c c' ∧ othersKept s t cu.crew ∧ t.d.ops = s.d.ops ++ ops ∧ (k t).copies = (k s).copies ++ recs ∧
          ops.length = n ∧ recs.length = n ∧ ∀ j < n, ∃ (x : Op) (r : CopyReq), ops[j]? = some x ∧ recs[j]? = some r ∧ x.kind = .copy ∧ x.cls = 3 ∧ x.crew = cu.crew ∧
            x.done = false ∧ r.op = x.id ∧ r.crew = cu.crew ∧ r.iaddr = cu.addr ∧ r.recOff = ea / 32 * 32 + 32 * j ∧ r.started = false ∧
            r.kick = (k t).kick ∧ r.recd = s.work.num (((refs[32 * j]?).map (·.key)).getD 0) 32)) ∧
    (∀ (o : OpSt) (refs : List BRef), Ready s cu c o.g [o.a.toNat, o.b.toNat] →
      let l := lowLane (activeLanes cu c o.g)
      let ea := c.ea o.a.toNat l (o.off.signExtend 64)
      let key := ((refs.head?).map (·.key)).getD 0
      let want := (c.val o.b.toNat l).toNat % 2 ^ 32
      ea % 16 = 0 → idle →
      (locatedAt s cu c .atomic 2 16 ea refs → c.cnt.getD 1 0 < 127 → ∃ t : State, exec (.arrs o) s = .next t ∧
        opIssued s t cu c o.g 2 [] 0 fun x => x.kind = .arrival key ea false want ∧ x.done = false) ∧
      (locatedAt s cu c .load 2 16 ea refs → s.d.meetsBad false (wordRefs key) = none →
        let gen := s.work.num (key + 8) 4
        ((gen + 2 ^ 32 - want) % 2 ^ 32 < 2 ^ 31 → ∃ t : State, exec (.arrw o) s = .next t ∧ crewGoesOn s t cu c) ∧
        (¬ (gen + 2 ^ 32 - want) % 2 ^ 32 < 2 ^ 31 → ∃ (t : State) (c' : Crew) (w : Wait), exec (.arrw o) s = .next t ∧ t.d.crew cu.crew = some c' ∧
          c'.waits = c.waits ++ [w] ∧ w.mask = cu.group ∧ w.cond = .arrival key want ∧ w.again = false ∧ w.next = cu.ret ∧
          threadsGo cu c c' cu.group (fun _ => cu.addr) (fun _ x => x.m) ∧ valuesKept c c' ∧ c'.cnt = c.cnt ∧ c'.sp = c.sp ∧
          othersKept s t cu.crew))) ∧
    (∀ (o : OpAd) (refs : List BRef), Ready s cu c o.g [o.a.toNat] →
      let ea := c.ea o.a.toNat (lowLane (activeLanes cu c o.g)) (o.off.signExtend 64)
      ea % 16 = 0 → idle → locatedAt s cu c .atomic 2 16 ea refs → c.cnt.getD 1 0 < 127 → ∃ t : State, exec (.arra o) s = .next t ∧
        opIssued s t cu c o.g 2 [] 0 fun x => x.kind = .arrival (((refs.head?).map (·.key)).getD 0) ea true 0 ∧ x.done = false) ∧
    (∀ (o : OpSt) (r : Grid), Ready s cu c o.g [o.a.toNat, o.b.toNat] → c.cnt.getD 1 0 < 127 → s.d.rootOf c = some r →
      let l := lowLane (activeLanes cu c o.g)
      let a := c.ea o.a.toNat l (o.off.signExtend 64)
      let n := (c.val o.b.toNat l).toNat
      1 ≤ n → a + n ≤ 2 ^ 52 → (∀ v : Nat, (v = a ∨ a < v ∧ v < a + n ∧ v % 2 ^ 16 = 0) → ∃ refs : List BRef, locatedAt s cu c .load 0 1 v refs) →
      (r.regions.length < 16 → ∃ (t : State) (r' : Grid), exec (.digb o) s = .next t ∧ (opPut s t cu c o.g 2 [] 0 fun x => x.kind = .instant ∧ x.done = true) ∧
        t.d.grid r.id = some r' ∧ r' = { r with regions := r.regions ++ [(BitVec.ofNat 64 a, BitVec.ofNat 64 n)] } ∧ (∀ j : Nat, t.mem.get j = s.mem.get j)) ∧
      (16 ≤ r.regions.length → ∀ p : Part, Running s c p → ∃ t : State, exec (.digb o) s = .next t ∧ faultTaken s t cu c o.g p .digestFull)) ∧
    ∀ (o : OpAd) (r : Grid) (refs : List BRef), Ready s cu c o.g [o.a.toNat] → c.cnt.getD 1 0 < 127 → s.d.rootOf c = some r →
      let a := c.ea o.a.toNat (lowLane (activeLanes cu c o.g)) (o.off.signExtend 64)
      a % 64 = 0 → locatedAt s cu c .store o.space.toNat 64 a refs →
      (r.digestDest = none → ∃ (t : State) (r' : Grid), exec (.dige o) s = .next t ∧ (opPut s t cu c o.g 2 [] 0 fun x => x.kind = .instant ∧ x.done = true) ∧
        t.d.grid r.id = some r' ∧ r' = { r with digestDest := some (o.space.toNat, BitVec.ofNat 64 a) } ∧ (∀ j : Nat, t.mem.get j = s.mem.get j)) ∧
      (r.digestDest ≠ none → ∀ p : Part, Running s c p → ∃ t : State, exec (.dige o) s = .next t ∧ faultTaken s t cu c o.g p .digestTwice)

/-- The ring instructions send one operation a lane, with the operands of R310; RCLM and RAWT wait for their result (R306, R310). A ring operation
on a well-formed header acts by the table of R134, and on no other header: a claim takes room, an await takes what is committed, a commit or retire
goes on from where the last one ended (R133, R134). That a count of 0 meets no fault of the table is the model's reading (assumption 46). -/
def Obligations.Rings : Prop :=
  (∀ (s : State) (cu : Cur) (c : Crew) (i : Instr) (op : RingOp) (packed : Bool) (d : Option Nat) (a b space scope : Nat) (off : Word) (g : Guard)
    (refs : Nat → List BRef),
    ((∃ o : OpDabExt, ((i = .rclm o ∧ op = .claim) ∨ (i = .rawt o ∧ op = .await)) ∧ packed = false ∧ d = some o.d.toNat ∧ a = o.a.toNat ∧
        b = o.b.toNat ∧ space = o.space.toNat ∧ scope = o.scope.toNat ∧ off = o.off.signExtend 64 ∧ g = o.g) ∨
      (∃ o : OpSt, ((i = .rcmt o ∧ op = .commit) ∨ (i = .rret o ∧ op = .retire)) ∧ packed = true ∧ d = none ∧ a = o.a.toNat ∧ b = o.b.toNat ∧
        space = o.space.toNat ∧ scope = o.scope.toNat ∧ off = o.off.signExtend 64 ∧ g = o.g)) →
    let act := activeLanes cu c g
    let cls := if packed then 2 else 1
    let v := fun l => (c.val b l).toNat
    Ready s cu c g (a :: b :: d.toList) → Unfenced s cu → c.cnt.getD (cls - 1) 0 < 127 → (packed = false → c.lateRoom d.toList) →
    (∀ l ∈ maskLanes act, locatedAt s cu c .atomic space 64 (c.ea a l off) (refs l)) → noOverlap s cu act refs → noneDirty s c act refs →
    (packed = true → Quiet s cu c) →
    ∃ (t : State) (c' : Crew) (x : Op) (ls : List RingLane), exec i s = .next t ∧ t.d.crew cu.crew = some c' ∧ t.d.ops = s.d.ops ++ [x] ∧ x.crew = cu.crew ∧ x.cls = cls ∧ x.lanes = act ∧
      x.iaddr = cu.addr ∧ x.done = false ∧ x.kind = .ring op d ls scope ∧
      ls.map (fun y => (y.lane, y.refs, y.start, y.n, y.state)) = (maskLanes act).map (fun l =>
        (l, refs l, if packed then v l % 2 ^ 32 else 0, if packed then v l / 2 ^ 32 else v l % 2 ^ 32, 0)) ∧
      (∀ j : Nat, c'.cnt.getD j 0 = c.cnt.getD j 0 + if j + 1 = cls then 1 else 0) ∧ valuesKept c c' ∧ c'.sp = c.sp ∧ c'.pend.length = c.pend.length ∧
      othersKept s t cu.crew ∧
      (packed = true → threadsAdvance cu c c' ∧ c'.waits = c.waits) ∧
      (packed = false → threadsGo cu c c' cu.group (fun _ => cu.addr) (fun _ y => y.m) ∧ ∃ w : Wait, c'.waits = c.waits ++ [w] ∧ w.mask = cu.group ∧
        w.cond = .result x.id ∧ w.again = false ∧ w.next = cu.ret ∧ w.dests = d.toList)) ∧
  (∀ (op : RingOp) (v start n : Nat), n < 2 ^ 32 → start < 2 ^ 32 →
    let r := Ring.ofNat v
    let dist : Nat → Nat → Int := fun x y => ((x : Int) - (y : Int)) % 2 ^ 32
    (ringOk v = false → ringStep op v start n = .bad) ∧
    (ringOk v = true → (∃ j ≤ 31, r.cap = 2 ^ j) ∧ dist r.head r.retire ≤ dist r.commit r.retire ∧ dist r.commit r.retire ≤ dist r.claim r.retire ∧
      dist r.claim r.retire ≤ r.cap) ∧
    (ringOk v = true → n = 0 → ringStep op v start n = match op with
      | .claim => .go 4 r.claim r.claim
      | .commit => .go 8 r.commit 0
      | .await => .go 12 r.head r.head
      | .retire => .go 16 r.retire 0) ∧
    (ringOk v = true → r.cap < n → ringStep op v start n = .bad) ∧
    (ringOk v = true → 1 ≤ n → n ≤ r.cap → ringStep op v start n = match op with
      | .claim => if dist r.claim r.retire + n ≤ r.cap then .go 4 ((r.claim + n) % 2 ^ 32) r.claim else .wait
      | .await => if (n : Int) ≤ dist r.commit r.head then .go 12 ((r.head + n) % 2 ^ 32) r.head else .wait
      | .commit => if dist (start + n) r.commit > dist r.claim r.commit ∨ (1 ≤ dist r.commit start ∧ dist r.commit start ≤ 2 ^ 31) then .bad
          else if r.commit = start then .go 8 ((start + n) % 2 ^ 32) 0 else .wait
      | .retire => if dist (start + n) r.retire > dist r.head r.retire ∨ (1 ≤ dist r.retire start ∧ dist r.retire start ≤ 2 ^ 31) then .bad
          else if r.retire = start then .go 16 ((start + n) % 2 ^ 32) 0 else .wait))

/-- The request engine starts a request, applies a granule with its bytes counted, and an arrival word takes ARRS, ARRA and additions by R129; a
ring operation that applies at its place writes its index and nothing else, and one sent back is translated afresh and sent again (R46, R125, R126, R129, R130, R134, R135,
R309). -/
def Obligations.AsyncEngineSteps : Prop :=
  (∀ (s : State) (op : Nat) (c : Crew) (r : CopyReq) (q : Who), s.d.copyReq op = some (c, r) → s.d.engineWho c = some q → r.started = false →
    let k := fun (x : State) => x.d.core c.place.tower c.place.core
    let cp := Copy.ofNat r.recd
    ((k s).copies.find? fun x => !x.started) = some r → s.d.engineRuns c.place.tower c.place.core .request = true →
    ((k s).copies.filter (·.started)).length < 16 → cp.malformed r.recd q.x ((s.d.localGranules c).length * 1024) = false → cp.granules q.x ≠ 0 →
    ∃ t : State, exec (.copyRequestStart op) s = .next t ∧ (∀ x ∈ (k t).copies, x.op = op → x.started = true) ∧
      (k t).copies.map (fun x => (x.op, x.recd, x.bytesDone, x.applied)) = (k s).copies.map (fun x => (x.op, x.recd, x.bytesDone, x.applied)) ∧
      t.mem = s.mem ∧ t.d.crews = s.d.crews ∧ t.d.ops = s.d.ops) ∧
  (∀ (s : State) (op u j : Nat) (c : Crew) (r : CopyReq) (q : Who) (bytes : List Byte) (refs : List BRef), s.d.copyReq op = some (c, r) →
    s.d.engineWho c = some q → r.started = true → r.stopped = false → r.applied.contains (u * 2 ^ 32 + j) = false →
    s.d.engineRuns c.place.tower c.place.core .request = true →
    let cp := Copy.ofNat r.recd
    let sp := cp.span q.x u j
    u < (cp.units).1 → j < cp.blocks q.x u → cp.noarr = true → s.work.copySource q (s.d.localGranules c) cp u sp.1 sp.2 = .ok bytes →
    s.work.locate q (s.d.localGranules c) .copyDst cp.dspace ((cp.dstOf q.x u + sp.1) % 2 ^ 64) sp.2 = .ok refs → routeUp s c refs → s.d.meetsBad true refs = none →
    s.work.passes c.place.tower c.place.core (s.work.copyReads q (s.d.localGranules c) cp u sp.1 sp.2 ++ refs) = false →
    (refs.map (·.key)).Nodup → bytes.length = refs.length → noLateTraps s → s.wf = true →
    ∃ t : State, exec (.copyGranule op u j) s = .next t ∧ (∀ (n : Nat) (x : BRef) (b : Byte), refs[n]? = some x → bytes[n]? = some b → t.mem.get x.key = b) ∧
      memKeptBut s t (refs.map (·.key)) ∧
      (r.applied.length + 1 ≠ cp.granules q.x → ∃ r' : CopyReq, t.d.copyReq op = some (c, r') ∧ r'.applied = r.applied ++ [u * 2 ^ 32 + j] ∧
        r'.bytesDone = r.bytesDone + sp.2)) ∧
  (∀ (w : Work) (key off n : Nat) (f : Reason → FaultInfo), n < 2 ^ 32 →
    let v := w.num key 16
    let v' := (w.arrivalAdd key off n f).num key 16
    let count := Machine.bits 63 32 v + n
    Machine.bits 127 98 v = 0 → w.d.meetsBad false (wordRefs key) = none → localBase ≤ key → (∀ p ∈ w.d.parts, p.low < 8) →
    Machine.bits 31 0 v' = Machine.bits 31 0 v ∧
    (Machine.bit 96 v = false ∨ Machine.bit 97 v = true → Machine.bits 63 32 v' = count % 2 ^ 32 ∧ Machine.bits 127 64 v' = Machine.bits 127 64 v) ∧
    (Machine.bit 96 v = true → Machine.bit 97 v = false →
      (count < Machine.bits 31 0 v → Machine.bits 63 32 v' = count ∧ Machine.bits 127 64 v' = Machine.bits 127 64 v) ∧
      (count = Machine.bits 31 0 v → Machine.bits 63 32 v' = 0 ∧ Machine.bits 95 64 v' = (Machine.bits 95 64 v + 1) % 2 ^ 32 ∧
        Machine.bits 127 96 v' = Machine.bits 127 96 v) ∧
      (Machine.bits 31 0 v < count → Machine.bits 63 32 v' = count % 2 ^ 32 ∧ Machine.bits 95 64 v' = Machine.bits 95 64 v ∧
        Machine.bit 97 v' = true ∧ Machine.bit 96 v' = true))) ∧
  (∀ (s : State) (op : Nat) (o : Op) (c : Crew) (key off target : Nat), s.d.op op = some o → s.d.crew o.crew = some c → o.done = false →
    o.kind = .arrival key off false target → target < 2 ^ 32 → s.d.meetsBad false (wordRefs key) = none → noLateTraps s → s.wf = true → ∃ t : State, exec (.accessAtExecutingPlace op 0) s = .next t ∧
      t.work.num key 16 = target + Machine.bits 95 64 (s.work.num key 16) * 2 ^ 64 ∧
      memKeptBut s t ((List.range 16).map (key + ·))) ∧
  (∀ (s : State) (op lane : Nat) (o : Op) (c : Crew) (rop : RingOp) (reg : Option Nat) (ls : List RingLane) (sc : Nat) (x : RingLane)
    (off value ret : Nat), s.d.op op = some o → s.d.crew o.crew = some c → o.kind = .ring rop reg ls sc → (ls.map (·.lane)).Nodup →
    x ∈ ls → x.lane = lane →
    (∀ (q : Who) (rs : List BRef), x.state = 4 → s.d.relands o.crew = false → s.d.who c = some q → s.work.afresh q .atomic x.refs = .ok rs →
      ∃ (t : State) (o' : Op) (ls' : List RingLane), exec (.ringOpResend op lane) s = .next t ∧ t.d.op op = some o' ∧ o'.kind = .ring rop reg ls' sc ∧
        (∃ y ∈ ls', y.lane = lane ∧ y.state = 0 ∧ y.refs = rs) ∧ t.mem = s.mem) ∧
    (x.state = 0 → s.d.linesPending c x.refs = false → s.work.overtakes c.place.tower c.place.core (max op x.sent) x.refs = false → routeUp s c x.refs →
      (∀ y ∈ ls, y.lane < lane → y.state ≠ 0) → s.d.meetsBad false x.refs = none →
      (∃ key : Nat, key % 64 = 0 ∧ x.refs.map (·.key) = (List.range 64).map (key + ·)) → noLateTraps s → s.wf = true → s.d.ringWaiters = [] →
      ringStep rop (leNat (x.refs.map fun y => s.mem.get y.key)) x.start x.n = .go off value ret → value < 2 ^ 32 → off + 4 ≤ 64 →
      ∃ t : State, exec (.ringOpAtPlace op lane) s = .next t ∧ leNat (((x.refs.drop off).take 4).map fun y => t.mem.get y.key) = value ∧
        memKeptBut s t (((x.refs.drop off).take 4).map (·.key))))

/-! ## Tasks, versions and bins (07_versioned_tiles.md, 15_isa_async_and_tasks.md, 20_scheduling.md) -/

/-- LNCH queues a child grid or says why not, in the order of R313; BINP sends the record it read from local memory to its node's bin; PRDR gives
the last reading of a conditional node; GSYNC arrives and waits, or completes the barrier once every other crew has arrived, or has ended with its
counters zero; MIGR asks for its landing core's slot and waits past itself, acquiring at device scope when it is over (R96, R174, R187, R194, R313 to R316). A version-cell instruction whose cell is located sends one operation to the cell's home slice with its operand,
and waits for its answer where it has one; a premature VFIN, a 17th tile and a release of a get not held stop before anything is sent (R161, R162,
R165, R317). -/
def Obligations.TasksAndVersionsIssue : Prop :=
  (∀ (s : State) (cu : Cur) (c : Crew) (tm : Team) (g root : Grid) (q : Who), c.handler = false → c.landed = false → Unfenced s cu →
    c.cnt.getD 5 0 < 127 → s.d.teamOf c = some tm → s.d.gridOf c = some g → s.d.rootOf c = some root → s.d.who c = some q →
    let counted := fun (t : State) (c' : Crew) => t.d.crew cu.crew = some c' ∧ ∀ k : Nat, c'.cnt.getD k 0 = c.cnt.getD k 0 + if k = 5 then 1 else 0
    (∀ o : OpTkDA, Ready s cu c o.g [o.a.toNat, o.d.toNat] → c.roomForG o.d.toNat → Quiet s cu c → c.index = 0 →
      (activeLanes cu c o.g).getLsbD 0 = true → g.depth < 10 →
      let addr := c.val o.a.toNat 0 + o.off.signExtend 64
      let p := q.p
      let status := match s.work.readRecord (p.who q.x) addr with
        | none => 1
        | some r => if r.ranget ≠ root.launch.ranget then 2 else if r.cmrv ≠ q.x.cmr then 3
          else if r.subt ≠ root.launch.subt ∨ r.subn ≠ root.launch.subn then 4
          else if r.coop = true ∧ r.placeable (s.work.logical p).length = false then 5
          else if r.graphp ≠ 0 ∧ r.graphp ≠ root.launch.graphp then 7
          else if 64 ≤ ((s.d.tower c.place.tower).queues.getD r.prio []).length then 6 else 0
      (∀ f : FaultInfo, s.work.recordGot (p.who q.x) addr ≠ .error (some f)) →
      ∃ (t : State) (c' : Crew), exec (.lnch o) s = .next t ∧ counted t c' ∧ writesReg cu c c' o.g o.d.toNat (fun _ v => v = BitVec.ofNat 64 status) ∧
        (∀ r : Nat, c'.pred r = c.pred r) ∧ c'.sp = c.sp ∧ threadsAdvance cu c c' ∧ (∀ k : Nat, t.mem.get k = s.mem.get k) ∧
        (status ≠ 0 → t.d.grids = s.d.grids ∧ t.d.ctxs = s.d.ctxs ∧ t.d.parts = s.d.parts ∧ t.d.towers = s.d.towers) ∧
        (status = 0 → ∃ (r : LaunchRec) (child : Grid), s.work.readRecord (p.who q.x) addr = some r ∧ t.d.grids = s.d.grids ++ [child] ∧ child.launch = r ∧
          child.recAddr = addr ∧ child.depth = g.depth + 1 ∧ child.parentTeam = some tm.id ∧ child.parentGrid = some g.id ∧ child.root = root.id ∧
          child.tower = c.place.tower ∧ child.phase = .queued ∧
          (r.prio < (s.d.tower c.place.tower).queues.length → (t.d.tower c.place.tower).queues.getD r.prio [] =
            (s.d.tower c.place.tower).queues.getD r.prio [] ++ [child.id]) ∧
          ((s.d.ctx q.x.ctxid).isSome = true → (t.d.ctx q.x.ctxid).map (·.gridEpoch) = some (q.x.gridEpoch + 1)))) ∧
    (∀ (o : OpTkAB) (refs : List BRef) (n : GraphNode), Ready s cu c o.g [o.a.toNat, o.b.toNat] → Quiet s cu c →
      let l := lowLane (activeLanes cu c o.g)
      let ea := c.ea o.a.toNat l (o.off.signExtend 64)
      let k := (c.val o.b.toNat l).toNat % 256
      ea % 64 = 0 → locatedAt s cu c .load 2 64 ea refs → s.d.meetsBad false refs = none → (root.graph.bind fun x => x.nodes[k]?) = some n →
      ∃ t : State, exec (.binp o) s = .next t ∧ opIssued s t cu c o.g 6 [] 0 fun op => op.done = false ∧
        op.kind = .binPush n.tower n.bin (refs.map fun r => s.mem.get r.key)) ∧
    (∀ o : OpTkDB, Ready s cu c o.g [o.b.toNat, o.d.toNat, o.d.toNat + 1] → c.gcount + 2 ≤ c.gbud →
      let k := (c.val o.b.toNat (lowLane (activeLanes cu c o.g))).toNat % 256
      let node := root.graph.bind fun x => x.nodes[k]?
      let told := fun (n : GraphNode) => n.pred ≠ 0 ∧ n.decisions ≠ 0
      ∃ (t : State) (c' : Crew), exec (.prdr o) s = .next t ∧ counted t c' ∧ (∀ l < 32, (activeLanes cu c o.g).getLsbD l = true →
        (∀ n : GraphNode, node = some n → told n → c'.val o.d.toNat l = n.lastPred ∧
          (c'.val (o.d.toNat + 1) l).extractLsb' 0 32 = BitVec.ofNat 32 n.decisions ∧ (c'.val (o.d.toNat + 1) l).getLsbD 32 = n.launched ∧
          (c'.val (o.d.toNat + 1) l).extractLsb' 33 31 = 0) ∧
        ((∀ n : GraphNode, node = some n → ¬ told n) → c'.val o.d.toNat l = 0 ∧ c'.val (o.d.toNat + 1) l = 0)) ∧
        (∀ r l : Nat, l < 32 → r ≠ o.d.toNat → r ≠ o.d.toNat + 1 → c'.val r l = c.val r l) ∧ (∀ p : Nat, c'.pred p = c.pred p) ∧ c'.sp = c.sp ∧
        threadsAdvance cu c c' ∧ othersKept s t cu.crew) ∧
    (∀ o : OpTkG, Ready s cu c o.g [] → Quiet s cu c → g.launch.coop = true → c.gw < 2 ^ 32 - 1 → (∀ x ∈ s.d.crews, x.gw < 2 ^ 32 - 1) →
      cu.crew ∈ tm.crews → tm ∈ s.d.teams →
      let crews := (s.d.teams.filter fun x => x.grid == g.id).flatMap (·.crews)
      let all := ∀ n ∈ crews, n = cu.crew ∨ ∀ x : Crew, s.d.crew n = some x → x.gpend = true ∨ s.d.crewEnded n = true ∧ ∀ k ∈ x.cnt, k = 0
      ∃ (t : State) (c' : Crew) (w : Wait), exec (.gsync o) s = .next t ∧ counted t c' ∧ valuesKept c c' ∧ c'.sp = c.sp ∧ (∀ k : Nat, t.mem.get k = s.mem.get k) ∧
        w.mask = cu.group ∧ w.again = false ∧ w.next = cu.ret ∧ w.acquire = some 4 ∧
        (¬ all → c'.waits = c.waits ++ [w] ∧ w.cond = .gridBarrier) ∧
        (all → c'.waits = (c.waits.map fun y => if y.cond == .gridBarrier then { y with cond := .over } else y) ++ [w] ∧ w.cond = .over) ∧
        (∃ op : Op, t.d.ops.getLast? = some op ∧ op.crew = cu.crew ∧ op.kind = .gsync ∧ (op.done = true ↔ all)) ∧
        (¬ all → c'.gpend = true ∧ c'.gw = c.gw ∧ t.d.ctxs = s.d.ctxs) ∧
        (all → c'.gpend = false ∧ c'.gw = c.gw + 1 ∧ ∀ x : Ctx, s.d.ctx g.ctx = some x → (t.d.ctx g.ctx).map (·.gridEpoch) = some (x.gridEpoch + 1))) ∧
    ∀ (o : OpTkA) (refs : List BRef) (r : BRef), Ready s cu c o.g [o.a.toNat] →
      locatedAt s cu c .load 0 1 (c.ea o.a.toNat (lowLane (activeLanes cu c o.g)) (o.off.signExtend 64)) refs → refs.head? = some r →
      let h := s.work.homeOf c.place.tower c.place.core r.tag r.key
      ∃ (t : State) (c' : Crew) (w : Wait) (op : Op), exec (.migr o) s = .next t ∧ counted t c' ∧ valuesKept c c' ∧ c'.sp = c.sp ∧ c'.place = c.place ∧
        c'.waits = c.waits ++ [w] ∧ w.mask = cu.group ∧ w.cond = .migration op.id ∧ w.again = false ∧ w.next = cu.ret ∧ w.acquire = some 4 ∧
        t.d.ops = s.d.ops ++ [op] ∧ op.crew = cu.crew ∧ op.done = false ∧ op.kind = .migrate 3 h.1 (s.work.landingCore h.1 h.2) ∧
        othersKept s t cu.crew) ∧
  (∀ (s : State) (cu : Cur) (c : Crew) (tm : Team) (i : Instr) (op : VerOp) (d pred : Option Nat) (a : Nat) (off : Word) (arg : Nat) (g : Guard)
    (reads : List Nat) (refs : List BRef) (r : BRef),
    let l := lowLane (activeLanes cu c g)
    ((∃ o : OpTkQA, (i = .vpub o ∧ op = .publish ∨ i = .vfin o ∧ op = .final) ∧ d = none ∧ pred = some o.q.toNat ∧ a = o.a.toNat ∧
        off = o.off.signExtend 64 ∧ arg = 0 ∧ g = o.g ∧ reads = [o.a.toNat]) ∨
      (∃ o : OpTkDA, (i = .vget o ∧ op = .get ∨ i = .stopref o ∧ op = .stopref) ∧ d = some o.d.toNat ∧ pred = none ∧ a = o.a.toNat ∧
        off = o.off.signExtend 64 ∧ arg = 0 ∧ g = o.g ∧ reads = [o.a.toNat]) ∨
      (∃ o : OpTkDAB, i = .vwait o ∧ op = .wait ∧ d = some o.d.toNat ∧ pred = none ∧ a = o.a.toNat ∧ off = o.off.signExtend 64 ∧
        arg = (c.val o.b.toNat l).toNat % 2 ^ 16 ∧ g = o.g ∧ reads = [o.a.toNat, o.b.toNat]) ∨
      (∃ o : OpTkRel, i = .vrel o ∧ op = .release ∧ d = none ∧ pred = none ∧ a = o.a.toNat ∧ off = o.off.signExtend 64 ∧
        arg = (if o.buf then 1 else 0) ∧ g = o.g ∧ reads = [o.a.toNat]) ∨
      (∃ o : OpTkAB, i = .vsub o ∧ op = .subscribe ∧ d = none ∧ pred = none ∧ a = o.a.toNat ∧ off = o.off.signExtend 64 ∧
        arg = (c.val o.b.toNat l).toNat % 2 ^ 16 ∧ g = o.g ∧ reads = [o.a.toNat, o.b.toNat])) →
    let ea := c.ea a l off
    let va := BitVec.ofNat 64 ea
    let held := ((tm.tiles.find? fun e => e.cell == va).map fun e => if arg = 0 then e.held0 else e.held1).getD 0
    let sends := op = .publish ∨ op = .final ∨ op = .release
    let entering := op = .publish ∨ op = .final ∨ op = .get
    c.handler = false → Ready s cu c g (reads ++ d.toList) → Unfenced s cu → c.cnt.getD 5 0 < 127 → (d ≠ none → c.lateRoom d.toList) →
    s.d.teamOf c = some tm → locatedAt s cu c .atomic 0 (if ea % 32 = 0 then 32 else 1) ea refs → refs.head? = some r →
    noOverlap s cu (BitVec.ofNat 32 (2 ^ l)) (fun _ => refs) →
    (op = .final → tm.inputsFinal = true) → (entering → s.d.tableFull tm va = false) → (op = .release → held ≠ 0) → (sends → Quiet s cu c) →
    noneDirty s c (activeLanes cu c g) (fun _ => cellRefs r.key) →
    ∃ (t : State) (c' : Crew) (x : Op), exec i s = .next t ∧ t.d.crew cu.crew = some c' ∧ t.d.ops = s.d.ops ++ [x] ∧ x.crew = cu.crew ∧ x.cls = 6 ∧ x.iaddr = cu.addr ∧
      x.lanes = activeLanes cu c g ∧ x.done = false ∧ x.kind = .version op r.key ea arg d pred 0 0 0 ∧
      (∀ j : Nat, c'.cnt.getD j 0 = c.cnt.getD j 0 + if j = 5 then 1 else 0) ∧ valuesKept c c' ∧ c'.sp = c.sp ∧ othersKept s t cu.crew ∧
      (d = none ∧ pred = none → threadsAdvance cu c c' ∧ c'.waits = c.waits) ∧
      (d ≠ none ∨ pred ≠ none → threadsGo cu c c' cu.group (fun _ => cu.addr) (fun _ y => y.m) ∧ ∃ w : Wait, c'.waits = c.waits ++ [w] ∧
        w.mask = cu.group ∧ w.cond = .result x.id ∧ w.again = false ∧ w.next = cu.ret ∧ w.dests = d.toList))

/-- What a version-cell operation does to its cell when it reaches the home slice (R162): a publish that its buffer's readers allow advances VER,
clears ABND, names the publisher's crew 0 in PROD and, where it is the final one, sets FIN; a get of a published cell counts a reader of the current
buffer; a release takes one away; STOPREF sets STOP; VSUB names an entry of the subscription table; a wait that is satisfied, and a get of a cell
that nothing has been published to, change nothing. A get, a wait and STOPREF return word 0. A publish that a reader of its buffer holds back, and a
wait not satisfied, wait at the slice and change nothing. A version delivered to a subscription takes the steps of R168: IDLE, it is pushed as a
record (R170) into its node's bin and the subscription runs; RUNNING, it is pending, replaces what was pending, and under REFIRE asks for a
cancellation, or under QUEUE is queued. A cancellation sets PRQ.CANCEL in a resident team's crews, and removes a grid from its launch queue (R392).
A record of BINP enters the bin and starts its timer if the bin was empty (R388, R390). A record that enters a bin is written into its tower's bin
store, where one is set (R388), at the place that assumption 72 names. Of the versions of a cell on their way to a subscription the oldest comes
first (R424). The settle word takes its oldest update (R172). -/
def Obligations.VersionCellsAndDeliveries : Prop :=
  (∀ (s : State) (op : Nat) (o : Op) (c : Crew) (tm : Team) (x : Ctx) (vo : VerOp) (key va arg : Nat) (reg pred : Option Nat) (since buf : Nat),
    s.d.op op = some o → s.d.crew o.crew = some c → s.d.teamOf c = some tm → s.d.ctxOf c.place.tower = some x → o.done = false →
    o.kind = .version vo key va arg reg pred 0 since buf → s.d.linesPending c (cellRefs key) = false → s.d.meetsBad false (cellRefs key) = none →
    s.work.overtakes c.place.tower c.place.core (max op since) (cellRefs key) = false →
    noLateTraps s → s.wf = true → s.d.ringWaiters = [] → s.d.versionWaiters = [] →
    s.work.versionsAt (s.work.waitPlace c.place.tower c.place.core { key := key, tag := flatTag key }) = [] →
    let v := fun (u : State) => u.work.num key 32
    let ver := Machine.bits 15 0 (v s)
    let fin := Machine.bit 16 (v s)
    let rd := fun (b : Nat) => Machine.bits (31 + 8 * b) (24 + 8 * b) (v s)
    let applied := fun (t : State) => exec (.versionOpAtSlice op) s = .next t ∧ memKeptBut s t ((List.range 32).map (key + ·))
    let told := fun (t : State) => ∀ r : Nat, reg = some r → ∃ c' : Crew, t.d.crew o.crew = some c' ∧
      ∀ l < 32, o.lanes.getLsbD l = true → c'.val r l = BitVec.ofNat 64 (v t)
    let waits := ∃ (t : State) (o' : Op) (n : Nat), exec (.versionOpAtSlice op) s = .next t ∧ (∀ j : Nat, t.mem.get j = s.mem.get j) ∧ t.d.crews = s.d.crews ∧
      t.d.teams = s.d.teams ∧ t.d.op op = some o' ∧ o' = { o with kind := .version vo key va arg reg pred 1 n buf }
    cellBad x va (v s) = false → (vo = .final → s.d.bad = []) →
    (vo = .publish ∨ vo = .final → fin = false → ver ≠ 0xFFFF →
      (rd ((ver + 1) % 2) = 0 → ∃ t : State, applied t ∧ Machine.bits 15 0 (v t) = ver + 1 ∧ Machine.bit 16 (v t) = decide (vo = .final) ∧
        Machine.bit 17 (v t) = Machine.bit 17 (v s) ∧ Machine.bit 18 (v t) = false ∧ Machine.bits 39 24 (v t) = Machine.bits 39 24 (v s) ∧
        Machine.bits 63 40 (v t) = s.d.teamTag tm % 2 ^ 24 ∧ Machine.bits 255 64 (v t) = Machine.bits 255 64 (v s)) ∧
      (rd ((ver + 1) % 2) ≠ 0 → waits)) ∧
    (vo = .get → ver = 0 → ∃ t : State, applied t ∧ v t = v s ∧ told t) ∧
    (vo = .get → ver ≠ 0 → rd (ver % 2) < 255 → ∃ t : State, applied t ∧ v t = v s + 2 ^ (24 + 8 * (ver % 2)) ∧ told t) ∧
    (vo = .release → arg < 2 → rd arg ≠ 0 → (∃ e : TileEntry, tm.tile (BitVec.ofNat 64 va) = some e ∧ e.heldOn arg ≠ 0) →
      ∃ t : State, applied t ∧ v t + 2 ^ (24 + 8 * arg) = v s) ∧
    (vo = .stopref → ∃ t : State, applied t ∧ v t = v s ||| 2 ^ 17 ∧ told t) ∧
    (vo = .subscribe → (arg = 0xFFFF ∨ ∃ g : Grid, s.d.rootOf c = some g ∧ arg < g.launch.subn) → arg < 2 ^ 16 →
      ∃ t : State, applied t ∧ Machine.bits 175 160 (v t) = arg ∧ Machine.bits 159 0 (v t) = Machine.bits 159 0 (v s)) ∧
    (vo = .wait → (arg ≤ ver ∨ fin = true ∨ Machine.bit 18 (v s) = true → ∃ t : State, applied t ∧ v t = v s ∧ told t) ∧
      (ver < arg → fin = false → Machine.bit 18 (v s) = false → waits))) ∧
  ((∀ (s : State) (i : Nat) (x : Delivery) (g : Grid) (gr : Graph) (n : GraphNode), s.d.deliveries[i]? = some x → s.d.grid x.grid = some g →
    (s.d.part g.tower).bind (·.ctx) = some g.ctx → x.unread = false → (∀ y ∈ s.d.deliveries.take i, x.after y = false) → g.graph = some gr → gr.nodes[x.node]? = some n →
    n.bin < (s.d.tower n.tower).bins.length →
    let bytes := versionRecord x.slot x.policy (VCell.ofNat (s.work.num x.key 32)) x.ver x.cell
    let mine := fun (p : SubPair) => p.grid == g.id && p.cell == x.cell && p.sub == x.sub && p.slot == x.slot
    let z := s.d.tower n.tower
    let pol := if g.launch.det then 1 else x.policy
    let gone := fun (t : State) => t.d.deliveries = s.d.deliveries.eraseIdx i
    let place := s.d.binKey n.tower n.bin (z.bins.getD n.bin {}).pos
    (z.pairs.find? mine = none → z.pairs.length < 1024 → (z.bins.getD n.bin {}).records.length < 256 → (z.bins.getD n.bin {}).wait = [] →
      ∃ (t : State) (y : SubPair), exec (.subscriptionDelivery i) s = .next t ∧ gone t ∧
        (z.binVault = 0 → memKeptBut s t []) ∧ (z.binVault ≠ 0 → memKeptBut s t ((List.range 64).map (place + ·)) ∧ t.work.gets place 64 = bytes) ∧
        (t.d.tower n.tower).pairs = z.pairs ++ [y] ∧ mine y = true ∧ y.node = x.node ∧
        y.policy = x.policy ∧ y.running = true ∧ y.pending = none ∧ y.queue = [] ∧
        ((t.d.tower n.tower).bins.getD n.bin {}).records = (z.bins.getD n.bin {}).records ++ [(bytes, some y.id)]) ∧
    (∀ y : SubPair, z.pairs.find? mine = some y → (pol = 1 → y.queue.length < 64) → ∃ (t : State) (y' : SubPair), exec (.subscriptionDelivery i) s = .next t ∧ gone t ∧
      memKeptBut s t [] ∧ (t.d.tower n.tower).bins = z.bins ∧ (t.d.tower n.tower).pairs.find? mine = some y' ∧ y'.id = y.id ∧ y'.policy = x.policy ∧
      (pol = 1 → y'.queue = y.queue ++ [bytes] ∧ y'.pending = y.pending ∧ y'.cancel = y.cancel) ∧
      (pol ≠ 1 → y'.queue = y.queue ∧ y'.pending = some bytes ∧ y'.cancel = (y.cancel || pol == 0)))) ∧
  (∀ (s : State) (pair tw : Nat) (y : SubPair) (g : Grid), s.d.pairAt pair = some (tw, y) → y.cancel = true →
    (s.d.grids.find? fun g => g.pairs.contains pair && g.ended == 0) = some g →
    (g.phase = .queued → ∃ t : State, exec (.cancellationRequest pair) s = .next t ∧ (∀ k : Nat, t.mem.get k = s.mem.get k) ∧
      ∀ q ∈ (t.d.tower g.tower).queues, g.id ∉ q) ∧
    (∀ z : Team, g.phase ≠ .queued → (s.d.teams.find? fun z => z.grid == g.id) = some z → z.phase = .resident →
      ∃ t : State, exec (.cancellationRequest pair) s = .next t ∧ (∀ k : Nat, t.mem.get k = s.mem.get k) ∧ t.d.crews.length = s.d.crews.length ∧
        (∀ c ∈ t.d.crews, c.team = z.id → c.handler = false → c.sp.cancel = true) ∧ t.d.teams = s.d.teams)) ∧
  (∀ (s : State) (op tw b : Nat) (o : Op) (bytes : List Byte), s.d.op op = some o → o.done = false → o.kind = .binPush tw b bytes → noLateTraps s →
    let bin := fun (u : State) => (u.d.tower tw).bins.getD b {}
    (bin s).records.length < 256 → (bin s).wait = [] → b < (s.d.tower tw).bins.length →
    let place := s.d.binKey tw b (bin s).pos
    ∃ t : State, exec (.binPush op) s = .next t ∧ (bin t).records = (bin s).records ++ [(bytes, none)] ∧
      ((s.d.tower tw).binVault = 0 → memKeptBut s t []) ∧
      ((s.d.tower tw).binVault ≠ 0 → memKeptBut s t ((List.range bytes.length).map (place + ·)) ∧ t.work.gets place bytes.length = bytes) ∧
      (∀ x : Op, t.d.op op = some x → x.done = true) ∧
      ∀ (g : Nat) (gr : Machine.Graph) (n : GraphNode) (i : Nat), (bin s).owner = some (g, i) → (s.d.grid g).bind (·.graph) = some gr → gr.nodes[i]? = some n →
        ((bin s).records = [] → n.timer ≠ 0 → (bin t).timer = some n.timer) ∧ ((bin s).records ≠ [] ∨ n.timer = 0 → (bin t).timer = (bin s).timer)) ∧
  ∀ (s : State) (root : Nat) (g : Grid) (gr : Graph) (p : Part) (x : Ctx) (set quiet : Bool) (adv : Nat) (rest : List (Bool × Bool × Nat))
    (refs : List BRef), s.d.grid root = some g → g.graph = some gr → s.d.part g.tower = some p → s.d.ctx g.ctx = some x → p.ctx = some x.ctxid →
    p.halt.phase = .running → gr.settle.updates = (set, quiet, adv) :: rest → gr.settleAddr.toNat % 8 = 0 →
    s.work.locate (p.who x) [] .atomic gr.settleSpace gr.settleAddr.toNat 8 = .ok refs → s.d.meetsBad false refs = none →
    (refs.map (·.key)).Nodup → refs.length = 8 → s.wf = true →
    let v := fun (u : State) => leNat (refs.map fun r => u.mem.get r.key)
    ∃ t : State, exec (.settleWordUpdate root) s = .next t ∧ Machine.bits 31 0 (v t) = (v s + adv) % 2 ^ 32 ∧ Machine.bit 32 (v t) = set ∧
      Machine.bit 33 (v t) = quiet ∧ Machine.bits 63 34 (v t) = 0 ∧ memKeptBut s t (refs.map (·.key)) ∧
      ((t.d.grid root).bind (·.graph)).map (·.settle.updates) = some rest)

/-! ## The matrix engine (16_isa_matrix.md) -/

/-- MACL, MACS, MACZ, RSTAT and a solo MMA are accepted at issue, at the end of the engine's queue, with their operands captured: an MMA's sixteen
fragment registers in all lanes, its scale registers and SKIPD (R321 to R324, R327 to R329, R332, R336 to R338, R343). GANG and MSCL write GANGR and
the scale bases; BTAKE goes on with the baton and waits without it; BPASS passes it to the next crew that is not done, or to the named one; NLS
takes a credit and sends the register; NLR takes the oldest entry into the active lanes, and is counted and waits where there is none yet (R329,
R332, R339, R342). -/
def Obligations.MatrixIssues : Prop :=
  (∀ (s : State) (cu : Cur) (c : Crew) (tm : Team), c.handler = false → c.landed = false → Unfenced s cu → s.d.teamOf c = some tm →
    s.d.arrived cu.crew = false → c.cnt.getD 3 0 < 127 →
    let k := fun (x : State) => x.d.core c.place.tower c.place.core
    s.d.mxUsed c.place.tower c.place.core < 32 →
    let accepted := fun (t : State) (g : Guard) (regs : List Nat) (la : Nat) (kind : MxKind) =>
      (opPut s t cu c g 4 regs la fun op => op.kind = .matrix ∧ op.done = false ∧
        (k t).mxq = (k s).mxq ++ [{ kind := kind, op := op.id, crew := cu.crew, others := [] }]) ∧ (k t).acc = (k s).acc ∧
      matrixKept s t cu.crew c.team
    (∀ (o : OpTileMem) (load : Bool) (refs : Nat → List BRef), Ready s cu c o.g [o.a.toNat, o.b.toNat] →
      let l := lowLane (activeLanes cu c o.g)
      let v := (c.val o.b.toNat l).toNat
      let f64 := (c.val o.b.toNat l).getLsbD 32
      let row := if f64 then 256 else 128
      let ea := c.ea o.a.toNat l (o.off.signExtend 64)
      v < 2 ^ 33 → (f64 = true → o.tile.toNat % 2 = 0) → v % 2 ^ 32 % row = 0 → ea % 8 = 0 →
      (∀ m < 32, locatedAt s cu c (if load then .load else .store) o.space.toNat row ((ea + m * (v % 2 ^ 32)) % 2 ^ 64) (refs m)) →
      ∃ t : State, exec (if load then .macl o else .macs o) s = .next t ∧ accepted t o.g [] 0
        (if load then .macl o.tile.toNat f64 ((List.range 32).map refs) else .macs o.tile.toNat f64 ((List.range 32).map refs))) ∧
    (∀ o : OpMacz, Ready s cu c o.g [] → o.tile.toNat + o.ntm1.toNat ≤ 63 → ∃ t : State, exec (.macz o) s = .next t ∧
      accepted t o.g [] 0 (.macz o.tile.toNat (o.ntm1.toNat + 1))) ∧
    (∀ o : OpRstat, let regs := [o.d.toNat, o.d.toNat + 1, o.d.toNat + 2]
      Ready s cu c o.g regs → c.lateRoom regs → ∃ t : State, exec (.rstat o) s = .next t ∧ accepted t o.g regs o.la.toNat (.rstat o.tile.toNat o.d.toNat)) ∧
    ∀ o : OpMma, let x := s.d.slotOf c o.aslot.toNat
      let y := s.d.slotOf c o.bslot.toNat
      let ra := x.scaleRegs c.sa o.km1.toNat
      let rb := y.scaleRegs c.sb o.km1.toNat
      let regs := fun (rs : List Nat) => rs.map fun r => (List.range 32).map fun l => c.val r l
      let slab := fun (r : Nat) => regs ((List.range 8).map fun j => r + j)
      Ready s cu c o.g ((List.range 8).map (o.a.toNat + ·) ++ (List.range 8).map (o.b.toNat + ·) ++ ra ++ rb) → c.sp.gangr.toNat % 8 = 0 →
      tm.baton = c.index → tm.tower = c.place.tower → tm.core = c.place.core → o.a.toNat ≤ 56 → o.b.toNat ≤ 56 →
      x.format.width = y.format.width → o.cplx = x.cplx → o.cplx = y.cplx →
      o.tile.toNat % ((if x.format == .fp64 then 2 else 1) * if o.cplx then 2 else 1) = 0 → o.km1.toNat + 1 ≤ slabK x.format o.cplx →
      ∃ t : State, exec (.mma o) s = .next t ∧ accepted t o.g [] 0 (.mma o.tile.toNat o.km1.toNat o.clr o.skip o.cplx x y
        [(slab o.a.toNat, slab o.b.toNat)] (regs ra) (regs rb) ((s.work.special c 8).toNat % 2 ^ 16))) ∧
  (∀ (s : State) (cu : Cur) (c : Crew) (tm : Team), c.handler = false → c.landed = false → Unfenced s cu → s.d.teamOf c = some tm →
    let k := fun (x : State) => x.d.core c.place.tower c.place.core
    let went := fun (t : State) (c' : Crew) => t.d.crew cu.crew = some c' ∧ valuesKept c c' ∧ c'.cnt = c.cnt ∧ threadsAdvance cu c c' ∧
      t.d.ops = s.d.ops
    (∀ o : OpXA, Ready s cu c o.g [o.a.toNat] →
      let v := (c.val o.a.toNat (lowLane (activeLanes cu c o.g))).setWidth 33
      (gangValid v c.index tm.crews.length = true → ∃ (t : State) (c' : Crew), exec (.gang o) s = .next t ∧ went t c' ∧ c'.sp = { c.sp with gangr := v } ∧
        matrixKept s t cu.crew c.team) ∧
      (gangValid v c.index tm.crews.length = false → ∀ p : Part, Running s c p → ∃ t : State, exec (.gang o) s = .next t ∧ faultTaken s t cu c o.g p .badGang)) ∧
    (∀ o : OpMscl, Ready s cu c o.g [] → ∃ (t : State) (c' : Crew), exec (.mscl o) s = .next t ∧ went t c' ∧ c'.sp = c.sp ∧ c'.sa = o.sa.toNat ∧
      c'.sb = o.sb.toNat ∧ matrixKept s t cu.crew c.team) ∧
    (∀ o : OpXG, Ready s cu c o.g [] →
      (tm.baton = c.index → ∃ (t : State) (c' : Crew), exec (.btake o) s = .next t ∧ went t c' ∧ c'.sp = c.sp ∧ c'.waits = c.waits ∧ matrixKept s t cu.crew c.team) ∧
      (tm.baton ≠ c.index → ∃ (t : State) (c' : Crew) (w : Wait), exec (.btake o) s = .next t ∧ t.d.crew cu.crew = some c' ∧ valuesKept c c' ∧ c'.sp = c.sp ∧
        c'.waits = c.waits ++ [w] ∧ w.mask = cu.group ∧ w.cond = .baton ∧ w.again = false ∧ w.next = cu.ret ∧
        threadsGo cu c c' cu.group (fun _ => cu.addr) (fun _ x => x.m) ∧ matrixKept s t cu.crew c.team)) ∧
    (∀ o : OpBpass, Ready s cu c o.g [] →
      let live := fun (m : Nat) => ∃ n : Nat, tm.crews[m]? = some n ∧ s.d.crewEnded n = false
      let passed := fun (t : State) (m : Nat) => ∃ c' : Crew, went t c' ∧ c'.sp = c.sp ∧ (t.d.team c.team).map (·.baton) = some m ∧
        (∀ n : Nat, n ≠ c.team → t.d.team n = s.d.team n) ∧ ∀ a : Nat, t.mem.get a = s.mem.get a
      (tm.baton ≠ c.index → ∀ p : Part, Running s c p → ∃ t : State, exec (.bpass o) s = .next t ∧ faultTaken s t cu c o.g p .batonNotHeld) ∧
      (tm.baton = c.index → (∀ a ∈ s.d.gangs, a.crew ≠ cu.crew) →
        (o.expl = true → live o.tgt.toNat → ∃ t : State, exec (.bpass o) s = .next t ∧ passed t o.tgt.toNat) ∧
        (o.expl = true → ¬ live o.tgt.toNat → ∀ p : Part, Running s c p → ∃ t : State, exec (.bpass o) s = .next t ∧
          faultTaken s t cu c o.g p .badBatonTarget) ∧
        (o.expl = false → ∀ m : Nat, c.index < tm.crews.length → live m →
          (∀ j : Nat, live j → (c.index < j → c.index < m ∧ m ≤ j) ∧ (m ≤ c.index → j ≤ c.index ∧ m ≤ j)) →
          ∃ t : State, exec (.bpass o) s = .next t ∧ passed t m))) ∧
    (∀ (o : OpNls) (far : Nat), Ready s cu c o.g [o.a.toNat] → neighbourCore c.place.core o.dir.toNat = some far →
      s.work.present c.place.tower far = true → c.cnt.getD 3 0 < 127 → s.d.arrived cu.crew = false → s.d.mxUsed c.place.tower c.place.core < 32 →
      0 < (k s).credits.getD o.dir.toNat 0 → ∃ t : State, exec (.nls o) s = .next t ∧ (k t).credits.getD o.dir.toNat 0 + 1 = (k s).credits.getD o.dir.toNat 0 ∧
        matrixKept s t cu.crew c.team ∧ opPut s t cu c o.g 4 [] 0 fun op => op.kind = .matrix ∧ op.done = false ∧
          (k t).mxq = (k s).mxq ++ [⟨.nls o.dir.toNat ((List.range 32).map fun l => c.val o.a.toNat l), op.id, cu.crew, [], none⟩]) ∧
    (∀ (o : OpNlr) (far : Nat), Ready s cu c o.g [o.d.toNat] → neighbourCore c.place.core o.dir.toNat = some far →
      s.work.present c.place.tower far = true → c.cnt.getD 3 0 < 127 → s.d.arrived cu.crew = false → s.d.mxUsed c.place.tower c.place.core < 32 →
      (∀ (e : List Word) (r : List (List Word)), c.roomForG o.d.toNat → (k s).nq.getD o.dir.toNat [] = e :: r →
        ∃ (t : State) (c' : Crew), exec (.nlr o) s = .next t ∧ t.d.crew cu.crew = some c' ∧ writesReg cu c c' o.g o.d.toNat (fun l v => v = e.getD l 0) ∧
          (∀ p : Nat, c'.pred p = c.pred p) ∧ c'.sp = c.sp ∧ threadsAdvance cu c c' ∧ (k t).nq.getD o.dir.toNat [] = r ∧ matrixKept s t cu.crew c.team) ∧
      ((k s).nq.getD o.dir.toNat [] = [] →
        (c.lateRoom [o.d.toNat] → ∃ (t : State) (c' : Crew) (w : Wait) (op : Op), exec (.nlr o) s = .next t ∧ t.d.crew cu.crew = some c' ∧ valuesKept c c' ∧ c'.sp = c.sp ∧
          c'.waits = c.waits ++ [w] ∧ w.mask = cu.group ∧ w.cond = .neighbour o.dir.toNat op.id ∧ w.again = false ∧ w.next = cu.ret ∧ w.dests = [o.d.toNat] ∧
          threadsGo cu c c' cu.group (fun _ => cu.addr) (fun _ x => x.m) ∧ (∀ j : Nat, c'.cnt.getD j 0 = c.cnt.getD j 0 + if j = 3 then 1 else 0) ∧
          t.d.ops = s.d.ops ++ [op] ∧ op.kind = .receive o.dir.toNat ∧ op.crew = cu.crew ∧ op.done = false ∧ (k t).nq = (k s).nq ∧ matrixKept s t cu.crew c.team) ∧
        (c.wouldExceed { writes := [o.d.toNat] } = true → ∀ p : Part, Running s c p → ∃ t : State, exec (.nlr o) s = .next t ∧ faultTaken s t cu c o.g p .shapeOverflow))) ∧
    ∀ (i : Instr) (dir : Nat) (g : Guard) (regs : List Nat) (p : Part), Running s c p → neighbourCore c.place.core dir = none →
      ((∃ o : OpNls, i = .nls o ∧ dir = o.dir.toNat ∧ g = o.g ∧ regs = [o.a.toNat]) ∨
        ∃ o : OpNlr, i = .nlr o ∧ dir = o.dir.toNat ∧ g = o.g ∧ regs = [o.d.toNat]) →
      Ready s cu c g regs → ∃ t : State, exec i s = .next t ∧ faultTaken s t cu c g p .noLink)

/-- The rendezvous of a gang and of a pair: an arrival captures its slabs and waits; the last one has the operation accepted once, with the slabs in
member order, one count in each crew, and no arrival left. Two arrivals of a pair that do not agree, in their fields or by taking the same role, are
withdrawn, with a fault in both crews (R329, R330, R340). An arrival whose watchdog has run out takes no part (R341). -/
def Obligations.RendezvousResults : Prop :=
  ∀ (s : State) (cu : Cur) (c : Crew) (tm : Team), c.handler = false → c.landed = false → Unfenced s cu → s.d.teamOf c = some tm →
    s.d.arrived cu.crew = false → c.cnt.getD 3 0 < 127 → tm.tower = c.place.tower → tm.core = c.place.core →
    let k := fun (x : State) => x.d.core c.place.tower c.place.core
    let slab := fun (r : Nat) => (List.range 8).map fun j => (List.range 32).map fun l => c.val (r + j) l
    s.d.mxUsed c.place.tower c.place.core < 32 →
    let waiting := fun (t : State) (c' : Crew) => t.d.crew cu.crew = some c' ∧ valuesKept c c' ∧ c'.sp = c.sp ∧
      threadsGo cu c c' cu.group (fun _ => cu.addr) (fun _ x => x.m) ∧ matrixKept s t cu.crew c.team ∧
      ∃ w : Wait, c'.waits = c.waits ++ [w] ∧ w.mask = cu.group ∧ w.cond = .rendezvous cu.crew ∧ w.again = false ∧ w.next = cu.ret
    (∀ o : OpMma, let f := mmaForm o
      let x := s.d.slotOf c f.aslot
      let y := s.d.slotOf c f.bslot
      let ms := gangMembers c.sp.gangr
      let latch := s.d.latch tm
      Ready s cu c o.g (f.reads s.d c c.leads) → gangCount c.sp.gangr ≠ 0 → gangValid c.sp.gangr c.index tm.crews.length = true →
      (ms.head? = some c.index → tm.baton = c.index) → f.illegal x y = false → o.km1.toNat + 1 ≤ gangCount c.sp.gangr * slabK x.format o.cplx →
      (∀ a ∈ latch, a.gangr = c.sp.gangr ∧ a.ext = f.ext) → cu.crew ∈ tm.crews →
      ((∃ m ∈ ms, m ≠ c.index ∧ ∀ a ∈ latch, a.index ≠ m) → ∃ (t : State) (c' : Crew) (a : GangArrival), exec (.mma o) s = .next t ∧ waiting t c' ∧ c'.cnt = c.cnt ∧
        t.d.gangs = s.d.gangs ++ [a] ∧ a.crew = cu.crew ∧ a.index = c.index ∧ a.gangr = c.sp.gangr ∧ a.ext = f.ext ∧
        a.slabA = slab o.a.toNat ∧ a.slabB = slab o.b.toNat ∧ a.iaddr = cu.addr ∧ (a.kind.isSome = true ↔ ms.head? = some c.index) ∧
        (k t).mxq = (k s).mxq ∧ t.d.ops = s.d.ops) ∧
      ((∀ m ∈ ms, m = c.index ∨ ∃ a ∈ latch, a.index = m) → (∀ a ∈ latch, some a.index = ms.head? → a.kind.isSome = true) →
        (∀ a ∈ latch, a.index ∈ ms ∧ a.index ≠ c.index ∧ (s.d.crew a.crew).isSome = true) → (latch.map (·.index)).Nodup →
        (latch.map (·.crew)).Nodup →
        ∃ (t : State) (c' : Crew) (x : MxOp) (q : MxKind) (slabs : List (List (List Word) × List (List Word))), exec (.mma o) s = .next t ∧ t.d.crew cu.crew = some c' ∧ valuesKept c c' ∧ c'.sp = c.sp ∧
          (k t).mxq = (k s).mxq ++ [x] ∧ x.kind = MxKind.withSlabs q slabs ∧ x.others.length + 1 = ms.length ∧ slabs.length = ms.length ∧
          (ms.head? = some c.index → q = f.kind s.work c) ∧ (∀ a ∈ latch, some a.index = ms.head? → a.kind = some q) ∧
          (∀ (j m : Nat), ms[j]? = some m → (m = c.index → slabs[j]? = some (slab o.a.toNat, slab o.b.toNat)) ∧
            ∀ a ∈ latch, a.index = m → slabs[j]? = some (a.slabA, a.slabB)) ∧
          (∀ a ∈ t.d.gangs, a.crew ∉ tm.crews) ∧ (∀ n : Nat, c'.cnt.getD n 0 = c.cnt.getD n 0 + if n = 3 then 1 else 0) ∧
          ∀ a ∈ latch, ∀ y : Crew, s.d.crew a.crew = some y → ∃ y' : Crew, t.d.crew a.crew = some y' ∧
            ∀ n : Nat, y'.cnt.getD n 0 = y.cnt.getD n 0 + if n = 3 then 1 else 0)) ∧
    ∀ (i : Instr) (f : MmaForm) (d dir role : Nat) (g : Guard) (far : Nat),
      ((∃ o : OpMmap, i = .mmap o ∧ role = 0 ∧ f = ⟨o.a.toNat, o.b.toNat, o.aslot.toNat, o.bslot.toNat, o.tile.toNat, o.km1.toNat, o.clr, o.skip,
          o.cplx⟩ ∧ d = o.d.toNat ∧ dir = o.dir.toNat ∧ g = o.g) ∨
        (∃ o : OpMmapP, i = .mmapPartner o ∧ role = 1 ∧ f = ⟨o.a.toNat, o.b.toNat, o.aslot.toNat, o.bslot.toNat, 0, o.km1.toNat, false, o.skip,
          o.cplx⟩ ∧ d = o.d.toNat ∧ dir = o.dir.toNat ∧ g = o.g)) →
      let x := s.d.slotOf c f.aslot
      let y := s.d.slotOf c f.bslot
      let n := (c.val d (lowLane (activeLanes cu c g))).toNat % 2 ^ 32
      let fields := (f.aslot * 8 + f.bslot) * 2 ^ 14 + f.km1 * 4 + (if f.skip then 2 else 0) + if f.cplx then 1 else 0
      let facing := s.d.pairs.filter fun b => b.tower == c.place.tower && b.core == far && b.dir == (dir + 2) % 4
      let there := (facing.find? fun b => b.role != role).or facing.head?
      Ready s cu c g (d :: f.reads s.d c (role == 0)) → f.illegal x y = false → c.sp.gangr.toNat % 8 = 0 →
      neighbourCore c.place.core dir = some far → s.work.present c.place.tower far = true → f.km1 + 1 ≤ 2 * slabK x.format f.cplx →
      (role = 0 → tm.baton = c.index) → (∀ p ∈ s.d.pairs, ¬ (p.tower = c.place.tower ∧ clusterOf p.core = clusterOf c.place.core ∧ p.dir = dir ∧ p.role = role)) →
      ((∀ b : PairArrival, there = some b → b.watchdog = 0) → ∃ (t : State) (c' : Crew) (a : PairArrival), exec i s = .next t ∧ waiting t c' ∧ c'.cnt = c.cnt ∧ t.d.pairs = s.d.pairs ++ [a] ∧ a.crew = cu.crew ∧
        a.role = role ∧ a.dir = dir ∧ a.fields = fields ∧ a.slabA = slab f.a ∧ a.slabB = slab f.b ∧
        a.watchdog = (if n = 0 then 1000000 else n) ∧ t.d.ops = s.d.ops ∧ (k t).mxq = (k s).mxq) ∧
      (∀ (b : PairArrival) (y : Crew) (p : Part), there = some b → b.watchdog ≠ 0 → b.role = role ∨ b.fields ≠ fields → b.crew ≠ cu.crew → Running s c p →
        s.d.crew b.crew = some y → y.place.tower = c.place.tower → ∃ (t : State) (c' : Crew) (p' : Part), exec i s = .next t ∧
          t.d.crew cu.crew = some c' ∧ valuesKept c c' ∧ c'.cnt = c.cnt ∧ threadsGo cu c c' cu.group (fun _ => cu.addr) (fun _ x => x.m) ∧ (∀ a ∈ t.d.pairs, a.crew ≠ cu.crew ∧ a.crew ≠ b.crew) ∧
          t.d.part c.place.tower = some p' ∧ p'.halt.phase = .stopping ∧ p'.halt.records.map (fun r => r.info.reason) = [.pairMismatch, .pairMismatch] ∧
          p'.halt.records.map (fun r => (r.info.crew, r.info.peer)) =
            if role = 0 then [(c.place.gid, y.place.gid), (y.place.gid, c.place.gid)] else [(y.place.gid, c.place.gid), (c.place.gid, y.place.gid)]) ∧
      (∀ b : PairArrival, there = some b → b.watchdog ≠ 0 → b.role + role = 1 → b.fields = fields → b.crew ≠ cu.crew → (role = 1 → b.kind.isSome = true) →
        s.d.mxUsed c.place.tower (if role = 0 then c.place.core else far) < 32 → (s.d.crew b.crew).isSome = true →
        ∃ (t : State) (c' : Crew) (z : MxOp), exec i s = .next t ∧ t.d.crew cu.crew = some c' ∧ valuesKept c c' ∧ c'.sp = c.sp ∧
          let at_ := fun (u : State) => (u.d.core c.place.tower (if role = 0 then c.place.core else far)).mxq
          at_ t = at_ s ++ [z] ∧ z.crew = (if role = 0 then cu.crew else b.crew) ∧ z.others.map (·.2) = [if role = 0 then b.crew else cu.crew] ∧
          (∃ q : MxKind, (role = 0 → q = f.kind s.work c) ∧ (role = 1 → b.kind = some q) ∧ z.kind = MxKind.withSlabs q
            (if role = 0 then [(slab f.a, slab f.b), (b.slabA, b.slabB)] else [(b.slabA, b.slabB), (slab f.a, slab f.b)])) ∧
          (∀ p ∈ t.d.pairs, p.crew ≠ cu.crew ∧ p.crew ≠ b.crew) ∧ (∀ m : Nat, c'.cnt.getD m 0 = c.cnt.getD m 0 + if m = 3 then 1 else 0) ∧
          ∀ y : Crew, s.d.crew b.crew = some y → ∃ y' : Crew, t.d.crew b.crew = some y' ∧ ∀ m : Nat, y'.cnt.getD m 0 = y.cnt.getD m 0 + if m = 3 then 1 else 0)

/-- What the engine does with the operation of its queue that goes on: each element of an MMA's tile is the block sum of R331; a MACL reads memory and
then writes its tile, a MACS takes its tile and then writes memory, at the places that the entries standing then give its rows, and MACZ and RSTAT
clear and read tiles (R46, R323, R324, R331, R336 to R338); and the neighbour queues and credits of R342. A pairing watchdog that has run out
withdraws its arrival with a fault (R341). Which operation goes on is open where several may (assumption 54). -/
def Obligations.MatrixEngineSteps : Prop :=
  (∀ (s : State) (tw k i : Nat) (x : MxOp), (s.d.core tw k).mxNext s.d.free = some i → (s.d.core tw k).mxq[i]? = some x →
    s.d.engineRuns tw k .matrix = true → (x.taken = false → ∀ n ∈ x.kind.tiles.1, n ∉ (s.d.core tw k).badAcc) → noLateTraps s →
    let core := fun (u : State) => u.d.core tw k
    let r := (core s).mxq.eraseIdx i
    let ended := fun (t : State) => (core t).mxq = r ∧ (∀ o : Op, t.d.op x.op = some o → o.done = true)
    (∀ (tile km1 : Nat) (clr skip : Bool) (a b : FmtSlot) (slabs : List (List (List Word) × List (List Word))) (sa sb : List (List Word)) (sk : Nat), x.kind = .mma tile km1 clr skip false a b slabs sa sb sk → a.format ≠ .fp64 →
      (∀ (o : Op) (c : Crew), s.d.op x.op = some o → s.d.crew o.crew = some c → noTraps s c) →
      let A : Operand := { slot := a, slabs := slabs.map (·.1), scales := sa, cplx := false }
      let B : Operand := { slot := b, slabs := slabs.map (·.2), scales := sb, cplx := false }
      let thr := if skip && a.skip then sumVal .rne [Fmt.fp16.value a.skipt, Fmt.fp16.value sk] else none
      ∃ t : State, exec (.mxOperationComplete tw k) s = .next t ∧ ended t ∧ (∀ j : Nat, t.mem.get j = s.mem.get j) ∧
        (∀ m < 32, ∀ n < 32, (core t).acc32 tile m n =
          (mmaElem A B thr m n false (km1 + 1) (if clr then 0 else (core s).acc32 tile m n)).bits) ∧
        ∀ u m n : Nat, m < 32 → n < 32 → u ≠ tile → (core t).acc32 u m n = (core s).acc32 u m n) ∧
    (∀ (tile : Nat) (f64 : Bool) (refs : List (List BRef)), x.kind = .macl tile f64 refs →
      (∀ rows : List (List BRef), x.bytes = none → rowsReached s tw k x.crew .load refs rows → ∃ t : State, exec (.mxOperationComplete tw k) s = .next t ∧ (∀ j : Nat, t.mem.get j = s.mem.get j) ∧
        (core t).acc = (core s).acc ∧ (core t).mxq = (core s).mxq.modify i fun y => { y with bytes := some (rows.map fun row => row.map fun z => s.mem.get z.key) }) ∧
      (∀ rows : List (List Byte), x.bytes = some rows → rows.length = 32 → (∀ row ∈ rows, row.length = if f64 then 256 else 128) →
        ∃ t : State, exec (.mxOperationComplete tw k) s = .next t ∧ ended t ∧ (∀ j : Nat, t.mem.get j = s.mem.get j) ∧
          ∀ (m n : Nat) (row : List Byte), m < 32 → n < 32 → rows[m]? = some row →
            (f64 = false → (core t).acc32 tile m n = leNat ((row.drop (4 * n)).take 4)) ∧
            (f64 = true → (core t).acc64 tile m n = leNat ((row.drop (8 * n)).take 8)))) ∧
    (∀ (tile : Nat) (f64 : Bool) (refs : List (List BRef)), x.kind = .macs tile f64 refs →
      (x.bytes = none → ∃ (t : State) (rows : List (List Byte)), exec (.mxOperationComplete tw k) s = .next t ∧ (∀ j : Nat, t.mem.get j = s.mem.get j) ∧
        (core t).acc = (core s).acc ∧ (core t).mxq = (core s).mxq.modify i (fun y => { y with bytes := some rows }) ∧ rows.length = refs.length ∧
        ∀ (m n : Nat) (row : List Byte), n < 32 → rows[m]? = some row → row.length = (if f64 then 256 else 128) ∧
          (f64 = false → leNat ((row.drop (4 * n)).take 4) = (core s).acc32 tile m n % 2 ^ 32) ∧
          (f64 = true → leNat ((row.drop (8 * n)).take 8) = (core s).acc64 tile m n % 2 ^ 64)) ∧
      (∀ (rows : List (List Byte)) (places : List (List BRef)), x.bytes = some rows → rowsReached s tw k x.crew .store refs places → places.map (·.length) = rows.map (·.length) →
        (places.flatten.map (·.key)).Nodup → s.wf = true → ∃ t : State, exec (.mxOperationComplete tw k) s = .next t ∧ ended t ∧ (core t).acc = (core s).acc ∧
          memKeptBut s t (places.flatten.map (·.key)) ∧ ∀ (m j : Nat) (row : List BRef) (bs : List Byte) (y : BRef) (b : Byte), places[m]? = some row → rows[m]? = some bs →
            row[j]? = some y → bs[j]? = some b → t.mem.get y.key = b)) ∧
    (∀ tile n : Nat, x.kind = .macz tile n → ∃ t : State, exec (.mxOperationComplete tw k) s = .next t ∧ ended t ∧ (∀ j : Nat, t.mem.get j = s.mem.get j) ∧
      ∀ u i j : Nat, i < 32 → j < 32 → (core t).acc32 u i j = if tile ≤ u ∧ u < tile + n then 0 else (core s).acc32 u i j) ∧
    (∀ (tile reg : Nat) (o : Op) (c : Crew), x.kind = .rstat tile reg → s.d.op x.op = some o → s.d.crew o.crew = some c → o.crew = x.crew → noTraps s c →
      (∀ y ∈ s.d.ops, y.id = x.op → y = o) →
      ∃ (t : State) (c' : Crew), exec (.mxOperationComplete tw k) s = .next t ∧ (core t).mxq = r ∧ (core t).acc = (core s).acc ∧ t.d.crew o.crew = some c' ∧
        ∀ m < 32, o.lanes.getLsbD m = true → let st := (core s).rowStat tile m
          c'.val reg m = BitVec.ofNat 64 st.1 ∧ c'.val (reg + 1) m = BitVec.ofNat 64 st.2.1 ∧ c'.val (reg + 2) m = BitVec.ofNat 64 st.2.2.1)) ∧
  (∀ (s : State) (tw k : Nat) (x : MxOp) (dir : Nat) (data : List Word) (far : Nat), (s.d.core tw k).mxq[(s.d.core tw k).mxHead]? = some x →
    s.d.engineRuns tw k .matrix = true → noLateTraps s → x.kind = .nls dir data → neighbourCore k dir = some far → far ≠ k →
    ∃ t : State, exec (.nlEntryArrive tw k) s = .next t ∧ (t.d.core tw k).mxq = (s.d.core tw k).mxq.eraseIdx (s.d.core tw k).mxHead ∧
      (t.d.core tw far).nq.getD ((dir + 2) % 4) [] = (s.d.core tw far).nq.getD ((dir + 2) % 4) [] ++ [data]) ∧
  (∀ (c : Core) (tile m : Nat) (v : Nat → Nat), (∀ n < 32, c.acc32 tile m n = v n) →
    let F := Fmt.fp32
    let val := fun n => F.value (v n)
    let step := fun (a : Nat × Nat × Nat) n => ((fminmax .engine F true false (F.value a.1) (val n)).bits, (fadd .engine F (F.value a.2.1) (val n)).bits,
      (ffma .engine F false false (val n) (val n) (F.value a.2.2)).bits)
    let st := c.rowStat tile m
    (st.1, st.2.1, st.2.2.1) = ((List.range 31).map (· + 1)).foldl step (v 0, v 0, (fmul .engine F (val 0) (val 0)).bits)) ∧
  (∀ (A B : Operand) (m n kk start : Nat) (p q : Nat → ℚ) (r : ℚ), A.cplx = false → A.slot.scale = 0 → B.slot.scale = 0 → A.slot.format ≠ .fp64 →
    1 ≤ kk → kk ≤ blockK A.slot.format → (∀ k < kk, (A.raw m k 0).rat = some (p k) ∧ (B.raw n k 0).rat = some (q k)) →
    (Fmt.fp32.value start).rat = some r → ∃ u : Val, u.rat = some (r + ((List.range kk).map fun k => p k * q k).sum) ∧
      mmaElem A B none m n false kk start = roundTo .engine .fp32 u) ∧
  (∀ (s : State) (tw k dir : Nat), dir < 4 → 0 < s.d.creditsBack tw k dir → ∃ t : State, exec (.nlCreditReturn tw k dir) s = .next t ∧
    (t.d.core tw k).credits.getD dir 0 = (s.d.core tw k).credits.getD dir 0 + 1 ∧ t.mem = s.mem ∧ t.d.crews = s.d.crews ∧ t.d.ops = s.d.ops) ∧
  ∀ (s : State) (crew : Nat) (a : PairArrival) (c : Crew) (p : Part), s.d.pairs.find? (fun a => a.crew == crew) = some a → s.d.crew crew = some c →
    a.tower = c.place.tower → Running s c p → p.debugHalted = [] → c.status = .running → a.watchdog = 0 →
    ∃ t : State, exec (.pairWatchdogExpire crew) s = .next t ∧ (∀ b ∈ t.d.pairs, b.crew ≠ crew) ∧
      haltBegun s t c.place.tower p fun f => f.reason = .pairTimeout ∧ f.iaddr = a.iaddr ∧ f.crew = c.place.gid ∧ f.lanes = a.lanes

/-! ## The Kiln array and the Slip tile (17, 18) -/

/-- Each Kiln form with good operands joins the queue of its core's array with what it captured at issue, changes nothing else of the array, counts
one in SMP, and leaves the registers of KCNT and KRDS pending (R350 to R352, R354). -/
def Obligations.KilnIssues : Prop :=
  ∀ (s : State) (cu : Cur) (c : Crew) (tm : Team), c.handler = false → c.landed = false → Unfenced s cu → s.d.teamOf c = some tm →
    let k := fun (x : State) => x.d.core c.place.tower c.place.core
    let x := (k s).kiln
    c.cnt.getD 4 0 < 127 → x.quarantined = false → x.queue.length < 16 →
    let accepted := fun (t : State) (g : Guard) (regs : List Nat) (la : Nat) (kind : KilnKind) =>
      (opPut s t cu c g 5 regs la fun op => op.kind = .sampler ∧ op.done = false ∧
        (k t).kiln = { x with queue := x.queue ++ [⟨kind, op.id, cu.crew, c.team⟩] }) ∧ matrixKept s t cu.crew c.team
    let l := fun (g : Guard) => lowLane (activeLanes cu c g)
    let bits4 := fun (r : Nat) => (List.range 4).map fun j => c.val r j
    (∀ (o : OpKcpl) (refs : Nat → List BRef), Ready s cu c o.g [o.a.toNat, o.b.toNat] →
      let a := (c.val o.a.toNat (l o.g)).toNat
      let pitch := (c.val o.b.toNat (l o.g)).toNat
      a % 8 = 0 → pitch < 2 ^ 32 → pitch % 8 = 0 → 288 ≤ pitch →
      (∀ r ≤ o.nm1.toNat, locatedAt s cu c .load o.space.toNat 288 ((a + r * pitch) % 2 ^ 64) (refs r)) → ∃ t : State, exec (.kcpl o) s = .next t ∧
        accepted t o.g [] 0 (.couplings o.row0.toNat (o.nm1.toNat + 1) ((List.range (o.nm1.toNat + 1)).map refs))) ∧
    (∀ (o : OpKbias) (refs : List BRef), Ready s cu c o.g (if o.bonly then [o.b.toNat] else [o.a.toNat, o.b.toNat]) →
      let a := (c.val o.a.toNat (l o.g)).toNat
      let beta := (c.val o.b.toNat (l o.g)).toNat % 2 ^ 16
      (Fmt.fp16.value beta).rat ≠ none → (o.bonly = true → refs = []) →
      (o.bonly = false → a % 8 = 0 ∧ locatedAt s cu c .load o.space.toNat 512 a refs) → ∃ t : State, exec (.kbias o) s = .next t ∧
        accepted t o.g [] 0 (.bias beta refs)) ∧
    (∀ o : OpXAB, Ready s cu c o.g [o.a.toNat, o.b.toNat] →
      (∃ t : State, exec (.kclmp o) s = .next t ∧ accepted t o.g [] 0 (.clamp (bits4 o.a.toNat) (bits4 o.b.toNat))) ∧
      let cfg := c.val o.b.toNat (l o.g)
      let table := c.val o.a.toNat (l o.g)
      cfg.extractLsb' 0 2 ≠ 3 → cfg.extractLsb' 13 3 = 0 → cfg.extractLsb' 33 31 = 0 → (cfg.extractLsb' 0 2 = 0 → (s.d.cmr c).getLsbD 6 = false) →
      (cfg.extractLsb' 0 2 = 2 → table.getLsbD 0 = false ∧ table.extractLsb' 18 14 = 0 ∧ table.extractLsb' 49 15 = 0 ∧
        (table.extractLsb' 32 17 = 0 ∨ ∃ refs : List BRef, locatedAt s cu c .load 2 (2 * (table.extractLsb' 32 17).toNat) (table.extractLsb' 0 18).toNat refs)) →
      ∃ t : State, exec (.kmodeConfigure o) s = .next t ∧ accepted t o.g [] 0 (.configure cfg table c.sp.key0 c.sp.key1 c.team)) ∧
    (∀ o : OpXB, Ready s cu c o.g [o.b.toNat] → ∃ t : State, exec (.kclmpStates o) s = .next t ∧ accepted t o.g [] 0 (.states (bits4 o.b.toNat))) ∧
    (∀ o : OpXA, Ready s cu c o.g [o.a.toNat] → ∃ t : State, exec (.kcol o) s = .next t ∧
      accepted t o.g [] 0 (.colours ((List.range 32).map fun j => c.val o.a.toNat j))) ∧
    (∀ o : OpKswp, Ready s cu c o.g (if o.pub then [o.a.toNat, o.b.toNat] else []) →
      let w := if o.pub then (c.val o.b.toNat (l o.g)).toNat % 2 ^ 32 else 0
      (o.pub = true → w ≠ 0 ∧ (o.nm1.toNat + 1) % w = 0) → (x.issued.1 = 0 → (s.d.cmr c).getLsbD 6 = false) →
      (x.issued.1 = 2 → x.issued.2.1 = some c.team) → ∃ t : State, exec (.kswp o) s = .next t ∧
        accepted t o.g [] 0 (.sweep (o.nm1.toNat + 1) w o.fin (c.val o.a.toNat (l o.g)))) ∧
    (∀ o : OpKcnt, let regs := [o.d.toNat, o.d.toNat + 1, o.d.toNat + 2, o.d.toNat + 3]
      Ready s cu c o.g regs → c.lateRoom regs → ∃ t : State, exec (.kcnt o) s = .next t ∧ accepted t o.g regs o.la.toNat (.counts o.d.toNat o.clr)) ∧
    (∀ o : OpXD, Ready s cu c o.g [o.d.toNat] → c.lateRoom [o.d.toNat] → ∃ t : State, exec (.krds o) s = .next t ∧
      accepted t o.g [o.d.toNat] o.la.toNat (.readState o.d.toNat)) ∧
    (∀ (o : OpKbnd) (p : Part) (far : Nat × Nat) (refs : List BRef), Ready s cu c o.g [o.a.toNat, o.b.toNat] → s.d.part c.place.tower = some p →
      let n := o.nm1.toNat + 1
      let partner := (c.val o.b.toNat (l o.g)).toNat % 2 ^ 16
      (s.work.logical p)[partner]? = some far → far ≠ (c.place.tower, c.place.core) → (s.d.core far.1 far.2).kiln.quarantined = false →
      (∀ r ∈ x.issued.2.2, r.1 + r.2 ≤ o.g0.toNat ∨ o.g0.toNat + n ≤ r.1) → x.issued.2.2.length < 4 →
      locatedAt s cu c .load 2 n (c.val o.a.toNat (l o.g)).toNat refs → ∃ t : State, exec (.kbnd o) s = .next t ∧
        accepted t o.g [] 0 (.bind o.g0.toNat n partner refs o.s.toNat)) ∧
    ∀ o : OpKunb, Ready s cu c o.g [] → (∀ r ∈ x.issued.2.2, r.1 + r.2 ≤ o.g0.toNat ∨ o.g0.toNat + o.nm1.toNat + 1 ≤ r.1 ∨
      (o.g0.toNat ≤ r.1 ∧ r.1 + r.2 ≤ o.g0.toNat + o.nm1.toNat + 1)) → ∃ t : State, exec (.kbndUnbind o) s = .next t ∧
        accepted t o.g [] 0 (.unbind o.g0.toNat (o.nm1.toNat + 1))

/-- What the queued operations other than KSWP do to the array when they execute, by kind, with the bytes that the entries standing then give (R46,
R351, R352). A KBND stays at the head of the queue until its partner has registered the binding and the first snapshot has arrived (R352; that
nothing behind it executes meanwhile is the model's reading, assumption 73). One colour phase in a replay mode sets each
due node by U < P, all from the states before the phase, and no other; the last phase counts, advances SWP and sends the snapshots. A sweep whose
table is too short does not start, and one without recent snapshots waits and is counted once. A window end publishes the window. Sigmoid16 is 32768
at 0 (R345 to R348, R353, R354, R173). KMODE 1 to 3 in the handler slot quarantine the array, with every queued operation over and its state as it
was, lift the quarantine, and set B; the end of a Cone window compares B with L, raises Kiln health, and starts the next window with the partition's
WC (R351, R355). -/
def Obligations.KilnSteps : Prop :=
  (∀ (s : State) (tw k : Nat) (q : KilnOp) (r : List KilnOp) (rows : List (List BRef)),
    let x := (s.d.core tw k).kiln
    let kind := q.kind.withRows rows
    x.queue = q :: r → q.kind.isSweep = false → x.making = none → s.d.engineRuns tw k .kiln = true → rowsReached s tw k q.crew .load q.kind.rows rows →
    noLateTraps s → (∀ y ∈ r, y.op ≠ q.op) →
    ∃ t : State, exec (.kilnOperationExecute tw k) s = .next t ∧ (∀ j : Nat, t.mem.get j = s.mem.get j) ∧
      let y := (t.d.core tw k).kiln
      ((∀ (g0 n partner : Nat) (refs : List BRef) (stale : Nat), kind ≠ .bind g0 n partner refs stale) →
        y.queue = r ∧ ∀ o : Op, t.d.op q.op = some o → o.done = true) ∧
      (∀ (row0 n : Nat) (refs : List (List BRef)), kind = .couplings row0 n refs → row0 + n ≤ 256 → refs.length = n → (∀ e ∈ refs, e.length = 288) →
        (∀ i < 256, ∀ j < 256, (i < row0 ∨ row0 + n ≤ i) → getA y.j (256 * i + j) 0 = getA x.j (256 * i + j) 0) ∧
        ∀ (i : Nat) (e : List BRef), refs[i]? = some e →
          (∀ (j : Nat) (b : BRef), j < 256 → e[j]? = some b → getA y.j (256 * (row0 + i) + j) 0 = (s.mem.get b.key).toNat) ∧
          ∀ (j : Nat) (b : BRef), j < 32 → e[256 + j]? = some b → getA y.jg (32 * (row0 + i) + j) 0 = (s.mem.get b.key).toNat) ∧
      (∀ (beta : Nat) (refs : List BRef), kind = .bias beta refs → y.beta = beta ∧ (refs = [] → y.h = x.h) ∧
        ∀ (i : Nat) (a b : BRef), i < 256 → refs[2 * i]? = some a → refs[2 * i + 1]? = some b →
          getA y.h i 0 = (s.mem.get a.key).toNat + 256 * (s.mem.get b.key).toNat) ∧
      (∀ mask vals : List Word, kind = .clamp mask vals → ∀ i < 256, let bitOf := fun (v : List Word) => (v.getD (i / 64) 0).getLsbD (i % 64)
        getA y.clm i 0 = (if bitOf mask then 1 else 0) ∧ getA y.clv i 0 = (if bitOf vals then 1 else 0) ∧
        getA y.s i 0 = if bitOf mask then (if bitOf vals then 1 else 0) else getA x.s i 0) ∧
      (∀ vals : List Word, kind = .states vals → ∀ i < 256, getA y.s i 0 =
        if getA x.clm i 0 = 1 then getA x.s i 0 else if (vals.getD (i / 64) 0).getLsbD (i % 64) then 1 else 0) ∧
      (∀ ls : List Word, kind = .colours ls → ∀ i < 256, getA y.col i 0 = ((ls.getD (i / 8) 0).extractLsb' (8 * (i % 8)) 3).toNat) ∧
      (∀ (cfg table key0 key1 : Word) (team : Nat), kind = .configure cfg table key0 key1 team →
        y.mode = (cfg.extractLsb' 0 2).toNat ∧ y.ncol = (cfg.extractLsb' 2 3).toNat + 1 ∧ y.nnodes = (cfg.extractLsb' 5 8).toNat + 1 ∧
        y.arrayid = some (cfg.extractLsb' 16 16).toNat ∧ y.key0 = key0 ∧ y.key1 = key1 ∧
        (cfg.extractLsb' 0 2 = 2 → y.tbase = (table.extractLsb' 0 18).toNat ∧ y.tlen = (table.extractLsb' 32 17).toNat ∧ y.tpos = 0 ∧
          y.towner = some team) ∧ (cfg.extractLsb' 0 2 ≠ 2 → y.tbase = x.tbase ∧ y.tlen = x.tlen ∧ y.tpos = x.tpos ∧ y.towner = x.towner) ∧
        (cfg.getLsbD 32 = true → y.cnt = [] ∧ y.swp = 0 ∧ y.stalls = 0 ∧ y.improper = false ∧ y.bindings = [] ∧ y.subscribers = []) ∧
        (cfg.getLsbD 32 = false → y.cnt = x.cnt ∧ y.swp = x.swp ∧ y.stalls = x.stalls ∧ y.improper = x.improper ∧ y.bindings = x.bindings ∧
          y.subscribers = x.subscribers) ∧ y.s = x.s ∧ y.j = x.j ∧ y.jg = x.jg ∧ y.h = x.h ∧ y.beta = x.beta ∧ y.col = x.col) ∧
      (∀ (g0 n partner : Nat) (refs : List BRef) (stale : Nat), kind = .bind g0 n partner refs stale → ∃ b : Binding, y.queue = q :: r ∧ y.making = some b ∧ y.bindings = x.bindings ++ [b] ∧ b.g0 = g0 ∧ b.n = n ∧
        b.partner = partner ∧ b.stale = stale ∧ b.snaps = [] ∧ b.registered = false ∧
        b.nodes = refs.map fun e => (s.mem.get e.key).toNat) ∧
      (∀ g0 n : Nat, kind = .unbind g0 n → (∀ b : Binding, b ∈ y.bindings ↔ b ∈ x.bindings ∧ ¬ (g0 ≤ b.g0 ∧ b.g0 + b.n ≤ g0 + n)) ∧
        ∀ b ∈ x.bindings, g0 ≤ b.g0 → b.g0 + b.n ≤ g0 + n → ∀ g : Nat, b.g0 ≤ g → g < b.g0 + b.n → getA y.gs g 0 = 0) ∧
      (∀ (reg : Nat) (clr : Bool) (o : Op) (c : Crew), kind = .counts reg clr → s.d.op q.op = some o → s.d.crew o.crew = some c → (∀ z ∈ s.d.ops, z.id = q.op → z = o) →
        (clr = true → y.cnt = []) ∧ (clr = false → y.cnt = x.cnt) ∧ ((∀ i : Nat, getA x.cnt i 0 < 2 ^ 32) → ∃ c' : Crew, t.d.crew o.crew = some c' ∧
          ∀ i < 256, o.lanes.getLsbD (i % 64 / 2) = true →
            ((c'.val (reg + i / 64) (i % 64 / 2)).extractLsb' (32 * (i % 2)) 32).toNat = getA x.cnt i 0)) ∧
      (∀ (reg : Nat) (o : Op) (c : Crew), kind = .readState reg → s.d.op q.op = some o → s.d.crew o.crew = some c → (∀ z ∈ s.d.ops, z.id = q.op → z = o) →
        ∃ c' : Crew, t.d.crew o.crew = some c' ∧ ∀ l < 32, o.lanes.getLsbD l = true → let v := c'.val reg l
          (l < 4 → ∀ i < 64, v.getLsbD i = (getA x.s (64 * l + i) 0 == 1)) ∧
          (l = 4 → ∀ g < 32, v.getLsbD g = (getA x.gs g 0 == 2) ∧
            (v.getLsbD (32 + g) = true ↔ ∃ b ∈ x.bindings, b.g0 ≤ g ∧ g < b.g0 + b.n)) ∧
          (l = 6 → v = BitVec.ofNat 64 x.swp) ∧ (l = 7 → v = BitVec.ofNat 64 x.stalls) ∧ (l = 8 → v = BitVec.ofNat 64 x.tpos) ∧ (9 ≤ l → v = 0))) ∧
  ((∀ (beta : Nat) (i : Int), i = 0 → sigmoid16 beta i = 32768) ∧
  (∀ (beta : Nat) (i : Int), sigmoid16 beta i ≤ 65535) ∧
  (∀ (s : State) (tw k : Nat) (q : KilnOp) (r : List KilnOp) (left window : Nat) (fin : Bool) (cell : Word),
    let x := (s.d.core tw k).kiln
    x.queue = q :: r → q.kind = .sweep left window fin cell → s.d.engineRuns tw k .kiln = true → x.windowEnd = false →
    (∀ y ∈ r, y.op ≠ q.op) → noLateTraps s → x.nnodes ≤ 256 →
    (∀ c : Nat, x.phase = some c → x.mode ≠ 0 → c < x.ncol → ∃ t : State, exec (.kilnSweep tw k) s = .next t ∧ (∀ j : Nat, t.mem.get j = s.mem.get j) ∧
      let y := (t.d.core tw k).kiln
      let due := x.due c
      let p := fun i => sigmoid16 x.beta (x.input i)
      let up := fun i => getA y.s i 0 = 1
      (∀ i < 256, i ∉ due → getA y.s i 0 = getA x.s i 0) ∧
      (x.mode = 1 → ∀ i ∈ due, up i ↔
        u16 (vk64 (BitVec.ofNat 64 (x.swp * 2 ^ 24 + s.work.arrayId tw k * 2 ^ 8 + i)) x.key0 x.key1) < p i) ∧
      (x.mode = 2 → y.tpos = x.tpos + due.length ∧ ∀ (n i : Nat), due[n]? = some i → (up i ↔ s.work.num (s.work.kilnEntry tw k (x.tpos + n)) 2 < p i)) ∧
      (c + 1 < x.ncol → y.phase = some (c + 1) ∧ y.cnt = x.cnt ∧ y.swp = x.swp ∧ y.queue = x.queue) ∧
      (c + 1 = x.ncol → y.phase = none ∧ y.swp = (x.swp + 1) % 2 ^ 32 ∧
        (∀ i < 256, getA y.cnt i 0 = if i < x.nnodes ∧ getA y.s i 0 = 1 then (getA x.cnt i 0 + 1) % 2 ^ 32 else getA x.cnt i 0) ∧
        (1 < left ∨ (window ≠ 0 ∧ x.wdone + 1 = window) → (y.queue.head?).map (·.kind) = some (.sweep (left - 1) window fin cell)) ∧
        (left ≤ 1 → window = 0 → y.queue = r) ∧ (y.windowEnd = true ↔ window ≠ 0 ∧ x.wdone + 1 = window) ∧
        (x.quarantined = false → ∀ z ∈ x.subscribers, (y.swp, z.nodes.map fun n => getA y.s n 0) ∈
          ((t.d.core z.tower z.core).kiln.inbound.filter fun e => e.1 == z.id).map (·.2)))) ∧
    (x.phase = none → x.mode = 2 → x.tlen < x.tpos + x.entries → s.work.registering tw k = false → ∃ t : State, exec (.kilnSweep tw k) s = .next t ∧
      (t.d.core tw k).kiln.queue = r ∧ (t.d.core tw k).kiln.swp = x.swp ∧ (t.d.core tw k).kiln.s = x.s ∧
      ∀ p : Part, s.d.part tw = some p → p.ctx.isSome = true → p.halt.phase = .running → haltBegun s t tw p fun f => f.reason = .replayExhausted ∧ f.engine = .kiln) ∧
    (x.phase = none → x.mode ≠ 2 → s.work.registering tw k = false → x.stalled = false →
      (∀ p : Part, s.d.part tw = some p → p.debugHalted = []) →
      (∃ b ∈ x.bindings, ∀ e ∈ b.snaps, genReached e.1 (x.swp + 2 ^ 32 - b.stale) = false) → ∃ t : State, exec (.kilnSweep tw k) s = .next t ∧
        (t.d.core tw k).kiln = { x with stalled := true, stalls := (x.stalls + 1) % 2 ^ 32 } ∧ t.mem = s.mem)) ∧
  (∀ (s : State) (tw k i id tag : Nat) (st : List Nat), let x := (s.d.core tw k).kiln
    x.inbound[i]? = some (id, tag, st) → (∀ e ∈ x.inbound.take i, e.1 ≠ id) → noLateTraps s → ∃ t : State, exec (.snapshotArrive tw k i) s = .next t ∧
      (t.d.core tw k).kiln.inbound = x.inbound.eraseIdx i ∧ (t.d.core tw k).kiln.s = x.s ∧ t.mem = s.mem ∧
      (∀ b ∈ x.bindings, b.id = id → (∀ e ∈ b.snaps, genReached tag e.1 = true) → b.snaps.length ≤ 16 →
        { b with snaps := (b.snaps ++ [(tag, st)]).drop (b.snaps.length - 15) } ∈ (t.d.core tw k).kiln.bindings) ∧
      ∀ (b : Binding) (q : KilnOp) (r : List KilnOp), x.making = some b → b.id = id → b.registered = true → (∀ e ∈ x.inbound.eraseIdx i, e.1 ≠ id) →
        x.queue = q :: r → (∀ y ∈ r, y.op ≠ q.op) → (t.d.core tw k).kiln.queue = r ∧ ∀ o : Op, t.d.op q.op = some o → o.done = true) ∧
  ∀ (s : State) (tw k g0 : Nat) (b : Binding) (p : Part) (far : Nat × Nat), tw < 8 → k < 48 → far.1 < 8 → far.2 < 48 →
    let x := (s.d.core tw k).kiln
    x.bindings.find? (fun b => b.g0 == g0 && !b.registered) = some b → s.d.part tw = some p → (s.work.logical p)[b.partner]? = some far →
    far ≠ (tw, k) → noLateTraps s → (s.d.core far.1 far.2).kiln.phase = none → (s.d.core far.1 far.2).kiln.quarantined = false →
    ((s.d.core far.1 far.2).kiln.subscribers.length < 8 → ∃ t : State, exec (.subscriberRegister tw k g0) s = .next t ∧
      (t.d.core far.1 far.2).kiln.subscribers = (s.d.core far.1 far.2).kiln.subscribers ++ [⟨tw, k, b.id, b.nodes⟩] ∧
      (∃ e ∈ (t.d.core tw k).kiln.inbound, e.1 = b.id ∧ e.2.1 = (s.d.core far.1 far.2).kiln.swp) ∧
      (∀ z ∈ (t.d.core tw k).kiln.bindings, z.id = b.id → z.registered = true) ∧ t.mem = s.mem) ∧
    (8 ≤ (s.d.core far.1 far.2).kiln.subscribers.length → p.ctx.isSome = true → p.halt.phase = .running →
      ∃ t : State, exec (.subscriberRegister tw k g0) s = .next t ∧ (∀ z ∈ (t.d.core tw k).kiln.bindings, z.id ≠ b.id) ∧
        haltBegun s t tw p fun f => f.reason = .bindingFull ∧ f.crew = b.crew ∧ f.iaddr = b.iaddr)) ∧
  ((∀ (s : State) (cu : Cur) (c : Crew), c.handler = true → Unfenced s cu → c.cnt.getD 4 0 < 127 → noLateTraps s →
    let k := fun (x : State) => x.d.core c.place.tower c.place.core
    let kept := fun (t : State) => (k t).kiln.s = (k s).kiln.s ∧ (k t).kiln.j = (k s).kiln.j ∧ (k t).kiln.cnt = (k s).kiln.cnt ∧
      (k t).kiln.swp = (k s).kiln.swp ∧ (k t).kiln.bindings = (k s).kiln.bindings ∧ (k t).kiln.mode = (k s).kiln.mode ∧
      (∀ j : Nat, t.mem.get j = s.mem.get j) ∧ ∃ c' : Crew, t.d.crew cu.crew = some c' ∧ threadsAdvance cu c c'
    (∀ o : OpXG, Ready s cu c o.g [] →
      ((k s).kiln.quarantined = false → ∃ t : State, exec (.kmodeQuar o) s = .next t ∧ kept t ∧ (k t).kiln.quarantined = true ∧ (k t).kiln.queue = [] ∧
        ∀ q ∈ (k s).kiln.queue, ∀ x : Op, t.d.op q.op = some x → x.done = true) ∧
      ∃ t : State, exec (.kmodeFree o) s = .next t ∧ kept t ∧ (k t).kiln.quarantined = false ∧ (k t).kiln.queue = (k s).kiln.queue) ∧
    ∀ o : OpKinj, Ready s cu c o.g [] → (k s).kiln.quarantined = false → ∃ t : State, exec (.kmodeInject o) s = .next t ∧ kept t ∧
      (k t).cone = { (k s).cone with injected := some o.bias.toNat } ∧ (k t).kiln = (k s).kiln) ∧
  (∀ ones total : Nat, total ≠ 0 → (coneB ones total : ℤ) = ⌊|(ones : ℚ) - total / 2| * 65536 / total⌋) ∧
  ∀ (s : State) (tw k : Nat) (p : Part), s.d.part tw = some p → s.work.present tw k = true →
    let cone := (s.d.core tw k).cone
    ∃ (t : State) (b : Nat), exec (.coneWindowEnd tw k) s = .next t ∧ (t.d.core tw k).cone = { total := 8 * p.coneWc, window := (cone.window + 1) % 2 ^ 32, injected := none } ∧
      (∀ v : Nat, cone.injected = some v → b = v) ∧ (cone.injected = none → ∃ ones ≤ cone.total, b = coneB ones cone.total) ∧
      (p.coneL < b → (s.d.core tw k).kiln.quarantined = false → p.ctx.isSome = true → p.halt.phase = .running →
        haltBegun s t tw p fun f => f.reason = .kilnHealth ∧ f.tower = tw ∧ f.unit = k ∧ f.detail % 2 ^ 32 = b % 2 ^ 32) ∧
      (b ≤ p.coneL ∨ (s.d.core tw k).kiln.quarantined = true → t.mem = s.mem ∧ t.d.parts = s.d.parts ∧ t.d.crews = s.d.crews))

/-- Each Slip form with good operands joins the queue of its core's tile with what it captured at issue, changes nothing else of the tile, counts
one in SMP, and leaves the register of GRDM, GRDC and GRES pending (R359 to R362, R367). -/
def Obligations.SlipIssues : Prop :=
  ∀ (s : State) (cu : Cur) (c : Crew) (tm : Team), c.handler = false → c.landed = false → Unfenced s cu → s.d.teamOf c = some tm →
    let k := fun (x : State) => x.d.core c.place.tower c.place.core
    let x := (k s).slip
    c.cnt.getD 4 0 < 127 → x.queue.length < 16 →
    let accepted := fun (t : State) (g : Guard) (regs : List Nat) (la : Nat) (kind : SlipKind) =>
      (opPut s t cu c g 5 regs la fun op => op.kind = .sampler ∧ op.done = false ∧
        (k t).slip = { x with queue := x.queue ++ [⟨kind, op.id, cu.crew, c.team⟩] }) ∧ matrixKept s t cu.crew c.team
    let l := fun (g : Guard) => lowLane (activeLanes cu c g)
    let pairs := fun (r : Nat) => (List.range 64).map fun i => ((c.val r (i / 2)).extractLsb' (32 * (i % 2)) 32).toNat
    let small := fun (b : Nat) => ∃ v, (Fmt.fp32.value b).rat = some v ∧ |v| < 8
    (∀ (o : OpGcpl) (refs : Nat → List BRef), Ready s cu c o.g [o.a.toNat, o.b.toNat] →
      let a := (c.val o.a.toNat (l o.g)).toNat
      let pitch := (c.val o.b.toNat (l o.g)).toNat
      a % 8 = 0 → pitch < 2 ^ 32 → pitch % 8 = 0 → 128 ≤ pitch →
      (∀ r ≤ o.nm1.toNat, locatedAt s cu c .load o.space.toNat 128 ((a + r * pitch) % 2 ^ 64) (refs r)) → ∃ t : State, exec (.gcpl o) s = .next t ∧
        accepted t o.g [] 0 (.couplings o.row0.toNat (o.nm1.toNat + 1) ((List.range (o.nm1.toNat + 1)).map refs))) ∧
    (∀ o : OpGbias, Ready s cu c o.g (if o.tonly then [o.b.toNat] else [o.a.toNat, o.b.toNat]) →
      let temp := (c.val o.b.toNat (l o.g)).toNat % 2 ^ 16
      (∃ v, (Fmt.fp16.value temp).rat = some v ∧ 0 ≤ v) → (o.tonly = false → ∀ b ∈ pairs o.a.toNat, (Fmt.fp32.value b).rat ≠ none) →
      ∃ t : State, exec (.gbias o) s = .next t ∧
        accepted t o.g [] 0 (.bias (temp % 2 ^ 15) (if o.tonly then none else some (pairs o.a.toNat)))) ∧
    (∀ o : OpGrun, Ready s cu c o.g (if o.pub then [o.a.toNat, o.b.toNat] else [o.b.toNat]) →
      let v := c.val o.b.toNat (l o.g)
      let period := (v.extractLsb' 24 16).toNat
      let window := (v.extractLsb' 40 24).toNat
      period ≠ 0 → window ≠ 0 → window % period = 0 → (x.issued.1 = 0 → (s.d.cmr c).getLsbD 6 = false) →
      (x.issued.1 = 2 → x.issued.2 = some c.team) → ∃ t : State, exec (.grun o) s = .next t ∧ accepted t o.g [] 0
        (.run (o.nwm1.toNat + 1) (v.extractLsb' 0 24).toNat period window o.pub o.fin o.cum o.cov (c.val o.a.toNat (l o.g)))) ∧
    (∀ o : OpGrdm, Ready s cu c o.g [o.d.toNat] → c.lateRoom [o.d.toNat] → ∃ t : State, exec (.grdm o) s = .next t ∧
      accepted t o.g [o.d.toNat] o.la.toNat (.readMean o.d.toNat o.sel.toNat)) ∧
    (∀ o : OpGrdc, Ready s cu c o.g [o.d.toNat] → c.lateRoom [o.d.toNat] → ∃ t : State, exec (.grdc o) s = .next t ∧
      accepted t o.g [o.d.toNat] o.la.toNat (.readCov o.d.toNat o.row.toNat)) ∧
    (∀ o : OpGres, Ready s cu c o.g [o.b.toNat, o.d.toNat] → c.lateRoom [o.d.toNat] → ∃ t : State, exec (.gres o) s = .next t ∧
      accepted t o.g [o.d.toNat] o.la.toNat (.residual o.d.toNat o.sc.toNat (pairs o.b.toNat))) ∧
    (∀ o : OpXA, Ready s cu c o.g [o.a.toNat] →
      ((∀ b ∈ pairs o.a.toNat, small b) → ∃ t : State, exec (.gmodeSetState o) s = .next t ∧ accepted t o.g [] 0 (.setState (pairs o.a.toNat))) ∧
      ((∃ b ∈ pairs o.a.toNat, ¬ small b) → ∀ p : Part, Running s c p → ∃ t : State, exec (.gmodeSetState o) s = .next t ∧
        faultTaken s t cu c o.g p .badSlipOperand)) ∧
    ∀ o : OpXAB, Ready s cu c o.g [o.a.toNat, o.b.toNat] →
      let cfg := c.val o.b.toNat (l o.g)
      let table := c.val o.a.toNat (l o.g)
      cfg.extractLsb' 0 2 ≠ 3 → cfg.extractLsb' 13 3 = 0 → cfg.extractLsb' 33 31 = 0 → (cfg.extractLsb' 0 2 = 0 → (s.d.cmr c).getLsbD 6 = false) →
      (cfg.extractLsb' 0 2 = 2 → table.extractLsb' 0 2 = 0 ∧ table.extractLsb' 18 14 = 0 ∧ table.extractLsb' 49 15 = 0 ∧
        (table.extractLsb' 32 17 = 0 ∨ ∃ refs : List BRef, locatedAt s cu c .load 2 (4 * (table.extractLsb' 32 17).toNat) (table.extractLsb' 0 18).toNat refs)) →
      ∃ t : State, exec (.gmodeConfigure o) s = .next t ∧ accepted t o.g [] 0 (.configure cfg table c.sp.key0 c.sp.key1 c.team)

/-- What the queued operations other than GRUN do when they execute: loads and configuration, the readouts in the pair layout, and the residual of
GRES with one fused chain and one rounding (R357, R361, R365, R367). One unit of a run. The system check comes first; in the emulation modes without
noise each state is one Euler–Maruyama step from the states before it, in fused chains; a state at the rail ends the run; at a sample the sums take
it, and at a window end the mean and the covariance are latched (R362 to R365). -/
def Obligations.SlipSteps : Prop :=
  (∀ (s : State) (tw k : Nat) (q : SlipOp) (r : List SlipOp) (rows : List (List BRef)),
    let x := (s.d.core tw k).slip
    let kind := q.kind.withRows rows
    x.queue = q :: r → q.kind.isRun = false → s.d.engineRuns tw k .slip = true → rowsReached s tw k q.crew .load q.kind.rows rows → noLateTraps s →
    (∀ y ∈ r, y.op ≠ q.op) → (∀ (o : Op) (c : Crew), s.d.op q.op = some o → s.d.crew o.crew = some c → noTraps s c) →
    ∃ t : State, exec (.slipOperationExecute tw k) s = .next t ∧ (∀ j : Nat, t.mem.get j = s.mem.get j) ∧
      let y := (t.d.core tw k).slip
      let e := FCtl.engine
      let val := fun (b : Nat) => Fmt.fp32.value b
      y.queue = r ∧ (∀ o : Op, t.d.op q.op = some o → o.done = true) ∧
      (∀ (row0 n : Nat) (refs : List (List BRef)), kind = .couplings row0 n refs → row0 + n ≤ 64 → refs.length = n →
        (∀ i < 64, ∀ j < 64, (i < row0 ∨ row0 + n ≤ i) → getA y.a (64 * i + j) 0 = getA x.a (64 * i + j) 0) ∧
        ∀ (i j : Nat) (row : List BRef) (a b : BRef), refs[i]? = some row → j < 64 → row[2 * j]? = some a → row[2 * j + 1]? = some b →
          getA y.a (64 * (row0 + i) + j) 0 = (s.mem.get a.key).toNat + 256 * (s.mem.get b.key).toNat) ∧
      (∀ (temp : Nat) (b : Option (List Nat)), kind = .bias temp b → y.temp = temp ∧ (b = none → y.b = x.b) ∧ ∀ l : List Nat, b = some l → ∀ i : Nat, getA y.b i 0 = l.getD i 0) ∧
      (∀ l : List Nat, kind = .setState l → ∀ i : Nat, getA y.x i 0 = l.getD i 0) ∧
      (∀ (cfg table key0 key1 : Word) (team : Nat), kind = .configure cfg table key0 key1 team →
        y.mode = (cfg.extractLsb' 0 2).toNat ∧ y.k = (cfg.extractLsb' 2 5).toNat ∧ y.nord = (cfg.extractLsb' 7 6).toNat + 1 ∧
        y.tileid = some (cfg.extractLsb' 16 16).toNat ∧ y.key0 = key0 ∧ y.key1 = key1 ∧
        (cfg.extractLsb' 0 2 = 2 → y.tbase = (table.extractLsb' 0 18).toNat ∧ y.tlen = (table.extractLsb' 32 17).toNat ∧ y.tpos = 0 ∧
          y.towner = some team) ∧
        (cfg.getLsbD 32 = true → y.x = [] ∧ y.sx = [] ∧ y.sxx = [] ∧ y.mu = [] ∧ y.cv = [] ∧ y.ns = 0 ∧ y.step = 0 ∧ y.wins = 0 ∧ y.pstalls = 0) ∧
        (cfg.getLsbD 32 = false → y.x = x.x ∧ y.sx = x.sx ∧ y.mu = x.mu ∧ y.cv = x.cv ∧ y.ns = x.ns ∧ y.step = x.step ∧ y.wins = x.wins) ∧
        y.a = x.a ∧ y.b = x.b ∧ y.temp = x.temp) ∧
      ∀ (o : Op) (c : Crew), s.d.op q.op = some o → s.d.crew o.crew = some c → (∀ z ∈ s.d.ops, z.id = q.op → z = o) →
        let wrote := fun (reg : Nat) (f : Nat → Nat) => ∃ c' : Crew, t.d.crew o.crew = some c' ∧ ∀ l < 32, o.lanes.getLsbD l = true →
          c'.val reg l = BitVec.ofNat 64 (f (2 * l) + 2 ^ 32 * f (2 * l + 1))
        (∀ reg : Nat, kind = .readMean reg 0 → wrote reg fun i => if i < x.nord then getA x.mu i 0 else 0) ∧
        (∀ reg : Nat, kind = .readMean reg 1 → wrote reg fun i => if i < x.nord then getA x.x i 0 else 0) ∧
        (∀ reg : Nat, kind = .readMean reg 2 → ∃ c' : Crew, t.d.crew o.crew = some c' ∧ ∀ l < 32, o.lanes.getLsbD l = true → c'.val reg l = BitVec.ofNat 64
          ([s.work.tileId tw k * 2 ^ 16 + (x.nord - 1) * 2 ^ 7 + x.k * 4 + x.mode, x.step, x.wins, x.pstalls, x.tpos, x.ns].getD l 0)) ∧
        (∀ reg row : Nat, kind = .readCov reg row → wrote reg fun j => if row < x.nord ∧ j < x.nord then getA x.cv (64 * row + j) 0 else 0) ∧
        ∀ (reg sc : Nat) (v : List Nat), kind = .residual reg sc v → y.x = x.x ∧ y.b = x.b ∧ wrote reg fun i => if x.nord ≤ i then 0 else
          let sum := (List.range x.nord).foldl (fun acc j =>
            (ffma e .fp32 false false (Fmt.fp16.value (getA x.a (64 * i + j) 0)) (val (v.getD j 0)) (val acc)).bits) 0
          (fsub e .fp32 ((val (getA x.b i 0)).scale (toSigned 6 sc)) ((val sum).scale (toSigned 6 sc))).bits) ∧
  (∀ (s : State) (tw k : Nat) (q : SlipOp) (r : List SlipOp) (windows settle period window : Nat) (pub fin cum cov : Bool) (cell : Word),
    let x := (s.d.core tw k).slip
    x.queue = q :: r → q.kind = .run windows settle period window pub fin cum cov cell → s.d.engineRuns tw k .slip = true →
    x.windowEnd = false → (∀ n ∈ x.spent, s.d.faulted tw n = true) → x.resettle = 0 → x.nord ≤ 64 → 1 ≤ period → (∀ y ∈ r, y.op ≠ q.op) →
    let out : Slip := { x with queue := r, t := 0, running := false, flags := 0, windowEnd := false, wstalled := false, closing := none, resettle := 0
                               spent := x.spent ++ [q.op] }
    let e := FCtl.engine
    let val := fun (b : Nat) => Fmt.fp32.value b
    let a := fun i j => Fmt.fp16.value (getA x.a (64 * i + j) 0)
    let finite := fun (i j : Nat) => (a i j).rat ≠ none
    let same := fun (i j : Nat) => ∃ v, (a i j).rat = some v ∧ (a j i).rat = some v
    (x.running = false → ∀ i j : Nat, i < x.nord → j < x.nord → (if i = j then ∀ v, (a i i).rat = some v → v ≤ 0 else finite i j → ¬ same i j) →
      (∀ i' j' : Nat, i' < x.nord → j' < x.nord → (i' < i ∨ (i' = i ∧ j' < j)) → finite i' j' ∧
        if i' = j' then ∃ v, (a i' i').rat = some v ∧ 0 < v else same i' j') →
      ∃ t : State, exec (.slipStep tw k) s = .next t ∧ (t.d.core tw k).slip = out ∧
        ∀ p : Part, s.d.part tw = some p → p.ctx.isSome = true → p.halt.phase = .running →
          haltBegun s t tw p fun f => f.reason = .slipNotPd ∧ f.engine = .slip ∧ f.detail = i + 2 ^ 32 * j) ∧
    (x.running = true → x.mode ≠ 0 → x.temp % 2 ^ 15 = 0 →
      let res := fun i => (fsub e .fp32 (val ((List.range x.nord).foldl (fun acc j =>
        (ffma e .fp32 false false (a i j) (val (getA x.x j 0)) (val acc)).bits) 0)) (val (getA x.b i 0))).bits
      let next := fun i => (fsub e .fp32 (val (getA x.x i 0)) ((val (res i)).scale (-(x.k : Int)))).bits
      let inside := fun b => ∃ v, (val b).rat = some v ∧ |v| < 8
      ∃ t : State, exec (.slipStep tw k) s = .next t ∧
        let y := (t.d.core tw k).slip
        (∀ i < 64, getA y.x i 0 = if i < x.nord then next i else getA x.x i 0) ∧ y.step = (x.step + 1) % 2 ^ 64 ∧ y.tpos = x.tpos ∧
        ((∃ i < x.nord, ¬ inside (next i)) → y = { out with x := y.x, step := y.step } ∧ y.sx = x.sx ∧ y.mu = x.mu ∧
          ∀ p : Part, s.d.part tw = some p → p.ctx.isSome = true → p.halt.phase = .running →
            haltBegun s t tw p fun f => f.reason = .slipRail ∧ f.detail / 2 ^ 32 = x.t + 1 ∧ ¬ inside (next (f.detail % 2 ^ 32))) ∧
        ((∀ i < x.nord, inside (next i)) → (∀ j : Nat, t.mem.get j = s.mem.get j) ∧
          let due := settle < x.t + 1 ∧ (x.t + 1 - settle) % period = 0
          (¬ due → y.sx = x.sx ∧ y.sxx = x.sxx ∧ y.ns = x.ns ∧ y.mu = x.mu ∧ y.t = x.t + 1 ∧ y.queue = x.queue) ∧
          (due → (x.t + 1 - settle) % window ≠ 0 → y.ns = (x.ns + 1) % 2 ^ 32 ∧ y.mu = x.mu ∧ y.t = x.t + 1 ∧
            (∀ i < x.nord, getA y.sx i 0 = (fadd e .fp32 (val (getA x.sx i 0)) (val (next i))).bits) ∧
            ∀ i < x.nord, ∀ j < x.nord, getA y.sxx (64 * i + j) 0 =
              (ffma e .fp32 false false (val (next i)) (val (next j)) (val (getA x.sxx (64 * i + j) 0))).bits) ∧
          (due → (x.t + 1 - settle) % window = 0 → pub = true → y.windowEnd = true ∧ y.wins = (x.wins + 1) % 2 ^ 32 ∧ y.ns = (x.ns + 1) % 2 ^ 32 ∧
            ∀ i < x.nord, getA y.mu i 0 = (fdiv e .fp32 (val (getA y.sx i 0)) (Val.ofInt y.ns)).bits))))

/-- A window end of a Kiln array or a Slip tile whose team may publish to its cell: the estimate is written into the buffer of the next version, the
cell's VER advances, and the run goes on, or is over after its last window or a returned STOP once every reader has released the buffer of the
version before (R162, R173, R351, R354, R360, R366). A run that waits for that ends when it is so. -/
def Obligations.WindowEnds : Prop :=
  (∀ (s : State) (tw k op crew : Nat) (c : Crew) (tm : Team) (w : Who) (cell : Word) (payload : List Byte) (need : Nat) (refs rs : List BRef)
    (slip last fin : Bool),
    let kiln := (s.d.core tw k).kiln
    let tile := (s.d.core tw k).slip
    let free := fun (x : State) => if slip then (x.d.core tw k).slip.windowEnd = false else (x.d.core tw k).kiln.windowEnd = false
    let closes := fun (x : State) (e : Nat × Nat) => if slip then (x.d.core tw k).slip.closing = some e ∧ (x.d.core tw k).slip.queue = tile.queue
      else (x.d.core tw k).kiln.closing = some e ∧ (x.d.core tw k).kiln.queue = kiln.queue
    ((slip = false ∧ need = 1280 ∧ kiln.windowEnd = true ∧ kiln.closing = none ∧ s.d.engineRuns tw k .kiln = true ∧ ∃ (q : KilnOp) (r : List KilnOp) (left window : Nat), kiln.queue = q :: r ∧ q.op = op ∧
        q.crew = crew ∧ q.kind = .sweep left window fin cell ∧ (last = true ↔ left = 0) ∧ payload = kiln.windowBytes window) ∨
      (slip = true ∧ tile.windowEnd = true ∧ tile.closing = none ∧ s.d.engineRuns tw k .slip = true ∧ ∃ (q : SlipOp) (r : List SlipOp) (windows settle period window : Nat) (cum cov : Bool), tile.queue = q :: r ∧
        q.op = op ∧ q.crew = crew ∧ q.kind = .run windows settle period window true fin cum cov cell ∧
        (last = true ↔ tile.t = settle + windows * window) ∧ tile.t ≤ settle + windows * window ∧ payload = tile.windowBytes cov ∧
        need = if cov then 17408 else 1024)) →
    s.d.faulted tw op = false → s.d.crew crew = some c → s.d.teamOf c = some tm → s.d.engineWho c = some w → noLateTraps s → s.wf = true →
    s.work.locate w [] .atomic 0 cell.toNat (if cell.toNat % 32 = 0 then 32 else 1) = .ok refs →
    let key := (refs.headD { key := 0 }).key
    let v := s.work.num key 32
    let ver := Machine.bits 15 0 v
    let readers := Machine.bits (if ver % 2 = 0 then 31 else 39) (if ver % 2 = 0 then 24 else 32) v
    (∀ o ∈ s.d.ops, o.done = true ∨ ∀ (vop : VerOp) (kk va arg : Nat) (reg pred : Option Nat) (st since buf : Nat), o.kind = .version vop kk va arg reg pred st since buf → kk ≠ key) →
    s.d.deliveries = [] → s.d.tableFull tm cell = false → (fin = true → last = true → tm.inputsFinal = true ∧ s.d.bad = []) → s.d.meetsBad false refs = none →
    cellBad w.x cell.toNat v = false → need ≤ Machine.bits 159 128 v → Machine.bit 16 v = false → ver ≠ 0xFFFF →
    Machine.bits (if (ver + 1) % 2 = 0 then 31 else 39) (if (ver + 1) % 2 = 0 then 24 else 32) v = 0 →
    s.work.locate w [] .store 0 (Machine.bits 127 64 v + (ver + 1) % 2 * Machine.bits 159 128 v) payload.length = .ok rs → s.d.meetsBad true rs = none →
    s.work.passes c.place.tower c.place.core (rs ++ refs) = false →
    (rs.map (·.key)).Nodup → rs.length = payload.length → (∀ r ∈ rs, r.key < key ∨ key + 32 ≤ r.key) → Machine.bits 175 160 v = 0xFFFF →
    noTraps s c → (∀ o : Op, s.d.op op = some o → o.crew = crew) →
    ∃ t : State, exec (.engineWindowEnd slip tw k) s = .next t ∧
      (last = false ∧ Machine.bit 17 v = false ∨ readers = 0 → free t) ∧ (last = true ∨ Machine.bit 17 v = true → readers ≠ 0 → closes t (key, ver % 2)) ∧
      (∀ (n : Nat) (r : BRef) (b : Byte), rs[n]? = some r → payload[n]? = some b →
        t.mem.get r.key = b) ∧ memKeptBut s t (rs.map (·.key) ++ (List.range 32).map (key + ·)) ∧
      let v' := t.work.num key 32
      Machine.bits 15 0 v' = ver + 1 ∧ (Machine.bit 16 v' = true ↔ fin = true ∧ last = true) ∧ Machine.bits 39 24 v' = Machine.bits 39 24 v ∧
        Machine.bits 127 64 v' = Machine.bits 127 64 v) ∧
  ∀ (s : State) (tw k key buf : Nat) (c : Crew), noLateTraps s → s.work.publishRetired 0 key buf = true → s.d.deliveries = [] →
    (∀ (q : KilnOp) (r : List KilnOp) (left window : Nat) (fin : Bool) (cell : Word), let x := (s.d.core tw k).kiln
      x.queue = q :: r → q.kind = .sweep left window fin cell → x.windowEnd = true → x.closing = some (key, buf) → s.d.crew q.crew = some c →
      s.d.engineRuns tw k .kiln = true → s.d.faulted tw q.op = false → (∀ y ∈ r, y.op ≠ q.op) →
      ∃ t : State, exec (.engineWindowEnd false tw k) s = .next t ∧ t.mem = s.mem ∧ (∀ o : Op, t.d.op q.op = some o → o.done = true) ∧
        (t.d.core tw k).kiln = { x with queue := r, phase := none, stalled := false, wcnt := [], wdone := 0, windowEnd := false, wstalled := false
                                        closing := none }) ∧
    ∀ (q : SlipOp) (r : List SlipOp) (windows settle period window : Nat) (pub fin cum cov : Bool) (cell : Word), let x := (s.d.core tw k).slip
      x.queue = q :: r → q.kind = .run windows settle period window pub fin cum cov cell → x.windowEnd = true → x.closing = some (key, buf) →
      s.d.crew q.crew = some c → s.d.engineRuns tw k .slip = true → s.d.faulted tw q.op = false → (∀ y ∈ r, y.op ≠ q.op) → noTraps s c →
      (∀ o : Op, s.d.op q.op = some o → o.crew = q.crew) →
      ∃ t : State, exec (.engineWindowEnd true tw k) s = .next t ∧ t.mem = s.mem ∧ (∀ o : Op, t.d.op q.op = some o → o.done = true) ∧
        (t.d.core tw k).slip = { x with queue := r, t := 0, running := false, flags := 0, windowEnd := false, wstalled := false, closing := none
                                        resettle := 0 }

/-- The rows of a Slip tile complete (R360, R362, R363). The oldest operation other than GRUN executes and leaves the queue, whatever else the
partition does. A unit of a run is made in every mode, with any temperature, once the system has passed its check and the noise table holds what
the unit takes: an emulation mode's STEP advances by one and nothing that the run reads changes; the run goes on to the next unit unless it ends. -/
def Obligations.SlipRowsComplete : Prop :=
  (∀ (s : State) (tw k : Nat) (q : SlipOp) (r : List SlipOp) (rows : List (List BRef)), (s.d.core tw k).slip.queue = q :: r → q.kind.isRun = false →
    s.d.engineRuns tw k .slip = true → rowsReached s tw k q.crew .load q.kind.rows rows → (∀ y ∈ r, y.op ≠ q.op) →
    ∃ t : State, exec (.slipOperationExecute tw k) s = .next t ∧ (t.d.core tw k).slip.queue = r ∧ ∀ o : Op, t.d.op q.op = some o → o.done = true) ∧
  ∀ (s : State) (tw k : Nat) (q : SlipOp) (r : List SlipOp) (windows settle period window : Nat) (pub fin cum cov : Bool) (cell : Word),
    let x := (s.d.core tw k).slip
    x.queue = q :: r → q.kind = .run windows settle period window pub fin cum cov cell → s.d.engineRuns tw k .slip = true → x.windowEnd = false →
    (∀ n ∈ x.spent, s.d.faulted tw n = true) → x.resettle = 0 → (x.running = true ∨ x.notPd = none) →
    (x.mode = 2 → x.temp % 2 ^ 15 ≠ 0 → x.tpos + x.nord ≤ x.tlen ∧ s.d.bad = []) →
    ∃ t : State, exec (.slipStep tw k) s = .next t ∧
      let y := (t.d.core tw k).slip
      (x.mode ≠ 0 → y.step = (x.step + 1) % 2 ^ 64) ∧ (x.mode = 0 → y.step = x.step) ∧
      y.tpos = (if x.mode = 2 ∧ x.temp % 2 ^ 15 ≠ 0 then x.tpos + x.nord else x.tpos) ∧
      y.a = x.a ∧ y.b = x.b ∧ y.temp = x.temp ∧ y.mode = x.mode ∧ y.nord = x.nord ∧ (∀ i : Nat, x.nord ≤ i → getA y.x i 0 = getA x.x i 0) ∧
      (y.queue = x.queue → y.running = true ∧ y.t = (if x.running then x.t else 0) + 1)

/-! ## Scheduling (20_scheduling.md) -/

/-- The grid at the head is that of the highest priority with a waiting grid, and of the lowest acceptance number among these; one that is held at
the head stays there (R379), and it is dealt next unless the scheduler of its queue's tower is debug-halted (R418; that this keeps back the whole
partition's dealing is the model's reading, assumption 58). A grid begun or next is dealt team by team in ascending index: in DET mode to logical
core t mod L, else to the core with room in its pending list that has the fewest entries, then the most free registers, then the lowest logical id
(R382, R384). Before the next grid is dealt, its CMR and its range table
take effect once no dealt team of the context has still to end, and a range table that cannot be loaded fails the launch (R38, R209; that the
launching queue is then told is the model's reading, assumption 48). A team that fits is admitted in the lowest free slots of its core, with
a crew in each whose threads stand at the record's CODE and whose identifiers are preloaded (R185, R186, R208, R381); an entry behind a head that
does not fit is admitted past it, which ages the head (R383); the head may move to a core where it fits. A blocked team is evicted with its crews
and its local memory, for a child grid's team that finds no room anywhere, and comes back with both as they were, its complete holds released (R180, R189). -/
def Obligations.GridsAndTeams : Prop :=
  ((∀ (d : Dev) (p : Part) (g : Grid), d.headGrid p = some g → ∃ prio < 8,
    let heads := fun (q : Nat) (h : Grid) => ∃ tw ∈ p.towers, (((d.tower tw).queues.getD q []).head?).bind d.grid = some h
    heads prio g ∧ ∀ q < 8, ∀ h : Grid, heads q h → q ≤ prio ∧ (q = prio → g.accept ≤ h.accept)) ∧
  (∀ (d : Dev) (p : Part),
    (∀ g : Grid, p.head.bind d.grid = some g → g.phase = .queued → d.standing p = some g) ∧
    ((∀ g : Grid, p.head.bind d.grid = some g → g.phase ≠ .queued) → d.standing p = d.headGrid p) ∧
    ∀ g : Grid, d.nextGrid p = some g ↔ d.standing p = some g ∧ g.tower ∉ p.debugHalted) ∧
  (∀ (s : State) (low : Nat) (p : Part) (x : Ctx) (g : Grid), s.d.schedules low = some (p, x) → p.dealing.bind s.d.grid = none → s.d.nextGrid p = some g →
    p.head ≠ some g.id → g.launch.ranget ≠ x.ranget ∨ g.launch.cmrv ≠ x.cmr → s.d.part low = some p →
    ∃ t : State, exec (.dealTeam low) s = .next t ∧ (t.d.part low).map (·.head) = some (some g.id) ∧ t.d.teams = s.d.teams ∧ t.d.grids = s.d.grids ∧ t.mem = s.mem) ∧
  (∀ (s : State) (low : Nat) (p : Part) (x : Ctx) (g : Grid), s.d.schedules low = some (p, x) → g.launch.coop = false →
    (p.dealing.bind s.d.grid = some g ∧ g.tower ∉ p.debugHalted ∨ p.dealing.bind s.d.grid = none ∧ s.d.nextGrid p = some g ∧ g.launch.ranget = x.ranget ∧
      g.launch.cmrv = x.cmr ∧ g.graph = none) →
    ∀ tw k : Nat, (g.launch.det = true → s.work.logical p ≠ [] ∧ (s.work.logical p)[g.dealtTeams % (s.work.logical p).length]? = some (tw, k)) →
    (g.launch.det = false → (tw, k) ∈ s.work.logical p ∧ (s.work.logical p).Nodup ∧ (s.d.core tw k).pending.length < 4 ∧
      ∀ tw' k' : Nat, (tw', k') ∈ s.work.logical p → (tw', k') ≠ (tw, k) → (s.d.core tw' k').pending.length < 4 →
        let a := ((s.d.core tw k).pending.length, s.d.freeRegs tw k)
        let b := ((s.d.core tw' k').pending.length, s.d.freeRegs tw' k')
        a.1 < b.1 ∨ a.1 = b.1 ∧ (b.2 < a.2 ∨ b.2 = a.2 ∧ (s.work.logical p).idxOf (tw, k) < (s.work.logical p).idxOf (tw', k'))) →
    ∃ (t : State) (tm : Team), exec (.dealTeam low) s = .next t ∧ t.d.teams = s.d.teams ++ [tm] ∧ tm.grid = g.id ∧ tm.index = g.dealtTeams ∧ tm.phase = .pending ∧
      tm.tower = tw ∧ tm.core = k ∧ (t.d.core tw k).pending = (s.d.core tw k).pending ++ [tm.id] ∧ t.d.crews = s.d.crews ∧ t.mem = s.mem) ∧
  (∀ (s : State) (low : Nat) (p : Part) (x : Ctx) (g : Grid), s.d.schedules low = some (p, x) → p.dealing = none → s.d.nextGrid p = some g →
    g.launch.ranget = x.ranget → g.launch.cmrv ≠ x.cmr → s.d.anyDealt x.ctxid = false → s.d.ctx x.ctxid = some x →
    ∃ t : State, exec (.cmrChange low) s = .next t ∧ t.d.ctx x.ctxid = some { x with cmr := g.launch.cmrv } ∧ t.d.parts = s.d.parts ∧
      t.d.teams = s.d.teams ∧ t.d.crews = s.d.crews ∧ t.mem = s.mem) ∧
  ∀ (s : State) (low : Nat) (p : Part) (x : Ctx) (g : Grid), s.d.schedules low = some (p, x) → p.dealing = none → s.d.nextGrid p = some g →
    g.launch.ranget ≠ x.ranget → s.d.anyDealt x.ctxid = false → s.d.ctx x.ctxid = some x → s.d.part low = some p →
    (p.drain = none → (∀ tw ∈ p.towers, ∀ cl < 12, (s.d.cluster tw cl).cmb = []) →
      ∃ t : State, exec (.rangeTableLoad low) s = .next t ∧ (t.d.part low).map (·.drain) = some (some []) ∧ t.mem = s.mem ∧ t.d.ctxs = s.d.ctxs ∧
        ∀ tw ∈ p.towers, ∀ k < 48, s.work.present tw k = true → (t.d.core tw k).l1 = []) ∧
    (∀ ids : List Nat, p.drain = some ids → s.d.drained ids = true →
      let x0 : Ctx := { x with ranget := 0, ranges := [] }
      let w := (s.work.l1sEmpty p).mod fun d => { (d.modPart low fun p => { p with drain := none }).modCtx x.ctxid fun x => { x with ranget := 0, ranges := [] } with
        homes := d.homes.filter fun h => h.tag.tensor == 0, copies := d.copies.filter fun c => c.tag.tensor == 0 }
      (∀ rs : List (Nat × Nat × Nat × Nat), w.rangesGot (p.who x0) g.launch.ranget = .ok rs →
        ∃ t : State, exec (.rangeTableLoad low) s = .next t ∧ t.d.ctx x.ctxid = some { x with ranget := g.launch.ranget, ranges := rs } ∧ t.mem = s.mem ∧
          t.d.grids = s.d.grids ∧ (t.d.part low).map (·.drain) = some none) ∧
      (w.rangesGot (p.who x0) g.launch.ranget = .error none → ∃ t : State, exec (.rangeTableLoad low) s = .next t ∧ t.d.grid g.id = none ∧
        t.d.ctx x.ctxid = some x0 ∧ t.mem = s.mem ∧
        ∀ sess q : Nat, g.origin = some (sess, q) → t.d.host = s.d.host.send sess q 1 (natLe 16 (g.originTag * 2 ^ 64 + 1))))) ∧
  (∀ (s : State) (tw k : Nat) (p : Part) (x : Ctx), s.d.schedulesAt tw = some (p, x) →
    let pending := fun (u : State) => (u.d.core tw k).pending
    let admits := fun (t : State) (tm : Team) (g : Grid) => ∃ cs : List Crew, t.d.crews = s.d.crews ++ cs ∧
      cs.map (·.place.slot) = (s.d.freeSlots tw k).take g.launch.crews ∧ cs.length = g.launch.crews ∧
      (∀ (j : Nat) (c : Crew), cs[j]? = some c → c.place.tower = tw ∧ c.place.core = k ∧ c.team = tm.id ∧ c.index = j ∧ c.allot = g.launch.allot ∧
        c.gbud = g.launch.gbud ∧ c.threads = List.replicate 32 { pc := g.launch.code } ∧ c.pend = [] ∧ c.cnt = [0, 0, 0, 0, 0, 0] ∧ c.waits = [] ∧
        (Machine.bit 0 g.launch.pre = true → c.reg 63 = .aff (BitVec.ofNat 64 (32 * j)) 1) ∧
        (Machine.bit 1 g.launch.pre = true → c.reg 62 = .uni (BitVec.ofNat 64 tm.index)) ∧
        (Machine.bit 2 g.launch.pre = true → c.reg 61 = .uni (BitVec.ofNat 64 j)) ∧
        (Machine.bit 7 g.launch.pre = true → c.reg 56 = .uni g.launch.argp) ∧
        ∀ r < 56, c.reg r = .uni 0) ∧
      (t.d.team tm.id).map (·.phase) = some .resident ∧ (t.d.team tm.id).map (·.crews) = some (cs.map (·.id)) ∧ tm.id ∉ pending t ∧
      ∀ a < localBase, t.mem.get a = s.mem.get a
    let ready := fun (tm : Team) (g : Grid) => s.d.team tm.id = some tm ∧ s.d.grid tm.grid = some g ∧ s.d.fits tw k g = true ∧ g.inOrder tm = true ∧
      tm.phase = .pending ∧ g.launch.dictn = 0
    (∀ (tm : Team) (g : Grid) (rest : List Nat), pending s = tm.id :: rest → ready tm g → ∃ t : State, exec (.dispatchEvaluate tw k none) s = .next t ∧ admits t tm g) ∧
    (∀ (hd : Team) (hg : Grid) (tm : Team) (g : Grid), pending s = [hd.id, tm.id] → hd.id ≠ tm.id → s.d.team hd.id = some hd → s.d.givesWay hd = false →
      s.d.grid hd.grid = some hg → s.d.fits tw k hg = false →
      hg.launch.det = false → hd.age < hg.launch.agelim → ready tm g →
      ∃ t : State, exec (.dispatchEvaluate tw k none) s = .next t ∧ admits t tm g ∧ (t.d.team hd.id).map (·.age) = some (hd.age + 1)) ∧
    (∀ (tm : Team) (g : Grid) (rest : List Nat) (tw2 k2 : Nat), pending s = tm.id :: rest → s.d.team tm.id = some tm → s.d.grid tm.grid = some g → g.launch.det = false → tm.bound = false →
      tw2 ∈ p.towers → s.work.present tw2 k2 = true → (tw2, k2) ≠ (tw, k) → coreKey tw2 k2 ≠ coreKey tw k → s.d.fits tw2 k2 g = true →
      (s.d.core tw2 k2).pending.length < 4 → ∃ t : State, exec (.dispatchEvaluate tw k (some (tw2, k2))) s = .next t ∧
        pending t = rest.filter (· != tm.id) ∧ (t.d.core tw2 k2).pending = tm.id :: (s.d.core tw2 k2).pending ∧
        (t.d.team tm.id).map (fun y => (y.tower, y.core)) = some (tw2, k2) ∧ t.d.crews = s.d.crews ∧ t.mem = s.mem) ∧
    (∀ (tm : Team) (g child : Grid), s.d.team tm.id = some tm → tm.tower = tw → tm.core = k → s.d.grid tm.grid = some g → tm.phase = .resident →
      g.launch.coop = false → child ∈ s.d.grids → s.work.childStuck p tm child = true → s.d.evictable tm = true →
      (∀ o ∈ s.d.ops, o.crew ∈ tm.crews → o.done = false ∧ o.reissues = false) →
      ((tm.drain = none ∧ ∀ c : Nat × Nat, (c = (tw, k) ∨ ∃ n ∈ tm.crews, (s.d.crew n).map (fun y => (y.place.tower, y.place.core)) = some c) →
        (s.d.core c.1 c.2).sq = [] ∧ (s.d.cluster c.1 (clusterOf c.2)).cmb = []) ∨ ∃ ids : List Nat, tm.drain = some ids ∧ s.d.drained ids = true) → ∃ (t : State) (y : Team), exec (.evictTeam tm.id) s = .next t ∧ (∀ n ∈ tm.crews, t.d.crew n = none) ∧
        (∀ n : Nat, n ∉ tm.crews → t.d.crew n = s.d.crew n) ∧ t.d.team tm.id = some y ∧ y.phase = .evicted ∧ y.image = tm.crews.filterMap s.d.crew ∧
        (∀ i < tm.gran.length * 1024, ((y.localImage.find? fun c => c.1 == i).map (·.2)).getD 0 = s.mem.get (granKey tw k tm.gran i)) ∧
        pending t = tm.id :: pending s ∧ t.mem = s.mem) ∧
    ∀ (tm : Team) (g : Grid) (rest : List Nat), pending s = tm.id :: rest → s.d.team tm.id = some tm → s.d.grid tm.grid = some g → tm.phase = .evicted → s.d.fits tw k g = true →
      s.d.givesWay tm = false → tm.ops = [] → s.d.takesRequests tw k [] = true → g.launch.dictn = 0 → s.wf = true → tm.image.length ≤ g.launch.crews →
      (∀ c ∈ tm.image, c.landed = false) → ∃ (t : State) (y : Team) (cs : List Crew), exec (.restoreTeam tw k) s = .next t ∧
        t.d.crews = s.d.crews ++ cs ∧ cs.map (·.place.slot) = (s.d.freeSlots tw k).take tm.image.length ∧
        cs.map (fun c => (c.id, c.threads, c.preds)) = tm.image.map (fun c => (c.id, c.release.threads, c.preds)) ∧
        cs.map (fun c => (c.regs, c.cnt, c.sp, c.waits)) = tm.image.map (fun c => (c.regs, c.cnt, c.sp, c.waits.filter Wait.kept)) ∧
        t.d.team tm.id = some y ∧ y.phase = .resident ∧ tm.id ∉ pending t ∧
        (∀ i < y.gran.length * 1024, t.mem.get (granKey tw k y.gran i) = ((tm.localImage.find? fun c => c.1 == i).map (·.2)).getD 0) ∧
        ∀ a < localBase, t.mem.get a = s.mem.get a)

/-- A bin that has reached its coalescing count, has expired or whose graph is idle takes up to that many of its records into a one-team grid of its
node, whose team finds them in its records; a predicate of 0 discards them; with its queue full the decision waits with what it has read (R389,
R391). A bin timer that has run out makes the bin decide (R390). A crew whose threads have exited ends once its counters are zero; a team whose
crews have ended gives its granules back and counts as ended; a grid of which every team has ended writes its digest and its completion word, and
then retires: its bins are free, the grid epoch advances and a root grid is reported to the queue that launched it (R119, R166, R188, R385, R429).
-/
def Obligations.EndsAndBins : Prop :=
  (∀ (s : State) (tw b root i : Nat) (p : Part) (x : Ctx) (g : Grid) (gr : Graph) (n : GraphNode),
    s.d.schedulesAt tw = some (p, x) → b < (s.d.tower tw).bins.length →
    let bin := fun (u : State) => (u.d.tower tw).bins.getD b {}
    ((bin s).timer = some 0 → ∃ t : State, exec (.binTimerExpire tw b) s = .next t ∧ (bin t).expired = true ∧ (bin t).timer = none ∧
      (bin t).records = (bin s).records ∧ t.mem = s.mem ∧ t.d.crews = s.d.crews ∧ t.d.grids = s.d.grids) ∧
    ((bin s).owner = some (root, i) → s.d.grid root = some g → g.graph = some gr → gr.nodes[i]? = some n →
      let count := (bin s).records.length
      let c := min count n.coal
      let queue := fun (u : State) => (u.d.tower tw).queues.getD n.launch.prio []
      let launched := fun (t : State) => ∃ ch : Grid, t.d.grids.getLast? = some ch ∧ t.d.grids.length = s.d.grids.length + 1 ∧
        ch.launch = { n.launch with teams := 1 } ∧ ch.ctx = g.ctx ∧ ch.parentGrid = some g.id ∧ ch.root = g.id ∧ ch.depth = 1 ∧
        ch.parentIndex = 0xFFFFFFFE ∧ ch.node = some i ∧ ch.records = ((bin s).records.take c).map (·.1) ∧ queue t = queue s ++ [ch.id] ∧
        (bin t).records = (bin s).records.drop c ∧ ∀ a : Nat, t.mem.get a = s.mem.get a
      (bin s).waiting = none → (bin s).wait = [] → 0 < count → 0 < n.coal → (n.coal ≤ count ∨ (bin s).expired = true ∨ s.d.graphIdle root = true) →
      n.launch.prio < (s.d.tower tw).queues.length →
      let v := fun (refs : List BRef) => BitVec.ofNat 64 (leNat (refs.map fun r => s.mem.get r.key))
      let read := fun (refs : List BRef) => s.work.locate (p.who x) [] .load 0 n.pred.toNat 8 = .ok refs ∧ s.d.meetsBad false refs = none
      ((n.pred = 0 ∨ ∃ refs : List BRef, n.pred ≠ 0 ∧ read refs ∧ v refs ≠ 0) →
        ((queue s).length < 64 → ∃ t : State, exec (.binLaunchDecision tw b) s = .next t ∧ launched t) ∧
        (64 ≤ (queue s).length → ∃ (t : State) (w : Nat × Word), exec (.binLaunchDecision tw b) s = .next t ∧ (bin t).waiting = some w ∧ w.1 = c ∧
          (bin t).records = (bin s).records ∧ queue t = queue s)) ∧
      (∀ refs : List BRef, n.pred ≠ 0 → read refs → v refs = 0 → ((bin s).records.take c).filterMap (·.2) = [] →
        ∃ t : State, exec (.binLaunchDecision tw b) s = .next t ∧ (bin t).records = (bin s).records.drop c ∧ queue t = queue s ∧
          t.d.grids.length = s.d.grids.length))) ∧
  ((∀ (s : State) (id : Nat) (c : Crew), s.d.crew id = some c → c.handler = false → c.live = 0 ∨ c.status = .cancelled → (∀ n ∈ c.cnt, n = 0) →
    (∀ y ∈ s.d.crews, y.tw + 17 < 2 ^ 32) →
    ∃ t : State, exec (.crewEnd id) s = .next t ∧ t.d.crew id = none ∧ (∀ f ∈ t.d.fences, f.crew ≠ id) ∧ ∀ a : Nat, t.mem.get a = s.mem.get a) ∧
  (∀ (s : State) (team : Nat) (tm : Team) (g : Grid) (p : Part) (x : Ctx), s.d.team team = some tm → s.d.grid tm.grid = some g →
    s.d.part tm.tower = some p → s.d.ctxOf tm.tower = some x → tm.phase = .resident → (∀ n ∈ tm.crews, s.d.crew n = none) →
    (∀ e ∈ tm.tiles, e.held0 = 0 ∧ e.held1 = 0) → ∃ t : State, exec (.teamEnd team) s = .next t ∧ t.d.team team = none ∧
      (t.d.core tm.tower tm.core).granUsed = (s.d.core tm.tower tm.core).granUsed.filter (fun n => !tm.gran.contains n) ∧
      (t.d.grid g.id).map (·.ended) = some (g.ended + 1) ∧ (g.pairs = [] → s.d.bad = [] → ∀ a : Nat, t.mem.get a = s.mem.get a)) ∧
  (∀ (s : State) (id : Nat) (g : Grid) (p : Part) (x : Ctx) (space : Nat) (dest : Word), s.d.grid id = some g → s.d.part g.tower = some p →
    s.d.ctx g.ctx = some x → g.digestDest = some (space, dest) → p.ctx = some g.ctx → s.d.mayRetire g = true → g.owesDigest = true →
    s.work.runsHeld (p.who x) (runsOf g.regions) = false →
    (g.drain = none → ∃ (t : State) (ids : List Nat), exec (.digestCompute id) s = .next t ∧ (t.d.grid id).map (·.drain) = some (some ids) ∧
      (t.d.grid id).map (·.digest) = some none) ∧
    (∀ (ids : List Nat) (refs : List BRef), g.drain = some ids → s.d.drained ids = true → g.regions = [] →
      (s.work.mod fun d => d.modGrid id fun y => { y with drain := none }).locate (p.who x) [] .store space dest.toNat 64 = .ok refs → (refs.map (·.key)).Nodup →
      refs.length = 64 → s.wf = true → ∃ t : State, exec (.digestCompute id) s = .next t ∧ refs.map (fun r => t.mem.get r.key) = sha3 [] ∧
        memKeptBut s t (refs.map (·.key)) ∧ (t.d.grid id).map (·.digest) = some (some (sha3 []))) ∧
    (∀ (ids : List Nat) (a n : Word) (bytes : List Byte) (refs : List BRef), g.drain = some ids → s.d.drained ids = true → g.regions = [(a, n)] →
      let w := s.work.mod fun d => d.modGrid id fun y => { y with drain := none }
      w.runBytes (p.who x) a.toNat n.toNat = .ok bytes → w.locate (p.who x) [] .store space dest.toNat 64 = .ok refs → (refs.map (·.key)).Nodup →
      refs.length = 64 → s.wf = true → ∃ t : State, exec (.digestCompute id) s = .next t ∧
        refs.map (fun r => t.mem.get r.key) = sha3 (natLe 8 a.toNat ++ natLe 8 n.toNat ++ bytes) ∧ memKeptBut s t (refs.map (·.key)) ∧
        (t.d.grid id).map (·.digest) = some (some (sha3 (natLe 8 a.toNat ++ natLe 8 n.toNat ++ bytes))))) ∧
  (∀ (s : State) (id : Nat) (g : Grid) (p : Part) (x : Ctx), s.d.grid id = some g → s.d.schedulesAt g.tower = some (p, x) →
    x.ctxid = g.ctx →
    (∀ (ids : List Nat) (refs : List BRef), g.launch.complete ≠ 0 → s.d.mayRetire g = true → g.owesDigest = false → g.drain = some ids → s.d.drained ids = true →
      g.launch.complete.toNat % 16 = 0 → s.work.locate (p.who x) [] .atomic 0 g.launch.complete.toNat 16 = .ok refs → (∀ r ∈ refs, r.cached = true) →
      s.d.meetsBad false refs = none → (refs.map (·.key)).Nodup → refs.length = 16 → s.wf = true →
      let v := fun (u : State) => leNat (refs.map fun r => u.mem.get r.key)
      ∃ t : State, exec (.completionWordAtomic id) s = .next t ∧ Machine.bits 95 64 (v t) = (Machine.bits 95 64 (v s) + 1) % 2 ^ 32 ∧
        Machine.bits 63 0 (v t) = Machine.bits 63 0 (v s) ∧ Machine.bits 127 96 (v t) = Machine.bits 127 96 (v s) ∧
        memKeptBut s t (refs.map (·.key)) ∧ (t.d.grid id).map (·.phase) = some .retiring) ∧
    ((g.phase = .retiring ∨ g.launch.complete = 0 ∧ s.d.mayRetire g = true ∧ g.owesDigest = false) →
      ∃ t : State, exec (.gridRetire id) s = .next t ∧ t.d.grid id = none ∧ t.mem = s.mem ∧
        (∀ y : Ctx, s.d.ctx g.ctx = some y → (t.d.ctx g.ctx).map (·.gridEpoch) = some (y.gridEpoch + 1)) ∧
        (∀ (tw b : Nat) (bin : Bin), (t.d.tower tw).bins[b]? = some bin → bin.owner.map (·.1) ≠ some id) ∧
        (∀ sess q : Nat, g.depth = 0 → g.origin = some (sess, q) → t.d.host = s.d.host.send sess q 3 (noticePayload 1 p.low g.ctx g.report)) ∧
        (g.depth ≠ 0 → t.d.host = s.d.host))))

/-- A migrating crew's request enters its landing core's queue, or is sent back by a full one and sent again; the head of the queue takes the free
slot 33 of that core, or a crew that is asked back takes its own slot, and the MIGR is complete (R194, R196). -/
def Obligations.Migrations : Prop :=
  ∀ (s : State) (op stage tw k : Nat) (o : Op) (c : Crew), s.d.migration op = some (o, c, stage, tw, k) → s.d.crew c.id = some c →
    let at_ := fun (u : State) => u.d.core tw k
    let stageIs := fun (t : State) (n : Nat) => (t.d.op op).map (·.kind) = some (.migrate n tw k)
    let away := ¬ (c.home.tower = tw ∧ c.home.core = k)
    s.d.moves c = true →
    (stage = 0 → away → (at_ s).landing.length < 32 → ∃ t : State, exec (.migrationRequest op) s = .next t ∧ stageIs t 1 ∧
      (at_ t).landing = (at_ s).landing ++ [c.id] ∧ t.d.crews = s.d.crews ∧ t.mem = s.mem) ∧
    (stage = 0 → away → 32 ≤ (at_ s).landing.length → ∃ t : State, exec (.migrationRequest op) s = .next t ∧ stageIs t 2 ∧ t.d.cores = s.d.cores ∧
      t.d.crews = s.d.crews ∧ t.mem = s.mem) ∧
    (stage = 2 → ∃ t : State, exec (.migrationResend op) s = .next t ∧ stageIs t 0 ∧ t.d.cores = s.d.cores ∧ t.d.crews = s.d.crews ∧ t.mem = s.mem) ∧
    (noLateTraps s → s.d.fences = [] → (s.d.core c.place.tower c.place.core).sq = [] →
      (s.d.cluster c.place.tower (clusterOf c.place.core)).cmb = [] → s.d.takesRequests tw k (s.d.ops.filter fun x => x.crew == c.id) = true →
      (∀ y ∈ s.d.teams, ∀ e ∈ y.lands, e.1 ≠ c.id) →
      (stage = 1 → away → (at_ s).landing.head? = some c.id →
        (∀ y ∈ s.d.crews, ¬ (y.place.tower = tw ∧ y.place.core = k ∧ y.place.slot = 33)) →
        ∃ (t : State) (c' : Crew), exec (.migrationLand op) s = .next t ∧ t.d.crew c.id = some c' ∧ c'.landed = true ∧ c'.home = c.home ∧
          c'.place = { tower := tw, core := k, slot := 33, occ := ((at_ s).occ.getD 33 0 + 1) % 512 } ∧ valuesKept c c' ∧ (at_ t).l1 = [] ∧
          c.id ∉ (at_ t).landing ∧ (∀ x : Op, t.d.op op = some x → x.done = true) ∧ ∀ a < localBase, t.mem.get a = s.mem.get a) ∧
      (stage = 0 → ¬ away → c.landed = true → ∃ (t : State) (c' : Crew), exec (.migrationLand op) s = .next t ∧
        t.d.crew c.id = some c' ∧ c'.landed = false ∧ c'.place = { c.home with occ := ((at_ s).occ.getD c.home.slot 0 + 1) % 512 } ∧
        valuesKept c c' ∧ (∀ x : Op, t.d.op op = some x → x.done = true) ∧ ∀ a : Nat, t.mem.get a = s.mem.get a))

/-! ## Handler crews, halts and timers (19_isa_system.md, 21_traps_and_preemption.md) -/

/-- An item of a stopped crew read through the window, and one written, with their statuses; a status that is not 0 leaves everything as it was
(R375, R376). -/
def Obligations.AccessWindow : Prop :=
  ∀ (w : Work) (y : Crew) (place : Option (Nat × Nat)) (cls index th : Nat) (v : Word), w.d.crew y.id = some y → y.handler = false →
    (∀ z ∈ w.d.crews, z.handler = false → z.place.gid = y.place.gid → z = y) → y.place.gid < 2 ^ 24 → y.place.slot ≤ 33 →
    (∀ q : Nat × Nat, place = some q → q = (y.place.tower, y.place.core)) → cls < 16 → index < 256 → th < 32 →
    let a := BitVec.ofNat 64 (y.place.gid * 2 ^ 32 + cls * 2 ^ 24 + index * 2 ^ 16 + th)
    let named := (cls ≤ 1 ∧ y.allotted index = true) ∨ (2 ≤ cls ∧ cls ≤ 4 ∧ index = 0) ∨ (cls = 5 ∧ index ≤ 11)
    let kept := fun (e : Nat) => w.winStore a v place = (e, w)
    let put := fun (ok : Crew → Prop) => ∃ (w' : Work) (y' : Crew), w.winStore a v place = (0, w') ∧ w'.d.crew y.id = some y' ∧ ok y' ∧ y'.id = y.id ∧
      y'.place = y.place ∧ y'.cnt = y.cnt ∧ y'.waits = y.waits ∧ w'.wr = w.wr ∧ ∀ n : Nat, n ≠ y.id → w'.d.crew n = w.d.crew n
    let others := fun (y' : Crew) => y'.preds = y.preds ∧ y'.threads = y.threads ∧ y'.sp = y.sp ∧ ∀ r : Nat, r ≠ index → y'.reg r = y.reg r
    let thread := fun (y' : Crew) (x : Thread) => y'.threads = y.threads.set th x ∧ y'.regs = y.regs ∧ y'.preds = y.preds ∧ y'.sp = y.sp
    (w.d.crewStopped y = false → w.winRead a place = (0, 2) ∧ kept 2) ∧
    (w.d.crewStopped y = true → ¬ named → w.winRead a place = (0, 3) ∧ kept 3) ∧
    (w.d.crewStopped y = true → named →
      (w.winRead a place).2 = 0 ∧ (cls = 0 → (w.winRead a place).1 = y.val index th) ∧
      (cls = 1 → (w.winRead a place).1 = BitVec.ofNat 64 (y.reg index).tag) ∧ (cls = 2 → (w.winRead a place).1 = (y.thread th).pc) ∧
      (cls = 3 → (w.winRead a place).1 = (y.thread th).m) ∧
      (cls = 4 → ∀ i < 64, ((w.winRead a place).1).getLsbD i = if i < 7 then (y.pred i).getLsbD th else decide (i = 8) && (y.thread th).exited) ∧
      (cls = 5 → index = 1 → (w.winRead a place).1 = y.sp.fstat.setWidth 64) ∧ (cls = 5 → index = 3 → (w.winRead a place).1 = y.sp.gangr.setWidth 64) ∧
      (cls = 5 → index = 4 → (w.winRead a place).1 = y.sp.key0) ∧ (cls = 5 → index = 5 → (w.winRead a place).1 = y.sp.key1) ∧
      let budget := (y.reg index).isGen = true ∨ y.gcount + 1 ≤ y.gbud
      (cls = 0 → budget → put fun y' => others y' ∧ (y'.reg index).isGen = true ∧
        ∀ l < 32, y'.val index l = if l = th then v else y.val index l) ∧
      (cls = 0 → ¬ budget → y.pend = [] → y.reserved = [] → kept 5) ∧
      (cls = 1 → v.toNat % 4 = 0 → put fun y' => others y' ∧ y'.reg index = .uni (y.val index th)) ∧
      (cls = 1 → v.toNat % 4 = 1 → put fun y' => others y' ∧ y'.reg index = .aff (y.val index 0) (y.val index 1 - y.val index 0)) ∧
      (cls = 1 → v.toNat % 4 = 2 → budget → put fun y' => others y' ∧ (y'.reg index).isGen = true ∧ ∀ l < 32, y'.val index l = y.val index l) ∧
      (cls = 1 → v.toNat % 4 = 3 → kept 6) ∧
      (cls = 2 → th < y.threads.length → v.extractLsb' 0 2 = 0 → v.extractLsb' 52 12 = 0 → put fun y' => thread y' { y.thread th with pc := v }) ∧
      (cls = 2 → v.extractLsb' 0 2 ≠ 0 ∨ v.extractLsb' 52 12 ≠ 0 → kept 6) ∧
      (cls = 3 → th < y.threads.length → put fun y' => thread y' { y.thread th with m := v }) ∧
      (cls = 4 → y.preds.length = 7 → put fun y' => y'.threads = y.threads ∧ y'.regs = y.regs ∧ y'.sp = y.sp ∧
        ∀ q < 7, ∀ l < 32, (y'.pred q).getLsbD l = if l = th then v.getLsbD q else (y.pred q).getLsbD l) ∧
      (cls = 5 → index ∈ [0, 6, 7, 8, 9, 11] → kept 4) ∧
      (cls = 5 → ∀ (n : Nat) (sp : Special), index = n → (n, sp) ∈ [(1, { y.sp with fstat := v.setWidth 5 }),
        (2, if v.getLsbD 63 = true ∧ v.setWidth 48 = 0 then { y.sp with ctmrArm := false, ctmr := 0, ctmrFault := true }
          else { y.sp with ctmrArm := v.getLsbD 63, ctmr := v.setWidth 48 }), (3, { y.sp with gangr := v.setWidth 33 }),
        (4, { y.sp with key0 := v }), (5, { y.sp with key1 := v })] → put fun y' => y'.sp = sp ∧ y'.regs = y.regs ∧ y'.preds = y.preds ∧
          y'.threads = y.threads) ∧
      (cls = 5 → index = 10 → put fun y' => y'.sa = v.toNat % 64 ∧ y'.sb = v.toNat / 2 ^ 8 % 64 ∧ y'.sp = y.sp ∧ y'.regs = y.regs))

/-- WINR and WINW give each active lane the value and the status of its window address, lanes in ascending order (R376); ERET ends its crew after a
full fence, and the last one of the partition lets it resume: HALTED is clear, its crews' complete holds are released and the LA counts of their pending registers start again (R241, R374, R408,
R409). A fault of
a handler crew stops that crew alone (R373). -/
def Obligations.HandlerInstructions : Prop :=
  ∀ (s : State) (cu : Cur) (c : Crew) (p : Part), c.handler = true → s.d.part c.place.tower = some p →
    let place := some (c.place.tower, c.place.core)
    (∀ o : OpDA, Ready s cu c o.g [o.a.toNat, o.d.toNat, o.d.toNat + 1] → c.gcount + 2 ≤ c.gbud →
      let r := fun l => (s.begun cu c).winRead (c.val o.a.toNat l) place
      ∃ (t : State) (c' : Crew), exec (.winr o) s = .next t ∧ t.d.crew cu.crew = some c' ∧
        (∀ l < 32, (activeLanes cu c o.g).getLsbD l = true → c'.val o.d.toNat l = (r l).1 ∧ c'.val (o.d.toNat + 1) l = BitVec.ofNat 64 (r l).2) ∧
        (∀ n l : Nat, n = o.d.toNat ∨ n = o.d.toNat + 1 → l < 32 → (activeLanes cu c o.g).getLsbD l = false → (c.thread l).exited = false →
          c'.val n l = c.val n l) ∧
        (∀ n : Nat, n ≠ o.d.toNat → n ≠ o.d.toNat + 1 → c'.reg n = c.reg n) ∧ (∀ q : Nat, c'.pred q = c.pred q) ∧ c'.sp = c.sp ∧ threadsAdvance cu c c' ∧
        crewKept c c' ∧ restKept s t cu.crew) ∧
    (∀ o : OpRR, Ready s cu c o.g [o.a.toNat, o.b.toNat, o.d.toNat] → c.roomForG o.d.toNat → (s.d.crews.map (·.id)).Nodup →
      let r := (maskLanes (activeLanes cu c o.g)).foldl (fun (acc : List (Nat × Nat) × Work) l =>
        let e := acc.2.winStore (c.val o.a.toNat l) (c.val o.b.toNat l) place
        (acc.1 ++ [(l, e.1)], e.2)) ([], s.begun cu c)
      ∃ (t : State) (c' : Crew), exec (.winw o) s = .next t ∧ t.d.crew cu.crew = some c' ∧
        writesReg cu c c' o.g o.d.toNat (fun l v => v = BitVec.ofNat 64 (getA r.1 l 0)) ∧ (∀ q : Nat, c'.pred q = c.pred q) ∧ c'.sp = c.sp ∧
        threadsAdvance cu c c' ∧ (∀ n : Nat, n ≠ cu.crew → t.d.crew n = r.2.d.crew n) ∧ (∀ a : Nat, t.mem.get a = s.mem.get a) ∧
        t.d.teams = s.d.teams ∧ t.d.parts = s.d.parts ∧ t.d.ops = s.d.ops) ∧
    (∀ o : OpG, Ready s cu c o.g [] → Quiet s cu c → (∀ n ∈ c.cnt, n = 0) → (s.d.crews.map (·.id)).Nodup →
      let others := fun (y : Crew) => y.handler = true ∧ p.towers.contains y.place.tower = true ∧ y.id ≠ cu.crew
      ((∃ y ∈ s.d.crews, others y) → ∃ (t : State) (p' : Part), exec (.eret o) s = .next t ∧ t.d.crew cu.crew = none ∧ (∀ n : Nat, n ≠ cu.crew → t.d.crew n = s.d.crew n) ∧
        t.d.part c.place.tower = some p' ∧ p'.halt.phase = p.halt.phase ∧ p'.halt.records = p.halt.records ∧ ∀ a : Nat, t.mem.get a = s.mem.get a) ∧
      (∀ x : Ctx, (∀ y ∈ s.d.crews, ¬ others y) → p.halt.phase = .handling → (∀ k ∈ s.d.checkpoints, k.replay = none) →
        (∀ r ∈ p.halt.records, r.appended = false ∧ r.info.engine = .issue) → p.ctx.bind s.d.ctx = some x → x.resident = true → x.switch = .idle →
        (∀ f ∈ s.d.fences, f.done = true ∨ f.crew = cu.crew) → s.d.parts.find? (fun z => z.low == p.low) = some p → s.wf = true → p.halt.count ≤ stopRecords →
        (∀ y ∈ s.d.crews, y.handler = false → y.release.deadlocked = false) →
        ∃ (t : State) (p' : Part), exec (.eret o) s = .next t ∧ t.d.crew cu.crew = none ∧ t.d.part c.place.tower = some p' ∧ p'.halt.phase = .running ∧
          p'.halt.records = [] ∧ p'.ctx = p.ctx ∧ Machine.bit 32 (t.work.num (areaKey p.low 0 0) 64) = false ∧
          Machine.bits 95 64 (t.work.num (areaKey p.low 0 0) 64) = p.halt.halts % 2 ^ 32 ∧
          (∀ y ∈ s.d.crews, y.handler = false → t.d.crew y.id = some (if p.towers.contains y.place.tower then y.release.laRestart else y)) ∧
          ∀ a : Nat, ¬ (areaKey p.low 0 0 ≤ a ∧ a < areaKey p.low 0 64) → t.mem.get a = s.mem.get a)) ∧
    (∀ o : OpTkDA, s.cont = none → s.d.cur = some cu → s.d.crew cu.crew = some c → p.ctx.isSome = true → p.halt.phase = .handling →
      p.halt.count < stopRecords →
      ∃ (t : State) (c' : Crew) (p' : Part) (r : HaltRec), exec (.lnch o) s = .next t ∧ t.d.crew cu.crew = some c' ∧ c'.status = .faulted ∧ valuesKept c c' ∧ threadsStand c c' ∧
        t.d.part c.place.tower = some p' ∧ p'.halt.phase = .handling ∧ p'.halt.count = p.halt.count + 1 ∧ p'.halt.records = p.halt.records ++ [r] ∧
        r.index = p.halt.count ∧ r.appended = false ∧ r.info.reason = .illegal ∧ r.info.engine = .handler ∧ r.info.crew = c.place.gid)

/-- A halting partition's engines stop one by one: an idle one at once, one with work in progress with a record whose FAULT is 0, a CMB once it
holds no dirty line (R400, R401, R404). With all stopped and nothing owed (assumption 52) the halt is complete: a handler crew of R407 starts in slot 32 of every
present core. An armed crew timer that has run out in a resident crew is disarmed, and its crew's next instruction is to fault; a crew asked to stop
for a switch that has not stopped by its deadline is stopped where it stands, once its registers are written (R207, R412). -/
def Obligations.HaltsComplete : Prop :=
  (∀ (s : State) (tw k eng : Nat) (p : Part), s.d.part tw = some p → p.halt.phase = .stopping → (tw, k, eng) ∉ p.halt.stopped →
    (tw, k, eng) ∈ s.work.engines p → (∀ c ∈ s.d.checkpoints, c.replay = none) →
    let core := s.d.core tw k
    let idle := eng = 0 ∨ eng = 1 ∧ core.copies.all (fun r => !r.started || r.stopped) = true ∨ eng = 2 ∧ core.mxq = [] ∧ s.work.pairRecords tw k = [] ∨ eng = 3 ∧ core.kiln.queue = [] ∨
      eng = 4 ∧ core.slip.queue = [] ∨ eng = Engine.scheduler.code ∨ eng = Engine.cmb.code ∧ (s.d.cluster tw k).undrained = [] ∧
        ∀ c ∈ s.work.cores tw, clusterOf c = k → (tw, c, 0) ∈ p.halt.stopped ∧ (s.d.core tw c).sq = []
    (idle → ∃ (t : State) (p' : Part), exec (.engineHaltStop tw k eng) s = .next t ∧ t.d.part tw = some p' ∧ p'.halt.stopped = p.halt.stopped ++ [(tw, k, eng)] ∧
      p'.halt.phase = .stopping ∧ p'.halt.records = p.halt.records ∧ (∀ a : Nat, t.mem.get a = s.mem.get a) ∧
      (eng = 0 → ∀ c ∈ t.d.crews, c.place.tower = tw → c.place.core = k → c.held = false)) ∧
    (∀ (x : MxOp) (r : List MxOp), eng = 2 → core.mxq = x :: r → (∀ y ∈ core.mxq, y.kind.writesRegs = false) → s.work.pairRecords tw k = [] →
      x.paired s.d = false → x.op ≠ 0 → s.d.faulted tw x.op = false → p.halt.count < stopRecords →
      ∃ (t : State) (p' : Part) (q : HaltRec), exec (.engineHaltStop tw k eng) s = .next t ∧ t.d.part tw = some p' ∧ p'.halt.stopped = p.halt.stopped ++ [(tw, k, eng)] ∧
        p'.halt.records = p.halt.records ++ [q] ∧ q.index = p.halt.count ∧ q.info.engine = .matrix ∧ q.info.unit = k ∧ q.info.isFault = false ∧
        q.info.reason = .none ∧ q.info.item = x.op ∧ p'.halt.count = p.halt.count + 1)) ∧
  (∀ (s : State) (low entry base size : Nat) (p : Part), s.d.parts.find? (fun p => p.low == low) = some p → s.d.part low = some p → p.low = low →
    p.halt.phase = .stopping → (∀ e ∈ s.work.engines p, e ∈ p.halt.stopped) → (∀ o ∈ s.d.ops, s.d.owedAtHalt o = false) →
    p.handler = some (entry, base, size) → ∃ (t : State) (p' : Part) (hs : List Crew), exec (.haltComplete low) s = .next t ∧ t.d.crews = s.d.crews ++ hs ∧ t.d.part low = some p' ∧
      p'.halt.phase = .handling ∧ p'.halt.handlersLeft = (s.work.logical p).length ∧ p'.halt.records = p.halt.records ∧
      hs.map (fun h => (h.place.tower, h.place.core, h.place.slot)) = (s.work.logical p).map (fun c => (c.1, c.2, 32)) ∧
      (∀ (i : Nat) (h : Crew), hs[i]? = some h → h.handler = true ∧ h.threads = List.replicate 32 { pc := BitVec.ofNat 64 entry } ∧ h.gbud = 64 ∧
        h.allot = BitVec.allOnes 64 ∧ h.status = .running ∧ h.reg 63 = .aff 0 1 ∧ h.reg 60 = .uni (BitVec.ofNat 64 (s.work.logicalId h.place.tower h.place.core)) ∧
        h.reg 59 = .uni (BitVec.ofNat 64 (h.place.core / 4)) ∧ h.reg 58 = .uni (BitVec.ofNat 64 h.place.tower) ∧ (∀ r : Nat, r < 58 ∨ r = 61 ∨ r = 62 → h.reg r = .uni 0) ∧
        ∀ q < 7, h.pred q = 0) ∧
      (s.d.faultedTeams p.halt = [] → ∀ a : Nat, t.mem.get a = s.mem.get a)) ∧
  (∀ (s : State) (crew : Nat) (c : Crew), s.d.crew crew = some c →
    (c.sp.ctmrArm = true → c.sp.ctmr = 0 → s.d.resident c = true → ∃ t : State, exec (.ctmrExpire crew) s = .next t ∧
      t.d.crew crew = some { c with sp := { c.sp with ctmrArm := false, ctmr := 0, ctmrFault := true } } ∧ t.mem = s.mem ∧ t.d.parts = s.d.parts) ∧
    (∀ (p : Part) (x : Ctx), s.d.part c.place.tower = some p → p.halt.phase = .running → p.ctx.bind s.d.ctx = some x → x.switch = .stopping → c.handler = false →
      c.status = .running → c.sp.preempt = true → c.sp.cancel = false → c.deadline = 0 → s.d.pairing c = false →
      s.d.unwritten c = false → ∃ (t : State) (c' : Crew), exec (.preemptDeadlineExpire crew) s = .next t ∧ t.d.crew crew = some c' ∧
        c'.status = .stopped ∧ c'.forced = true ∧ c'.threads = c.threads ∧ c'.regs = c.regs ∧ c'.preds = c.preds ∧ c'.sp = c.sp ∧ t.mem = s.mem))

/-! ## The port, commands and bring-up (01, 21, 23) -/

/-- A frame that is not for the transport, has the wrong length, a zero field that is not zero, a reserved KIND or an unknown session is discarded:
nothing changes. Of one whose tag verifies, an ACK within the window advances the queue; the command whose SEQ is expected enters the queue and the
next number is acknowledged, any other is discarded with the last ACK repeated; a tag that does not verify changes nothing (R432, R433, R434).
Unacknowledged frames within the window of 256 go out again as they were. A session opens under an enrolled key, or under any while none is
enrolled, with a number no other session has, the device signing the exchange in its turn, and a session rekeys, one key for each direction (R435). A
frame of the device is its header, and payload and tag under that key (R433). The command at the head of a queue: one of an unknown CODE is answered
0xFFFFFFFF, of an unknown SUB 0x10000; on a session that no enrolled key authenticated every command but the enrolment of a key is answered 0x10001;
a known one with a zero field that is not zero or an operand block of the wrong length is answered 0x10000; and a command is applied by no row but
its own (R435, R436, R437, R442, R448). -/
def Obligations.FramesAndCommands : Prop :=
  ((∀ (s : State) (port addr : Nat) (checks : Bool) (bytes : List Byte),
    let v := leNat (bytes.take 16)
    let bad := s.d.boot.running = false ∨ checks = false ∨ port ≠ 47000 ∨ s.work.hasAddr addr = false ∨ 9216 < bytes.length ∨
      bytes.length ≠ 32 + Machine.bits 63 48 v ∨ 9120 < Machine.bits 63 48 v ∨ Machine.bits 7 0 v ≠ 1 ∨ Machine.bits 39 22 v ≠ 0 ∨ 3 < Machine.bits 47 40 v ∨
      ∀ y ∈ s.d.host.sessions, y.number ≠ Machine.bits 15 8 v
    (bad → exec (.frameReceive port addr checks bytes) s = .next s ∧ exec (.acknowledgementFrame port addr checks bytes) s = .next s) ∧
    ∀ x : Session, ¬ bad → s.d.host.sessions.find? (fun y => y.number == Machine.bits 15 8 v) = some x → (s.d.host.sessions.map (·.id)).Nodup →
      let kind := Machine.bits 47 40 v
      let q := Machine.bits 21 16 v
      let opened := Config.gcmOpen (2 * x.keyEpoch) (natLe 1 x.number ++ natLe 1 q ++ natLe 1 (if kind = 2 then 2 else 0) ++ zeros 5 ++
        (natLe 4 (Machine.bits 95 64 v)).reverse) (bytes.take 16) (bytes.drop 16)
      let k := x.queue q
      let n := (Machine.bits 127 96 v + 2 ^ 32 - k.acked) % 2 ^ 32
      let took := n ≤ min k.unacked.length 256
      let acked := fun (y : Queue) => y.acked = (if took then Machine.bits 127 96 v else k.acked) ∧
        y.unacked = (if took then k.unacked.drop n else k.unacked) ∧ y.sendSeq = k.sendSeq ∧ y.busy = k.busy ∧ y.drains = k.drains
      let newly := if took then (k.unacked.drop 256).take n else []
      let after := fun (t : State) (sent : List SentFrame) (ok : Queue → Prop) =>
        t = { s with d := { s.d with host := { s.d.host with sessions := t.d.host.sessions, sent := s.d.host.sent ++ sent } } } ∧
        t.d.host.sessions.map (·.id) = s.d.host.sessions.map (·.id) ∧ (∀ y ∈ s.d.host.sessions, y.id ≠ x.id → y ∈ t.d.host.sessions) ∧
        ∃ y ∈ t.d.host.sessions, y.id = x.id ∧ y.number = x.number ∧ y.key = x.key ∧ y.keyEpoch = x.keyEpoch ∧ y.ending = x.ending ∧ ok (y.queue q) ∧
          ∀ r : Nat, r ≠ q → y.queue r = x.queue r
      let ackFrame := fun (e : Nat) => x.frame q 2 k.ackCount e []
      (opened = none → exec (.frameReceive port addr checks bytes) s = .next s ∧ exec (.acknowledgementFrame port addr checks bytes) s = .next s) ∧
      (kind ≠ 0 → exec (.frameReceive port addr checks bytes) s = .next s) ∧
      (kind ≠ 2 → exec (.acknowledgementFrame port addr checks bytes) s = .next s) ∧
      (kind = 0 → ∃ t : State, exec (.frameReceive port addr checks bytes) s = .next t ∧ ∀ p : List (BitVec 8), opened = some p →
        (Machine.bits 95 64 v = k.expected → after t (newly ++ [ackFrame ((k.expected + 1) % 2 ^ 32)]) fun y => acked y ∧
          y.expected = (k.expected + 1) % 2 ^ 32 ∧ y.commands = k.commands ++ [p] ∧ y.ackCount = k.ackCount + 1) ∧
        (Machine.bits 95 64 v ≠ k.expected → after t [ackFrame k.expected] fun y => y = { k with ackCount := k.ackCount + 1 })) ∧
      (kind = 2 → ∃ t : State, exec (.acknowledgementFrame port addr checks bytes) s = .next t ∧ ∀ p : List (BitVec 8), opened = some p →
        after t newly fun y => acked y ∧ y.expected = k.expected ∧ y.commands = k.commands ∧ y.ackCount = k.ackCount)) ∧
  (∀ (s : State) (sess q : Nat) (x : Session), s.d.host.sessions.find? (fun y => y.id == sess) = some x → s.d.boot.running = true →
    exec (.retransmitTimeout sess q) s = .next { s with d := { s.d with host := { s.d.host with
      sent := s.d.host.sent ++ ((x.queue q).unacked.take 256) } } }) ∧
  (∀ (s : State) (addr : Nat) (key msg sig : List Byte), s.d.boot.running = true → s.work.hasAddr addr = true → s.d.host.sessions.length < 4 →
    let known := s.d.nv.keys.any fun e => e.1 == sha3 key
    ∃ t : State, exec (.sessionEstablish addr key msg sig) s = .next t ∧
      if Config.signatureOk key msg sig = true ∧ (known = true ∨ s.d.nv.keys = []) then ∃ y : Session, t.d.host.sessions = s.d.host.sessions ++ [y] ∧
        y.number ≠ 0 ∧ y.number < 256 ∧ (∀ z ∈ s.d.host.sessions, z.number ≠ y.number) ∧ y.id = s.d.nextId ∧ y.key = (if known then some (sha3 key) else none) ∧ y.address = addr ∧
        y.queues = [] ∧ y.ending = false ∧ y.keyEpoch = s.d.nextId ∧
        t = { s with d := { s.d with nextId := s.d.nextId + 1, host := { s.d.host with
          sessions := t.d.host.sessions, proofs := s.d.host.proofs ++ [(List.range 4627).map fun i => Config.signatureByte s.d.boot.identity msg i] } } }
      else t = s) ∧
  (∀ (s : State) (addr : Nat) (key msg sig : List Byte), 4 ≤ s.d.host.sessions.length → exec (.sessionEstablish addr key msg sig) s = .next s) ∧
  ∀ (s : State) (sess : Nat), s.d.boot.running = true → (∃ y ∈ s.d.host.sessions, y.id = sess) →
    exec (.sessionRekey sess) s = .next { s with d := { s.d with nextId := s.d.nextId + 1, host := { s.d.host with
      sessions := s.d.host.sessions.map fun x => if x.id == sess then { x with keyEpoch := s.d.nextId } else x } } }) ∧
  (∀ (x : Session) (q kind seq ack : Nat) (payload : List Byte), q < 64 → kind < 4 → payload.length < 2 ^ 16 → seq < 2 ^ 32 → ack < 2 ^ 32 →
    let f := (x.frame q kind seq ack payload).bytes
    let v := leNat (f.take 16)
    f.length = 32 + payload.length ∧ Machine.bits 7 0 v = 1 ∧ Machine.bits 15 8 v = x.number % 2 ^ 8 ∧ Machine.bits 21 16 v = q ∧ Machine.bits 39 22 v = 0 ∧
      Machine.bits 47 40 v = kind ∧ Machine.bits 63 48 v = payload.length ∧ Machine.bits 95 64 v = seq ∧ Machine.bits 127 96 v = ack ∧
      f.drop 16 = (List.range (payload.length + 16)).map (Config.gcmSeal (2 * x.keyEpoch + 1) (natLe 1 x.number ++ natLe 1 q ++
        natLe 1 (if kind = 2 then 3 else 1) ++ zeros 5 ++ (natLe 4 seq).reverse) (f.take 16) payload)) ∧
  (∀ (s : State) (sess q a b : Nat) (x : Session) (c : Cmd), AtHead s sess q x c →
    (∀ e ∈ commandTable sess q a b, (c.kind ≠ e.2.1 → exec e.1 s = .next s) ∧
      (c.kind = e.2.1 → exec (.unknownCommand sess q) s = .next s ∧
        (x.key = none → e.2.1 ≠ 14 + 3 * 65536 → exec e.1 s = .next (s.answered s.d x c 0x10001)) ∧
        (x.key.isSome = true → c.ok = false ∨ c.ops.length ≠ e.2.2 c → exec e.1 s = .next (s.answered s.d x c 0x10000)))) ∧
    ((∀ e ∈ commandTable sess q a b, c.kind ≠ e.2.1) →
      (x.key = none → exec (.unknownCommand sess q) s = .next (s.answered s.d x c 0x10001)) ∧
      (x.key.isSome = true → c.code ∈ [7, 8, 10, 11, 14] → exec (.unknownCommand sess q) s = .next (s.answered s.d x c 0x10000)) ∧
      (x.key.isSome = true → c.code ∉ [7, 8, 10, 11, 14] → c.ok = true → exec (.unknownCommand sess q) s = .next (s.answered s.d x c 0xFFFFFFFF))))

/-- Commands on memory and the management area (R101, R436, R438, R444): a launch record that passes every check is queued as a root grid at the
tail of its priority's queue of the partition's lowest tower; a read returns the bytes at their executing places and a write stores them there, and
either with a byte that fails a check does nothing and answers 0x10002; a management register is read and never written; a flush begins the drain of
every dirty line with bytes of its range and is answered when all are over; an invalidate drops the L1 lines of its range. -/
def Obligations.MemoryCommands : Prop :=
  (∀ (s : State) (sess q : Nat) (x : Session) (c : Cmd) (p : Part) (y : Ctx) (r : LaunchRec) (sig : List Byte), Posted s sess q x c 1 8 →
    c.ctxOf s.d = some (p, y) → y.resident = true → s.d.part p.low = some p →
    let addr := BitVec.ofNat 64 (c.field 63 0)
    let slots := match s.work.readAs (p.who y) .load 0 addr.toNat 256 with
      | some b => (List.range 8).map fun i => Machine.bits (799 + 32 * i) (768 + 32 * i) (leNat b)
      | none => []
    (s.work.recordGot (p.who y) addr = .error none → exec (.launch sess q) s = .next (s.answered s.d x c 1)) ∧
    (s.work.readRecord (p.who y) addr = some r → r.regBytes ≤ 512 * 1024 → (s.work.readRanges (p.who y) r.ranget).isSome = true →
      s.work.signature (p.who y) r slots = some sig →
      (s.work.coopOk p r = false → exec (.launch sess q) s = .next (s.answered s.d x c 5)) ∧
      (s.work.coopOk p r = true → r.graphp = 0 → r.prio < (s.d.tower p.low).queues.length →
        (64 ≤ ((s.d.tower p.low).queues.getD r.prio []).length → exec (.launch sess q) s = .next (s.answered s.d x c 6)) ∧
        (((s.d.tower p.low).queues.getD r.prio []).length < 64 → ∃ (t : State) (g : Grid), exec (.launch sess q) s = .next t ∧
          t.d.host = s.d.host.answer x q c.tag 0 [] (fun _ => false) ∧ t.d.grids = s.d.grids ++ [g] ∧ g.launch = r ∧ g.recAddr = addr ∧
          g.ctx = y.ctxid ∧ g.accept = p.accept ∧ g.codeHash = sig ∧ g.depth = 0 ∧ g.root = g.id ∧ g.phase = .queued ∧ g.origin = some (sess, q) ∧
          g.originTag = c.tag ∧
          (t.d.tower p.low).queues = (s.d.tower p.low).queues.set r.prio ((s.d.tower p.low).queues.getD r.prio [] ++ [g.id]) ∧
          (t.d.part p.low).map (·.accept) = some (p.accept + 1) ∧ (∀ k ∈ s.work.logical p, (t.d.core k.1 k.2).icache = []) ∧
          t.d.crews = s.d.crews ∧ t.d.teams = s.d.teams ∧ ∀ k : Nat, t.mem.get k = s.mem.get k)))) ∧
  (∀ (s : State) (sess q : Nat) (x : Session) (c : Cmd), Posted s sess q x c 2 16 → c.field 127 99 = 0 → 1 ≤ c.field 95 64 →
    c.field 95 64 ≤ 8192 →
    (∀ refs : List BRef, c.field 98 96 ∈ [0, 1, 3] → s.work.named c .load (c.field 98 96) (c.field 63 0) (c.field 95 64) = .ok refs →
      exec (.read sess q) s = .next (s.answered (s.work.logAccess 8 c.part 0 refs).d x c 0 (refs.map fun r => s.mem.get r.key))) ∧
    (∀ st : Nat, c.field 98 96 ∈ [0, 1, 3] → s.work.named c .load (c.field 98 96) (c.field 63 0) (c.field 95 64) = .error st →
      exec (.read sess q) s = .next (s.answered s.d x c st)) ∧
    (c.field 98 96 = 4 → c.field 95 64 % 8 ≠ 0 ∨ c.field 63 0 % 8 ≠ 0 → exec (.read sess q) s = .next (s.answered s.d x c 0x10000)) ∧
    (c.field 98 96 = 4 → c.field 95 64 = 8 → ∀ off v : Nat, c.field 63 0 = off →
      (off, v) ∈ [(0x00, 0x80000 + s.fx.stepping.toNat * 256), (0x08, s.d.boot.stage % 16 * 16 + if s.d.boot.safe then 1 else 0),
        (0x10, (s.d.parts.map fun p => 2 ^ p.low).sum), (0x18, (s.d.parts.flatMap fun p => p.debugHalted.map fun t => 2 ^ t).sum),
        (0xE0, s.d.nv.keys.length)] ∨
      (∃ t < 8, off = 0x20 + 8 * t ∧ v = (s.fx.harv.getD t 0).toNat) ∨ (∃ t < 8, off = 0xA0 + 8 * t ∧ v = (s.d.tower t).arrayClock) ∨
      (∃ t < 8, off = 0x60 + 8 * t ∧ ∃ p : Part, s.d.parts.find? (fun p => p.low == t) = some p ∧
        v = (if p.halt.phase = .running then 0 else 2 ^ 33) + (match p.ctx with | some n => 2 ^ 32 + n | none => 0)) ∨
      (∃ t < 8, off = 0x60 + 8 * t ∧ s.d.parts.find? (fun p => p.low == t) = none ∧ v = 0) ∨ (0xE8 ≤ off ∧ off < 2 ^ 36 ∧ off % 8 = 0 ∧ v = 0) →
      exec (.read sess q) s = .next (s.answered s.d x c 0 (natLe 8 v)))) ∧
  (∀ (s : State) (sess q : Nat) (x : Session) (c : Cmd), Posted s sess q x c 3 (16 + c.field 95 64) → c.field 127 99 = 0 → 1 ≤ c.field 95 64 →
    c.field 95 64 ≤ 8192 →
    (∀ refs : List BRef, c.field 98 96 ∈ [0, 1, 3] → s.work.named c .store (c.field 98 96) (c.field 63 0) (c.field 95 64) = .ok refs → s.wf = true →
      (refs.map (·.key)).Nodup → refs.length = c.field 95 64 → ∃ t : State, exec (.write sess q) s = .next t ∧
        t.d.host = s.d.host.answer x q c.tag 0 [] (fun _ => false) ∧ memKeptBut s t (refs.map (·.key)) ∧
        (∀ i < c.field 95 64, t.mem.get ((refs.map (·.key)).getD i 0) = (c.ops.drop 16).getD i 0) ∧
        (∀ r ∈ refs, r.key < 2 ^ 39 → ∀ h : HomeLine, t.d.home (r.key / 2 ^ 36) r.tag = some h → h.sectors = [] ∧ h.gateways = []) ∧ t.d.crews = s.d.crews ∧ t.d.parts = s.d.parts) ∧
    (∀ st : Nat, c.field 98 96 ∈ [0, 1, 3] → s.work.named c .store (c.field 98 96) (c.field 63 0) (c.field 95 64) = .error st →
      exec (.write sess q) s = .next (s.answered s.d x c st)) ∧
    (c.field 98 96 = 4 → exec (.write sess q) s = .next (s.answered s.d x c 0x10001))) ∧
  (∀ (s : State) (sess q : Nat) (x : Session) (c : Cmd) (p : Part) (y : Ctx), Posted s sess q x c 4 16 → c.ctxOf s.d = some (p, y) →
    let lo := c.field 63 0
    let hit := fun (l : CmbLine) => l.dirty.any fun b => inRanges [(lo, c.field 127 64)] b.1.va
    (∀ t ∈ p.towers, ∀ cl < 12, ∀ l ∈ (s.d.cluster t cl).cmb, hit l = false) →
    exec (.transportFlush sess q) s = .next { s with d := { s.d with host := s.d.host.modQueue sess q fun k => { k with busy := true, drains := [] } } }) ∧
  (∀ (s : State) (sess q tw cl : Nat) (x : Session) (c : Cmd) (p : Part) (y : Ctx) (l : CmbLine), Posted s sess q x c 4 16 →
    c.ctxOf s.d = some (p, y) → p.towers = [tw] → cl < 12 → (s.d.cluster tw cl).cmb = [l] →
    l.dirty.any (fun b => inRanges [(c.field 63 0, c.field 127 64)] b.1.va) = true → l.draining = false → l.failed = none →
    l.bad = false → (∀ va ∈ l.segs, s.work.segRefuses tw cl l va = none) →
    (∀ k < 12, k ≠ cl → (s.d.cluster tw k).cmb = []) → ∃ (t : State) (f : FenceRec), exec (.transportFlush sess q) s = .next t ∧ t.d.fences = s.d.fences ++ [f] ∧
      l.tag ∈ f.lines ∧ (∀ g ∈ f.lines, g = l.tag) ∧ f.tower = tw ∧ f.cluster = cl ∧ (∃ l' ∈ (t.d.cluster tw cl).cmb, l'.tag = l.tag ∧ l'.draining = true) ∧
      t.d.host = s.d.host.modQueue sess q (fun k => { k with busy := true, drains := [f.id] }) ∧ (∀ k : Nat, t.mem.get k = s.mem.get k)) ∧
  (∀ (s : State) (sess q : Nat) (x : Session) (b : List Byte), s.d.boot.running = true → (s.d.host.sessions.map (·.id)).Nodup →
    s.d.host.sessions.find? (fun y => y.id == sess) = some x → (x.queue q).commands.head? = some b → (x.queue q).busy = true →
    (Cmd.ofBytes sess q b).kind = 4 →
    let over_ := ∀ f ∈ s.d.fences, f.id ∈ (x.queue q).drains → f.done = true
    (over_ → exec (.transportFlush sess q) s = .next (s.answered s.d x (Cmd.ofBytes sess q b) 0)) ∧
    (¬ over_ → exec (.transportFlush sess q) s = .next s)) ∧
  ∀ (s : State) (sess q : Nat) (x : Session) (c : Cmd) (p : Part) (y : Ctx), Posted s sess q x c 5 16 → c.ctxOf s.d = some (p, y) →
    let hit := fun (l : L1Line) => y.lineIn (c.field 63 0, c.field 127 64) l.tag l.vas
    ∃ t : State, exec (.transportInvalidate sess q) s = .next t ∧ t.d.host = s.d.host.answer x q c.tag 0 [] (fun _ => false) ∧ t.mem = s.mem ∧
      t.d.crews = s.d.crews ∧ t.d.clusters = s.d.clusters ∧
      (∀ k ∈ s.work.logical p, (∀ l ∈ (t.d.core k.1 k.2).l1, hit l = false ∧ l ∈ (s.d.core k.1 k.2).l1) ∧
        ∀ l ∈ (s.d.core k.1 k.2).l1, (∀ z ∈ (s.d.core k.1 k.2).l1, hit z = true → z.tag ≠ l.tag) →
          (∀ f ∈ (s.d.core k.1 k.2).fills, y.lineIn (c.field 63 0, c.field 127 64) f.tag f.vas = true → f.tag ≠ l.tag) → l ∈ (t.d.core k.1 k.2).l1) ∧
      ∀ a b : Nat, (∀ k ∈ s.work.logical p, coreKey k.1 k.2 ≠ coreKey a b) → t.d.core a b = s.d.core a b

/-- A shootdown waits behind the partition's others; its steps are hold, settle, drain, invalidate and release, each begun after the one before is
over, and the response follows the last (R43, R44, R45). Step 4 leaves no TLB entry of its range in an L1 TLB or cluster TLB of the partition and no
walk-cache entry of the context. -/
def Obligations.Shootdowns : Prop :=
  (∀ (s : State) (sess q : Nat) (x : Session) (c : Cmd) (p : Part) (y : Ctx), Posted s sess q x c 6 16 → c.ctxOf s.d = some (p, y) →
    (c.field 127 101 ≠ 0 ∨ c.field 15 0 ≠ 0 ∨ c.field 63 52 ≠ 0 → exec (.shootdown sess q) s = .next (s.answered s.d x c 0x10000)) ∧
    (c.field 127 101 = 0 → c.field 15 0 = 0 → c.field 63 52 = 0 → exec (.shootdown sess q) s = .next { s with d := { s.d with
      host := s.d.host.modQueue sess q fun k => { k with busy := true }
      shootdowns := s.d.shootdowns ++ [{ part := p.low, ctx := y.ctxid, step := 0, start := c.field 63 0, pages := c.field 99 64
                                         globals := c.field 100 100 == 1, cmd := (sess, q, c.tag) }] } })) ∧
  ∀ (s : State) (low sess q tag : Nat) (p : Part) (z : Shootdown) (y : Ctx) (x : Session), s.d.parts.find? (fun p => p.low == low) = some p →
    s.d.part low = some p → s.d.shootdowns.find? (fun z => z.part == low) = some z → s.d.shootdowns.Nodup → s.d.ctx z.ctx = some y →
    z.cmd = (sess, q, tag) → s.d.host.sessions.find? (fun x => x.id == sess) = some x → (s.d.host.sessions.map (·.id)).Nodup →
    let goes := fun (t : State) (f : Shootdown → Shootdown) => exec (.shootdownStep low) s = .next t ∧ (∀ k : Nat, t.mem.get k = s.mem.get k) ∧
      t.d.host = s.d.host ∧ t.d.crews.map (fun n => { n with walkFails := [] }) = s.d.crews.map (fun n => { n with walkFails := [] }) ∧
      (z.step ≠ 3 → t.d.crews = s.d.crews) ∧ t.d.shootdowns = s.d.shootdowns.map fun e => if e = z then f z else e
    let goesOn := fun (o : Op) => o.done = false ∧ o.unsettled = true ∧ (s.d.crew o.crew).isSome = true
    let settled := ∀ id ∈ z.settle.getD [], (∀ o ∈ s.d.ops, o.id = id → ¬ goesOn o) ∧ id ∉ s.work.fillsSent p
    let drained := ∀ f ∈ s.d.fences, f.id ∈ z.drains.getD [] → f.done = true
    (z.step = 0 → ∃ t : State, goes t fun e => { e with step := 1 }) ∧
    (z.step = 1 → ∃ t : State, goes t fun e => { e with step := 2, settle := some (if p.ctx = some z.ctx then s.work.inFlight p else []) }) ∧
    (z.step = 2 → ¬ settled → exec (.shootdownStep low) s = .next s) ∧
    (z.step = 2 → settled → (p.ctx ≠ some z.ctx ∨ ∀ t ∈ p.towers, ∀ cl < 12, (s.d.cluster t cl).cmb = []) →
      ∃ t : State, goes t fun e => { e with step := 3, drains := some [] }) ∧
    (z.step = 3 → drained → ∃ t : State, goes t (fun e => { e with step := 4 }) ∧
      (∀ k ∈ s.work.logical p, ∀ e ∈ (t.d.core k.1 k.2).tlb, z.takes e = false ∧ e ∈ (s.d.core k.1 k.2).tlb) ∧
      (∀ k ∈ s.work.logical p, ∀ e ∈ (s.d.core k.1 k.2).tlb, z.takes e = false → e ∈ (t.d.core k.1 k.2).tlb) ∧
      (∀ tw ∈ p.towers, (∀ cl < 12, ∀ e ∈ (t.d.cluster tw cl).tlb, z.takes e = false) ∧ ∀ e ∈ (t.d.tower tw).walkCache, e.ctx ≠ z.ctx) ∧
      ∀ n ∈ t.d.crews, p.towers.contains n.place.tower = true → ∀ f ∈ n.walkFails, z.covers (f.1 * 2 ^ 16) = false) ∧
    (z.step = 4 → ∃ t : State, goes t fun e => { e with step := 5 }) ∧
    (z.step = 5 → exec (.shootdownStep low) s = .next { s with d := { s.d with
      shootdowns := s.d.shootdowns.erase z, host := s.d.host.answer x q tag 0 [] fun _ => false } })

/-- The partition commands (R440, R442): a value that breaks a rule is answered 0x10000, one marked idle 0x10001 while a context is resident, and
the old value stays; otherwise it is in force, is measured (R451), and the answer is 0. Towers are divided into whole aligned groups of 1, 2, 4 or
8; a partition whose towers stay together keeps its values (R6). A vault taken from another holder reads zero before the allotment is in force and
the command is answered (R67). -/
def Obligations.PartitionCommands : Prop :=
  ∀ (s : State) (sess q : Nat) (x : Session) (c : Cmd) (p : Part), c.partOf s.d = some p →
    let posted := fun (n len : Nat) => Posted s sess q x c (7 + n * 65536) len ∧ c.field 63 32 = 0
    let v := fun (hi lo : Nat) => c.field (hi + 64) (lo + 64)
    let put := fun (n : Nat) (d : Dev) => (Host.Outcome.next (s.answered (d.measure (4 + Config.measureIndex n % 4) c.ops) x c 0) : Out)
    let no := fun (st : Nat) => (Host.Outcome.next (s.answered s.d x c st) : Out)
    let part := fun (f : Part → Part) => s.d.modPart p.low f
    (∀ ps : List (List Nat), posted 1 16 → ps.flatten = List.range 8 → (∀ g ∈ ps, g ≠ []) →
      (∀ t < 8, Machine.bit t (v 7 0) = true ↔ ∃ g ∈ ps, g.head? = some t) →
      let legal := c.part = 0 ∧ v 63 8 = 0 ∧ ∀ g ∈ ps, g.length ∈ [1, 2, 4, 8] ∧ g.headD 0 % g.length = 0
      exec (.setSplit sess q) s = if ¬ legal then no 0x10000
        else if ∃ y ∈ s.d.parts, y.towers ∉ ps ∧ y.ctx.isSome = true then no 0x10001
        else put 1 { s.d with parts := ps.map fun g => (s.d.parts.find? fun y => y.towers == g).getD { towers := g } }) ∧
    (posted 1 16 → Machine.bit 0 (v 7 0) = false → exec (.setSplit sess q) s = no 0x10000) ∧
    (posted 3 16 → exec (.setHostWindowRegion sess q) s =
      if v 31 20 ≠ 0 ∨ v 63 53 ≠ 0 ∨ v 19 0 % 4096 ≠ 0 ∨ v 52 32 % 4096 ≠ 0 ∨ 0x100000 < v 19 0 + v 52 32 then no 0x10000
      else if p.ctx.isSome then no 0x10001 else put 3 (part fun y => { y with hostBase := v 19 0, hostSize := v 52 32 })) ∧
    (posted 4 80 → exec (.setRaceMode sess q) s =
      let base := fun (t : Nat) => v (64 * t + 127) (64 * t + 64)
      if 2 < v 1 0 ∨ v 63 2 ≠ 0 ∨ ∃ t < 8, 2 ^ 40 ≤ base t ∨ t ∉ p.towers ∧ base t ≠ 0 then no 0x10000
      else put 4 (part fun y => { y with race := some (v 1 0, (List.range 8).map base) })) ∧
    (posted 5 16 → exec (.setConeWindow sess q) s =
      if v 31 0 < 2 ^ 16 ∨ v 63 48 ≠ 0 then no 0x10000 else put 5 (part fun y => { y with coneWc := v 31 0, coneL := v 47 32 })) ∧
    (posted 6 32 → exec (.setHandlerEntry sess q) s =
      if v 63 40 ≠ 0 ∨ v 127 104 ≠ 0 ∨ v 191 160 ≠ 0 then no 0x10000
      else if p.ctx.isSome then no 0x10001 else put 6 (part fun y => { y with handler := some (v 39 0, v 103 64, v 159 128) })) ∧
    (posted 7 16 → exec (.setSaveAreaSize sess q) s =
      if v 63 32 ≠ 0 ∨ v 31 0 % 65536 ≠ 0 ∨ 2 ^ 28 < v 31 0 then no 0x10000
      else if p.ctx.isSome then no 0x10001 else put 7 (part fun y => { y with saveSize := v 31 0 })) ∧
    (posted 8 16 → exec (.setBinStoreVault sess q) s =
      if v 63 12 ≠ 0 ∨ 47 < v 8 3 ∨ v 2 0 ∉ p.towers then no 0x10000
      else if p.ctx.isSome then no 0x10001 else put 8 (s.d.modTower (v 2 0) fun z => { z with binVault := 1 + 8 * v 8 3 + v 11 9 })) ∧
    (posted 9 40 → exec (.setCheckpointRegion sess q) s =
      let a := v 2 0
      let b := v 5 3
      let near := a / 4 = b / 4 ∧ (a % 4 + 1 = b % 4 ∨ b % 4 + 1 = a % 4) ∨ a % 4 = b % 4 ∧ a / 4 ≠ b / 4
      let inside := v 191 128 = 0 ∨ v 127 64 < 2 ^ 39 ∧ v 127 64 / 2 ^ 36 = b ∧ v 127 64 % 2 ^ 36 + v 191 128 ≤ 48 * 2 ^ 30
      let others := s.d.checkpoints.filter fun y => y.tower != a
      if v 63 6 ≠ 0 ∨ p.towers.length < 2 ∨ a ∉ p.towers ∨ b ∉ p.towers ∨ ¬ near ∨ ¬ inside then no 0x10000
      else if p.ctx.isSome then no 0x10001
      else put 9 { s.d with checkpoints := if v 191 128 = 0 then others else
        others ++ [{ tower := a, host := b, base := v 127 64, size := v 191 128, interval := v 255 192 }] }) ∧
    (posted 10 16 → exec (.quarantineClear sess q) s =
      if v 63 9 ≠ 0 ∨ v 2 0 ∉ p.towers ∨ s.work.present (v 2 0) (v 8 3) = false then no 0x10000
      else put 10 (s.d.modCore (v 2 0) (v 8 3) fun k => { k with kiln := { k.kiln with quarantined := false } })) ∧
    (posted 2 24 → s.d.part p.low = some p →
      let tw := v 2 0
      let mask := BitVec.ofNat 48 (v 111 64)
      let own := fun (u : Nat) => getA s.d.vaultOwner (48 * tw + u) 0 = p.low * 16 + p.towers.length
      (v 63 3 ≠ 0 ∨ v 127 112 ≠ 0 ∨ tw ∉ p.towers → exec (.setVaultAllotment sess q) s = no 0x10000) ∧
      (v 63 3 = 0 → v 127 112 = 0 → tw ∈ p.towers →
        (p.ctx.isSome = true → exec (.setVaultAllotment sess q) s = no 0x10001) ∧
        (p.ctx = none → (∀ u < 48, mask.getLsbD u = true → own u) → ∃ (t : State) (y : Part), exec (.setVaultAllotment sess q) s = .next t ∧
          t.d.host = s.d.host.answer x q c.tag 0 [] (fun _ => false) ∧ t.d.part p.low = some y ∧ y.towers = p.towers ∧ getA y.vaults tw 0 = mask ∧
          (∀ o : Nat, o ≠ tw → getA y.vaults o 0 = getA p.vaults o 0) ∧ (∀ o : Nat, getA t.d.vaultOwner o 0 = getA s.d.vaultOwner o 0) ∧ t.d.zeroings = s.d.zeroings ∧
          t.mem = s.mem) ∧
        (p.ctx = none → (∃ u < 48, mask.getLsbD u = true ∧ ¬ own u) → ∃ (t : State) (z : Zeroing), exec (.setVaultAllotment sess q) s = .next t ∧
          t.d.host = s.d.host.modQueue sess q (fun k => { k with busy := true }) ∧ t.d.zeroings = s.d.zeroings ++ [z] ∧ t.d.parts = s.d.parts ∧
          t.d.vaultOwner = s.d.vaultOwner ∧ z.tower = tw ∧ z.newMask = mask ∧ z.part = p.low ∧ z.cmd = (sess, q, c.tag) ∧
          (∀ u < 48, z.mask.getLsbD u = true ↔ mask.getLsbD u = true ∧ ¬ own u) ∧ t.mem = s.mem))) ∧
    ∀ (i : Nat) (z : Zeroing), s.d.zeroings[i]? = some z → s.d.parts.find? (fun y => y.low == z.part) = some p → s.d.part p.low = some p →
      z.cmd = (sess, q, c.tag) → (s.d.host.sessions.map (·.id)).Nodup →
      s.d.host.sessions.find? (fun y => y.id == sess) = some x → s.wf = true → z.tower < 8 →
      let keys := fun (k : Nat) => ∃ u < 48, z.mask.getLsbD u = true ∧ vaultKey (z.tower * 2 ^ 29 + u * 2 ^ 23) ≤ k ∧
        k < vaultKey (z.tower * 2 ^ 29 + u * 2 ^ 23) + 2 ^ 23
      ∃ (t : State) (y : Part), exec (.vaultZeroingComplete i) s = .next t ∧ (∀ k : Nat, keys k → t.mem.get k = 0) ∧ (∀ k : Nat, ¬ keys k → t.mem.get k = s.mem.get k) ∧
        t.d.host = s.d.host.answer x q c.tag 0 [] (fun _ => false) ∧ t.d.zeroings = s.d.zeroings.eraseIdx i ∧ t.d.part p.low = some y ∧
        getA y.vaults z.tower 0 = z.newMask ∧ ∀ u < 48, z.newMask.getLsbD u = true → getA t.d.vaultOwner (48 * z.tower + u) 0 = p.low * 16 + p.towers.length

/-- The context commands (R412, R413, R414, R417, R436, R438, R440). A create makes a context resident, running and with reset values, in a
partition that holds none and has a handler; a destroy removes the context, its crews, teams and grids and leaves every byte of memory; a switch-out
sets PREEMPT in every crew of the partition and is answered when the image is written; a restore puts back what a valid image holds, and answers one
that is not with 0x10004 and a fault. What a save waits for is `Work.quiet` (assumptions 51 and 53). -/
def Obligations.ContextCommands : Prop :=
  (∀ (s : State) (sess q base count : Nat) (x : Session) (c : Cmd) (p : Part), Posted s sess q x c (8 + 1 * 65536) 16 → c.partOf s.d = some p →
    s.d.part p.low = some p → let root := c.field 127 64
    let ok := c.field 63 33 = 0 ∧ root % 4096 = 0 ∧ root < 2 ^ 40 ∧ base % 32 = 0 ∧ 1 ≤ count ∧ count ≤ 4096
    (¬ ok → exec (.contextCreate sess q base count) s = .next (s.answered s.d x c 0x10000)) ∧
    (ok → p.ctx.isSome = true ∨ p.handler = none ∨ (s.d.ctx c.ctxid).isSome = true →
      exec (.contextCreate sess q base count) s = .next (s.answered s.d x c 0x10001)) ∧
    (ok → p.ctx = none → p.handler.isSome = true → s.d.ctx c.ctxid = none → p.halt.deferred = [] → s.wf = true → ∃ (t : State) (y : Ctx) (z : Part),
      exec (.contextCreate sess q base count) s = .next t ∧ t.d.host = s.d.host.answer x q c.tag 0 [] (fun _ => false) ∧
      t.d.ctxs = s.d.ctxs ++ [y] ∧ y.ctxid = c.ctxid ∧ y.part = p.low ∧ y.root = root ∧ y.debug = (c.field 32 32 == 1) ∧ y.resident = true ∧ y.cmr = 0 ∧
      y.gridEpoch = 0 ∧ y.decls = [] ∧ y.switch = .idle ∧ y.descBase.toNat = base % 2 ^ 64 ∧ y.descCount = count ∧ t.d.part p.low = some z ∧
      z.ctx = some c.ctxid ∧ z.halt = {} ∧ z.handler = p.handler ∧ z.towers = p.towers ∧ z.vaults = p.vaults ∧
      (∀ tw ∈ p.towers, (t.d.tower tw).cyc = 0 ∧ ∀ l ∈ (t.d.tower tw).queues, l = []) ∧
      (∀ k ∈ s.work.logical p, (t.d.core k.1 k.2).l1 = [] ∧ (t.d.core k.1 k.2).acc = [] ∧ (t.d.core k.1 k.2).credits = [8, 8, 8, 8] ∧
        (t.d.core k.1 k.2).kiln = { quarantined := (s.d.core k.1 k.2).kiln.quarantined } ∧ (t.d.core k.1 k.2).slip = {}) ∧
      t.d.crews = s.d.crews ∧ t.d.grids = s.d.grids ∧ t.d.boot = (s.d.measure (4 + Config.measureIndex (8 + 1 * 65536) % 4) (natLe 2 c.ctxid ++ c.ops)).boot ∧
      (∀ i < 64, t.mem.get (areaKey p.low 0 i) = 0) ∧
      ∀ k : Nat, ¬ (areaKey p.low 0 0 ≤ k ∧ k < areaKey p.low 0 64) → t.mem.get k = s.mem.get k)) ∧
  (∀ (s : State) (sess q : Nat) (x : Session) (c : Cmd) (p : Part) (y : Ctx), c.ctxOf s.d = some (p, y) → s.d.part p.low = some p →
    let ok := c.field 63 32 = 0 ∧ c.field 127 64 = 0
    (Posted s sess q x c (8 + 2 * 65536) 16 → (¬ ok → exec (.contextDestroy sess q) s = .next (s.answered s.d x c 0x10000)) ∧
      (ok → ∃ t : State, exec (.contextDestroy sess q) s = .next t ∧ t.d.host = s.d.host.answer x q c.tag 0 [] (fun _ => false) ∧
        t.d.ctxs = s.d.ctxs.filter (fun z => z.ctxid != y.ctxid) ∧ (∀ k : Nat, t.mem.get k = s.mem.get k) ∧
        (p.ctx ≠ some y.ctxid → t.d.crews = s.d.crews ∧ t.d.grids = s.d.grids ∧ t.d.parts = s.d.parts) ∧
        (p.ctx = some y.ctxid → (s.d.crews.map (·.id)).Nodup → (∃ z : Part, t.d.part p.low = some z ∧ z.ctx = none ∧ z.towers = p.towers ∧ z.vaults = p.vaults ∧ z.handler = p.handler) ∧
          t.d.crews = s.d.crews.filter (fun (z : Crew) => !p.towers.contains z.place.tower) ∧ t.d.grids = s.d.grids.filter (fun g => g.ctx != y.ctxid) ∧
          (∀ z ∈ t.d.teams, z ∈ s.d.teams) ∧ ∀ k ∈ s.work.logical p, (t.d.core k.1 k.2).l1 = [] ∧ (t.d.core k.1 k.2).sq = []))) ∧
    (Posted s sess q x c (8 + 3 * 65536) 16 → (¬ ok → exec (.switchOut sess q) s = .next (s.answered s.d x c 0x10000)) ∧
      (ok → p.ctx ≠ some y.ctxid ∨ y.resident = false ∨ y.switch ≠ .idle ∨ p.debugHalted ≠ [] →
        exec (.switchOut sess q) s = .next (s.answered s.d x c 0x10001)) ∧
      (ok → p.ctx = some y.ctxid → y.resident = true → y.switch = .idle → p.debugHalted = [] → ∃ t : State, exec (.switchOut sess q) s = .next t ∧
        t.mem = s.mem ∧ t.d.host = s.d.host.modQueue sess q (fun k => { k with busy := true }) ∧
        t.d.ctxs = (s.d.modCtx y.ctxid fun z => { z with switch := .stopping, switchCmd := some (sess, q, c.tag) }).ctxs ∧
        t.d.crews.length = s.d.crews.length ∧ ∀ (i : Nat) (e : Crew), s.d.crews[i]? = some e → ∃ e' : Crew, t.d.crews[i]? = some e' ∧
          e'.threads = e.threads ∧ e'.regs = e.regs ∧ e'.preds = e.preds ∧ e'.status = e.status ∧
          e'.sp = (if e.handler = false ∧ p.halt.phase = .running ∧ e.place.tower ∈ p.towers then { e.sp with preempt := true } else e.sp))) ∧
    (Posted s sess q x c (8 + 4 * 65536) 16 → (¬ ok → exec (.contextRestore sess q) s = .next (s.answered s.d x c 0x10000)) ∧
      (ok → p.ctx.isSome = true ∨ y.resident = true ∨ y.saved = none → exec (.contextRestore sess q) s = .next (s.answered s.d x c 0x10001)) ∧
      ∀ v : Saved, ok → p.ctx = none → y.resident = false → y.saved = some v → p.halt.deferred = [] → p.halt.phase = .running → s.wf = true →
        let used := s.work.num (areaKey p.low 1 0) 8
        let img := s.work.gets (areaKey p.low 1 0) (min used p.saveSize)
        let r := v.ofImage y img
        let m : Locals := ⟨fun id => ((r.2.2.2.locs.find? fun e => e.1 == id).map (·.2)).getD [], fun id => ((r.2.2.2.lands.find? fun e => e.1 == id).map (·.2)).getD []⟩
        let valid := used ≤ p.saveSize ∧ r.2.2.1.image r.1 r.2.1 m = img ∧ Machine.bits 75 64 (leNat (img.take 64)) = y.ctxid ∧ ∀ e ∈ v.layout, e ∈ s.work.logical p
        ∃ (t : State) (z : Part), exec (.contextRestore sess q) s = .next t ∧ t.d.part p.low = some z ∧ z.ctx = some y.ctxid ∧
          (valid → t.d.host = s.d.host.answer x q c.tag 0 [] (fun _ => false) ∧
            (r.2.2.1.ops = [] → (∀ o ∈ s.d.ops, ∀ e ∈ r.2.2.1.crews, e.landed = true → o.crew ≠ e.id) → z.halt.phase = .running ∧ z.halt.halts = r.2.1 ∧ z.halt.count = 0) ∧
            (t.d.ctx y.ctxid).map (fun u => (u.resident, u.cmr, u.gridEpoch, u.cycHeld)) = some (true, r.1.cmr, r.1.gridEpoch, true) ∧
            t.d.grids = s.d.grids ++ r.2.2.1.grids ∧ (∀ e ∈ r.2.2.1.imageTeams, ∃ u ∈ t.d.teams, u.id = e.id ∧ u.index = e.index ∧ u.barriers = e.barriers) ∧
            (r.2.2.1.ops = [] → r.2.2.1.imageTeams = [] → ∀ k : Nat, ¬ (areaKey p.low 0 0 ≤ k ∧ k < areaKey p.low 0 64) → t.mem.get k = s.mem.get k)) ∧
          (¬ valid → z.halt.phase = .stopping ∧ (∃ f ∈ z.halt.records, f.info.reason = .malformedImage) ∧ t.d.grids = s.d.grids ∧ t.d.teams = s.d.teams ∧
            ((x.queue q).unacked.length < 200 → ∃ f ∈ t.d.host.sent.getLast?, f.kind = 1 ∧ f.payload = natLe 16 (c.tag * 2 ^ 64 + 0x10004))))) ∧
  ∀ (s : State) (low sess q tag : Nat) (p : Part) (y : Ctx) (x : Session), s.d.parts.find? (fun p => p.low == low) = some p → s.d.part low = some p →
    p.ctx = some y.ctxid → s.d.ctx y.ctxid = some y → p.halt.phase = .running → y.switchCmd = some (sess, q, tag) →
    s.d.host.sessions.find? (fun x => x.id == sess) = some x → (s.d.host.sessions.map (·.id)).Nodup →
    let mine := fun (e : Crew) => e.handler = false ∧ e.place.tower ∈ p.towers
    let to_ := fun (t : State) (f : SwitchPhase) => exec (.contextSwitchStep low) s = .next t ∧ (t.d.ctx y.ctxid).map (·.switch) = some f ∧
      (∀ k : Nat, t.mem.get k = s.mem.get k) ∧ t.d.host = s.d.host
    let waits := exec (.contextSwitchStep low) s = .next s
    (y.switch = .idle → waits) ∧
    (y.switch = .stopping → (∃ e ∈ s.d.crews, mine e ∧ (e.status = .running ∨ s.d.departs e.id = true)) → waits) ∧
    (y.switch = .stopping → (∀ e ∈ s.d.crews, mine e → e.status ≠ .running ∧ s.d.departs e.id = false) → ∃ t : State, to_ t .draining ∧ t.d.crews.length = s.d.crews.length ∧
      ∀ e ∈ t.d.crews, mine e → e.stalled = false ∧ ∀ z ∈ e.waits, z.kept = true) ∧
    (y.switch = .draining → s.work.quiet p = false → waits) ∧
    (y.switch = .draining → s.work.quiet p = true → (∀ tw ∈ p.towers, ∀ cl < 12, (s.d.cluster tw cl).cmb = []) →
      ∃ t : State, to_ t .cmbs ∧ (t.d.part low).map (·.drain) = some (some [])) ∧
    (y.switch = .cmbs → (∃ tw ∈ p.towers, ∃ cl < 12, (s.d.cluster tw cl).cmb ≠ []) → waits) ∧
    (y.switch = .cmbs → (∀ tw ∈ p.towers, ∀ cl < 12, (s.d.cluster tw cl).cmb = []) → (∀ f ∈ s.d.fences, f.done = true) → ∃ t : State, to_ t .image) ∧
    (y.switch = .image → noLateTraps s → (s.d.crews.map (·.id)).Nodup → let w := s.work.freeAt.2.readyToSave p
      let v := w.savedOf p y s.d.free
      let img := v.image y p.halt.halts (w.localsOf v)
      (p.saveSize < img.length → ∃ t : State, exec (.contextSwitchStep low) s = .next t ∧ t.d.host = s.d.host.answer x q tag 0x10003 [] (fun _ => false) ∧
        (∀ k : Nat, t.mem.get k = s.mem.get k) ∧ t.d.part low = some { p with drain := none } ∧ (t.d.ctx y.ctxid).map (fun u => (u.switch, u.resident)) = some (.idle, y.resident) ∧
        t.d.crews.length = s.d.crews.length ∧ ∀ e ∈ t.d.crews, mine e → e.sp.preempt = false ∧ e.status ≠ .stopped) ∧
      (img.length ≤ p.saveSize → s.wf = true → ∃ (t : State) (z : Part), exec (.contextSwitchStep low) s = .next t ∧
        t.d.host = s.d.host.answer x q tag 0 [] (fun _ => false) ∧ t.d.part low = some z ∧ z.ctx = none ∧
        (∀ i < img.length, t.mem.get (areaKey p.low 1 i) = img.getD i 0) ∧
        (∀ k : Nat, ¬ (areaKey p.low 1 0 ≤ k ∧ k < areaKey p.low 1 img.length) → t.mem.get k = s.mem.get k) ∧
        (t.d.ctx y.ctxid).map (fun u => (u.switch, u.resident, u.saved)) = some (.idle, false, some v) ∧
        (∀ e ∈ t.d.crews, e ∈ s.d.crews) ∧ t.d.grids = s.d.grids.filter fun g => g.ctx != y.ctxid))

/-- The debugger's commands (R375, R376, R408, R418, R419, R438): they serve a context in debug mode that is resident, and ending a handler crew any
context; a tower named by a halt issues nothing until it is resumed, and no record is written; items are read and written as through the access
window, and what holds a write completes in a crew that is not halted are released (R180). -/
def Obligations.DebuggerCommands : Prop :=
  ∀ (s : State) (sess q : Nat) (x : Session) (c : Cmd) (p : Part) (y : Ctx), c.ctxOf s.d = some (p, y) → s.d.part p.low = some p →
    let posted := fun (n : Nat) => Posted s sess q x c (10 + n * 65536) 24 ∧ c.field 63 35 = 0
    let no := fun (st : Nat) => (Host.Outcome.next (s.answered s.d x c st) : Out)
    let t3 := c.field 34 32
    let a := c.field 127 64
    let v := c.field 191 128
    let serves := p.ctx = some y.ctxid ∧ y.debug = true
    (posted 1 → v = 0 → a = 0 → (¬ serves → exec (.haltTower sess q) s = no 0x10001) ∧
      (serves → t3 ∉ p.towers → exec (.haltTower sess q) s = no 0x10000) ∧
      (serves → t3 ∈ p.towers → ∃ (t : State) (z : Part), exec (.haltTower sess q) s = .next t ∧
        t.d.part p.low = some z ∧ t3 ∈ z.debugHalted ∧ (∀ u : Nat, u ≠ t3 → (u ∈ z.debugHalted ↔ u ∈ p.debugHalted)) ∧
        ((∀ cl < 12, (s.d.cluster t3 cl).cmb = []) → t.mem = s.mem ∧ t.d.host = s.d.host.answer x q c.tag 0 [] (fun _ => false) ∧ z.halt = p.halt ∧
          t.d.crews = s.d.crews.map fun (e : Crew) => if e.place.tower = t3 then { e with held := false, holdCount := 0, repGroup := 0 } else e))) ∧
    (posted 2 → v = 0 → a = 0 → (¬ serves → exec (.resumeTower sess q) s = no 0x10001) ∧
      (serves → t3 ∉ p.debugHalted → exec (.resumeTower sess q) s = no 0x10001) ∧
      (serves → t3 ∈ p.debugHalted → ∃ (t : State) (z : Part), exec (.resumeTower sess q) s = .next t ∧ t.mem = s.mem ∧
        t.d.host = s.d.host.answer x q c.tag 0 [] (fun _ => false) ∧ t.d.part p.low = some z ∧ z.debugHalted = p.debugHalted.filter (· != t3) ∧
        t.d.crews = s.d.crews.map fun (e : Crew) => if e.place.tower = t3 then e.release else e)) ∧
    (posted 3 → v = 0 → t3 = 0 → (¬ serves → exec (.debugReadItem sess q) s = no 0x10001) ∧
      (serves → let r := s.work.winRead (BitVec.ofNat 64 a) none
        exec (.debugReadItem sess q) s = .next (s.answered s.d x c 0 (natLe 8 r.1.toNat ++ natLe 8 r.2)))) ∧
    (posted 4 → t3 = 0 → (¬ serves → exec (.debugWriteItem sess q) s = no 0x10001) ∧
      (serves → let r := s.work.winStore (BitVec.ofNat 64 a) (BitVec.ofNat 64 v) none
        r.2.wr = [] → r.2.d.host = s.d.host → r.2.d.checkpoints = s.d.checkpoints →
        let free := fun (e : Crew) => !e.handler && (r.2.d.part e.place.tower).any fun z => z.halt.phase == .running && !z.debugHalted.contains e.place.tower
        exec (.debugWriteItem sess q) s = .next (s.answered { r.2.d with
          crews := r.2.d.crews.map fun e => if e.place.gid == Machine.bits 55 32 a && free e then e.release else e } x c 0 (natLe 8 0 ++ natLe 8 r.1)))) ∧
    (posted 5 → v = 0 → t3 = 0 →
      (a / 2 ^ 56 ≠ 0 ∨ a % 2 ^ 32 ≠ 0 ∨ a / 2 ^ 41 % 2 ^ 6 ≠ 32 → exec (.endHandlerCrew sess q) s = if p.ctx = some y.ctxid then no 0x10000 else no 0x10001) ∧
      (a / 2 ^ 56 = 0 → a % 2 ^ 32 = 0 → a / 2 ^ 41 % 2 ^ 6 = 32 → p.ctx = some y.ctxid →
        let named := fun (e : Crew) => e.handler = true ∧ e.status = .faulted ∧ e.place.gid = a / 2 ^ 32 ∧ e.place.tower ∈ p.towers
        ((∀ e ∈ s.d.crews, ¬ named e) → exec (.endHandlerCrew sess q) s = no 0x10001) ∧
        (∀ e o : Crew, (s.d.crews.map (·.id)).Nodup → e ∈ s.d.crews → named e → (∀ f ∈ s.d.crews, named f → f = e) → s.d.part e.place.tower = some p →
          o ∈ s.d.crews → o.id ≠ e.id → o.handler = true → o.place.tower ∈ p.towers → ∃ (t : State) (z : Part), exec (.endHandlerCrew sess q) s = .next t ∧
            t.d.host = s.d.host.answer x q c.tag 0 [] (fun _ => false) ∧ t.d.crews = s.d.crews.filter (fun f => f.id != e.id) ∧
            t.d.part p.low = some z ∧ z.halt.phase = p.halt.phase ∧ z.halt.records = p.halt.records ∧ ∀ k : Nat, t.mem.get k = s.mem.get k)))

/-- Checkpoints and the warm reset (R420, R421): a checkpoint begins on command or when its interval runs out, only of a tower with a region whose
context runs; at its completion undo copies begin anew and the command is answered. A warm reset is served only while the partition is halted and a
checkpoint was taken: every byte with an undo copy is rolled back; a replay that outlasts the limit leaves the tower failed and answers 0x10001. -/
def Obligations.Checkpoints : Prop :=
  (∀ (s : State) (sess q tw : Nat) (x : Session) (c : Cmd) (p : Part), Posted s sess q x c (11 + 1 * 65536) 16 → c.partOf s.d = some p →
    tw = c.field 34 32 →
    let may := tw ∈ p.towers ∧ (∃ k ∈ s.d.checkpoints, k.tower = tw ∧ k.taking = false ∧ k.failed = false) ∧
      ∃ z : Part, s.d.part tw = some z ∧ z.ctx.isSome = true ∧ z.halt.phase = .running
    (c.field 63 35 ≠ 0 ∨ c.field 127 64 ≠ 0 → exec (.checkpointTake sess q) s = .next (s.answered s.d x c 0x10000)) ∧
    (c.field 63 35 = 0 → c.field 127 64 = 0 → (¬ may → exec (.checkpointTake sess q) s = .next (s.answered s.d x c 0x10001)) ∧
      (may → exec (.checkpointTake sess q) s = .next { s with d := { s.d with
        host := s.d.host.modQueue sess q fun k => { k with busy := true }
        checkpoints := s.d.checkpoints.map fun k => if k.tower == tw then { k with taking := true, cmd := some (sess, q, c.tag) } else k } }))) ∧
  (∀ (s : State) (tw : Nat) (p : Part) (k : Checkpoint), s.d.part tw = some p → k ∈ s.d.checkpoints → k.tower = tw → k.failed = false →
    (k.taking = false → p.ctx.isSome = true → p.halt.phase = .running → k.interval ≠ 0 → k.interval ≤ k.elapsed →
      exec (.checkpointIntervalExpire tw) s = .next { s with d := { s.d with
        checkpoints := s.d.checkpoints.map fun k => if k.tower == tw then { k with taking := true, cmd := none } else k } }) ∧
    ((∀ z ∈ s.d.checkpoints, z.tower = tw → z.elapsed < z.interval ∨ z.interval = 0) → exec (.checkpointIntervalExpire tw) s = .next s) ∧
    (s.d.checkpoints.find? (fun k => k.tower == tw && k.taking) = some k → ∃ t : State, exec (.checkpointComplete tw) s = .next t ∧
      (∀ a : Nat, t.mem.get a = s.mem.get a) ∧ t.d.crews = s.d.crews ∧ (∀ z ∈ t.d.checkpoints, z.tower = tw → z.taking = false ∧ z.taken = true ∧
        z.undo = [] ∧ z.log = [] ∧ z.used = 0 ∧ z.elapsed = 0 ∧ z.snap.crews = s.d.crews.filter fun (y : Crew) => y.place.tower == tw) ∧
      (k.cmd = none → t.d.host = s.d.host) ∧ ∀ (sess q tag : Nat) (x : Session), k.cmd = some (sess, q, tag) → (s.d.host.sessions.map (·.id)).Nodup →
        s.d.host.sessions.find? (fun y => y.id == sess) = some x → t.d.host = s.d.host.answer x q tag 0 [] fun _ => false)) ∧
  (∀ (s : State) (sess q tw : Nat) (x : Session) (c : Cmd) (p : Part), Posted s sess q x c (11 + 2 * 65536) 16 → c.partOf s.d = some p →
    tw = c.field 34 32 → c.field 63 35 = 0 →
    let good := fun (k : Checkpoint) => k.tower == tw && k.taken && !k.failed && k.replay.isNone
    (s.d.checkpoints.find? good = none ∨ tw ∉ p.towers ∨ p.halt.phase ≠ .handling →
      exec (.warmReset sess q) s = .next (s.answered s.d x c 0x10001)) ∧
    ∀ k : Checkpoint, s.d.checkpoints.find? good = some k → tw ∈ p.towers → p.halt.phase = .handling → s.wf = true → (k.undo.map (·.1)).Nodup →
      let here := fun (a : Nat) => localKey tw 0 0 ≤ a ∧ a < localKey tw 0 0 + 48 * 2 ^ 18
      (∀ e ∈ k.snap.locals, here e.1) →
      ∃ t : State, exec (.warmReset sess q) s = .next t ∧ t.d.host = s.d.host.modQueue sess q (fun k => { k with busy := true }) ∧
        (∀ u ∈ k.undo, ¬ here u.1 → t.mem.get u.1 = u.2) ∧
        (∀ a : Nat, ¬ here a → a ∉ k.undo.map (·.1) → t.mem.get a = s.mem.get a) ∧
        (∀ z ∈ t.d.checkpoints, z.tower = tw → z.replay = some (c.field 127 64, (sess, q, c.tag))) ∧
        t.d.crews = s.d.crews.filter (fun (y : Crew) => !((s.d.crews.filter fun z => z.place.tower == tw).map (·.id)).contains y.id) ++
          (k.snap.crews.filter (fun y => !y.handler) ++ s.d.crews.filter fun (y : Crew) => y.place.tower == tw && y.handler)) ∧
  ∀ (s : State) (tw sess q tag limit : Nat) (k : Checkpoint) (p : Part) (x : Session), s.d.checkpoints.find? (fun k => k.tower == tw && k.replay.isSome) = some k →
    k.replay = some (limit, (sess, q, tag)) → s.d.part tw = some p → p.ctx.isSome = true → p.halt.phase = .handling → p.halt.handlersLeft ≠ 0 →
    p.halt.count < stopRecords → (∀ e ∈ s.d.crews, e.handler = true → e.place.gid ≠ 0xFFFFFF) →
    s.d.host.sessions.find? (fun y => y.id == sess) = some x → (s.d.host.sessions.map (·.id)).Nodup → ∃ (t : State) (z : Part) (r : HaltRec), exec (.warmResetLimitExpire tw) s = .next t ∧
      (∀ e ∈ t.d.checkpoints, e.tower = tw → e.replay = none ∧ e.failed = true) ∧ t.d.part tw = some z ∧ z.halt.phase = .handling ∧
      z.halt.records = p.halt.records ++ [r] ∧ r.info.reason = .replayDivergence ∧ r.appended = true ∧
      t.d.host = s.d.host.answer x q tag 0x10001 [] fun _ => false

/-- The commands of the security processor (R439, R441, R443, R448, R450, R451): telemetry returns an item, saturated, and clears its counters if
asked to; an attestation report holds the nonce, the measurement registers, the identity's hash and the split, signed; firmware chunks come in
ascending order without gaps and the last one has the image verified; addresses and keys are configured on queue 0, by an owner; the first key
enrolled is an owner's; the last owner key is never revoked; and sessions that lose their address or key end after the response. -/
def Obligations.ManageCommands : Prop :=
  ∀ (s : State) (sess q : Nat) (x : Session) (c : Cmd),
    let no := fun (st : Nat) => (Host.Outcome.next (s.answered s.d x c st) : Out)
    (Posted s sess q x c 9 8 → let item := c.field 15 0
      let i := c.field 31 16
      let sat := fun (n : Nat) => natLe 8 (min n (2 ^ 32 - 1))
      let struc := i < 128 ∧ (i % 16 < 13 ∨ i = 13)
      let core := s.d.core (i / 48) (i % 48)
      let gives := fun (data : List Byte) (d : Dev) => exec (.telemetry sess q) s =
        .next (s.answered (if c.field 32 32 = 1 then d else s.d) x c 0 data)
      (c.field 63 33 ≠ 0 → exec (.telemetry sess q) s = no 0x10000) ∧
      (c.field 63 33 = 0 →
        (item = 0 ∨ 9 < item ∨ (item = 1 ∨ item = 2) ∧ ¬ struc ∨ item = 3 ∧ 9 < i ∨ item = 4 ∧ 383 < i ∨ item = 5 ∧ 33 < i ∨ item = 6 ∧ (i = 0 ∨ 33 < i) ∨
          (item = 7 ∨ item = 8) ∧ 7 < i ∨ item = 9 ∧ i ≠ 0 → exec (.telemetry sess q) s = no 0x10000) ∧
        (item = 1 → struc → gives (sat (getA s.d.tele.soft i 0)) { s.d with tele := { s.d.tele with soft := putA s.d.tele.soft i 0 } }) ∧
        (item = 2 → struc → gives (sat (getA s.d.tele.recovered i 0)) { s.d with tele := { s.d.tele with recovered := putA s.d.tele.recovered i 0 } }) ∧
        (item = 3 → i < 10 → let l := s.d.links.getD i {}
          gives (sat l.replays ++ sat l.retrains ++ natLe 8 l.width) { s.d with links := setNth {} s.d.links i fun l => { l with replays := 0, retrains := 0 } }) ∧
        (item = 4 → i < 384 → gives (sat core.runOverflow) (s.d.modCore (i / 48) (i % 48) fun k => { k with runOverflow := 0 })) ∧
        (item = 5 → i ≤ 33 → gives (natLe 8 (getA s.d.tele.power i 0)) s.d) ∧
        (item = 6 → 1 ≤ i → i ≤ 33 → gives (natLe 8 (getA s.d.tele.temperature i 0)) s.d) ∧
        (item = 7 → i < 8 → gives (natLe 8 (s.d.tower i).arrayClock) s.d) ∧ (item = 8 → i < 8 → gives (natLe 8 (s.d.tower i).skipd.toNat) s.d) ∧
        (item = 9 → i = 0 → gives (natLe 8 (s.d.parts.flatMap fun p => p.debugHalted.map fun t => 2 ^ t).sum) s.d))) ∧
    (Posted s sess q x c 12 32 → let body := c.ops ++ s.d.boot.meas.flatten ++ sha3 s.d.boot.identity ++ natLe 8 (s.d.parts.map fun p => 2 ^ p.low).sum
      exec (.attest sess q) s = .next (s.answered s.d x c 0 (body ++ (List.range 4627).map fun i => Config.signatureByte s.d.boot.identity body i))) ∧
    (Posted s sess q x c 13 (16 + c.field 95 64) → let off := c.field 31 0
      let total := c.field 63 32
      let n := c.field 95 64
      let h := s.d.host
      let img := h.fwParts ++ c.ops.drop 16
      let gone := { h with fwParts := [], fwTotal := 0 }
      (c.field 127 96 ≠ 0 ∨ n = 0 ∨ 8192 < n → exec (.firmwareChunk sess q) s = no 0x10000) ∧
      (c.field 127 96 = 0 → 1 ≤ n → n ≤ 8192 →
        (off ≠ h.fwParts.length ∨ off ≠ 0 ∧ total ≠ h.fwTotal ∨ total < off + n →
          exec (.firmwareChunk sess q) s = .next (s.answered { s.d with host := gone } x c 0x10000)) ∧
        (off = h.fwParts.length → off = 0 ∨ total = h.fwTotal → off + n < total →
          exec (.firmwareChunk sess q) s = .next (s.answered { s.d with host := { h with fwParts := img, fwTotal := total } } x c 0)) ∧
        (off = h.fwParts.length → off = 0 ∨ total = h.fwTotal → off + n = total → exec (.firmwareChunk sess q) s =
          .next (if s.fx.accepts (Config.imageIndex img % 4) img = true then
              s.answered { s.d with host := gone, nv := { s.d.nv with images := s.d.nv.images.modify (Config.imageIndex img % 4) fun _ => img } } x c 0
            else s.answered { s.d with host := gone } x c 0x10004)))) ∧
    let keys := s.d.nv.keys
    let v := c.ops.drop 8
    let zero := fun (b : List Byte) => b.all (· == 0#8)
    let manage := fun (n len : Nat) => Posted s sess q x c (14 + n * 65536) len ∧ q = 0 ∧ c.part = 0 ∧ c.ctxid = 0 ∧ c.field 63 32 = 0
    let owner := keys = [] ∨ ∃ k : List Byte, x.key = some k ∧ (k, true) ∈ keys
    let puts := fun (nv : NvStore) (ends : Session → Bool) => (Host.Outcome.next (s.answered { s.d with nv := nv } x c 0 [] ends) : Out)
    (∀ e ∈ [(Instr.setIpv4 sess q, 1, 24), (.setIpv6 sess q, 2, 48), (.enrolHostKey sess q, 3, 80), (.revokeHostKey sess q, 4, 72),
        (.releaseOwnership sess q, 5, 8), (.listKeys sess q, 6, 8)], Posted s sess q x c (14 + e.2.1 * 65536) e.2.2 →
      (q ≠ 0 → exec e.1 s = no 0x10001) ∧ (q = 0 → c.part ≠ 0 ∨ c.ctxid ≠ 0 ∨ c.field 63 32 ≠ 0 → exec e.1 s = no 0x10000) ∧
      (q = 0 → c.part = 0 → c.ctxid = 0 → c.field 63 32 = 0 → e.2.1 ≠ 6 → ¬ owner → exec e.1 s = no 0x10001)) ∧
    (manage 1 24 → owner → let bad := 32 < (v.getD 4 0).toNat ∨ zero ((v.drop 5).take 3 ++ (v.drop 12).take 4) = false
      let new := if zero (v.take 4) then [] else v
      exec (.setIpv4 sess q) s = if bad then no 0x10000 else puts { s.d.nv with ipv4 := new } fun y => decide (s.d.nv.ipv4.take 4 ≠ new.take 4) && !s.d.nv.ipv4.isEmpty && y.address == ipv4Addr s.d.nv.ipv4) ∧
    (manage 2 48 → owner → let bad := 128 < (v.getD 16 0).toNat ∨ zero ((v.drop 17).take 7) = false
      let new := if zero (v.take 16) then [] else v
      exec (.setIpv6 sess q) s = if bad then no 0x10000 else puts { s.d.nv with ipv6 := new } fun y => decide (s.d.nv.ipv6.take 16 ≠ new.take 16) && !s.d.nv.ipv6.isEmpty && y.address == ipv6Addr s.d.nv.ipv6) ∧
    (AtHead s sess q x c → c.ok = true → c.kind = 14 + 3 * 65536 → c.ops.length = 80 → q = 0 → c.part = 0 → c.ctxid = 0 → c.field 63 32 = 0 → owner → exec (.enrolHostKey sess q) s =
      if 1 < leNat (v.drop 64) then no 0x10000
      else if 16 ≤ keys.length ∨ ∃ e ∈ keys, e.1 = v.take 64 then no 0x10001
      else puts { s.d.nv with keys := keys ++ [(v.take 64, decide (keys = [] ∨ leNat (v.drop 64) = 1))] } fun y => decide (keys = []) && y.id == sess) ∧
    (manage 4 72 → owner → let rest := keys.filter fun e => e.1 != v
      exec (.revokeHostKey sess q) s =
        if (∀ e ∈ keys, e.1 ≠ v) ∨ ∀ e ∈ rest, e.2 = false then no 0x10001 else puts { s.d.nv with keys := rest } fun y => y.key == some v) ∧
    (manage 5 8 → owner → exec (.releaseOwnership sess q) s = puts { s.d.nv with keys := [] } fun _ => true) ∧
    (manage 6 8 → exec (.listKeys sess q) s = .next (s.answered s.d x c 0 (keys.flatMap fun e => e.1 ++ natLe 8 (if e.2 then 1 else 0))))

/-- Bring-up, the management endpoint, links and the power manager (R5, R70, R71, R207, R441, R443, R445 to R451). The patrol engine counts a
corrected error of the place it visits and lets it go on; an uncorrectable one faults, and stands in its location. Of the errors that the world
decides, a corrected one is counted, one in a TLB entry takes the entry away, and one in memory stands until it is overwritten (R73 to R76). -/
def Obligations.BringUpAndLinks : Prop :=
  ((∀ (s : State) (fails : List (Nat × Nat × Nat × Nat × Nat)) (test detail : Nat), s.d.boot.running = false → s.d.boot.safe = false → s.d.boot.stage = 0 →
    (∀ e ∈ fails, 1 ≤ e.1 ∧ e.1 ≤ 4 ∧ e.2.1 ≤ 5 ∧ e.2.2.1 < 8) → ∃ t : State, exec (.powerUp fails test detail) s = .next t ∧
      t = { s with d := { s.d with boot := t.d.boot } } ∧
      (fails ≠ [] → t.d.boot.safe = true ∧ t.d.boot.running = false ∧ t.d.boot.failures.length = fails.length ∧ t.d.boot.meas = s.d.boot.meas ∧
        (∀ e ∈ fails, t.d.boot.stage ≤ e.1) ∧ (∃ e ∈ fails, t.d.boot.stage = e.1) ∧ ∀ (i : Nat) (e : Nat × Nat × Nat × Nat × Nat), fails[i]? = some e →
          let r := leNat (t.d.boot.failures.getD i [])
          Machine.bits 19 0 r = 0 ∧ Machine.bits 23 20 r = e.2.2.1 ∧ Machine.bits 31 24 r = e.2.1 ∧ Machine.bits 63 32 r = e.2.2.2.1 % 2 ^ 32 ∧
            Machine.bits 127 64 r = e.2.2.2.2 % 2 ^ 64 ∧ Machine.bits 511 128 r = 0) ∧
      (fails = [] → let imgs := s.d.nv.images.take 4
        let ok := fun (n : Nat) (i : List Byte) => sha3 (Config.imageBody i) = Config.imageHash i ∧ sha3 (Config.imageKey i) = s.fx.keyHash ∧
          Config.signatureOk (Config.imageKey i) (Config.imageSigned i) (Config.imageSignature i) = true ∧ s.fx.rollback.getD n 0 ≤ Config.imageVersion i
        ((∀ (n : Nat) (i : List Byte), imgs[n]? = some i → ok n i) → t.d.boot.stage = 15 ∧ t.d.boot.running = true ∧ t.d.boot.safe = false ∧
          ∀ j < 8, s.d.boot.meas.length = 8 → t.d.boot.meas.getD j [] = match imgs[j]? with
            | some i => sha3 (s.d.boot.meas.getD j [] ++ sha3 i)
            | none => s.d.boot.meas.getD j []) ∧
        ((∃ (n : Nat) (i : List Byte), imgs[n]? = some i ∧ ¬ ok n i) → t.d.boot.stage = 5 ∧ t.d.boot.running = false ∧ t.d.boot.safe = true ∧ t.d.boot.failures.length = 1))) ∧
  (∀ s : State, ∃ t : State, exec .powerLoss s = .next t ∧ t.d.nv = s.d.nv ∧ t.fx = s.fx ∧ t.mem = [] ∧ t.d.boot = {} ∧ t.d.crews = [] ∧ t.d.teams = [] ∧
    t.d.grids = [] ∧ t.d.ctxs = [] ∧ t.d.host.sessions = [] ∧ t.d.parts = State.reset.d.parts) ∧
  (∀ (s : State) (addr index : Nat) (bytes : List Byte), s.work.hasAddr addr = true → addr < 2 ^ 128 → bytes.length = 8 →
    let dest := destOf 47001 addr
    let v := leNat bytes
    let reply := fun (es : List (List Byte)) => (Host.Outcome.next { s with d := { s.d with host := { s.d.host with
      mgmt := s.d.host.mgmt ++ [natLe 8 (es.length * 2 ^ 32 + v % 2 ^ 32) ++ es.flatten] } } } : Out)
    (Machine.bits 31 0 v = 1 + 1 * 256 → Machine.bits 63 32 v = 0 →
      exec (.mgmtStatusQuery dest bytes) s = reply [natLe 8 (s.d.boot.stage % 16 * 16 + if s.d.boot.safe then 1 else 0)]) ∧
    (Machine.bits 31 0 v = 1 + 2 * 256 → Machine.bits 63 32 v = index →
      exec (.mgmtFailrecQuery dest bytes) s = reply (if s.d.boot.safe then (s.d.boot.failures.drop index).take 128 else [])) ∧
    (Machine.bits 31 0 v ≠ 1 + 1 * 256 → exec (.mgmtStatusQuery dest bytes) s = .next s) ∧
    (Machine.bits 31 0 v ≠ 1 + 2 * 256 → exec (.mgmtFailrecQuery dest bytes) s = .next s)) ∧
  (∀ (s : State) (port addr : Nat) (bytes : List Byte), addr < 2 ^ 128 → port ≠ 47001 ∨ s.work.hasAddr addr = false ∨ bytes.length ≠ 8 →
    exec (.mgmtStatusQuery (destOf port addr) bytes) s = .next s ∧ exec (.mgmtFailrecQuery (destOf port addr) bytes) s = .next s) ∧
  (∀ (s : State) (addr : Nat), s.work.hasAddr addr = true ↔ addr = linkLocal s.fx.mac ∨ s.d.nv.ipv4 ≠ [] ∧ addr = ipv4Addr s.d.nv.ipv4 ∨
    s.d.nv.ipv6 ≠ [] ∧ addr = ipv6Addr s.d.nv.ipv6) ∧
  (∀ (s : State) (l : Nat), l < 10 →
    let k := s.d.links.getD l {}
    let puts := fun (y : Link) => (Host.Outcome.next { s with d := { s.d with links := setNth {} s.d.links l fun _ => y } } : Out)
    (k.width ≠ 0 → exec (.flitReplay l) s = puts { k with replays := min (k.replays + 1) (2 ^ 32 - 1) }) ∧
    (k.width = 4 → exec (.linkRetrain l) s = puts { k with retrains := min (k.retrains + 1) (2 ^ 32 - 1), width := 2 }) ∧
    (k.width ≠ 4 → exec (.linkRetrain l) s = .next s) ∧
    (k.width = 0 → exec (.flitReplay l) s = .next s ∧ exec (.linkDown l) s = .next s) ∧
    (k.width ≠ 0 → (∀ p ∈ s.d.parts, p.usesLink l = false) → exec (.linkDown l) s = puts { k with width := 0 }) ∧
    (∀ p : Part, k.width ≠ 0 → s.d.parts = [p] → p.usesLink l = true → s.d.part p.low = some p → p.ctx.isSome = true → p.halt.phase = .running → s.wf = true →
      ∃ t : State, exec (.linkDown l) s = .next t ∧ t.d.links = setNth {} s.d.links l (fun _ => { k with width := 0 }) ∧ t.d.crews = s.d.crews ∧
        haltBegun s t p.low p fun f => f.reason = .linkDown ∧ f.engine = .link ∧ f.unit = l)) ∧
  (∀ (s : State) (tw cl dir : Nat) (p : Part), tw < 8 → cl < 12 → dir < 4 → (neighbourCluster cl dir).isSome = true → s.d.part tw = some p →
    p.ctx.isSome = true → p.halt.phase = .running → s.wf = true → ∃ t : State, exec (.neighbourLinkError tw cl dir) s = .next t ∧ t.d.crews = s.d.crews ∧
      haltBegun s t tw p fun f => f.reason = .neighbourLink ∧ f.engine = .neighbour ∧ f.tower = tw ∧ f.unit = 4 * cl + dir) ∧
  ∀ (s : State) (tw n : Nat) (v : BitVec 16) (temp : Word), tw < 8 →
    let tower := fun (z : Tower) => (Host.Outcome.next { s with d := s.d.modTower tw fun _ => z } : Out)
    (1 ≤ n → n ≤ 3000 → exec (.arrayClockChange tw n) s = tower { s.d.tower tw with arrayClock := n }) ∧
    (n = 0 ∨ 3000 < n → exec (.arrayClockChange tw n) s = .next s) ∧
    (v.extractLsb' 10 5 ≠ 31 → exec (.skipdChange tw v) s = tower { s.d.tower tw with skipd := v }) ∧
    (v.extractLsb' 10 5 = 31 → exec (.skipdChange tw v) s = .next s) ∧
    ∀ rail : Nat, rail ≤ 33 → exec (.powerSample rail n temp) s = .next { s with d := { s.d with tele := { s.d.tele with
      power := putA s.d.tele.power rail (n % 2 ^ 64)
      temperature := if rail = 0 then s.d.tele.temperature else putA s.d.tele.temperature rail temp.toNat } } }) ∧
  (∀ (s : State) (unit key : Nat), unit < 3 →
    let tw := if unit = 1 then Machine.bits 31 29 key else key / 2 ^ 36 % 8
    let code := [6, 10, 12].getD unit 0
    exec (.patrolScrub unit key 0) s = .next s ∧
    (∃ t : State, exec (.patrolScrub unit key 1) s = .next t ∧ t = { s with d := { s.d with tele := t.d.tele } } ∧
      getA t.d.tele.soft (tw * 16 + code) 0 = min (getA s.d.tele.soft (tw * 16 + code) 0 + 1) (2 ^ 32 - 1) ∧
      ∀ n : Nat, n ≠ tw * 16 + code → getA t.d.tele.soft n 0 = getA s.d.tele.soft n 0) ∧
    ∀ p : Part, s.d.part tw = some p → p.ctx.isSome = true → p.halt.phase = .running → s.wf = true → ∃ t : State, exec (.patrolScrub unit key 2) s = .next t ∧
      s.work.spot key ∈ t.d.bad ∧ key ∈ s.work.spot key ∧ (∀ g ∈ s.d.bad, g ∈ t.d.bad) ∧ haltBegun s t tw p fun f => f.reason = .uncorrectable ∧ f.engine = .patrol ∧ f.unit = unit) ∧
  ∀ s : State,
    (∀ code tw : Nat, code < 13 → tw < 8 → let t := s.strike (.soft code tw)
      t = { s with d := { s.d with tele := t.d.tele } } ∧
      getA t.d.tele.soft (tw * 16 + code) 0 = min (getA s.d.tele.soft (tw * 16 + code) 0 + 1) (2 ^ 32 - 1)) ∧
    (∀ key : Nat, let t := s.strike (.location key)
      t = { s with d := { s.d with bad := t.d.bad } } ∧ s.work.spot key ∈ t.d.bad ∧ ∀ g ∈ t.d.bad, g = s.work.spot key ∨ g ∈ s.d.bad) ∧
    ∀ (tw k i : Nat) (e : TlbEntry), (s.d.core tw k).tlb[i]? = some e → let t := s.strike (.coreTlb tw k i)
      (t.d.core tw k).tlb = (s.d.core tw k).tlb.eraseIdx i ∧ t.mem = s.mem ∧ t.d.crews = s.d.crews ∧ t.d.parts = s.d.parts

/-- Where the special-register, barrier and reduction instructions, the commands on memory, contexts and translations, and the steps of the scheduler
complete, in short: each with the least that says so. The group goes past the instruction, or waits past it where BAR does, with memory as it was;
a command is carried out or under way; a step of the scheduler leaves its grid or team where the rule puts it (R38, R43, R189, R207, R209, R284,
R285, R301, R378, R382, R383, R413, R436). What each of them computes is said in the statement on its family. -/
def Obligations.SystemFormsComplete : Prop :=
  (∀ (s : State) (cu : Cur) (c : Crew),
    let past := fun (t : State) => ∃ c' : Crew, t.d.crew cu.crew = some c' ∧ c'.place = c.place ∧ c'.status = c.status ∧ threadsAdvance cu c c' ∧
      restKept s t cu.crew
    (∀ o : OpSrd, o.num.toNat < 14 → (c.handler = false → o.num.toNat ≠ 10 ∧ o.num.toNat ≠ 11) → Ready s cu c o.g [o.d.toNat] →
      c.roomForG o.d.toNat → ∃ t : State, exec (.srd o) s = .next t ∧ past t) ∧
    (∀ (o : OpB) (swr : OpB → Instr), swr ∈ [Instr.swrFstat, .swrCtmr, .swrGangr, .swrKey0, .swrKey1] → Ready s cu c o.g [o.b.toNat] →
      ∃ t : State, exec (swr o) s = .next t ∧ past t) ∧
    (∀ (o : OpRed) (fold : OpRed → Instr), fold ∈ [Instr.red, .scan, .segred] → o.fn.toNat ≤ 7 → Ready s cu c o.g [o.a.toNat, o.d.toNat] →
      c.roomForG o.d.toNat → ∃ t : State, exec (fold o) s = .next t ∧ past t) ∧
    ∀ (tm : Team) (o : OpBar), c.handler = false → c.landed = false → Ready s cu c o.g [] → s.d.team c.team = some tm → o.n.toNat ≤ tm.crews.length →
      (s.d.ops.map (·.id)).Nodup → (∀ x ∈ s.d.crews, x.tw < 2 ^ 32 - 1) → c.bar.getLsbD o.bar.toNat = false → tm.closing = [] →
      let b := tm.barriers.getD o.bar.toNat {}
      let joined := fun (t : State) (c' : Crew) => t.d.crew cu.crew = some c' ∧ c'.bar = c.bar ||| (1#16 <<< o.bar.toNat) ∧
        (∃ tm' : Team, t.d.team c.team = some tm' ∧ (tm'.barriers.getD o.bar.toNat {}).arrived = [cu.crew]) ∧ ∀ a : Nat, t.mem.get a = s.mem.get a
      (b.arrived = [] → 2 ≤ o.n.toNat →
        (∃ (t : State) (c' : Crew) (w : Wait), exec (.bar o) s = .next t ∧ joined t c' ∧ c'.waits = c.waits ++ [w] ∧ w.mask = cu.group ∧
          w.cond = .barrier o.bar.toNat ∧ w.again = false ∧ w.next = cu.ret) ∧
        ∃ (t : State) (c' : Crew), exec (.bara o) s = .next t ∧ joined t c' ∧ threadsAdvance cu c c') ∧
      ∀ q : OpBarw, q.bar = o.bar → q.g = o.g → ∃ t : State, exec (.barw q) s = .next t ∧ past t) ∧
  (∀ (s : State) (sess q : Nat) (x : Session) (c : Cmd) (p : Part) (y : Ctx), c.ctxOf s.d = some (p, y) → s.d.part p.low = some p →
    let done := fun (t : State) => t.d.host = s.d.host.answer x q c.tag 0 [] (fun _ => false)
    (∀ (r : LaunchRec) (sig : List Byte), Posted s sess q x c 1 8 → y.resident = true →
      let addr := BitVec.ofNat 64 (c.field 63 0)
      let slots := match s.work.readAs (p.who y) .load 0 addr.toNat 256 with
        | some b => (List.range 8).map fun i => Machine.bits (799 + 32 * i) (768 + 32 * i) (leNat b)
        | none => []
      s.work.readRecord (p.who y) addr = some r → r.regBytes ≤ 512 * 1024 → (s.work.readRanges (p.who y) r.ranget).isSome = true →
      s.work.signature (p.who y) r slots = some sig → s.work.coopOk p r = true → r.graphp = 0 → r.prio < (s.d.tower p.low).queues.length →
      ((s.d.tower p.low).queues.getD r.prio []).length < 64 → ∃ (t : State) (g : Grid), exec (.launch sess q) s = .next t ∧ done t ∧
        t.d.grids = s.d.grids ++ [g] ∧ g.launch = r ∧ g.phase = .queued) ∧
    (c.field 127 99 = 0 → 1 ≤ c.field 95 64 → c.field 95 64 ≤ 8192 → c.field 98 96 ∈ [0, 1, 3] → ∀ refs : List BRef,
      (Posted s sess q x c 2 16 → s.work.named c .load (c.field 98 96) (c.field 63 0) (c.field 95 64) = .ok refs →
        exec (.read sess q) s = .next (s.answered (s.work.logAccess 8 c.part 0 refs).d x c 0 (refs.map fun r => s.mem.get r.key))) ∧
      (Posted s sess q x c 3 (16 + c.field 95 64) → s.work.named c .store (c.field 98 96) (c.field 63 0) (c.field 95 64) = .ok refs → s.wf = true →
        (refs.map (·.key)).Nodup → refs.length = c.field 95 64 → ∃ t : State, exec (.write sess q) s = .next t ∧ done t ∧
          ∀ i < c.field 95 64, t.mem.get ((refs.map (·.key)).getD i 0) = (c.ops.drop 16).getD i 0)) ∧
    (Posted s sess q x c 4 16 → (∀ t ∈ p.towers, ∀ cl < 12, (s.d.cluster t cl).cmb = []) → ∃ t : State, exec (.transportFlush sess q) s = .next t ∧
      t.d.host = s.d.host.modQueue sess q (fun z => { z with busy := true, drains := [] }) ∧ t.mem = s.mem) ∧
    (Posted s sess q x c 5 16 → ∃ t : State, exec (.transportInvalidate sess q) s = .next t ∧ done t ∧ t.mem = s.mem) ∧
    (Posted s sess q x c 6 16 → c.field 127 101 = 0 → c.field 15 0 = 0 → c.field 63 52 = 0 → ∃ t : State, exec (.shootdown sess q) s = .next t ∧
      t.d.shootdowns.length = s.d.shootdowns.length + 1 ∧ t.mem = s.mem) ∧
    (c.field 63 32 = 0 → c.field 127 64 = 0 →
      (Posted s sess q x c (8 + 2 * 65536) 16 → ∃ t : State, exec (.contextDestroy sess q) s = .next t ∧ done t ∧
        t.d.ctxs = s.d.ctxs.filter fun z => z.ctxid != y.ctxid) ∧
      (Posted s sess q x c (8 + 3 * 65536) 16 → p.ctx = some y.ctxid → y.resident = true → y.switch = .idle → p.debugHalted = [] →
        ∃ t : State, exec (.switchOut sess q) s = .next t ∧ (t.d.ctx y.ctxid).map (·.switch) = some .stopping ∧ t.mem = s.mem) ∧
      (∀ v : Saved, Posted s sess q x c (8 + 4 * 65536) 16 → p.ctx = none → y.resident = false → y.saved = some v → p.halt.deferred = [] →
        p.halt.phase = .running → s.wf = true → ∃ (t : State) (z : Part), exec (.contextRestore sess q) s = .next t ∧ t.d.part p.low = some z ∧
          z.ctx = some y.ctxid))) ∧
  (∀ (s : State) (sess q base count : Nat) (x : Session) (c : Cmd) (p : Part), Posted s sess q x c (8 + 1 * 65536) 16 → c.partOf s.d = some p →
    s.d.part p.low = some p → c.field 63 33 = 0 → c.field 127 64 % 4096 = 0 → c.field 127 64 < 2 ^ 40 → base % 32 = 0 → 1 ≤ count → count ≤ 4096 →
    p.ctx = none → p.handler.isSome = true → s.d.ctx c.ctxid = none → p.halt.deferred = [] → s.wf = true → ∃ (t : State) (z : Part),
      exec (.contextCreate sess q base count) s = .next t ∧ t.d.part p.low = some z ∧ z.ctx = some c.ctxid) ∧
  (∀ (s : State) (low sess q tag : Nat) (p : Part) (y : Ctx) (x : Session), s.d.parts.find? (fun p => p.low == low) = some p → s.d.part low = some p →
    s.d.host.sessions.find? (fun x => x.id == sess) = some x → (s.d.host.sessions.map (·.id)).Nodup →
    (∀ z : Shootdown, s.d.shootdowns.find? (fun z => z.part == low) = some z → s.d.shootdowns.Nodup → s.d.ctx z.ctx = some y → z.cmd = (sess, q, tag) →
      z.step = 5 → ∃ t : State, exec (.shootdownStep low) s = .next t ∧ t.d.shootdowns = s.d.shootdowns.erase z ∧
        t.d.host = s.d.host.answer x q tag 0 [] (fun _ => false)) ∧
    (p.ctx = some y.ctxid → s.d.ctx y.ctxid = some y → p.halt.phase = .running → y.switchCmd = some (sess, q, tag) → y.switch = .stopping →
      (∀ e ∈ s.d.crews, e.handler = false ∧ e.place.tower ∈ p.towers → e.status ≠ .running ∧ s.d.departs e.id = false) → ∃ t : State, exec (.contextSwitchStep low) s = .next t ∧
        (t.d.ctx y.ctxid).map (·.switch) = some .draining)) ∧
  (∀ (s : State) (low : Nat) (p : Part) (x : Ctx) (g : Grid), s.d.schedules low = some (p, x) → p.dealing = none → s.d.nextGrid p = some g →
    s.d.ctx x.ctxid = some x → s.d.part low = some p →
    (g.launch.ranget = x.ranget → g.launch.cmrv ≠ x.cmr → s.d.anyDealt x.ctxid = false → ∃ t : State, exec (.cmrChange low) s = .next t ∧
      (t.d.ctx x.ctxid).map (·.cmr) = some g.launch.cmrv) ∧
    (∀ ids : List Nat, g.launch.ranget = 0 → x.ranget ≠ 0 → s.d.anyDealt x.ctxid = false → p.drain = some ids → s.d.drained ids = true →
      ∃ t : State, exec (.rangeTableLoad low) s = .next t ∧ (t.d.ctx x.ctxid).map (fun z => (z.ranget, z.ranges)) = some (0, [])) ∧
    (∀ tw k : Nat, g.launch.coop = false → g.launch.ranget = x.ranget → g.launch.cmrv = x.cmr → g.graph = none → g.launch.det = true →
      s.work.logical p ≠ [] → (s.work.logical p)[g.dealtTeams % (s.work.logical p).length]? = some (tw, k) →
      ∃ (t : State) (tm : Team), exec (.dealTeam low) s = .next t ∧ t.d.teams = s.d.teams ++ [tm] ∧ tm.grid = g.id ∧ tm.tower = tw ∧ tm.core = k)) ∧
  ∀ (s : State) (tw k : Nat) (p : Part) (x : Ctx) (tm : Team) (g : Grid), s.d.schedulesAt tw = some (p, x) →
    s.d.team tm.id = some tm → s.d.grid tm.grid = some g → g.launch.dictn = 0 →
    let pending := (s.d.core tw k).pending
    (∀ rest : List Nat, pending = tm.id :: rest → s.d.fits tw k g = true → g.inOrder tm = true → tm.phase = .pending →
      ∃ t : State, exec (.dispatchEvaluate tw k none) s = .next t ∧ (t.d.team tm.id).map (·.phase) = some .resident) ∧
    (∀ rest : List Nat, pending = tm.id :: rest → s.d.fits tw k g = true → tm.phase = .evicted → s.d.givesWay tm = false → tm.ops = [] →
      s.d.takesRequests tw k [] = true → s.wf = true → tm.image.length ≤ g.launch.crews → (∀ c ∈ tm.image, c.landed = false) → ∃ (t : State) (y : Team), exec (.restoreTeam tw k) s = .next t ∧ t.d.team tm.id = some y ∧ y.phase = .resident) ∧
    ∀ child : Grid, tm.tower = tw → tm.core = k → tm.phase = .resident → g.launch.coop = false → child ∈ s.d.grids → s.work.childStuck p tm child = true →
      s.d.evictable tm = true → (∀ o ∈ s.d.ops, o.crew ∈ tm.crews → o.done = false ∧ o.reissues = false) → (∃ ids : List Nat, tm.drain = some ids ∧ s.d.drained ids = true) →
      ∃ (t : State) (y : Team), exec (.evictTeam tm.id) s = .next t ∧ t.d.team tm.id = some y ∧ y.phase = .evicted
end

