-- ==== Sys2Proof/Laws/Memory.lean ====
section
/-! SUPPORT. Memory laws: a read after a write, and the canonical form that every memory operation keeps. -/

namespace Sys2Proof.Machine

/-! ## The canonical form -/

theorem Memory.rising_cons (c : Host.Cell) (m : Memory) :
    Memory.rising (c :: m) = true ↔ (∀ x ∈ m, c.1 < x.1) ∧ Memory.rising m = true := by
  induction m generalizing c with
  | nil => simp [Memory.rising]
  | cons b r ih =>
    rw [Memory.rising, Bool.and_eq_true, decide_eq_true_iff]
    constructor
    · rintro ⟨h, hr⟩
      refine ⟨?_, hr⟩
      intro x hx
      rcases List.mem_cons.1 hx with rfl | hx
      · exact h
      · exact Nat.lt_trans h (((ih b).1 hr).1 x hx)
    · rintro ⟨h, hr⟩
      exact ⟨h b (by simp), hr⟩

theorem Memory.wf_iff (m : Memory) : m.wf = true ↔ Memory.rising m = true ∧ ∀ c ∈ m, c.2 ≠ 0 := by
  simp [Memory.wf]

theorem Memory.wf_cons (c : Host.Cell) (m : Memory) :
    Memory.wf (c :: m) = true ↔ (∀ x ∈ m, c.1 < x.1) ∧ c.2 ≠ 0 ∧ Memory.wf m = true := by
  rw [Memory.wf_iff, Memory.wf_iff, Memory.rising_cons]
  constructor
  · rintro ⟨⟨h, hr⟩, hz⟩
    exact ⟨h, hz c (by simp), hr, fun x hx => hz x (by simp [hx])⟩
  · rintro ⟨h, hz, hr, hl⟩
    refine ⟨⟨h, hr⟩, fun x hx => ?_⟩
    rcases List.mem_cons.1 hx with rfl | hx
    · exact hz
    · exact hl x hx

@[simp] theorem Memory.wf_nil : Memory.wf [] = true := rfl

/-- The addresses a write leaves listed are those listed before and its own. -/
theorem Memory.mem_put {m : Memory} {k : Nat} {b : Byte} {x : Host.Cell} (h : x ∈ m.put k b) : x.1 = k ∨ x ∈ m := by
  induction m with
  | nil =>
    unfold Memory.put at h
    split at h <;> simp_all
  | cons c r ih =>
    unfold Memory.put at h
    split at h
    · split at h
      · exact .inr h
      · rcases List.mem_cons.1 h with rfl | h
        · exact .inl rfl
        · exact .inr h
    · split at h
      · split at h
        · exact .inr (by simp [h])
        · rcases List.mem_cons.1 h with rfl | h
          · exact .inl rfl
          · exact .inr (by simp [h])
      · rcases List.mem_cons.1 h with rfl | h
        · exact .inr (by simp)
        · rcases ih h with h | h
          · exact .inl h
          · exact .inr (by simp [h])

/-- A write keeps the canonical form. -/
theorem Memory.put_wf {m : Memory} (h : m.wf = true) (k : Nat) (b : Byte) : (m.put k b).wf = true := by
  induction m with
  | nil =>
    unfold Memory.put
    split
    · rfl
    · rename_i hb
      simpa [Memory.wf_cons] using hb
  | cons c r ih =>
    obtain ⟨hlt, hz, hr⟩ := (Memory.wf_cons c r).1 h
    unfold Memory.put
    split
    · rename_i hk
      split
      · exact h
      · rename_i hb
        refine (Memory.wf_cons _ _).2 ⟨fun x hx => ?_, by simpa using hb, h⟩
        rcases List.mem_cons.1 hx with rfl | hx
        · exact hk
        · exact Nat.lt_trans hk (hlt x hx)
    · rename_i hk
      split
      · rename_i he
        have he : k = c.1 := by simpa using he
        split
        · exact hr
        · rename_i hb
          exact (Memory.wf_cons _ _).2 ⟨fun x hx => he ▸ hlt x hx, by simpa using hb, hr⟩
      · rename_i he
        have he : ¬ k = c.1 := by simpa using he
        refine (Memory.wf_cons _ _).2 ⟨fun x hx => ?_, hz, ih hr⟩
        rcases Memory.mem_put hx with h | h
        · omega
        · exact hlt x h

/-- A list of writes keeps the canonical form. -/
theorem Memory.commit_wf {m : Memory} (h : m.wf = true) (l : List Host.Cell) : (m.commit l).wf = true := by
  induction l with
  | nil => exact h
  | cons c r ih => exact Memory.put_wf ih c.1 c.2

/-- Bytes written in a row keep the canonical form. -/
theorem Memory.putAll_wf {m : Memory} (h : m.wf = true) (k : Nat) (l : List Byte) : (m.putAll k l).wf = true := by
  induction l generalizing m k with
  | nil => exact h
  | cons b r ih => exact ih (Memory.put_wf h k b) (k + 1)

/-! ## Reads after writes -/

/-- An address below every listed one reads as unlisted. -/
theorem Memory.get_below {m : Memory} {k : Nat} (h : ∀ x ∈ m, k < x.1) : m.get k = 0 := by
  induction m with
  | nil => rfl
  | cons c r ih =>
    have : (c.1 == k) = false := by simpa using Nat.ne_of_gt (h c (by simp))
    simp only [Memory.get, this]
    exact ih fun x hx => h x (by simp [hx])

/-- A read of the written address gives the byte written. -/
theorem Memory.get_put_same {m : Memory} (h : m.wf = true) (k : Nat) (b : Byte) : (m.put k b).get k = b := by
  induction m with
  | nil =>
    unfold Memory.put
    split
    · rename_i hb
      exact (by simpa using hb : b = 0) ▸ rfl
    · simp [Memory.get]
  | cons c r ih =>
    obtain ⟨hlt, _, hr⟩ := (Memory.wf_cons c r).1 h
    unfold Memory.put
    split
    · rename_i hk
      split
      · rename_i hb
        rw [(by simpa using hb : b = 0)]
        refine Memory.get_below fun x hx => ?_
        rcases List.mem_cons.1 hx with rfl | hx
        · exact hk
        · exact Nat.lt_trans hk (hlt x hx)
      · simp [Memory.get]
    · split
      · rename_i he
        have he : k = c.1 := by simpa using he
        split
        · rename_i hb
          rw [(by simpa using hb : b = 0)]
          exact Memory.get_below fun x hx => he ▸ hlt x hx
        · simp [Memory.get]
      · rename_i he
        have : (c.1 == k) = false := by
          have : ¬ k = c.1 := by simpa using he
          simpa using fun h => this h.symm
        simp only [Memory.get, this]
        exact ih hr

/-- A read of any other address is not changed by a write. -/
theorem Memory.get_put_other {m : Memory} (h : m.wf = true) {k j : Nat} (hj : j ≠ k) (b : Byte) : (m.put k b).get j = m.get j := by
  induction m with
  | nil =>
    unfold Memory.put
    split
    · rfl
    · have : (k == j) = false := by simpa using fun h => hj h.symm
      simp [Memory.get, this]
  | cons c r ih =>
    obtain ⟨hlt, _, hr⟩ := (Memory.wf_cons c r).1 h
    have hkj : (k == j) = false := by simpa using fun h => hj h.symm
    unfold Memory.put
    split
    · split
      · rfl
      · simp [Memory.get, hkj]
    · split
      · rename_i he
        have he : k = c.1 := by simpa using he
        have hc : (c.1 == j) = false := he ▸ hkj
        split
        · simp only [Memory.get, hc]; rfl
        · simp [Memory.get, hkj, hc]
      · simp only [Memory.get]
        rw [ih hr]

/-- What memory reads after a list of writes: the newest write of the address, else what it read before. -/
theorem Memory.get_commit {m : Memory} (h : m.wf = true) (l : List Host.Cell) (k : Nat) :
    (m.commit l).get k = match l.find? (fun c => c.1 == k) with
      | some c => c.2
      | none => m.get k := by
  induction l with
  | nil => rfl
  | cons c r ih =>
    by_cases hk : c.1 = k
    · subst hk
      simp [Memory.commit, Memory.get_put_same (Memory.commit_wf h r)]
    · have : (c.1 == k) = false := by simpa using hk
      simp only [Memory.commit, List.find?_cons, this]
      rw [Memory.get_put_other (Memory.commit_wf h r) (fun h => hk h.symm), ih]

/-- What a step's work reads is what memory reads once its writes are committed. -/
theorem Work.get_eq_commit {w : Work} (h : w.mem.wf = true) (k : Nat) : w.get k = (w.mem.commit w.wr).get k := by
  rw [Memory.get_commit h]; rfl

/-! ## States -/

theorem State.reset_mem_wf : State.reset.mem.wf = true := rfl

/-- A device step keeps memory in canonical form. -/
theorem State.after_mem_wf {s : State} (h : s.mem.wf = true) (w : Work) : (s.after w).mem.wf = true := Memory.commit_wf h w.wr

/-- The end of an issue keeps memory in canonical form. -/
theorem State.done_mem_wf {s : State} (h : s.mem.wf = true) (w : Work) : (s.done w).mem.wf = true := Memory.commit_wf h w.wr

/-- A placed instruction keeps memory in canonical form. -/
theorem State.placed_mem_wf {s : State} (h : s.mem.wf = true) (v : Nat) : (s.placed v).mem.wf = true := Memory.putAll_wf h _ _

end Sys2Proof.Machine
end

