-- ==== Sys2Proof/Laws/State.lean ====
section
/-! SUPPORT. State laws: what each update of the device, of a crew and of a work leaves in each field, so that no proof unfolds a
record update. -/

namespace Sys2Proof.Machine

/-! ## Dev.modCore -/

@[simp] theorem Dev.modCore_nextId (d : Dev) (t k : Nat) (f : Core → Core) : (d.modCore t k f).nextId = d.nextId := rfl
@[simp] theorem Dev.modCore_free (d : Dev) (t k : Nat) (f : Core → Core) : (d.modCore t k f).free = d.free := rfl
@[simp] theorem Dev.modCore_cur (d : Dev) (t k : Nat) (f : Core → Core) : (d.modCore t k f).cur = d.cur := rfl
@[simp] theorem Dev.modCore_agenda (d : Dev) (t k : Nat) (f : Core → Core) : (d.modCore t k f).agenda = d.agenda := rfl
@[simp] theorem Dev.modCore_crews (d : Dev) (t k : Nat) (f : Core → Core) : (d.modCore t k f).crews = d.crews := rfl
@[simp] theorem Dev.modCore_teams (d : Dev) (t k : Nat) (f : Core → Core) : (d.modCore t k f).teams = d.teams := rfl
@[simp] theorem Dev.modCore_grids (d : Dev) (t k : Nat) (f : Core → Core) : (d.modCore t k f).grids = d.grids := rfl
@[simp] theorem Dev.modCore_ctxs (d : Dev) (t k : Nat) (f : Core → Core) : (d.modCore t k f).ctxs = d.ctxs := rfl
@[simp] theorem Dev.modCore_parts (d : Dev) (t k : Nat) (f : Core → Core) : (d.modCore t k f).parts = d.parts := rfl
@[simp] theorem Dev.modCore_ops (d : Dev) (t k : Nat) (f : Core → Core) : (d.modCore t k f).ops = d.ops := rfl
@[simp] theorem Dev.modCore_fences (d : Dev) (t k : Nat) (f : Core → Core) : (d.modCore t k f).fences = d.fences := rfl
@[simp] theorem Dev.modCore_clusters (d : Dev) (t k : Nat) (f : Core → Core) : (d.modCore t k f).clusters = d.clusters := rfl
@[simp] theorem Dev.modCore_towers (d : Dev) (t k : Nat) (f : Core → Core) : (d.modCore t k f).towers = d.towers := rfl
@[simp] theorem Dev.modCore_homes (d : Dev) (t k : Nat) (f : Core → Core) : (d.modCore t k f).homes = d.homes := rfl
@[simp] theorem Dev.modCore_homeWrites (d : Dev) (t k : Nat) (f : Core → Core) : (d.modCore t k f).homeWrites = d.homeWrites := rfl
@[simp] theorem Dev.modCore_races (d : Dev) (t k : Nat) (f : Core → Core) : (d.modCore t k f).races = d.races := rfl
@[simp] theorem Dev.modCore_gangs (d : Dev) (t k : Nat) (f : Core → Core) : (d.modCore t k f).gangs = d.gangs := rfl
@[simp] theorem Dev.modCore_pairs (d : Dev) (t k : Nat) (f : Core → Core) : (d.modCore t k f).pairs = d.pairs := rfl
@[simp] theorem Dev.modCore_deliveries (d : Dev) (t k : Nat) (f : Core → Core) : (d.modCore t k f).deliveries = d.deliveries := rfl
@[simp] theorem Dev.modCore_horizons (d : Dev) (t k : Nat) (f : Core → Core) : (d.modCore t k f).horizons = d.horizons := rfl
@[simp] theorem Dev.modCore_shootdowns (d : Dev) (t k : Nat) (f : Core → Core) : (d.modCore t k f).shootdowns = d.shootdowns := rfl
@[simp] theorem Dev.modCore_checkpoints (d : Dev) (t k : Nat) (f : Core → Core) : (d.modCore t k f).checkpoints = d.checkpoints := rfl
@[simp] theorem Dev.modCore_zeroings (d : Dev) (t k : Nat) (f : Core → Core) : (d.modCore t k f).zeroings = d.zeroings := rfl
@[simp] theorem Dev.modCore_links (d : Dev) (t k : Nat) (f : Core → Core) : (d.modCore t k f).links = d.links := rfl
@[simp] theorem Dev.modCore_bad (d : Dev) (t k : Nat) (f : Core → Core) : (d.modCore t k f).bad = d.bad := rfl
@[simp] theorem Dev.modCore_tele (d : Dev) (t k : Nat) (f : Core → Core) : (d.modCore t k f).tele = d.tele := rfl
@[simp] theorem Dev.modCore_host (d : Dev) (t k : Nat) (f : Core → Core) : (d.modCore t k f).host = d.host := rfl
@[simp] theorem Dev.modCore_nv (d : Dev) (t k : Nat) (f : Core → Core) : (d.modCore t k f).nv = d.nv := rfl
@[simp] theorem Dev.modCore_boot (d : Dev) (t k : Nat) (f : Core → Core) : (d.modCore t k f).boot = d.boot := rfl
@[simp] theorem Dev.modCore_vaultOwner (d : Dev) (t k : Nat) (f : Core → Core) : (d.modCore t k f).vaultOwner = d.vaultOwner := rfl
@[simp] theorem Dev.modCore_turn (d : Dev) (t k : Nat) (f : Core → Core) : (d.modCore t k f).turn = d.turn := rfl
@[simp] theorem Dev.modCore_copies (d : Dev) (t k : Nat) (f : Core → Core) : (d.modCore t k f).copies = d.copies := rfl

/-! ## Dev.modCluster -/

@[simp] theorem Dev.modCluster_nextId (d : Dev) (t k : Nat) (f : Cluster → Cluster) : (d.modCluster t k f).nextId = d.nextId := rfl
@[simp] theorem Dev.modCluster_free (d : Dev) (t k : Nat) (f : Cluster → Cluster) : (d.modCluster t k f).free = d.free := rfl
@[simp] theorem Dev.modCluster_cur (d : Dev) (t k : Nat) (f : Cluster → Cluster) : (d.modCluster t k f).cur = d.cur := rfl
@[simp] theorem Dev.modCluster_agenda (d : Dev) (t k : Nat) (f : Cluster → Cluster) : (d.modCluster t k f).agenda = d.agenda := rfl
@[simp] theorem Dev.modCluster_crews (d : Dev) (t k : Nat) (f : Cluster → Cluster) : (d.modCluster t k f).crews = d.crews := rfl
@[simp] theorem Dev.modCluster_teams (d : Dev) (t k : Nat) (f : Cluster → Cluster) : (d.modCluster t k f).teams = d.teams := rfl
@[simp] theorem Dev.modCluster_grids (d : Dev) (t k : Nat) (f : Cluster → Cluster) : (d.modCluster t k f).grids = d.grids := rfl
@[simp] theorem Dev.modCluster_ctxs (d : Dev) (t k : Nat) (f : Cluster → Cluster) : (d.modCluster t k f).ctxs = d.ctxs := rfl
@[simp] theorem Dev.modCluster_parts (d : Dev) (t k : Nat) (f : Cluster → Cluster) : (d.modCluster t k f).parts = d.parts := rfl
@[simp] theorem Dev.modCluster_ops (d : Dev) (t k : Nat) (f : Cluster → Cluster) : (d.modCluster t k f).ops = d.ops := rfl
@[simp] theorem Dev.modCluster_fences (d : Dev) (t k : Nat) (f : Cluster → Cluster) : (d.modCluster t k f).fences = d.fences := rfl
@[simp] theorem Dev.modCluster_cores (d : Dev) (t k : Nat) (f : Cluster → Cluster) : (d.modCluster t k f).cores = d.cores := rfl
@[simp] theorem Dev.modCluster_towers (d : Dev) (t k : Nat) (f : Cluster → Cluster) : (d.modCluster t k f).towers = d.towers := rfl
@[simp] theorem Dev.modCluster_homes (d : Dev) (t k : Nat) (f : Cluster → Cluster) : (d.modCluster t k f).homes = d.homes := rfl
@[simp] theorem Dev.modCluster_homeWrites (d : Dev) (t k : Nat) (f : Cluster → Cluster) : (d.modCluster t k f).homeWrites = d.homeWrites := rfl
@[simp] theorem Dev.modCluster_races (d : Dev) (t k : Nat) (f : Cluster → Cluster) : (d.modCluster t k f).races = d.races := rfl
@[simp] theorem Dev.modCluster_gangs (d : Dev) (t k : Nat) (f : Cluster → Cluster) : (d.modCluster t k f).gangs = d.gangs := rfl
@[simp] theorem Dev.modCluster_pairs (d : Dev) (t k : Nat) (f : Cluster → Cluster) : (d.modCluster t k f).pairs = d.pairs := rfl
@[simp] theorem Dev.modCluster_deliveries (d : Dev) (t k : Nat) (f : Cluster → Cluster) : (d.modCluster t k f).deliveries = d.deliveries := rfl
@[simp] theorem Dev.modCluster_horizons (d : Dev) (t k : Nat) (f : Cluster → Cluster) : (d.modCluster t k f).horizons = d.horizons := rfl
@[simp] theorem Dev.modCluster_shootdowns (d : Dev) (t k : Nat) (f : Cluster → Cluster) : (d.modCluster t k f).shootdowns = d.shootdowns := rfl
@[simp] theorem Dev.modCluster_checkpoints (d : Dev) (t k : Nat) (f : Cluster → Cluster) : (d.modCluster t k f).checkpoints = d.checkpoints := rfl
@[simp] theorem Dev.modCluster_zeroings (d : Dev) (t k : Nat) (f : Cluster → Cluster) : (d.modCluster t k f).zeroings = d.zeroings := rfl
@[simp] theorem Dev.modCluster_links (d : Dev) (t k : Nat) (f : Cluster → Cluster) : (d.modCluster t k f).links = d.links := rfl
@[simp] theorem Dev.modCluster_bad (d : Dev) (t k : Nat) (f : Cluster → Cluster) : (d.modCluster t k f).bad = d.bad := rfl
@[simp] theorem Dev.modCluster_tele (d : Dev) (t k : Nat) (f : Cluster → Cluster) : (d.modCluster t k f).tele = d.tele := rfl
@[simp] theorem Dev.modCluster_host (d : Dev) (t k : Nat) (f : Cluster → Cluster) : (d.modCluster t k f).host = d.host := rfl
@[simp] theorem Dev.modCluster_nv (d : Dev) (t k : Nat) (f : Cluster → Cluster) : (d.modCluster t k f).nv = d.nv := rfl
@[simp] theorem Dev.modCluster_boot (d : Dev) (t k : Nat) (f : Cluster → Cluster) : (d.modCluster t k f).boot = d.boot := rfl
@[simp] theorem Dev.modCluster_vaultOwner (d : Dev) (t k : Nat) (f : Cluster → Cluster) : (d.modCluster t k f).vaultOwner = d.vaultOwner := rfl
@[simp] theorem Dev.modCluster_turn (d : Dev) (t k : Nat) (f : Cluster → Cluster) : (d.modCluster t k f).turn = d.turn := rfl
@[simp] theorem Dev.modCluster_copies (d : Dev) (t k : Nat) (f : Cluster → Cluster) : (d.modCluster t k f).copies = d.copies := rfl

/-! ## Dev.modTower -/

@[simp] theorem Dev.modTower_nextId (d : Dev) (t : Nat) (f : Tower → Tower) : (d.modTower t f).nextId = d.nextId := rfl
@[simp] theorem Dev.modTower_free (d : Dev) (t : Nat) (f : Tower → Tower) : (d.modTower t f).free = d.free := rfl
@[simp] theorem Dev.modTower_cur (d : Dev) (t : Nat) (f : Tower → Tower) : (d.modTower t f).cur = d.cur := rfl
@[simp] theorem Dev.modTower_agenda (d : Dev) (t : Nat) (f : Tower → Tower) : (d.modTower t f).agenda = d.agenda := rfl
@[simp] theorem Dev.modTower_crews (d : Dev) (t : Nat) (f : Tower → Tower) : (d.modTower t f).crews = d.crews := rfl
@[simp] theorem Dev.modTower_teams (d : Dev) (t : Nat) (f : Tower → Tower) : (d.modTower t f).teams = d.teams := rfl
@[simp] theorem Dev.modTower_grids (d : Dev) (t : Nat) (f : Tower → Tower) : (d.modTower t f).grids = d.grids := rfl
@[simp] theorem Dev.modTower_ctxs (d : Dev) (t : Nat) (f : Tower → Tower) : (d.modTower t f).ctxs = d.ctxs := rfl
@[simp] theorem Dev.modTower_parts (d : Dev) (t : Nat) (f : Tower → Tower) : (d.modTower t f).parts = d.parts := rfl
@[simp] theorem Dev.modTower_ops (d : Dev) (t : Nat) (f : Tower → Tower) : (d.modTower t f).ops = d.ops := rfl
@[simp] theorem Dev.modTower_fences (d : Dev) (t : Nat) (f : Tower → Tower) : (d.modTower t f).fences = d.fences := rfl
@[simp] theorem Dev.modTower_cores (d : Dev) (t : Nat) (f : Tower → Tower) : (d.modTower t f).cores = d.cores := rfl
@[simp] theorem Dev.modTower_clusters (d : Dev) (t : Nat) (f : Tower → Tower) : (d.modTower t f).clusters = d.clusters := rfl
@[simp] theorem Dev.modTower_homes (d : Dev) (t : Nat) (f : Tower → Tower) : (d.modTower t f).homes = d.homes := rfl
@[simp] theorem Dev.modTower_homeWrites (d : Dev) (t : Nat) (f : Tower → Tower) : (d.modTower t f).homeWrites = d.homeWrites := rfl
@[simp] theorem Dev.modTower_races (d : Dev) (t : Nat) (f : Tower → Tower) : (d.modTower t f).races = d.races := rfl
@[simp] theorem Dev.modTower_gangs (d : Dev) (t : Nat) (f : Tower → Tower) : (d.modTower t f).gangs = d.gangs := rfl
@[simp] theorem Dev.modTower_pairs (d : Dev) (t : Nat) (f : Tower → Tower) : (d.modTower t f).pairs = d.pairs := rfl
@[simp] theorem Dev.modTower_deliveries (d : Dev) (t : Nat) (f : Tower → Tower) : (d.modTower t f).deliveries = d.deliveries := rfl
@[simp] theorem Dev.modTower_horizons (d : Dev) (t : Nat) (f : Tower → Tower) : (d.modTower t f).horizons = d.horizons := rfl
@[simp] theorem Dev.modTower_shootdowns (d : Dev) (t : Nat) (f : Tower → Tower) : (d.modTower t f).shootdowns = d.shootdowns := rfl
@[simp] theorem Dev.modTower_checkpoints (d : Dev) (t : Nat) (f : Tower → Tower) : (d.modTower t f).checkpoints = d.checkpoints := rfl
@[simp] theorem Dev.modTower_zeroings (d : Dev) (t : Nat) (f : Tower → Tower) : (d.modTower t f).zeroings = d.zeroings := rfl
@[simp] theorem Dev.modTower_links (d : Dev) (t : Nat) (f : Tower → Tower) : (d.modTower t f).links = d.links := rfl
@[simp] theorem Dev.modTower_bad (d : Dev) (t : Nat) (f : Tower → Tower) : (d.modTower t f).bad = d.bad := rfl
@[simp] theorem Dev.modTower_tele (d : Dev) (t : Nat) (f : Tower → Tower) : (d.modTower t f).tele = d.tele := rfl
@[simp] theorem Dev.modTower_host (d : Dev) (t : Nat) (f : Tower → Tower) : (d.modTower t f).host = d.host := rfl
@[simp] theorem Dev.modTower_nv (d : Dev) (t : Nat) (f : Tower → Tower) : (d.modTower t f).nv = d.nv := rfl
@[simp] theorem Dev.modTower_boot (d : Dev) (t : Nat) (f : Tower → Tower) : (d.modTower t f).boot = d.boot := rfl
@[simp] theorem Dev.modTower_vaultOwner (d : Dev) (t : Nat) (f : Tower → Tower) : (d.modTower t f).vaultOwner = d.vaultOwner := rfl
@[simp] theorem Dev.modTower_turn (d : Dev) (t : Nat) (f : Tower → Tower) : (d.modTower t f).turn = d.turn := rfl
@[simp] theorem Dev.modTower_copies (d : Dev) (t : Nat) (f : Tower → Tower) : (d.modTower t f).copies = d.copies := rfl

/-! ## Dev.modPart -/

@[simp] theorem Dev.modPart_nextId (d : Dev) (t : Nat) (f : Part → Part) : (d.modPart t f).nextId = d.nextId := rfl
@[simp] theorem Dev.modPart_free (d : Dev) (t : Nat) (f : Part → Part) : (d.modPart t f).free = d.free := rfl
@[simp] theorem Dev.modPart_cur (d : Dev) (t : Nat) (f : Part → Part) : (d.modPart t f).cur = d.cur := rfl
@[simp] theorem Dev.modPart_agenda (d : Dev) (t : Nat) (f : Part → Part) : (d.modPart t f).agenda = d.agenda := rfl
@[simp] theorem Dev.modPart_crews (d : Dev) (t : Nat) (f : Part → Part) : (d.modPart t f).crews = d.crews := rfl
@[simp] theorem Dev.modPart_teams (d : Dev) (t : Nat) (f : Part → Part) : (d.modPart t f).teams = d.teams := rfl
@[simp] theorem Dev.modPart_grids (d : Dev) (t : Nat) (f : Part → Part) : (d.modPart t f).grids = d.grids := rfl
@[simp] theorem Dev.modPart_ctxs (d : Dev) (t : Nat) (f : Part → Part) : (d.modPart t f).ctxs = d.ctxs := rfl
@[simp] theorem Dev.modPart_ops (d : Dev) (t : Nat) (f : Part → Part) : (d.modPart t f).ops = d.ops := rfl
@[simp] theorem Dev.modPart_fences (d : Dev) (t : Nat) (f : Part → Part) : (d.modPart t f).fences = d.fences := rfl
@[simp] theorem Dev.modPart_cores (d : Dev) (t : Nat) (f : Part → Part) : (d.modPart t f).cores = d.cores := rfl
@[simp] theorem Dev.modPart_clusters (d : Dev) (t : Nat) (f : Part → Part) : (d.modPart t f).clusters = d.clusters := rfl
@[simp] theorem Dev.modPart_towers (d : Dev) (t : Nat) (f : Part → Part) : (d.modPart t f).towers = d.towers := rfl
@[simp] theorem Dev.modPart_homes (d : Dev) (t : Nat) (f : Part → Part) : (d.modPart t f).homes = d.homes := rfl
@[simp] theorem Dev.modPart_homeWrites (d : Dev) (t : Nat) (f : Part → Part) : (d.modPart t f).homeWrites = d.homeWrites := rfl
@[simp] theorem Dev.modPart_races (d : Dev) (t : Nat) (f : Part → Part) : (d.modPart t f).races = d.races := rfl
@[simp] theorem Dev.modPart_gangs (d : Dev) (t : Nat) (f : Part → Part) : (d.modPart t f).gangs = d.gangs := rfl
@[simp] theorem Dev.modPart_pairs (d : Dev) (t : Nat) (f : Part → Part) : (d.modPart t f).pairs = d.pairs := rfl
@[simp] theorem Dev.modPart_deliveries (d : Dev) (t : Nat) (f : Part → Part) : (d.modPart t f).deliveries = d.deliveries := rfl
@[simp] theorem Dev.modPart_horizons (d : Dev) (t : Nat) (f : Part → Part) : (d.modPart t f).horizons = d.horizons := rfl
@[simp] theorem Dev.modPart_shootdowns (d : Dev) (t : Nat) (f : Part → Part) : (d.modPart t f).shootdowns = d.shootdowns := rfl
@[simp] theorem Dev.modPart_checkpoints (d : Dev) (t : Nat) (f : Part → Part) : (d.modPart t f).checkpoints = d.checkpoints := rfl
@[simp] theorem Dev.modPart_zeroings (d : Dev) (t : Nat) (f : Part → Part) : (d.modPart t f).zeroings = d.zeroings := rfl
@[simp] theorem Dev.modPart_links (d : Dev) (t : Nat) (f : Part → Part) : (d.modPart t f).links = d.links := rfl
@[simp] theorem Dev.modPart_bad (d : Dev) (t : Nat) (f : Part → Part) : (d.modPart t f).bad = d.bad := rfl
@[simp] theorem Dev.modPart_tele (d : Dev) (t : Nat) (f : Part → Part) : (d.modPart t f).tele = d.tele := rfl
@[simp] theorem Dev.modPart_host (d : Dev) (t : Nat) (f : Part → Part) : (d.modPart t f).host = d.host := rfl
@[simp] theorem Dev.modPart_nv (d : Dev) (t : Nat) (f : Part → Part) : (d.modPart t f).nv = d.nv := rfl
@[simp] theorem Dev.modPart_boot (d : Dev) (t : Nat) (f : Part → Part) : (d.modPart t f).boot = d.boot := rfl
@[simp] theorem Dev.modPart_vaultOwner (d : Dev) (t : Nat) (f : Part → Part) : (d.modPart t f).vaultOwner = d.vaultOwner := rfl
@[simp] theorem Dev.modPart_turn (d : Dev) (t : Nat) (f : Part → Part) : (d.modPart t f).turn = d.turn := rfl
@[simp] theorem Dev.modPart_copies (d : Dev) (t : Nat) (f : Part → Part) : (d.modPart t f).copies = d.copies := rfl

/-! ## Dev.modCtx -/

@[simp] theorem Dev.modCtx_nextId (d : Dev) (t : Nat) (f : Ctx → Ctx) : (d.modCtx t f).nextId = d.nextId := rfl
@[simp] theorem Dev.modCtx_free (d : Dev) (t : Nat) (f : Ctx → Ctx) : (d.modCtx t f).free = d.free := rfl
@[simp] theorem Dev.modCtx_cur (d : Dev) (t : Nat) (f : Ctx → Ctx) : (d.modCtx t f).cur = d.cur := rfl
@[simp] theorem Dev.modCtx_agenda (d : Dev) (t : Nat) (f : Ctx → Ctx) : (d.modCtx t f).agenda = d.agenda := rfl
@[simp] theorem Dev.modCtx_crews (d : Dev) (t : Nat) (f : Ctx → Ctx) : (d.modCtx t f).crews = d.crews := rfl
@[simp] theorem Dev.modCtx_teams (d : Dev) (t : Nat) (f : Ctx → Ctx) : (d.modCtx t f).teams = d.teams := rfl
@[simp] theorem Dev.modCtx_grids (d : Dev) (t : Nat) (f : Ctx → Ctx) : (d.modCtx t f).grids = d.grids := rfl
@[simp] theorem Dev.modCtx_parts (d : Dev) (t : Nat) (f : Ctx → Ctx) : (d.modCtx t f).parts = d.parts := rfl
@[simp] theorem Dev.modCtx_ops (d : Dev) (t : Nat) (f : Ctx → Ctx) : (d.modCtx t f).ops = d.ops := rfl
@[simp] theorem Dev.modCtx_fences (d : Dev) (t : Nat) (f : Ctx → Ctx) : (d.modCtx t f).fences = d.fences := rfl
@[simp] theorem Dev.modCtx_cores (d : Dev) (t : Nat) (f : Ctx → Ctx) : (d.modCtx t f).cores = d.cores := rfl
@[simp] theorem Dev.modCtx_clusters (d : Dev) (t : Nat) (f : Ctx → Ctx) : (d.modCtx t f).clusters = d.clusters := rfl
@[simp] theorem Dev.modCtx_towers (d : Dev) (t : Nat) (f : Ctx → Ctx) : (d.modCtx t f).towers = d.towers := rfl
@[simp] theorem Dev.modCtx_homes (d : Dev) (t : Nat) (f : Ctx → Ctx) : (d.modCtx t f).homes = d.homes := rfl
@[simp] theorem Dev.modCtx_homeWrites (d : Dev) (t : Nat) (f : Ctx → Ctx) : (d.modCtx t f).homeWrites = d.homeWrites := rfl
@[simp] theorem Dev.modCtx_races (d : Dev) (t : Nat) (f : Ctx → Ctx) : (d.modCtx t f).races = d.races := rfl
@[simp] theorem Dev.modCtx_gangs (d : Dev) (t : Nat) (f : Ctx → Ctx) : (d.modCtx t f).gangs = d.gangs := rfl
@[simp] theorem Dev.modCtx_pairs (d : Dev) (t : Nat) (f : Ctx → Ctx) : (d.modCtx t f).pairs = d.pairs := rfl
@[simp] theorem Dev.modCtx_deliveries (d : Dev) (t : Nat) (f : Ctx → Ctx) : (d.modCtx t f).deliveries = d.deliveries := rfl
@[simp] theorem Dev.modCtx_horizons (d : Dev) (t : Nat) (f : Ctx → Ctx) : (d.modCtx t f).horizons = d.horizons := rfl
@[simp] theorem Dev.modCtx_shootdowns (d : Dev) (t : Nat) (f : Ctx → Ctx) : (d.modCtx t f).shootdowns = d.shootdowns := rfl
@[simp] theorem Dev.modCtx_checkpoints (d : Dev) (t : Nat) (f : Ctx → Ctx) : (d.modCtx t f).checkpoints = d.checkpoints := rfl
@[simp] theorem Dev.modCtx_zeroings (d : Dev) (t : Nat) (f : Ctx → Ctx) : (d.modCtx t f).zeroings = d.zeroings := rfl
@[simp] theorem Dev.modCtx_links (d : Dev) (t : Nat) (f : Ctx → Ctx) : (d.modCtx t f).links = d.links := rfl
@[simp] theorem Dev.modCtx_bad (d : Dev) (t : Nat) (f : Ctx → Ctx) : (d.modCtx t f).bad = d.bad := rfl
@[simp] theorem Dev.modCtx_tele (d : Dev) (t : Nat) (f : Ctx → Ctx) : (d.modCtx t f).tele = d.tele := rfl
@[simp] theorem Dev.modCtx_host (d : Dev) (t : Nat) (f : Ctx → Ctx) : (d.modCtx t f).host = d.host := rfl
@[simp] theorem Dev.modCtx_nv (d : Dev) (t : Nat) (f : Ctx → Ctx) : (d.modCtx t f).nv = d.nv := rfl
@[simp] theorem Dev.modCtx_boot (d : Dev) (t : Nat) (f : Ctx → Ctx) : (d.modCtx t f).boot = d.boot := rfl
@[simp] theorem Dev.modCtx_vaultOwner (d : Dev) (t : Nat) (f : Ctx → Ctx) : (d.modCtx t f).vaultOwner = d.vaultOwner := rfl
@[simp] theorem Dev.modCtx_turn (d : Dev) (t : Nat) (f : Ctx → Ctx) : (d.modCtx t f).turn = d.turn := rfl
@[simp] theorem Dev.modCtx_copies (d : Dev) (t : Nat) (f : Ctx → Ctx) : (d.modCtx t f).copies = d.copies := rfl

/-! ## Dev.setCrew -/

@[simp] theorem Dev.setCrew_nextId (d : Dev) (c : Crew) : (d.setCrew c).nextId = d.nextId := rfl
@[simp] theorem Dev.setCrew_free (d : Dev) (c : Crew) : (d.setCrew c).free = d.free := rfl
@[simp] theorem Dev.setCrew_cur (d : Dev) (c : Crew) : (d.setCrew c).cur = d.cur := rfl
@[simp] theorem Dev.setCrew_agenda (d : Dev) (c : Crew) : (d.setCrew c).agenda = d.agenda := rfl
@[simp] theorem Dev.setCrew_teams (d : Dev) (c : Crew) : (d.setCrew c).teams = d.teams := rfl
@[simp] theorem Dev.setCrew_grids (d : Dev) (c : Crew) : (d.setCrew c).grids = d.grids := rfl
@[simp] theorem Dev.setCrew_ctxs (d : Dev) (c : Crew) : (d.setCrew c).ctxs = d.ctxs := rfl
@[simp] theorem Dev.setCrew_parts (d : Dev) (c : Crew) : (d.setCrew c).parts = d.parts := rfl
@[simp] theorem Dev.setCrew_ops (d : Dev) (c : Crew) : (d.setCrew c).ops = d.ops := rfl
@[simp] theorem Dev.setCrew_fences (d : Dev) (c : Crew) : (d.setCrew c).fences = d.fences := rfl
@[simp] theorem Dev.setCrew_cores (d : Dev) (c : Crew) : (d.setCrew c).cores = d.cores := rfl
@[simp] theorem Dev.setCrew_clusters (d : Dev) (c : Crew) : (d.setCrew c).clusters = d.clusters := rfl
@[simp] theorem Dev.setCrew_towers (d : Dev) (c : Crew) : (d.setCrew c).towers = d.towers := rfl
@[simp] theorem Dev.setCrew_homes (d : Dev) (c : Crew) : (d.setCrew c).homes = d.homes := rfl
@[simp] theorem Dev.setCrew_homeWrites (d : Dev) (c : Crew) : (d.setCrew c).homeWrites = d.homeWrites := rfl
@[simp] theorem Dev.setCrew_races (d : Dev) (c : Crew) : (d.setCrew c).races = d.races := rfl
@[simp] theorem Dev.setCrew_gangs (d : Dev) (c : Crew) : (d.setCrew c).gangs = d.gangs := rfl
@[simp] theorem Dev.setCrew_pairs (d : Dev) (c : Crew) : (d.setCrew c).pairs = d.pairs := rfl
@[simp] theorem Dev.setCrew_deliveries (d : Dev) (c : Crew) : (d.setCrew c).deliveries = d.deliveries := rfl
@[simp] theorem Dev.setCrew_horizons (d : Dev) (c : Crew) : (d.setCrew c).horizons = d.horizons := rfl
@[simp] theorem Dev.setCrew_shootdowns (d : Dev) (c : Crew) : (d.setCrew c).shootdowns = d.shootdowns := rfl
@[simp] theorem Dev.setCrew_checkpoints (d : Dev) (c : Crew) : (d.setCrew c).checkpoints = d.checkpoints := rfl
@[simp] theorem Dev.setCrew_zeroings (d : Dev) (c : Crew) : (d.setCrew c).zeroings = d.zeroings := rfl
@[simp] theorem Dev.setCrew_links (d : Dev) (c : Crew) : (d.setCrew c).links = d.links := rfl
@[simp] theorem Dev.setCrew_bad (d : Dev) (c : Crew) : (d.setCrew c).bad = d.bad := rfl
@[simp] theorem Dev.setCrew_tele (d : Dev) (c : Crew) : (d.setCrew c).tele = d.tele := rfl
@[simp] theorem Dev.setCrew_host (d : Dev) (c : Crew) : (d.setCrew c).host = d.host := rfl
@[simp] theorem Dev.setCrew_nv (d : Dev) (c : Crew) : (d.setCrew c).nv = d.nv := rfl
@[simp] theorem Dev.setCrew_boot (d : Dev) (c : Crew) : (d.setCrew c).boot = d.boot := rfl
@[simp] theorem Dev.setCrew_vaultOwner (d : Dev) (c : Crew) : (d.setCrew c).vaultOwner = d.vaultOwner := rfl
@[simp] theorem Dev.setCrew_turn (d : Dev) (c : Crew) : (d.setCrew c).turn = d.turn := rfl
@[simp] theorem Dev.setCrew_copies (d : Dev) (c : Crew) : (d.setCrew c).copies = d.copies := rfl

/-! ## Dev.modCrew -/

@[simp] theorem Dev.modCrew_nextId (d : Dev) (t : Nat) (f : Crew → Crew) : (d.modCrew t f).nextId = d.nextId := rfl
@[simp] theorem Dev.modCrew_free (d : Dev) (t : Nat) (f : Crew → Crew) : (d.modCrew t f).free = d.free := rfl
@[simp] theorem Dev.modCrew_cur (d : Dev) (t : Nat) (f : Crew → Crew) : (d.modCrew t f).cur = d.cur := rfl
@[simp] theorem Dev.modCrew_agenda (d : Dev) (t : Nat) (f : Crew → Crew) : (d.modCrew t f).agenda = d.agenda := rfl
@[simp] theorem Dev.modCrew_teams (d : Dev) (t : Nat) (f : Crew → Crew) : (d.modCrew t f).teams = d.teams := rfl
@[simp] theorem Dev.modCrew_grids (d : Dev) (t : Nat) (f : Crew → Crew) : (d.modCrew t f).grids = d.grids := rfl
@[simp] theorem Dev.modCrew_ctxs (d : Dev) (t : Nat) (f : Crew → Crew) : (d.modCrew t f).ctxs = d.ctxs := rfl
@[simp] theorem Dev.modCrew_parts (d : Dev) (t : Nat) (f : Crew → Crew) : (d.modCrew t f).parts = d.parts := rfl
@[simp] theorem Dev.modCrew_ops (d : Dev) (t : Nat) (f : Crew → Crew) : (d.modCrew t f).ops = d.ops := rfl
@[simp] theorem Dev.modCrew_fences (d : Dev) (t : Nat) (f : Crew → Crew) : (d.modCrew t f).fences = d.fences := rfl
@[simp] theorem Dev.modCrew_cores (d : Dev) (t : Nat) (f : Crew → Crew) : (d.modCrew t f).cores = d.cores := rfl
@[simp] theorem Dev.modCrew_clusters (d : Dev) (t : Nat) (f : Crew → Crew) : (d.modCrew t f).clusters = d.clusters := rfl
@[simp] theorem Dev.modCrew_towers (d : Dev) (t : Nat) (f : Crew → Crew) : (d.modCrew t f).towers = d.towers := rfl
@[simp] theorem Dev.modCrew_homes (d : Dev) (t : Nat) (f : Crew → Crew) : (d.modCrew t f).homes = d.homes := rfl
@[simp] theorem Dev.modCrew_homeWrites (d : Dev) (t : Nat) (f : Crew → Crew) : (d.modCrew t f).homeWrites = d.homeWrites := rfl
@[simp] theorem Dev.modCrew_races (d : Dev) (t : Nat) (f : Crew → Crew) : (d.modCrew t f).races = d.races := rfl
@[simp] theorem Dev.modCrew_gangs (d : Dev) (t : Nat) (f : Crew → Crew) : (d.modCrew t f).gangs = d.gangs := rfl
@[simp] theorem Dev.modCrew_pairs (d : Dev) (t : Nat) (f : Crew → Crew) : (d.modCrew t f).pairs = d.pairs := rfl
@[simp] theorem Dev.modCrew_deliveries (d : Dev) (t : Nat) (f : Crew → Crew) : (d.modCrew t f).deliveries = d.deliveries := rfl
@[simp] theorem Dev.modCrew_horizons (d : Dev) (t : Nat) (f : Crew → Crew) : (d.modCrew t f).horizons = d.horizons := rfl
@[simp] theorem Dev.modCrew_shootdowns (d : Dev) (t : Nat) (f : Crew → Crew) : (d.modCrew t f).shootdowns = d.shootdowns := rfl
@[simp] theorem Dev.modCrew_checkpoints (d : Dev) (t : Nat) (f : Crew → Crew) : (d.modCrew t f).checkpoints = d.checkpoints := rfl
@[simp] theorem Dev.modCrew_zeroings (d : Dev) (t : Nat) (f : Crew → Crew) : (d.modCrew t f).zeroings = d.zeroings := rfl
@[simp] theorem Dev.modCrew_links (d : Dev) (t : Nat) (f : Crew → Crew) : (d.modCrew t f).links = d.links := rfl
@[simp] theorem Dev.modCrew_bad (d : Dev) (t : Nat) (f : Crew → Crew) : (d.modCrew t f).bad = d.bad := rfl
@[simp] theorem Dev.modCrew_tele (d : Dev) (t : Nat) (f : Crew → Crew) : (d.modCrew t f).tele = d.tele := rfl
@[simp] theorem Dev.modCrew_host (d : Dev) (t : Nat) (f : Crew → Crew) : (d.modCrew t f).host = d.host := rfl
@[simp] theorem Dev.modCrew_nv (d : Dev) (t : Nat) (f : Crew → Crew) : (d.modCrew t f).nv = d.nv := rfl
@[simp] theorem Dev.modCrew_boot (d : Dev) (t : Nat) (f : Crew → Crew) : (d.modCrew t f).boot = d.boot := rfl
@[simp] theorem Dev.modCrew_vaultOwner (d : Dev) (t : Nat) (f : Crew → Crew) : (d.modCrew t f).vaultOwner = d.vaultOwner := rfl
@[simp] theorem Dev.modCrew_turn (d : Dev) (t : Nat) (f : Crew → Crew) : (d.modCrew t f).turn = d.turn := rfl
@[simp] theorem Dev.modCrew_copies (d : Dev) (t : Nat) (f : Crew → Crew) : (d.modCrew t f).copies = d.copies := rfl

/-! ## Dev.modTeam -/

@[simp] theorem Dev.modTeam_nextId (d : Dev) (t : Nat) (f : Team → Team) : (d.modTeam t f).nextId = d.nextId := rfl
@[simp] theorem Dev.modTeam_free (d : Dev) (t : Nat) (f : Team → Team) : (d.modTeam t f).free = d.free := rfl
@[simp] theorem Dev.modTeam_cur (d : Dev) (t : Nat) (f : Team → Team) : (d.modTeam t f).cur = d.cur := rfl
@[simp] theorem Dev.modTeam_agenda (d : Dev) (t : Nat) (f : Team → Team) : (d.modTeam t f).agenda = d.agenda := rfl
@[simp] theorem Dev.modTeam_crews (d : Dev) (t : Nat) (f : Team → Team) : (d.modTeam t f).crews = d.crews := rfl
@[simp] theorem Dev.modTeam_grids (d : Dev) (t : Nat) (f : Team → Team) : (d.modTeam t f).grids = d.grids := rfl
@[simp] theorem Dev.modTeam_ctxs (d : Dev) (t : Nat) (f : Team → Team) : (d.modTeam t f).ctxs = d.ctxs := rfl
@[simp] theorem Dev.modTeam_parts (d : Dev) (t : Nat) (f : Team → Team) : (d.modTeam t f).parts = d.parts := rfl
@[simp] theorem Dev.modTeam_ops (d : Dev) (t : Nat) (f : Team → Team) : (d.modTeam t f).ops = d.ops := rfl
@[simp] theorem Dev.modTeam_fences (d : Dev) (t : Nat) (f : Team → Team) : (d.modTeam t f).fences = d.fences := rfl
@[simp] theorem Dev.modTeam_cores (d : Dev) (t : Nat) (f : Team → Team) : (d.modTeam t f).cores = d.cores := rfl
@[simp] theorem Dev.modTeam_clusters (d : Dev) (t : Nat) (f : Team → Team) : (d.modTeam t f).clusters = d.clusters := rfl
@[simp] theorem Dev.modTeam_towers (d : Dev) (t : Nat) (f : Team → Team) : (d.modTeam t f).towers = d.towers := rfl
@[simp] theorem Dev.modTeam_homes (d : Dev) (t : Nat) (f : Team → Team) : (d.modTeam t f).homes = d.homes := rfl
@[simp] theorem Dev.modTeam_homeWrites (d : Dev) (t : Nat) (f : Team → Team) : (d.modTeam t f).homeWrites = d.homeWrites := rfl
@[simp] theorem Dev.modTeam_races (d : Dev) (t : Nat) (f : Team → Team) : (d.modTeam t f).races = d.races := rfl
@[simp] theorem Dev.modTeam_gangs (d : Dev) (t : Nat) (f : Team → Team) : (d.modTeam t f).gangs = d.gangs := rfl
@[simp] theorem Dev.modTeam_pairs (d : Dev) (t : Nat) (f : Team → Team) : (d.modTeam t f).pairs = d.pairs := rfl
@[simp] theorem Dev.modTeam_deliveries (d : Dev) (t : Nat) (f : Team → Team) : (d.modTeam t f).deliveries = d.deliveries := rfl
@[simp] theorem Dev.modTeam_horizons (d : Dev) (t : Nat) (f : Team → Team) : (d.modTeam t f).horizons = d.horizons := rfl
@[simp] theorem Dev.modTeam_shootdowns (d : Dev) (t : Nat) (f : Team → Team) : (d.modTeam t f).shootdowns = d.shootdowns := rfl
@[simp] theorem Dev.modTeam_checkpoints (d : Dev) (t : Nat) (f : Team → Team) : (d.modTeam t f).checkpoints = d.checkpoints := rfl
@[simp] theorem Dev.modTeam_zeroings (d : Dev) (t : Nat) (f : Team → Team) : (d.modTeam t f).zeroings = d.zeroings := rfl
@[simp] theorem Dev.modTeam_links (d : Dev) (t : Nat) (f : Team → Team) : (d.modTeam t f).links = d.links := rfl
@[simp] theorem Dev.modTeam_bad (d : Dev) (t : Nat) (f : Team → Team) : (d.modTeam t f).bad = d.bad := rfl
@[simp] theorem Dev.modTeam_tele (d : Dev) (t : Nat) (f : Team → Team) : (d.modTeam t f).tele = d.tele := rfl
@[simp] theorem Dev.modTeam_host (d : Dev) (t : Nat) (f : Team → Team) : (d.modTeam t f).host = d.host := rfl
@[simp] theorem Dev.modTeam_nv (d : Dev) (t : Nat) (f : Team → Team) : (d.modTeam t f).nv = d.nv := rfl
@[simp] theorem Dev.modTeam_boot (d : Dev) (t : Nat) (f : Team → Team) : (d.modTeam t f).boot = d.boot := rfl
@[simp] theorem Dev.modTeam_vaultOwner (d : Dev) (t : Nat) (f : Team → Team) : (d.modTeam t f).vaultOwner = d.vaultOwner := rfl
@[simp] theorem Dev.modTeam_turn (d : Dev) (t : Nat) (f : Team → Team) : (d.modTeam t f).turn = d.turn := rfl
@[simp] theorem Dev.modTeam_copies (d : Dev) (t : Nat) (f : Team → Team) : (d.modTeam t f).copies = d.copies := rfl

/-! ## Dev.modGrid -/

@[simp] theorem Dev.modGrid_nextId (d : Dev) (t : Nat) (f : Grid → Grid) : (d.modGrid t f).nextId = d.nextId := rfl
@[simp] theorem Dev.modGrid_free (d : Dev) (t : Nat) (f : Grid → Grid) : (d.modGrid t f).free = d.free := rfl
@[simp] theorem Dev.modGrid_cur (d : Dev) (t : Nat) (f : Grid → Grid) : (d.modGrid t f).cur = d.cur := rfl
@[simp] theorem Dev.modGrid_agenda (d : Dev) (t : Nat) (f : Grid → Grid) : (d.modGrid t f).agenda = d.agenda := rfl
@[simp] theorem Dev.modGrid_crews (d : Dev) (t : Nat) (f : Grid → Grid) : (d.modGrid t f).crews = d.crews := rfl
@[simp] theorem Dev.modGrid_teams (d : Dev) (t : Nat) (f : Grid → Grid) : (d.modGrid t f).teams = d.teams := rfl
@[simp] theorem Dev.modGrid_ctxs (d : Dev) (t : Nat) (f : Grid → Grid) : (d.modGrid t f).ctxs = d.ctxs := rfl
@[simp] theorem Dev.modGrid_parts (d : Dev) (t : Nat) (f : Grid → Grid) : (d.modGrid t f).parts = d.parts := rfl
@[simp] theorem Dev.modGrid_ops (d : Dev) (t : Nat) (f : Grid → Grid) : (d.modGrid t f).ops = d.ops := rfl
@[simp] theorem Dev.modGrid_fences (d : Dev) (t : Nat) (f : Grid → Grid) : (d.modGrid t f).fences = d.fences := rfl
@[simp] theorem Dev.modGrid_cores (d : Dev) (t : Nat) (f : Grid → Grid) : (d.modGrid t f).cores = d.cores := rfl
@[simp] theorem Dev.modGrid_clusters (d : Dev) (t : Nat) (f : Grid → Grid) : (d.modGrid t f).clusters = d.clusters := rfl
@[simp] theorem Dev.modGrid_towers (d : Dev) (t : Nat) (f : Grid → Grid) : (d.modGrid t f).towers = d.towers := rfl
@[simp] theorem Dev.modGrid_homes (d : Dev) (t : Nat) (f : Grid → Grid) : (d.modGrid t f).homes = d.homes := rfl
@[simp] theorem Dev.modGrid_homeWrites (d : Dev) (t : Nat) (f : Grid → Grid) : (d.modGrid t f).homeWrites = d.homeWrites := rfl
@[simp] theorem Dev.modGrid_races (d : Dev) (t : Nat) (f : Grid → Grid) : (d.modGrid t f).races = d.races := rfl
@[simp] theorem Dev.modGrid_gangs (d : Dev) (t : Nat) (f : Grid → Grid) : (d.modGrid t f).gangs = d.gangs := rfl
@[simp] theorem Dev.modGrid_pairs (d : Dev) (t : Nat) (f : Grid → Grid) : (d.modGrid t f).pairs = d.pairs := rfl
@[simp] theorem Dev.modGrid_deliveries (d : Dev) (t : Nat) (f : Grid → Grid) : (d.modGrid t f).deliveries = d.deliveries := rfl
@[simp] theorem Dev.modGrid_horizons (d : Dev) (t : Nat) (f : Grid → Grid) : (d.modGrid t f).horizons = d.horizons := rfl
@[simp] theorem Dev.modGrid_shootdowns (d : Dev) (t : Nat) (f : Grid → Grid) : (d.modGrid t f).shootdowns = d.shootdowns := rfl
@[simp] theorem Dev.modGrid_checkpoints (d : Dev) (t : Nat) (f : Grid → Grid) : (d.modGrid t f).checkpoints = d.checkpoints := rfl
@[simp] theorem Dev.modGrid_zeroings (d : Dev) (t : Nat) (f : Grid → Grid) : (d.modGrid t f).zeroings = d.zeroings := rfl
@[simp] theorem Dev.modGrid_links (d : Dev) (t : Nat) (f : Grid → Grid) : (d.modGrid t f).links = d.links := rfl
@[simp] theorem Dev.modGrid_bad (d : Dev) (t : Nat) (f : Grid → Grid) : (d.modGrid t f).bad = d.bad := rfl
@[simp] theorem Dev.modGrid_tele (d : Dev) (t : Nat) (f : Grid → Grid) : (d.modGrid t f).tele = d.tele := rfl
@[simp] theorem Dev.modGrid_host (d : Dev) (t : Nat) (f : Grid → Grid) : (d.modGrid t f).host = d.host := rfl
@[simp] theorem Dev.modGrid_nv (d : Dev) (t : Nat) (f : Grid → Grid) : (d.modGrid t f).nv = d.nv := rfl
@[simp] theorem Dev.modGrid_boot (d : Dev) (t : Nat) (f : Grid → Grid) : (d.modGrid t f).boot = d.boot := rfl
@[simp] theorem Dev.modGrid_vaultOwner (d : Dev) (t : Nat) (f : Grid → Grid) : (d.modGrid t f).vaultOwner = d.vaultOwner := rfl
@[simp] theorem Dev.modGrid_turn (d : Dev) (t : Nat) (f : Grid → Grid) : (d.modGrid t f).turn = d.turn := rfl
@[simp] theorem Dev.modGrid_copies (d : Dev) (t : Nat) (f : Grid → Grid) : (d.modGrid t f).copies = d.copies := rfl

/-! ## Dev.modOp -/

@[simp] theorem Dev.modOp_nextId (d : Dev) (t : Nat) (f : Op → Op) : (d.modOp t f).nextId = d.nextId := rfl
@[simp] theorem Dev.modOp_free (d : Dev) (t : Nat) (f : Op → Op) : (d.modOp t f).free = d.free := rfl
@[simp] theorem Dev.modOp_cur (d : Dev) (t : Nat) (f : Op → Op) : (d.modOp t f).cur = d.cur := rfl
@[simp] theorem Dev.modOp_agenda (d : Dev) (t : Nat) (f : Op → Op) : (d.modOp t f).agenda = d.agenda := rfl
@[simp] theorem Dev.modOp_crews (d : Dev) (t : Nat) (f : Op → Op) : (d.modOp t f).crews = d.crews := rfl
@[simp] theorem Dev.modOp_teams (d : Dev) (t : Nat) (f : Op → Op) : (d.modOp t f).teams = d.teams := rfl
@[simp] theorem Dev.modOp_grids (d : Dev) (t : Nat) (f : Op → Op) : (d.modOp t f).grids = d.grids := rfl
@[simp] theorem Dev.modOp_ctxs (d : Dev) (t : Nat) (f : Op → Op) : (d.modOp t f).ctxs = d.ctxs := rfl
@[simp] theorem Dev.modOp_parts (d : Dev) (t : Nat) (f : Op → Op) : (d.modOp t f).parts = d.parts := rfl
@[simp] theorem Dev.modOp_fences (d : Dev) (t : Nat) (f : Op → Op) : (d.modOp t f).fences = d.fences := rfl
@[simp] theorem Dev.modOp_cores (d : Dev) (t : Nat) (f : Op → Op) : (d.modOp t f).cores = d.cores := rfl
@[simp] theorem Dev.modOp_clusters (d : Dev) (t : Nat) (f : Op → Op) : (d.modOp t f).clusters = d.clusters := rfl
@[simp] theorem Dev.modOp_towers (d : Dev) (t : Nat) (f : Op → Op) : (d.modOp t f).towers = d.towers := rfl
@[simp] theorem Dev.modOp_homes (d : Dev) (t : Nat) (f : Op → Op) : (d.modOp t f).homes = d.homes := rfl
@[simp] theorem Dev.modOp_homeWrites (d : Dev) (t : Nat) (f : Op → Op) : (d.modOp t f).homeWrites = d.homeWrites := rfl
@[simp] theorem Dev.modOp_races (d : Dev) (t : Nat) (f : Op → Op) : (d.modOp t f).races = d.races := rfl
@[simp] theorem Dev.modOp_gangs (d : Dev) (t : Nat) (f : Op → Op) : (d.modOp t f).gangs = d.gangs := rfl
@[simp] theorem Dev.modOp_pairs (d : Dev) (t : Nat) (f : Op → Op) : (d.modOp t f).pairs = d.pairs := rfl
@[simp] theorem Dev.modOp_deliveries (d : Dev) (t : Nat) (f : Op → Op) : (d.modOp t f).deliveries = d.deliveries := rfl
@[simp] theorem Dev.modOp_horizons (d : Dev) (t : Nat) (f : Op → Op) : (d.modOp t f).horizons = d.horizons := rfl
@[simp] theorem Dev.modOp_shootdowns (d : Dev) (t : Nat) (f : Op → Op) : (d.modOp t f).shootdowns = d.shootdowns := rfl
@[simp] theorem Dev.modOp_checkpoints (d : Dev) (t : Nat) (f : Op → Op) : (d.modOp t f).checkpoints = d.checkpoints := rfl
@[simp] theorem Dev.modOp_zeroings (d : Dev) (t : Nat) (f : Op → Op) : (d.modOp t f).zeroings = d.zeroings := rfl
@[simp] theorem Dev.modOp_links (d : Dev) (t : Nat) (f : Op → Op) : (d.modOp t f).links = d.links := rfl
@[simp] theorem Dev.modOp_bad (d : Dev) (t : Nat) (f : Op → Op) : (d.modOp t f).bad = d.bad := rfl
@[simp] theorem Dev.modOp_tele (d : Dev) (t : Nat) (f : Op → Op) : (d.modOp t f).tele = d.tele := rfl
@[simp] theorem Dev.modOp_host (d : Dev) (t : Nat) (f : Op → Op) : (d.modOp t f).host = d.host := rfl
@[simp] theorem Dev.modOp_nv (d : Dev) (t : Nat) (f : Op → Op) : (d.modOp t f).nv = d.nv := rfl
@[simp] theorem Dev.modOp_boot (d : Dev) (t : Nat) (f : Op → Op) : (d.modOp t f).boot = d.boot := rfl
@[simp] theorem Dev.modOp_vaultOwner (d : Dev) (t : Nat) (f : Op → Op) : (d.modOp t f).vaultOwner = d.vaultOwner := rfl
@[simp] theorem Dev.modOp_turn (d : Dev) (t : Nat) (f : Op → Op) : (d.modOp t f).turn = d.turn := rfl
@[simp] theorem Dev.modOp_copies (d : Dev) (t : Nat) (f : Op → Op) : (d.modOp t f).copies = d.copies := rfl

/-! ## Work -/

@[simp] theorem Work.mod_fx (w : Work) (f : Dev → Dev) : (w.mod f).fx = w.fx := rfl
@[simp] theorem Work.mod_mem (w : Work) (f : Dev → Dev) : (w.mod f).mem = w.mem := rfl
@[simp] theorem Work.mod_wr (w : Work) (f : Dev → Dev) : (w.mod f).wr = w.wr := rfl
@[simp] theorem Work.mod_d (w : Work) (f : Dev → Dev) : (w.mod f).d = f w.d := rfl
@[simp] theorem Work.mod_late (w : Work) (f : Dev → Dev) : (w.mod f).late = w.late := rfl
@[simp] theorem Work.put_fx (w : Work) (k : Nat) (b : Byte) : (w.put k b).fx = w.fx := rfl
@[simp] theorem Work.put_mem (w : Work) (k : Nat) (b : Byte) : (w.put k b).mem = w.mem := rfl
@[simp] theorem Work.put_wr (w : Work) (k : Nat) (b : Byte) : (w.put k b).wr = (k, b) :: w.wr := rfl
@[simp] theorem Work.put_d (w : Work) (k : Nat) (b : Byte) : (w.put k b).d = w.d := rfl
@[simp] theorem Work.put_late (w : Work) (k : Nat) (b : Byte) : (w.put k b).late = w.late := rfl
@[simp] theorem State.work_fx (s : State) : s.work.fx = s.fx := rfl
@[simp] theorem State.work_mem (s : State) : s.work.mem = s.mem := rfl
@[simp] theorem State.work_wr (s : State) : s.work.wr = [] := rfl
@[simp] theorem State.work_d (s : State) : s.work.d = s.d := rfl
@[simp] theorem State.work_late (s : State) : s.work.late = [] := rfl
@[simp] theorem State.after_fx (s : State) (w : Work) : (s.after w).fx = s.fx := rfl
@[simp] theorem State.after_mem (s : State) (w : Work) : (s.after w).mem = s.mem.commit w.wr := rfl
@[simp] theorem State.after_cont (s : State) (w : Work) : (s.after w).cont = s.cont := rfl
@[simp] theorem State.done_fx (s : State) (w : Work) : (s.done w).fx = s.fx := rfl
@[simp] theorem State.done_mem (s : State) (w : Work) : (s.done w).mem = s.mem.commit w.wr := rfl
@[simp] theorem State.done_cont (s : State) (w : Work) : (s.done w).cont = s.cont := rfl
@[simp] theorem State.done_cur (s : State) (w : Work) : (s.done w).d.cur = none := rfl
@[simp] theorem Res.bind_ok (w : Work) (k : Work → Res) : (Res.ok w).bind k = k w := rfl
@[simp] theorem Res.bind_fault (f : FaultInfo) (k : Work → Res) : (Res.fault f).bind k = .fault f := rfl
@[simp] theorem Res.bind_again (w : Work) (c : Cond) (k : Work → Res) : (Res.again w c).bind k = .again w c := rfl

@[simp] theorem State.after_nextId (s : State) (w : Work) : (s.after w).d.nextId = w.d.nextId := by unfold State.after; dsimp only; split <;> rfl
@[simp] theorem State.after_free (s : State) (w : Work) : (s.after w).d.free = w.d.free := by unfold State.after; dsimp only; split <;> rfl
@[simp] theorem State.after_cur (s : State) (w : Work) : (s.after w).d.cur = w.d.cur := by unfold State.after; dsimp only; split <;> rfl
@[simp] theorem State.after_agenda (s : State) (w : Work) : (s.after w).d.agenda = w.d.agenda := by unfold State.after; dsimp only; split <;> rfl
@[simp] theorem State.after_crews (s : State) (w : Work) : (s.after w).d.crews = w.d.crews := by unfold State.after; dsimp only; split <;> rfl
@[simp] theorem State.after_teams (s : State) (w : Work) : (s.after w).d.teams = w.d.teams := by unfold State.after; dsimp only; split <;> rfl
@[simp] theorem State.after_grids (s : State) (w : Work) : (s.after w).d.grids = w.d.grids := by unfold State.after; dsimp only; split <;> rfl
@[simp] theorem State.after_ctxs (s : State) (w : Work) : (s.after w).d.ctxs = w.d.ctxs := by unfold State.after; dsimp only; split <;> rfl
@[simp] theorem State.after_parts (s : State) (w : Work) : (s.after w).d.parts = w.d.parts := by unfold State.after; dsimp only; split <;> rfl
@[simp] theorem State.after_ops (s : State) (w : Work) : (s.after w).d.ops = w.d.ops := by unfold State.after; dsimp only; split <;> rfl
@[simp] theorem State.after_fences (s : State) (w : Work) : (s.after w).d.fences = w.d.fences := by unfold State.after; dsimp only; split <;> rfl
@[simp] theorem State.after_cores (s : State) (w : Work) : (s.after w).d.cores = w.d.cores := by unfold State.after; dsimp only; split <;> rfl
@[simp] theorem State.after_clusters (s : State) (w : Work) : (s.after w).d.clusters = w.d.clusters := by unfold State.after; dsimp only; split <;> rfl
@[simp] theorem State.after_towers (s : State) (w : Work) : (s.after w).d.towers = w.d.towers := by unfold State.after; dsimp only; split <;> rfl
@[simp] theorem State.after_homes (s : State) (w : Work) : (s.after w).d.homes = w.d.homes := by unfold State.after; dsimp only; split <;> rfl
@[simp] theorem State.after_homeWrites (s : State) (w : Work) : (s.after w).d.homeWrites = w.d.homeWrites := by unfold State.after; dsimp only; split <;> rfl
@[simp] theorem State.after_races (s : State) (w : Work) : (s.after w).d.races = w.d.races := by unfold State.after; dsimp only; split <;> rfl
@[simp] theorem State.after_gangs (s : State) (w : Work) : (s.after w).d.gangs = w.d.gangs := by unfold State.after; dsimp only; split <;> rfl
@[simp] theorem State.after_pairs (s : State) (w : Work) : (s.after w).d.pairs = w.d.pairs := by unfold State.after; dsimp only; split <;> rfl
@[simp] theorem State.after_deliveries (s : State) (w : Work) : (s.after w).d.deliveries = w.d.deliveries := by unfold State.after; dsimp only; split <;> rfl
@[simp] theorem State.after_horizons (s : State) (w : Work) : (s.after w).d.horizons = w.d.horizons := by unfold State.after; dsimp only; split <;> rfl
@[simp] theorem State.after_shootdowns (s : State) (w : Work) : (s.after w).d.shootdowns = w.d.shootdowns := by unfold State.after; dsimp only; split <;> rfl
@[simp] theorem State.after_zeroings (s : State) (w : Work) : (s.after w).d.zeroings = w.d.zeroings := by unfold State.after; dsimp only; split <;> rfl
@[simp] theorem State.after_links (s : State) (w : Work) : (s.after w).d.links = w.d.links := by unfold State.after; dsimp only; split <;> rfl
@[simp] theorem State.after_bad (s : State) (w : Work) : (s.after w).d.bad = w.d.bad := by unfold State.after; dsimp only; split <;> rfl
@[simp] theorem State.after_tele (s : State) (w : Work) : (s.after w).d.tele = w.d.tele := by unfold State.after; dsimp only; split <;> rfl
@[simp] theorem State.after_host (s : State) (w : Work) : (s.after w).d.host = w.d.host := by unfold State.after; dsimp only; split <;> rfl
@[simp] theorem State.after_nv (s : State) (w : Work) : (s.after w).d.nv = w.d.nv := by unfold State.after; dsimp only; split <;> rfl
@[simp] theorem State.after_boot (s : State) (w : Work) : (s.after w).d.boot = w.d.boot := by unfold State.after; dsimp only; split <;> rfl
@[simp] theorem State.after_vaultOwner (s : State) (w : Work) : (s.after w).d.vaultOwner = w.d.vaultOwner := by unfold State.after; dsimp only; split <;> rfl
@[simp] theorem State.after_turn (s : State) (w : Work) : (s.after w).d.turn = w.d.turn := by unfold State.after; dsimp only; split <;> rfl
@[simp] theorem State.after_copies (s : State) (w : Work) : (s.after w).d.copies = w.d.copies := by unfold State.after; dsimp only; split <;> rfl
@[simp] theorem State.done_nextId (s : State) (w : Work) : (s.done w).d.nextId = w.d.nextId := by simp [State.done]
@[simp] theorem State.done_free (s : State) (w : Work) : (s.done w).d.free = w.d.free := by simp [State.done]
@[simp] theorem State.done_agenda (s : State) (w : Work) : (s.done w).d.agenda = w.d.agenda := by simp [State.done]
@[simp] theorem State.done_crews (s : State) (w : Work) : (s.done w).d.crews = w.d.crews := by simp [State.done]
@[simp] theorem State.done_teams (s : State) (w : Work) : (s.done w).d.teams = w.d.teams := by simp [State.done]
@[simp] theorem State.done_grids (s : State) (w : Work) : (s.done w).d.grids = w.d.grids := by simp [State.done]
@[simp] theorem State.done_ctxs (s : State) (w : Work) : (s.done w).d.ctxs = w.d.ctxs := by simp [State.done]
@[simp] theorem State.done_parts (s : State) (w : Work) : (s.done w).d.parts = w.d.parts := by simp [State.done]
@[simp] theorem State.done_ops (s : State) (w : Work) : (s.done w).d.ops = w.d.ops := by simp [State.done]
@[simp] theorem State.done_fences (s : State) (w : Work) : (s.done w).d.fences = w.d.fences := by simp [State.done]
@[simp] theorem State.done_cores (s : State) (w : Work) : (s.done w).d.cores = w.d.cores := by simp [State.done]
@[simp] theorem State.done_clusters (s : State) (w : Work) : (s.done w).d.clusters = w.d.clusters := by simp [State.done]
@[simp] theorem State.done_towers (s : State) (w : Work) : (s.done w).d.towers = w.d.towers := by simp [State.done]
@[simp] theorem State.done_homes (s : State) (w : Work) : (s.done w).d.homes = w.d.homes := by simp [State.done]
@[simp] theorem State.done_homeWrites (s : State) (w : Work) : (s.done w).d.homeWrites = w.d.homeWrites := by simp [State.done]
@[simp] theorem State.done_races (s : State) (w : Work) : (s.done w).d.races = w.d.races := by simp [State.done]
@[simp] theorem State.done_gangs (s : State) (w : Work) : (s.done w).d.gangs = w.d.gangs := by simp [State.done]
@[simp] theorem State.done_pairs (s : State) (w : Work) : (s.done w).d.pairs = w.d.pairs := by simp [State.done]
@[simp] theorem State.done_deliveries (s : State) (w : Work) : (s.done w).d.deliveries = w.d.deliveries := by simp [State.done]
@[simp] theorem State.done_horizons (s : State) (w : Work) : (s.done w).d.horizons = w.d.horizons := by simp [State.done]
@[simp] theorem State.done_shootdowns (s : State) (w : Work) : (s.done w).d.shootdowns = w.d.shootdowns := by simp [State.done]
@[simp] theorem State.done_zeroings (s : State) (w : Work) : (s.done w).d.zeroings = w.d.zeroings := by simp [State.done]
@[simp] theorem State.done_links (s : State) (w : Work) : (s.done w).d.links = w.d.links := by simp [State.done]
@[simp] theorem State.done_bad (s : State) (w : Work) : (s.done w).d.bad = w.d.bad := by simp [State.done]
@[simp] theorem State.done_tele (s : State) (w : Work) : (s.done w).d.tele = w.d.tele := by simp [State.done]
@[simp] theorem State.done_host (s : State) (w : Work) : (s.done w).d.host = w.d.host := by simp [State.done]
@[simp] theorem State.done_nv (s : State) (w : Work) : (s.done w).d.nv = w.d.nv := by simp [State.done]
@[simp] theorem State.done_boot (s : State) (w : Work) : (s.done w).d.boot = w.d.boot := by simp [State.done]
@[simp] theorem State.done_vaultOwner (s : State) (w : Work) : (s.done w).d.vaultOwner = w.d.vaultOwner := by simp [State.done]
@[simp] theorem State.done_turn (s : State) (w : Work) : (s.done w).d.turn = w.d.turn := by simp [State.done]
@[simp] theorem State.done_copies (s : State) (w : Work) : (s.done w).d.copies = w.d.copies := by simp [State.done]

/-! ## Crews -/

@[simp] theorem Crew.setPc_id (c : Crew) (m : Mask) (pc : Word) : (c.setPc m pc).id = c.id := rfl
@[simp] theorem Crew.setPc_place (c : Crew) (m : Mask) (pc : Word) : (c.setPc m pc).place = c.place := rfl
@[simp] theorem Crew.setPc_home (c : Crew) (m : Mask) (pc : Word) : (c.setPc m pc).home = c.home := rfl
@[simp] theorem Crew.setPc_team (c : Crew) (m : Mask) (pc : Word) : (c.setPc m pc).team = c.team := rfl
@[simp] theorem Crew.setPc_index (c : Crew) (m : Mask) (pc : Word) : (c.setPc m pc).index = c.index := rfl
@[simp] theorem Crew.setPc_preds (c : Crew) (m : Mask) (pc : Word) : (c.setPc m pc).preds = c.preds := rfl
@[simp] theorem Crew.setPc_regs (c : Crew) (m : Mask) (pc : Word) : (c.setPc m pc).regs = c.regs := rfl
@[simp] theorem Crew.setPc_allot (c : Crew) (m : Mask) (pc : Word) : (c.setPc m pc).allot = c.allot := rfl
@[simp] theorem Crew.setPc_gbud (c : Crew) (m : Mask) (pc : Word) : (c.setPc m pc).gbud = c.gbud := rfl
@[simp] theorem Crew.setPc_pend (c : Crew) (m : Mask) (pc : Word) : (c.setPc m pc).pend = c.pend := rfl
@[simp] theorem Crew.setPc_cnt (c : Crew) (m : Mask) (pc : Word) : (c.setPc m pc).cnt = c.cnt := rfl
@[simp] theorem Crew.setPc_sp (c : Crew) (m : Mask) (pc : Word) : (c.setPc m pc).sp = c.sp := rfl
@[simp] theorem Crew.setPc_ep (c : Crew) (m : Mask) (pc : Word) : (c.setPc m pc).ep = c.ep := rfl
@[simp] theorem Crew.setPc_seq (c : Crew) (m : Mask) (pc : Word) : (c.setPc m pc).seq = c.seq := rfl
@[simp] theorem Crew.setPc_tw (c : Crew) (m : Mask) (pc : Word) : (c.setPc m pc).tw = c.tw := rfl
@[simp] theorem Crew.setPc_gw (c : Crew) (m : Mask) (pc : Word) : (c.setPc m pc).gw = c.gw := rfl
@[simp] theorem Crew.setPc_repi (c : Crew) (m : Mask) (pc : Word) : (c.setPc m pc).repi = c.repi := rfl
@[simp] theorem Crew.setPc_repGroup (c : Crew) (m : Mask) (pc : Word) : (c.setPc m pc).repGroup = c.repGroup := rfl
@[simp] theorem Crew.setPc_entered (c : Crew) (m : Mask) (pc : Word) : (c.setPc m pc).entered = c.entered := rfl
@[simp] theorem Crew.setPc_sa (c : Crew) (m : Mask) (pc : Word) : (c.setPc m pc).sa = c.sa := rfl
@[simp] theorem Crew.setPc_sb (c : Crew) (m : Mask) (pc : Word) : (c.setPc m pc).sb = c.sb := rfl
@[simp] theorem Crew.setPc_bar (c : Crew) (m : Mask) (pc : Word) : (c.setPc m pc).bar = c.bar := rfl
@[simp] theorem Crew.setPc_gpend (c : Crew) (m : Mask) (pc : Word) : (c.setPc m pc).gpend = c.gpend := rfl
@[simp] theorem Crew.setPc_stalled (c : Crew) (m : Mask) (pc : Word) : (c.setPc m pc).stalled = c.stalled := rfl
@[simp] theorem Crew.setPc_waits (c : Crew) (m : Mask) (pc : Word) : (c.setPc m pc).waits = c.waits := rfl
@[simp] theorem Crew.setPc_status (c : Crew) (m : Mask) (pc : Word) : (c.setPc m pc).status = c.status := rfl
@[simp] theorem Crew.setPc_age (c : Crew) (m : Mask) (pc : Word) : (c.setPc m pc).age = c.age := rfl
@[simp] theorem Crew.setPc_held (c : Crew) (m : Mask) (pc : Word) : (c.setPc m pc).held = c.held := rfl
@[simp] theorem Crew.setPc_holdCount (c : Crew) (m : Mask) (pc : Word) : (c.setPc m pc).holdCount = c.holdCount := rfl
@[simp] theorem Crew.setPc_deadline (c : Crew) (m : Mask) (pc : Word) : (c.setPc m pc).deadline = c.deadline := rfl
@[simp] theorem Crew.setPc_forced (c : Crew) (m : Mask) (pc : Word) : (c.setPc m pc).forced = c.forced := rfl
@[simp] theorem Crew.setPc_landed (c : Crew) (m : Mask) (pc : Word) : (c.setPc m pc).landed = c.landed := rfl
@[simp] theorem Crew.setPc_handler (c : Crew) (m : Mask) (pc : Word) : (c.setPc m pc).handler = c.handler := rfl
@[simp] theorem Crew.setPc_walkFails (c : Crew) (m : Mask) (pc : Word) : (c.setPc m pc).walkFails = c.walkFails := rfl
@[simp] theorem Crew.setPc_checking (c : Crew) (m : Mask) (pc : Word) : (c.setPc m pc).checking = c.checking := rfl
@[simp] theorem Crew.setPc_badRegs (c : Crew) (m : Mask) (pc : Word) : (c.setPc m pc).badRegs = c.badRegs := rfl
@[simp] theorem Crew.setPc_issued (c : Crew) (m : Mask) (pc : Word) : (c.setPc m pc).issued = c.issued := rfl
@[simp] theorem Crew.modThreads_id (c : Crew) (m : Mask) (f : Thread → Thread) : (c.modThreads m f).id = c.id := rfl
@[simp] theorem Crew.modThreads_place (c : Crew) (m : Mask) (f : Thread → Thread) : (c.modThreads m f).place = c.place := rfl
@[simp] theorem Crew.modThreads_home (c : Crew) (m : Mask) (f : Thread → Thread) : (c.modThreads m f).home = c.home := rfl
@[simp] theorem Crew.modThreads_team (c : Crew) (m : Mask) (f : Thread → Thread) : (c.modThreads m f).team = c.team := rfl
@[simp] theorem Crew.modThreads_index (c : Crew) (m : Mask) (f : Thread → Thread) : (c.modThreads m f).index = c.index := rfl
@[simp] theorem Crew.modThreads_preds (c : Crew) (m : Mask) (f : Thread → Thread) : (c.modThreads m f).preds = c.preds := rfl
@[simp] theorem Crew.modThreads_regs (c : Crew) (m : Mask) (f : Thread → Thread) : (c.modThreads m f).regs = c.regs := rfl
@[simp] theorem Crew.modThreads_allot (c : Crew) (m : Mask) (f : Thread → Thread) : (c.modThreads m f).allot = c.allot := rfl
@[simp] theorem Crew.modThreads_gbud (c : Crew) (m : Mask) (f : Thread → Thread) : (c.modThreads m f).gbud = c.gbud := rfl
@[simp] theorem Crew.modThreads_pend (c : Crew) (m : Mask) (f : Thread → Thread) : (c.modThreads m f).pend = c.pend := rfl
@[simp] theorem Crew.modThreads_cnt (c : Crew) (m : Mask) (f : Thread → Thread) : (c.modThreads m f).cnt = c.cnt := rfl
@[simp] theorem Crew.modThreads_sp (c : Crew) (m : Mask) (f : Thread → Thread) : (c.modThreads m f).sp = c.sp := rfl
@[simp] theorem Crew.modThreads_ep (c : Crew) (m : Mask) (f : Thread → Thread) : (c.modThreads m f).ep = c.ep := rfl
@[simp] theorem Crew.modThreads_seq (c : Crew) (m : Mask) (f : Thread → Thread) : (c.modThreads m f).seq = c.seq := rfl
@[simp] theorem Crew.modThreads_tw (c : Crew) (m : Mask) (f : Thread → Thread) : (c.modThreads m f).tw = c.tw := rfl
@[simp] theorem Crew.modThreads_gw (c : Crew) (m : Mask) (f : Thread → Thread) : (c.modThreads m f).gw = c.gw := rfl
@[simp] theorem Crew.modThreads_repi (c : Crew) (m : Mask) (f : Thread → Thread) : (c.modThreads m f).repi = c.repi := rfl
@[simp] theorem Crew.modThreads_repGroup (c : Crew) (m : Mask) (f : Thread → Thread) : (c.modThreads m f).repGroup = c.repGroup := rfl
@[simp] theorem Crew.modThreads_entered (c : Crew) (m : Mask) (f : Thread → Thread) : (c.modThreads m f).entered = c.entered := rfl
@[simp] theorem Crew.modThreads_sa (c : Crew) (m : Mask) (f : Thread → Thread) : (c.modThreads m f).sa = c.sa := rfl
@[simp] theorem Crew.modThreads_sb (c : Crew) (m : Mask) (f : Thread → Thread) : (c.modThreads m f).sb = c.sb := rfl
@[simp] theorem Crew.modThreads_bar (c : Crew) (m : Mask) (f : Thread → Thread) : (c.modThreads m f).bar = c.bar := rfl
@[simp] theorem Crew.modThreads_gpend (c : Crew) (m : Mask) (f : Thread → Thread) : (c.modThreads m f).gpend = c.gpend := rfl
@[simp] theorem Crew.modThreads_stalled (c : Crew) (m : Mask) (f : Thread → Thread) : (c.modThreads m f).stalled = c.stalled := rfl
@[simp] theorem Crew.modThreads_waits (c : Crew) (m : Mask) (f : Thread → Thread) : (c.modThreads m f).waits = c.waits := rfl
@[simp] theorem Crew.modThreads_status (c : Crew) (m : Mask) (f : Thread → Thread) : (c.modThreads m f).status = c.status := rfl
@[simp] theorem Crew.modThreads_age (c : Crew) (m : Mask) (f : Thread → Thread) : (c.modThreads m f).age = c.age := rfl
@[simp] theorem Crew.modThreads_held (c : Crew) (m : Mask) (f : Thread → Thread) : (c.modThreads m f).held = c.held := rfl
@[simp] theorem Crew.modThreads_holdCount (c : Crew) (m : Mask) (f : Thread → Thread) : (c.modThreads m f).holdCount = c.holdCount := rfl
@[simp] theorem Crew.modThreads_deadline (c : Crew) (m : Mask) (f : Thread → Thread) : (c.modThreads m f).deadline = c.deadline := rfl
@[simp] theorem Crew.modThreads_forced (c : Crew) (m : Mask) (f : Thread → Thread) : (c.modThreads m f).forced = c.forced := rfl
@[simp] theorem Crew.modThreads_landed (c : Crew) (m : Mask) (f : Thread → Thread) : (c.modThreads m f).landed = c.landed := rfl
@[simp] theorem Crew.modThreads_handler (c : Crew) (m : Mask) (f : Thread → Thread) : (c.modThreads m f).handler = c.handler := rfl
@[simp] theorem Crew.modThreads_walkFails (c : Crew) (m : Mask) (f : Thread → Thread) : (c.modThreads m f).walkFails = c.walkFails := rfl
@[simp] theorem Crew.modThreads_checking (c : Crew) (m : Mask) (f : Thread → Thread) : (c.modThreads m f).checking = c.checking := rfl
@[simp] theorem Crew.modThreads_badRegs (c : Crew) (m : Mask) (f : Thread → Thread) : (c.modThreads m f).badRegs = c.badRegs := rfl
@[simp] theorem Crew.modThreads_issued (c : Crew) (m : Mask) (f : Thread → Thread) : (c.modThreads m f).issued = c.issued := rfl
@[simp] theorem Crew.release_id (c : Crew) : (c.release).id = c.id := rfl
@[simp] theorem Crew.release_place (c : Crew) : (c.release).place = c.place := rfl
@[simp] theorem Crew.release_home (c : Crew) : (c.release).home = c.home := rfl
@[simp] theorem Crew.release_team (c : Crew) : (c.release).team = c.team := rfl
@[simp] theorem Crew.release_index (c : Crew) : (c.release).index = c.index := rfl
@[simp] theorem Crew.release_preds (c : Crew) : (c.release).preds = c.preds := rfl
@[simp] theorem Crew.release_regs (c : Crew) : (c.release).regs = c.regs := rfl
@[simp] theorem Crew.release_allot (c : Crew) : (c.release).allot = c.allot := rfl
@[simp] theorem Crew.release_gbud (c : Crew) : (c.release).gbud = c.gbud := rfl
@[simp] theorem Crew.release_pend (c : Crew) : (c.release).pend = c.pend := rfl
@[simp] theorem Crew.release_cnt (c : Crew) : (c.release).cnt = c.cnt := rfl
@[simp] theorem Crew.release_sp (c : Crew) : (c.release).sp = c.sp := rfl
@[simp] theorem Crew.release_ep (c : Crew) : (c.release).ep = c.ep := rfl
@[simp] theorem Crew.release_seq (c : Crew) : (c.release).seq = c.seq := rfl
@[simp] theorem Crew.release_tw (c : Crew) : (c.release).tw = c.tw := rfl
@[simp] theorem Crew.release_gw (c : Crew) : (c.release).gw = c.gw := rfl
@[simp] theorem Crew.release_repi (c : Crew) : (c.release).repi = c.repi := rfl
@[simp] theorem Crew.release_repGroup (c : Crew) : (c.release).repGroup = c.repGroup := rfl
@[simp] theorem Crew.release_entered (c : Crew) : (c.release).entered = c.entered := rfl
@[simp] theorem Crew.release_sa (c : Crew) : (c.release).sa = c.sa := rfl
@[simp] theorem Crew.release_sb (c : Crew) : (c.release).sb = c.sb := rfl
@[simp] theorem Crew.release_bar (c : Crew) : (c.release).bar = c.bar := rfl
@[simp] theorem Crew.release_gpend (c : Crew) : (c.release).gpend = c.gpend := rfl
@[simp] theorem Crew.release_stalled (c : Crew) : (c.release).stalled = c.stalled := rfl
@[simp] theorem Crew.release_waits (c : Crew) : (c.release).waits = c.waits := rfl
@[simp] theorem Crew.release_status (c : Crew) : (c.release).status = c.status := rfl
@[simp] theorem Crew.release_age (c : Crew) : (c.release).age = c.age := rfl
@[simp] theorem Crew.release_held (c : Crew) : (c.release).held = c.held := rfl
@[simp] theorem Crew.release_holdCount (c : Crew) : (c.release).holdCount = c.holdCount := rfl
@[simp] theorem Crew.release_deadline (c : Crew) : (c.release).deadline = c.deadline := rfl
@[simp] theorem Crew.release_forced (c : Crew) : (c.release).forced = c.forced := rfl
@[simp] theorem Crew.release_landed (c : Crew) : (c.release).landed = c.landed := rfl
@[simp] theorem Crew.release_handler (c : Crew) : (c.release).handler = c.handler := rfl
@[simp] theorem Crew.release_walkFails (c : Crew) : (c.release).walkFails = c.walkFails := rfl
@[simp] theorem Crew.release_checking (c : Crew) : (c.release).checking = c.checking := rfl
@[simp] theorem Crew.release_badRegs (c : Crew) : (c.release).badRegs = c.badRegs := rfl
@[simp] theorem Crew.release_issued (c : Crew) : (c.release).issued = c.issued := rfl
@[simp] theorem Crew.choose_id (c : Crew) (cu : Cur) : (c.choose cu).id = c.id := rfl
@[simp] theorem Crew.choose_place (c : Crew) (cu : Cur) : (c.choose cu).place = c.place := rfl
@[simp] theorem Crew.choose_home (c : Crew) (cu : Cur) : (c.choose cu).home = c.home := rfl
@[simp] theorem Crew.choose_team (c : Crew) (cu : Cur) : (c.choose cu).team = c.team := rfl
@[simp] theorem Crew.choose_index (c : Crew) (cu : Cur) : (c.choose cu).index = c.index := rfl
@[simp] theorem Crew.choose_preds (c : Crew) (cu : Cur) : (c.choose cu).preds = c.preds := rfl
@[simp] theorem Crew.choose_regs (c : Crew) (cu : Cur) : (c.choose cu).regs = c.regs := rfl
@[simp] theorem Crew.choose_allot (c : Crew) (cu : Cur) : (c.choose cu).allot = c.allot := rfl
@[simp] theorem Crew.choose_gbud (c : Crew) (cu : Cur) : (c.choose cu).gbud = c.gbud := rfl
@[simp] theorem Crew.choose_pend (c : Crew) (cu : Cur) : (c.choose cu).pend = c.pend := rfl
@[simp] theorem Crew.choose_cnt (c : Crew) (cu : Cur) : (c.choose cu).cnt = c.cnt := rfl
@[simp] theorem Crew.choose_sp (c : Crew) (cu : Cur) : (c.choose cu).sp = c.sp := rfl
@[simp] theorem Crew.choose_ep (c : Crew) (cu : Cur) : (c.choose cu).ep = c.ep := rfl
@[simp] theorem Crew.choose_seq (c : Crew) (cu : Cur) : (c.choose cu).seq = c.seq := rfl
@[simp] theorem Crew.choose_tw (c : Crew) (cu : Cur) : (c.choose cu).tw = c.tw := rfl
@[simp] theorem Crew.choose_gw (c : Crew) (cu : Cur) : (c.choose cu).gw = c.gw := rfl
@[simp] theorem Crew.choose_repi (c : Crew) (cu : Cur) : (c.choose cu).repi = c.repi := rfl
@[simp] theorem Crew.choose_repGroup (c : Crew) (cu : Cur) : (c.choose cu).repGroup = c.repGroup := rfl
@[simp] theorem Crew.choose_entered (c : Crew) (cu : Cur) : (c.choose cu).entered = c.entered := rfl
@[simp] theorem Crew.choose_sa (c : Crew) (cu : Cur) : (c.choose cu).sa = c.sa := rfl
@[simp] theorem Crew.choose_sb (c : Crew) (cu : Cur) : (c.choose cu).sb = c.sb := rfl
@[simp] theorem Crew.choose_bar (c : Crew) (cu : Cur) : (c.choose cu).bar = c.bar := rfl
@[simp] theorem Crew.choose_gpend (c : Crew) (cu : Cur) : (c.choose cu).gpend = c.gpend := rfl
@[simp] theorem Crew.choose_stalled (c : Crew) (cu : Cur) : (c.choose cu).stalled = c.stalled := rfl
@[simp] theorem Crew.choose_waits (c : Crew) (cu : Cur) : (c.choose cu).waits = c.waits := rfl
@[simp] theorem Crew.choose_status (c : Crew) (cu : Cur) : (c.choose cu).status = c.status := rfl
@[simp] theorem Crew.choose_age (c : Crew) (cu : Cur) : (c.choose cu).age = c.age := rfl
@[simp] theorem Crew.choose_held (c : Crew) (cu : Cur) : (c.choose cu).held = c.held := rfl
@[simp] theorem Crew.choose_holdCount (c : Crew) (cu : Cur) : (c.choose cu).holdCount = c.holdCount := rfl
@[simp] theorem Crew.choose_deadline (c : Crew) (cu : Cur) : (c.choose cu).deadline = c.deadline := rfl
@[simp] theorem Crew.choose_forced (c : Crew) (cu : Cur) : (c.choose cu).forced = c.forced := rfl
@[simp] theorem Crew.choose_landed (c : Crew) (cu : Cur) : (c.choose cu).landed = c.landed := rfl
@[simp] theorem Crew.choose_handler (c : Crew) (cu : Cur) : (c.choose cu).handler = c.handler := rfl
@[simp] theorem Crew.choose_walkFails (c : Crew) (cu : Cur) : (c.choose cu).walkFails = c.walkFails := rfl
@[simp] theorem Crew.choose_checking (c : Crew) (cu : Cur) : (c.choose cu).checking = c.checking := rfl
@[simp] theorem Crew.choose_badRegs (c : Crew) (cu : Cur) : (c.choose cu).badRegs = c.badRegs := rfl
@[simp] theorem Crew.choose_issued (c : Crew) (cu : Cur) : (c.choose cu).issued = c.issued := rfl
@[simp] theorem Crew.put_id (c : Crew) (r : Nat) (v : RegVal) (act : Mask) : (c.put r v act).id = c.id := rfl
@[simp] theorem Crew.put_place (c : Crew) (r : Nat) (v : RegVal) (act : Mask) : (c.put r v act).place = c.place := rfl
@[simp] theorem Crew.put_home (c : Crew) (r : Nat) (v : RegVal) (act : Mask) : (c.put r v act).home = c.home := rfl
@[simp] theorem Crew.put_team (c : Crew) (r : Nat) (v : RegVal) (act : Mask) : (c.put r v act).team = c.team := rfl
@[simp] theorem Crew.put_index (c : Crew) (r : Nat) (v : RegVal) (act : Mask) : (c.put r v act).index = c.index := rfl
@[simp] theorem Crew.put_threads (c : Crew) (r : Nat) (v : RegVal) (act : Mask) : (c.put r v act).threads = c.threads := rfl
@[simp] theorem Crew.put_preds (c : Crew) (r : Nat) (v : RegVal) (act : Mask) : (c.put r v act).preds = c.preds := rfl
@[simp] theorem Crew.put_allot (c : Crew) (r : Nat) (v : RegVal) (act : Mask) : (c.put r v act).allot = c.allot := rfl
@[simp] theorem Crew.put_gbud (c : Crew) (r : Nat) (v : RegVal) (act : Mask) : (c.put r v act).gbud = c.gbud := rfl
@[simp] theorem Crew.put_pend (c : Crew) (r : Nat) (v : RegVal) (act : Mask) : (c.put r v act).pend = c.pend := rfl
@[simp] theorem Crew.put_cnt (c : Crew) (r : Nat) (v : RegVal) (act : Mask) : (c.put r v act).cnt = c.cnt := rfl
@[simp] theorem Crew.put_sp (c : Crew) (r : Nat) (v : RegVal) (act : Mask) : (c.put r v act).sp = c.sp := rfl
@[simp] theorem Crew.put_ep (c : Crew) (r : Nat) (v : RegVal) (act : Mask) : (c.put r v act).ep = c.ep := rfl
@[simp] theorem Crew.put_seq (c : Crew) (r : Nat) (v : RegVal) (act : Mask) : (c.put r v act).seq = c.seq := rfl
@[simp] theorem Crew.put_tw (c : Crew) (r : Nat) (v : RegVal) (act : Mask) : (c.put r v act).tw = c.tw := rfl
@[simp] theorem Crew.put_gw (c : Crew) (r : Nat) (v : RegVal) (act : Mask) : (c.put r v act).gw = c.gw := rfl
@[simp] theorem Crew.put_repi (c : Crew) (r : Nat) (v : RegVal) (act : Mask) : (c.put r v act).repi = c.repi := rfl
@[simp] theorem Crew.put_repGroup (c : Crew) (r : Nat) (v : RegVal) (act : Mask) : (c.put r v act).repGroup = c.repGroup := rfl
@[simp] theorem Crew.put_entered (c : Crew) (r : Nat) (v : RegVal) (act : Mask) : (c.put r v act).entered = c.entered := rfl
@[simp] theorem Crew.put_sa (c : Crew) (r : Nat) (v : RegVal) (act : Mask) : (c.put r v act).sa = c.sa := rfl
@[simp] theorem Crew.put_sb (c : Crew) (r : Nat) (v : RegVal) (act : Mask) : (c.put r v act).sb = c.sb := rfl
@[simp] theorem Crew.put_bar (c : Crew) (r : Nat) (v : RegVal) (act : Mask) : (c.put r v act).bar = c.bar := rfl
@[simp] theorem Crew.put_gpend (c : Crew) (r : Nat) (v : RegVal) (act : Mask) : (c.put r v act).gpend = c.gpend := rfl
@[simp] theorem Crew.put_stalled (c : Crew) (r : Nat) (v : RegVal) (act : Mask) : (c.put r v act).stalled = c.stalled := rfl
@[simp] theorem Crew.put_waits (c : Crew) (r : Nat) (v : RegVal) (act : Mask) : (c.put r v act).waits = c.waits := rfl
@[simp] theorem Crew.put_status (c : Crew) (r : Nat) (v : RegVal) (act : Mask) : (c.put r v act).status = c.status := rfl
@[simp] theorem Crew.put_age (c : Crew) (r : Nat) (v : RegVal) (act : Mask) : (c.put r v act).age = c.age := rfl
@[simp] theorem Crew.put_held (c : Crew) (r : Nat) (v : RegVal) (act : Mask) : (c.put r v act).held = c.held := rfl
@[simp] theorem Crew.put_holdCount (c : Crew) (r : Nat) (v : RegVal) (act : Mask) : (c.put r v act).holdCount = c.holdCount := rfl
@[simp] theorem Crew.put_deadline (c : Crew) (r : Nat) (v : RegVal) (act : Mask) : (c.put r v act).deadline = c.deadline := rfl
@[simp] theorem Crew.put_forced (c : Crew) (r : Nat) (v : RegVal) (act : Mask) : (c.put r v act).forced = c.forced := rfl
@[simp] theorem Crew.put_landed (c : Crew) (r : Nat) (v : RegVal) (act : Mask) : (c.put r v act).landed = c.landed := rfl
@[simp] theorem Crew.put_handler (c : Crew) (r : Nat) (v : RegVal) (act : Mask) : (c.put r v act).handler = c.handler := rfl
@[simp] theorem Crew.put_walkFails (c : Crew) (r : Nat) (v : RegVal) (act : Mask) : (c.put r v act).walkFails = c.walkFails := rfl
@[simp] theorem Crew.put_checking (c : Crew) (r : Nat) (v : RegVal) (act : Mask) : (c.put r v act).checking = c.checking := rfl
@[simp] theorem Crew.putPred_id (c : Crew) (p : Nat) (m act : Mask) : (c.putPred p m act).id = c.id := rfl
@[simp] theorem Crew.putPred_place (c : Crew) (p : Nat) (m act : Mask) : (c.putPred p m act).place = c.place := rfl
@[simp] theorem Crew.putPred_home (c : Crew) (p : Nat) (m act : Mask) : (c.putPred p m act).home = c.home := rfl
@[simp] theorem Crew.putPred_team (c : Crew) (p : Nat) (m act : Mask) : (c.putPred p m act).team = c.team := rfl
@[simp] theorem Crew.putPred_index (c : Crew) (p : Nat) (m act : Mask) : (c.putPred p m act).index = c.index := rfl
@[simp] theorem Crew.putPred_threads (c : Crew) (p : Nat) (m act : Mask) : (c.putPred p m act).threads = c.threads := rfl
@[simp] theorem Crew.putPred_regs (c : Crew) (p : Nat) (m act : Mask) : (c.putPred p m act).regs = c.regs := rfl
@[simp] theorem Crew.putPred_allot (c : Crew) (p : Nat) (m act : Mask) : (c.putPred p m act).allot = c.allot := rfl
@[simp] theorem Crew.putPred_gbud (c : Crew) (p : Nat) (m act : Mask) : (c.putPred p m act).gbud = c.gbud := rfl
@[simp] theorem Crew.putPred_pend (c : Crew) (p : Nat) (m act : Mask) : (c.putPred p m act).pend = c.pend := rfl
@[simp] theorem Crew.putPred_cnt (c : Crew) (p : Nat) (m act : Mask) : (c.putPred p m act).cnt = c.cnt := rfl
@[simp] theorem Crew.putPred_sp (c : Crew) (p : Nat) (m act : Mask) : (c.putPred p m act).sp = c.sp := rfl
@[simp] theorem Crew.putPred_ep (c : Crew) (p : Nat) (m act : Mask) : (c.putPred p m act).ep = c.ep := rfl
@[simp] theorem Crew.putPred_seq (c : Crew) (p : Nat) (m act : Mask) : (c.putPred p m act).seq = c.seq := rfl
@[simp] theorem Crew.putPred_tw (c : Crew) (p : Nat) (m act : Mask) : (c.putPred p m act).tw = c.tw := rfl
@[simp] theorem Crew.putPred_gw (c : Crew) (p : Nat) (m act : Mask) : (c.putPred p m act).gw = c.gw := rfl
@[simp] theorem Crew.putPred_repi (c : Crew) (p : Nat) (m act : Mask) : (c.putPred p m act).repi = c.repi := rfl
@[simp] theorem Crew.putPred_repGroup (c : Crew) (p : Nat) (m act : Mask) : (c.putPred p m act).repGroup = c.repGroup := rfl
@[simp] theorem Crew.putPred_entered (c : Crew) (p : Nat) (m act : Mask) : (c.putPred p m act).entered = c.entered := rfl
@[simp] theorem Crew.putPred_sa (c : Crew) (p : Nat) (m act : Mask) : (c.putPred p m act).sa = c.sa := rfl
@[simp] theorem Crew.putPred_sb (c : Crew) (p : Nat) (m act : Mask) : (c.putPred p m act).sb = c.sb := rfl
@[simp] theorem Crew.putPred_bar (c : Crew) (p : Nat) (m act : Mask) : (c.putPred p m act).bar = c.bar := rfl
@[simp] theorem Crew.putPred_gpend (c : Crew) (p : Nat) (m act : Mask) : (c.putPred p m act).gpend = c.gpend := rfl
@[simp] theorem Crew.putPred_stalled (c : Crew) (p : Nat) (m act : Mask) : (c.putPred p m act).stalled = c.stalled := rfl
@[simp] theorem Crew.putPred_waits (c : Crew) (p : Nat) (m act : Mask) : (c.putPred p m act).waits = c.waits := rfl
@[simp] theorem Crew.putPred_status (c : Crew) (p : Nat) (m act : Mask) : (c.putPred p m act).status = c.status := rfl
@[simp] theorem Crew.putPred_age (c : Crew) (p : Nat) (m act : Mask) : (c.putPred p m act).age = c.age := rfl
@[simp] theorem Crew.putPred_held (c : Crew) (p : Nat) (m act : Mask) : (c.putPred p m act).held = c.held := rfl
@[simp] theorem Crew.putPred_holdCount (c : Crew) (p : Nat) (m act : Mask) : (c.putPred p m act).holdCount = c.holdCount := rfl
@[simp] theorem Crew.putPred_deadline (c : Crew) (p : Nat) (m act : Mask) : (c.putPred p m act).deadline = c.deadline := rfl
@[simp] theorem Crew.putPred_forced (c : Crew) (p : Nat) (m act : Mask) : (c.putPred p m act).forced = c.forced := rfl
@[simp] theorem Crew.putPred_landed (c : Crew) (p : Nat) (m act : Mask) : (c.putPred p m act).landed = c.landed := rfl
@[simp] theorem Crew.putPred_handler (c : Crew) (p : Nat) (m act : Mask) : (c.putPred p m act).handler = c.handler := rfl
@[simp] theorem Crew.putPred_walkFails (c : Crew) (p : Nat) (m act : Mask) : (c.putPred p m act).walkFails = c.walkFails := rfl
@[simp] theorem Crew.putPred_checking (c : Crew) (p : Nat) (m act : Mask) : (c.putPred p m act).checking = c.checking := rfl
@[simp] theorem Crew.putPred_badRegs (c : Crew) (p : Nat) (m act : Mask) : (c.putPred p m act).badRegs = c.badRegs := rfl
@[simp] theorem Crew.putPred_issued (c : Crew) (p : Nat) (m act : Mask) : (c.putPred p m act).issued = c.issued := rfl
@[simp] theorem Crew.orFlags_id (c : Crew) (f : BitVec 5) : (c.orFlags f).id = c.id := rfl
@[simp] theorem Crew.orFlags_place (c : Crew) (f : BitVec 5) : (c.orFlags f).place = c.place := rfl
@[simp] theorem Crew.orFlags_home (c : Crew) (f : BitVec 5) : (c.orFlags f).home = c.home := rfl
@[simp] theorem Crew.orFlags_team (c : Crew) (f : BitVec 5) : (c.orFlags f).team = c.team := rfl
@[simp] theorem Crew.orFlags_index (c : Crew) (f : BitVec 5) : (c.orFlags f).index = c.index := rfl
@[simp] theorem Crew.orFlags_threads (c : Crew) (f : BitVec 5) : (c.orFlags f).threads = c.threads := rfl
@[simp] theorem Crew.orFlags_preds (c : Crew) (f : BitVec 5) : (c.orFlags f).preds = c.preds := rfl
@[simp] theorem Crew.orFlags_regs (c : Crew) (f : BitVec 5) : (c.orFlags f).regs = c.regs := rfl
@[simp] theorem Crew.orFlags_allot (c : Crew) (f : BitVec 5) : (c.orFlags f).allot = c.allot := rfl
@[simp] theorem Crew.orFlags_gbud (c : Crew) (f : BitVec 5) : (c.orFlags f).gbud = c.gbud := rfl
@[simp] theorem Crew.orFlags_pend (c : Crew) (f : BitVec 5) : (c.orFlags f).pend = c.pend := rfl
@[simp] theorem Crew.orFlags_cnt (c : Crew) (f : BitVec 5) : (c.orFlags f).cnt = c.cnt := rfl
@[simp] theorem Crew.orFlags_ep (c : Crew) (f : BitVec 5) : (c.orFlags f).ep = c.ep := rfl
@[simp] theorem Crew.orFlags_seq (c : Crew) (f : BitVec 5) : (c.orFlags f).seq = c.seq := rfl
@[simp] theorem Crew.orFlags_tw (c : Crew) (f : BitVec 5) : (c.orFlags f).tw = c.tw := rfl
@[simp] theorem Crew.orFlags_gw (c : Crew) (f : BitVec 5) : (c.orFlags f).gw = c.gw := rfl
@[simp] theorem Crew.orFlags_repi (c : Crew) (f : BitVec 5) : (c.orFlags f).repi = c.repi := rfl
@[simp] theorem Crew.orFlags_repGroup (c : Crew) (f : BitVec 5) : (c.orFlags f).repGroup = c.repGroup := rfl
@[simp] theorem Crew.orFlags_entered (c : Crew) (f : BitVec 5) : (c.orFlags f).entered = c.entered := rfl
@[simp] theorem Crew.orFlags_sa (c : Crew) (f : BitVec 5) : (c.orFlags f).sa = c.sa := rfl
@[simp] theorem Crew.orFlags_sb (c : Crew) (f : BitVec 5) : (c.orFlags f).sb = c.sb := rfl
@[simp] theorem Crew.orFlags_bar (c : Crew) (f : BitVec 5) : (c.orFlags f).bar = c.bar := rfl
@[simp] theorem Crew.orFlags_gpend (c : Crew) (f : BitVec 5) : (c.orFlags f).gpend = c.gpend := rfl
@[simp] theorem Crew.orFlags_stalled (c : Crew) (f : BitVec 5) : (c.orFlags f).stalled = c.stalled := rfl
@[simp] theorem Crew.orFlags_waits (c : Crew) (f : BitVec 5) : (c.orFlags f).waits = c.waits := rfl
@[simp] theorem Crew.orFlags_status (c : Crew) (f : BitVec 5) : (c.orFlags f).status = c.status := rfl
@[simp] theorem Crew.orFlags_age (c : Crew) (f : BitVec 5) : (c.orFlags f).age = c.age := rfl
@[simp] theorem Crew.orFlags_held (c : Crew) (f : BitVec 5) : (c.orFlags f).held = c.held := rfl
@[simp] theorem Crew.orFlags_holdCount (c : Crew) (f : BitVec 5) : (c.orFlags f).holdCount = c.holdCount := rfl
@[simp] theorem Crew.orFlags_deadline (c : Crew) (f : BitVec 5) : (c.orFlags f).deadline = c.deadline := rfl
@[simp] theorem Crew.orFlags_forced (c : Crew) (f : BitVec 5) : (c.orFlags f).forced = c.forced := rfl
@[simp] theorem Crew.orFlags_landed (c : Crew) (f : BitVec 5) : (c.orFlags f).landed = c.landed := rfl
@[simp] theorem Crew.orFlags_handler (c : Crew) (f : BitVec 5) : (c.orFlags f).handler = c.handler := rfl
@[simp] theorem Crew.orFlags_walkFails (c : Crew) (f : BitVec 5) : (c.orFlags f).walkFails = c.walkFails := rfl
@[simp] theorem Crew.orFlags_checking (c : Crew) (f : BitVec 5) : (c.orFlags f).checking = c.checking := rfl
@[simp] theorem Crew.orFlags_badRegs (c : Crew) (f : BitVec 5) : (c.orFlags f).badRegs = c.badRegs := rfl
@[simp] theorem Crew.orFlags_issued (c : Crew) (f : BitVec 5) : (c.orFlags f).issued = c.issued := rfl
@[simp] theorem Crew.advance_regs (c : Crew) (cu : Cur) : (c.advance cu).regs = c.regs := by unfold Crew.advance; dsimp only; split <;> rfl
@[simp] theorem Crew.advance_id (c : Crew) (cu : Cur) : (c.advance cu).id = c.id := by unfold Crew.advance; dsimp only; split <;> rfl
@[simp] theorem Crew.advance_place (c : Crew) (cu : Cur) : (c.advance cu).place = c.place := by unfold Crew.advance; dsimp only; split <;> rfl
@[simp] theorem Crew.advance_home (c : Crew) (cu : Cur) : (c.advance cu).home = c.home := by unfold Crew.advance; dsimp only; split <;> rfl
@[simp] theorem Crew.advance_team (c : Crew) (cu : Cur) : (c.advance cu).team = c.team := by unfold Crew.advance; dsimp only; split <;> rfl
@[simp] theorem Crew.advance_index (c : Crew) (cu : Cur) : (c.advance cu).index = c.index := by unfold Crew.advance; dsimp only; split <;> rfl
@[simp] theorem Crew.advance_preds (c : Crew) (cu : Cur) : (c.advance cu).preds = c.preds := by unfold Crew.advance; dsimp only; split <;> rfl
@[simp] theorem Crew.advance_allot (c : Crew) (cu : Cur) : (c.advance cu).allot = c.allot := by unfold Crew.advance; dsimp only; split <;> rfl
@[simp] theorem Crew.advance_gbud (c : Crew) (cu : Cur) : (c.advance cu).gbud = c.gbud := by unfold Crew.advance; dsimp only; split <;> rfl
@[simp] theorem Crew.advance_cnt (c : Crew) (cu : Cur) : (c.advance cu).cnt = c.cnt := by unfold Crew.advance; dsimp only; split <;> rfl
@[simp] theorem Crew.advance_sp (c : Crew) (cu : Cur) : (c.advance cu).sp = c.sp := by unfold Crew.advance; dsimp only; split <;> rfl
@[simp] theorem Crew.advance_ep (c : Crew) (cu : Cur) : (c.advance cu).ep = c.ep := by unfold Crew.advance; dsimp only; split <;> rfl
@[simp] theorem Crew.advance_seq (c : Crew) (cu : Cur) : (c.advance cu).seq = c.seq := by unfold Crew.advance; dsimp only; split <;> rfl
@[simp] theorem Crew.advance_tw (c : Crew) (cu : Cur) : (c.advance cu).tw = c.tw := by unfold Crew.advance; dsimp only; split <;> rfl
@[simp] theorem Crew.advance_gw (c : Crew) (cu : Cur) : (c.advance cu).gw = c.gw := by unfold Crew.advance; dsimp only; split <;> rfl
@[simp] theorem Crew.advance_entered (c : Crew) (cu : Cur) : (c.advance cu).entered = c.entered := by unfold Crew.advance; dsimp only; split <;> rfl
@[simp] theorem Crew.advance_sa (c : Crew) (cu : Cur) : (c.advance cu).sa = c.sa := by unfold Crew.advance; dsimp only; split <;> rfl
@[simp] theorem Crew.advance_sb (c : Crew) (cu : Cur) : (c.advance cu).sb = c.sb := by unfold Crew.advance; dsimp only; split <;> rfl
@[simp] theorem Crew.advance_bar (c : Crew) (cu : Cur) : (c.advance cu).bar = c.bar := by unfold Crew.advance; dsimp only; split <;> rfl
@[simp] theorem Crew.advance_gpend (c : Crew) (cu : Cur) : (c.advance cu).gpend = c.gpend := by unfold Crew.advance; dsimp only; split <;> rfl
@[simp] theorem Crew.advance_stalled (c : Crew) (cu : Cur) : (c.advance cu).stalled = c.stalled := by unfold Crew.advance; dsimp only; split <;> rfl
@[simp] theorem Crew.advance_waits (c : Crew) (cu : Cur) : (c.advance cu).waits = c.waits := by unfold Crew.advance; dsimp only; split <;> rfl
@[simp] theorem Crew.advance_status (c : Crew) (cu : Cur) : (c.advance cu).status = c.status := by unfold Crew.advance; dsimp only; split <;> rfl
@[simp] theorem Crew.advance_age (c : Crew) (cu : Cur) : (c.advance cu).age = c.age := by unfold Crew.advance; dsimp only; split <;> rfl
@[simp] theorem Crew.advance_deadline (c : Crew) (cu : Cur) : (c.advance cu).deadline = c.deadline := by unfold Crew.advance; dsimp only; split <;> rfl
@[simp] theorem Crew.advance_forced (c : Crew) (cu : Cur) : (c.advance cu).forced = c.forced := by unfold Crew.advance; dsimp only; split <;> rfl
@[simp] theorem Crew.advance_landed (c : Crew) (cu : Cur) : (c.advance cu).landed = c.landed := by unfold Crew.advance; dsimp only; split <;> rfl
@[simp] theorem Crew.advance_handler (c : Crew) (cu : Cur) : (c.advance cu).handler = c.handler := by unfold Crew.advance; dsimp only; split <;> rfl
@[simp] theorem Crew.advance_walkFails (c : Crew) (cu : Cur) : (c.advance cu).walkFails = c.walkFails := by unfold Crew.advance; dsimp only; split <;> rfl
@[simp] theorem Crew.advance_checking (c : Crew) (cu : Cur) : (c.advance cu).checking = c.checking := by unfold Crew.advance; dsimp only; split <;> rfl
@[simp] theorem Crew.advance_badRegs (c : Crew) (cu : Cur) : (c.advance cu).badRegs = c.badRegs := by unfold Crew.advance; dsimp only; split <;> rfl
@[simp] theorem Crew.advance_issued (c : Crew) (cu : Cur) : (c.advance cu).issued = true := rfl

/-! ## Crews by their number -/

theorem Dev.crew_id {d : Dev} {id : Nat} {c : Crew} (h : d.crew id = some c) : c.id = id := by
  have := List.find?_some h
  simpa using this

/-- A changed crew is found again under its number. -/
@[simp] theorem Dev.modCrew_crew (d : Dev) (id : Nat) (f : Crew → Crew) (hf : ∀ c, (f c).id = c.id) (n : Nat) :
    (d.modCrew id f).crew n = if n = id then (d.crew n).map f else d.crew n := by
  unfold Dev.modCrew Dev.crew
  dsimp only
  induction d.crews with
  | nil => simp
  | cons x l ih =>
    simp only [List.map_cons, List.find?_cons]
    have hi : (if x.id = id then f x else x).id = x.id := by split <;> simp [hf]
    simp only [beq_iff_eq] at ih ⊢
    rw [hi]
    cases hxn : x.id == n with
    | false => simpa using ih
    | true =>
      have : x.id = n := by simpa using hxn
      subst this
      by_cases h : x.id = id <;> simp [h]

theorem Dev.setCrew_eq (d : Dev) (c : Crew) : d.setCrew c = d.modCrew c.id fun _ => c := rfl

/-- A crew put in place of the one with its number. -/
theorem Dev.setCrew_crew (d : Dev) (c : Crew) (n : Nat) :
    (d.setCrew c).crew n = if n = c.id then (d.crew n).map (fun _ => c) else d.crew n := by
  unfold Dev.setCrew Dev.crew
  dsimp only
  induction d.crews with
  | nil => simp
  | cons x l ih =>
    simp only [List.map_cons, List.find?_cons]
    have hi : (if x.id = c.id then c else x).id = x.id := by split <;> simp_all
    simp only [beq_iff_eq] at ih ⊢
    rw [hi]
    cases hxn : x.id == n with
    | false => simpa using ih
    | true =>
      have : x.id = n := by simpa using hxn
      subst this
      by_cases h : x.id = c.id <;> simp [h]

end Sys2Proof.Machine
end

