-- ==== Sys2Proof/Laws/Issue.lean ====
section
/-! SUPPORT. Issue laws: what `event` and `issue` can answer, when an instruction issues, and what the end of an issue leaves. -/

namespace Sys2Proof.Machine

/-! ## Answers -/

/-- A device step answers a next state: the work its effect leaves, or the state as it was. -/
theorem event_cases (s : State) (f : Work → Option Work) :
    (∃ w, f s.work = some w ∧ event s f = .next (s.after w)) ∨ (f s.work = none ∧ event s f = .next s) := by
  unfold event
  cases h : f s.work with
  | none => exact .inr ⟨rfl, rfl⟩
  | some w => exact .inl ⟨w, rfl, rfl⟩

/-- A device step whose precondition holds. -/
theorem event_some {s : State} {f : Work → Option Work} {w : Work} (h : f s.work = some w) : event s f = .next (s.after w) := by
  simp [event, h]

/-- An issue answers a next state: the state itself, a stop, a hold, the end of a check, a check put off, a wait, or the end of the issue. -/
theorem issue_cases (s : State) (g : Guard) (u : Use) (body : Iss → Work → Res) :
    ∃ t, issue s g u body = .next t ∧ (t = s ∨ (∃ cu f, t = s.stop cu f) ∨ (∃ cu, t = s.heldBack cu) ∨ (∃ cu, t = s.endTrial cu u) ∨
      (∃ cu w x, t = s.waitAgain cu w x u.writes) ∨ (∃ cu w x, t = s.checkAgain cu w x) ∨ ∃ cu c w, t = s.finish cu c w) := by
  unfold issue
  split
  · exact ⟨s, rfl, .inl rfl⟩
  · split
    · exact ⟨s, rfl, .inl rfl⟩
    · dsimp only
      split
      · exact ⟨_, rfl, .inr (.inl ⟨_, _, rfl⟩)⟩
      · exact ⟨_, rfl, .inr (.inr (.inl ⟨_, rfl⟩))⟩
      · split
        · exact ⟨_, rfl, .inr (.inr (.inr (.inl ⟨_, rfl⟩)))⟩
        · split
          · split
            · exact ⟨_, rfl, .inr (.inr (.inr (.inl ⟨_, rfl⟩)))⟩
            · exact ⟨_, rfl, .inr (.inr (.inr (.inr (.inr (.inr ⟨_, _, _, rfl⟩)))))⟩
          · split
            · exact ⟨_, rfl, .inr (.inl ⟨_, _, rfl⟩)⟩
            · split
              · exact ⟨_, rfl, .inr (.inr (.inr (.inr (.inr (.inl ⟨_, _, _, rfl⟩)))))⟩
              · split
                · exact ⟨_, rfl, .inr (.inr (.inr (.inl ⟨_, rfl⟩)))⟩
                · exact ⟨_, rfl, .inr (.inr (.inr (.inr (.inl ⟨_, _, _, rfl⟩))))⟩
            · split
              · exact ⟨_, rfl, .inr (.inr (.inr (.inl ⟨_, rfl⟩)))⟩
              · exact ⟨_, rfl, .inr (.inr (.inr (.inr (.inr (.inr ⟨_, _, _, rfl⟩)))))⟩

/-- Every issue answers a next state. -/
theorem issue_next (s : State) (g : Guard) (u : Use) (body : Iss → Work → Res) : ∃ t, issue s g u body = .next t :=
  let ⟨t, h, _⟩ := issue_cases s g u body; ⟨t, h⟩

/-- Every device step answers a next state. -/
theorem event_next (s : State) (f : Work → Option Work) : ∃ t, event s f = .next t := by
  rcases event_cases s f with ⟨w, _, h⟩ | ⟨_, h⟩ <;> exact ⟨_, h⟩

/-! ## When an instruction issues -/

theorem mem_lanes {l : Nat} : l ∈ lanes ↔ l < 32 := by simp [lanes]

theorem mem_maskLanes {m : Mask} {l : Nat} : l ∈ maskLanes m ↔ l < 32 ∧ m.getLsbD l = true := by
  simp [maskLanes, mem_lanes]

/-- The checks made at issue pass for an instruction that is ready. -/
theorem Ready.gate {s : State} {cu : Cur} {c : Crew} {g : Guard} {u : Use} (h : Ready s cu c g (u.reads ++ u.writes))
    (hs : u.slots.permits c = true) (hl : u.home = true → c.landed = false) (hp : u.pends = true → c.wouldExceed u = false)
    (hr : u.refused = false) : c.gate cu u (activeLanes cu c g) s.trial = .go := by
  have ht : s.trial = false := by simp [State.trial, h.alone]
  have hv : c.violates (activeLanes cu c g) u = false := by
    unfold Crew.violates
    rw [List.any_eq_false]
    intro p hp
    simp only [Bool.and_eq_true, not_and, Bool.not_eq_true, List.any_eq_false, decide_eq_true_eq, not_le]
    intro ht l hl
    obtain ⟨hl, ha⟩ := mem_maskLanes.1 hl
    refine (h.free p hp l hl).2 ha ?_
    simpa [Use.touches] using ht
  have hm : c.mustWait cu.group = false := by
    unfold Crew.mustWait
    rw [List.any_eq_false]
    intro p hp
    simp only [Bool.not_eq_true, List.any_eq_false, beq_iff_eq]
    intro l hl
    obtain ⟨hl, ha⟩ := mem_maskLanes.1 hl
    exact (h.free p hp l hl).1 ha
  have ha : ((u.reads ++ u.writes).any fun r => !c.allotted r) = false := by
    rw [List.any_eq_false]
    intro r hr
    obtain ⟨h1, h2⟩ := h.allotted r hr
    simp [Crew.allotted, h1, h2]
  have hl' : (u.home && c.landed) = false := by
    cases hh : u.home
    · rfl
    · simp [hl hh]
  have hp' : (u.pends && c.wouldExceed u) = false := by
    cases hh : u.pends
    · rfl
    · simp [hp hh]
  have hb : ((u.reads ++ u.writes).any (c.meetsBad u (activeLanes cu c g))) = false := by
    rw [List.any_eq_false]
    intro r hr
    simp [Crew.meetsBad, h.sound r hr]
  unfold Crew.gate
  simp only [hs, hr, h.timer, hv, hm, ha, hl', hp', hb, Bool.not_true, Bool.false_and, Bool.false_eq_true, if_false, ite_self]

/-- What an instruction that is ready answers, as the answer of its effect. -/
theorem issue_ready {s : State} {cu : Cur} {c : Crew} {g : Guard} {u : Use} {body : Iss → Work → Res}
    (h : Ready s cu c g (u.reads ++ u.writes)) (hs : u.slots.permits c = true) (hl : u.home = true → c.landed = false)
    (hp : u.pends = true → c.wouldExceed u = false) (hr : u.refused = false) :
    issue s g u body = match body { cu := cu, c := c, act := activeLanes cu c g, w0 := s.chosen cu c } (s.begun cu c) with
      | .fault f => .next (s.stop cu f)
      | .again w x => .next (s.waitAgain cu w x u.writes)
      | .ok w => .next (s.finish cu c w) := by
  have ht : s.trial = false := by simp [State.trial, h.alone]
  have hact : (activeLanes cu c g == 0) = false := by simpa using h.active
  unfold issue
  rw [h.cur]
  dsimp only
  rw [h.crew]
  dsimp only
  rw [show cu.group &&& c.guard g = activeLanes cu c g from rfl, h.gate hs hl hp hr]
  have hu : ∀ x, s.unchecked x = false := fun x => by simp [State.unchecked, h.alone]
  simp only [ht, hact, hu, Bool.false_and, Bool.false_eq_true, if_false]
  all_goals rfl

/-- An instruction that is ready and whose effect is complete is finished. -/
theorem issue_ok {s : State} {cu : Cur} {c : Crew} {g : Guard} {u : Use} {body : Iss → Work → Res} {w : Work}
    (h : Ready s cu c g (u.reads ++ u.writes)) (hs : u.slots.permits c = true) (hl : u.home = true → c.landed = false)
    (hp : u.pends = true → c.wouldExceed u = false) (hr : u.refused = false)
    (hb : body { cu := cu, c := c, act := activeLanes cu c g, w0 := s.chosen cu c } (s.begun cu c) = .ok w) :
    issue s g u body = .next (s.finish cu c w) := by
  rw [issue_ready h hs hl hp hr, hb]

/-! ## Lists -/

theorem getD_setNth {α : Type} (x : α) (l : List α) (i : Nat) (f : α → α) (j : Nat) :
    (setNth x l i f).getD j x = if j = i then f (l.getD i x) else l.getD j x := by
  induction l generalizing i j with
  | nil =>
    induction i generalizing j with
    | zero => cases j <;> simp [setNth]
    | succ n ih => cases j with
      | zero => simp [setNth]
      | succ j => simpa [setNth] using ih j
  | cons a r ih =>
    cases i with
    | zero => cases j <;> simp [setNth]
    | succ n => cases j with
      | zero => simp [setNth]
      | succ j => simpa [setNth] using ih n j

theorem getA_putA {α : Type} (l : List (Nat × α)) (k : Nat) (v : α) (j : Nat) (x : α) :
    getA (putA l k v) j x = if j = k then v else getA l j x := by
  induction l with
  | nil =>
    by_cases h : j = k
    · simp [putA, getA, h]
    · have : ¬ k = j := fun e => h e.symm
      simp [putA, getA, h, this]
  | cons p r ih =>
    unfold putA
    split
    · by_cases h : j = k
      · simp [getA, h]
      · have : ¬ k = j := fun e => h e.symm
        simp [getA, h, this]
    · split
      · rename_i hk
        have hk : k = p.1 := by simpa using hk
        by_cases h : k = j
        · simp [getA, h]
        · have : ¬ p.1 = j := hk ▸ h
          have h' : ¬ j = k := fun e => h e.symm
          simp [getA, h, h', this]
      · rename_i hk
        have hk : ¬ k = p.1 := by simpa using hk
        by_cases h : p.1 = j
        · have : ¬ j = k := fun e => hk (e ▸ h.symm)
          simp [getA, h, this]
        · simp [getA, h, ih]

@[simp] theorem Dev.modCore_core (d : Dev) (t k : Nat) (f : Core → Core) (t' k' : Nat) :
    (d.modCore t k f).core t' k' = if coreKey t' k' = coreKey t k then f (d.core t k) else d.core t' k' := by
  simp [Dev.core, Dev.modCore, getA_putA]

/-! ## Registers, predicates and threads of a crew -/

theorem Crew.reg_put (c : Crew) (r : Nat) (v : RegVal) (act : Mask) (j : Nat) :
    (c.put r v act).reg j = if j = r then (c.reg r).merge v (c.full act) act else c.reg j := getD_setNth _ _ _ _ _

theorem Crew.pred_putPred (c : Crew) (p : Nat) (m act : Mask) (j : Nat) (hp : p ≠ 7) :
    (c.putPred p m act).pred j = if j = p then (c.pred p &&& ~~~ act) ||| (m &&& act) else c.pred j := by
  by_cases h7 : j = 7
  · subst h7
    have : ¬ 7 = p := fun h => hp h.symm
    simp [Crew.pred, this]
  · have := getD_setNth (0 : Mask) c.preds p (fun old => (old &&& ~~~ act) ||| (m &&& act)) j
    simp only [Crew.pred, Crew.putPred, beq_iff_eq, h7, hp, if_false]
    exact this

@[simp] theorem Crew.val_of_reg {c c' : Crew} {r : Nat} (h : c'.reg r = c.reg r) (l : Nat) : c'.val r l = c.val r l := by
  simp [Crew.val, h]

theorem getD_map_lanes {α : Type} (f : Nat → α) (l : Nat) (x : α) (h : l < 32) : (lanes.map f).getD l x = f l := by
  simp [lanes, List.getD_eq_getElem?_getD, h]

/-- A lane of a written register: the value written in an active lane, the old one in the lane of a thread that has not exited. -/
theorem RegVal.lane_merge_active (old new : RegVal) (full : Bool) (act : Mask) (l : Nat) (hl : l < 32) (ha : act.getLsbD l = true) :
    (old.merge new full act).lane l = new.lane l := by
  unfold RegVal.merge
  split
  · rfl
  · rfl
  · simp only [RegVal.lane]
    rw [getD_map_lanes _ _ _ hl, if_pos ha]

theorem RegVal.lane_merge_inactive (old new : RegVal) (act : Mask) (l : Nat) (hl : l < 32) (ha : act.getLsbD l = false) :
    (old.merge new false act).lane l = old.lane l := by
  unfold RegVal.merge
  simp only [RegVal.lane]
  rw [getD_map_lanes _ _ _ hl, if_neg (by simp [ha])]

/-- The bits of a list of lanes packed from the low bit up. -/
theorem testBit_lanes (f : Nat → Bool) (n k l : Nat) :
    ((List.range' k n).foldr (fun l m => 2 * m + (if f l then 1 else 0)) 0).testBit l = (decide (l < n) && f (k + l)) := by
  induction n generalizing l k with
  | zero => simp
  | succ n ih =>
    rw [List.range'_succ, List.foldr_cons]
    have hb : (if f k = true then 1 else 0) < 2 := by split <;> omega
    cases l with
    | zero =>
      rw [Nat.testBit_zero]
      cases h : f k <;> simp
    | succ l =>
      have hd : ∀ r b : Nat, b < 2 → (2 * r + b) / 2 = r := fun r b h => by omega
      rw [Nat.testBit_succ, hd _ _ hb, ih]
      simp [show k + 1 + l = k + (l + 1) by omega]

/-- The lanes of the mask of a test. -/
theorem maskOf_getLsbD (f : Nat → Bool) (l : Nat) (hl : l < 32) : (maskOf f).getLsbD l = f l := by
  have := testBit_lanes f 32 0 l
  simp only [maskOf, lanes, List.range_eq_range', BitVec.getLsbD_ofNat, this, hl, decide_true, Bool.true_and, Nat.zero_add]

/-! ## The end of an issue -/

theorem Crew.thread_release (c : Crew) (l : Nat) (t : Thread) (h : c.threads[l]? = some t) :
    ∃ t', c.release.threads[l]? = some t' ∧ t'.pc = t.pc ∧ t'.exited = t.exited ∧ (t'.m = t.m ∨ t'.m = mNone) := by
  unfold Crew.release
  simp only [List.getElem?_map, h, Option.map_some]
  split
  · exact ⟨_, rfl, rfl, rfl, .inr rfl⟩
  · exact ⟨_, rfl, rfl, rfl, .inl rfl⟩

/-- Two devices that agree but for one crew, the run-overflow counts and the numbers of the model's own. -/
structure DevKept (d d' : Dev) (id : Nat) : Prop where
  crews : ∀ n, n ≠ id → d'.crew n = d.crew n
  cores : ∀ tw k, ∃ n, d'.core tw k = { d.core tw k with runOverflow := n }
  teams : d'.teams = d.teams
  grids : d'.grids = d.grids
  ctxs : d'.ctxs = d.ctxs
  parts : d'.parts = d.parts
  ops : d'.ops = d.ops
  fences : d'.fences = d.fences
  clusters : d'.clusters = d.clusters
  towers : d'.towers = d.towers
  links : d'.links = d.links
  host : d'.host = d.host
  nv : d'.nv = d.nv
  boot : d'.boot = d.boot

theorem DevKept.refl (d : Dev) (id : Nat) : DevKept d d id :=
  ⟨fun _ _ => rfl, fun tw k => ⟨(d.core tw k).runOverflow, rfl⟩, rfl, rfl, rfl, rfl, rfl, rfl, rfl, rfl, rfl, rfl, rfl, rfl⟩

theorem DevKept.trans {a b c : Dev} {id : Nat} (h : DevKept a b id) (k : DevKept b c id) : DevKept a c id :=
  ⟨fun n hn => (k.crews n hn).trans (h.crews n hn),
   fun tw x => by
     obtain ⟨n, hn⟩ := h.cores tw x
     obtain ⟨m, hm⟩ := k.cores tw x
     exact ⟨m, by rw [hm, hn]⟩,
   k.teams.trans h.teams, k.grids.trans h.grids, k.ctxs.trans h.ctxs, k.parts.trans h.parts, k.ops.trans h.ops, k.fences.trans h.fences,
   k.clusters.trans h.clusters, k.towers.trans h.towers, k.links.trans h.links, k.host.trans h.host, k.nv.trans h.nv, k.boot.trans h.boot⟩

theorem DevKept.modCrew (d : Dev) (id : Nat) (f : Crew → Crew) (hf : ∀ c, (f c).id = c.id) : DevKept d (d.modCrew id f) id :=
  ⟨fun n hn => by rw [Dev.modCrew_crew _ _ _ hf, if_neg hn], fun tw k => ⟨(d.core tw k).runOverflow, rfl⟩,
   rfl, rfl, rfl, rfl, rfl, rfl, rfl, rfl, rfl, rfl, rfl, rfl⟩

theorem DevKept.overflow (d : Dev) (id t k : Nat) (f : Nat → Nat) :
    DevKept d (d.modCore t k fun x => { x with runOverflow := f x.runOverflow }) id :=
  ⟨fun _ _ => rfl, fun tw x => by
     rw [Dev.modCore_core]
     split
     · rename_i h
       exact ⟨f (d.core t k).runOverflow, by simp [Dev.core, h]⟩
     · exact ⟨(d.core tw x).runOverflow, rfl⟩,
   rfl, rfl, rfl, rfl, rfl, rfl, rfl, rfl, rfl, rfl, rfl, rfl⟩

/-- The account of a hold leaves everything but the crew's age and a run-overflow count. -/
theorem endHold_spec (w : Work) (cu : Cur) (c : Crew) :
    ∃ d, w.endHold cu c = { w with d := d } ∧ DevKept w.d d cu.crew ∧
      ∀ x, w.d.crew cu.crew = some x → ∃ a, d.crew cu.crew = some { x with age := a } := by
  unfold Work.endHold
  cases hx : w.d.crew cu.crew with
  | none => exact ⟨w.d, rfl, .refl _ _, by simp⟩
  | some x =>
    dsimp only
    split
    · exact ⟨w.d, rfl, .refl _ _, by rintro y ⟨⟩; exact ⟨x.age, hx⟩⟩
    · have hm : ∀ a, ((w.d.modCrew cu.crew fun c => { c with age := a }).crew cu.crew) = some { x with age := a } := fun a => by
        rw [Dev.modCrew_crew _ _ (fun c => { c with age := a }) (fun _ => rfl), if_pos rfl, hx]; rfl
      have hk := DevKept.modCrew w.d cu.crew (fun c => { c with age := w.d.youngest }) fun _ => rfl
      unfold Work.mod
      dsimp only
      split
      · exact ⟨_, rfl, hk.trans (.overflow _ _ _ _ (· + 1)), by rintro y ⟨⟩; exact ⟨_, hm _⟩⟩
      · exact ⟨_, rfl, hk, by rintro y ⟨⟩; exact ⟨_, hm _⟩⟩

/-- What the end of an issue leaves, where no fault of a written result waits. -/
theorem finish_spec {s : State} (cu : Cur) (c : Crew) (w : Work) (hc : s.cont = none) (hl : w.late = []) :
    (s.finish cu c w).mem = s.mem.commit w.wr ∧ (s.finish cu c w).fx = s.fx ∧ (s.finish cu c w).cont = none ∧
    (s.finish cu c w).d.cur = none ∧ DevKept w.d (s.finish cu c w).d cu.crew ∧
    ∀ x, w.d.crew cu.crew = some x → ∃ a, (s.finish cu c w).d.crew cu.crew = some { x.release with age := a } := by
  have hrel : ∀ x : Crew, x.release.id = x.id := fun _ => rfl
  obtain ⟨d, he, hk, hx⟩ := endHold_spec (w.mod fun d => d.modCrew cu.crew Crew.release) cu c
  have hf : s.finish cu c w = s.done { w with d := d, late := [] } := by
    unfold State.finish
    dsimp only
    rw [he]
    simp only [hc, Work.mod, hl, Work.raiseAll]
  have hk' : DevKept w.d d cu.crew := (DevKept.modCrew w.d cu.crew Crew.release hrel).trans hk
  rw [hf]
  refine ⟨rfl, rfl, by simp [hc], rfl, ?_, ?_⟩
  · exact ⟨fun n hn => by simpa [Dev.crew] using hk'.crews n hn, fun tw k => by simpa [Dev.core] using hk'.cores tw k,
      by simpa using hk'.teams, by simpa using hk'.grids, by simpa using hk'.ctxs, by simpa using hk'.parts, by simpa using hk'.ops,
      by simpa using hk'.fences, by simpa using hk'.clusters, by simpa using hk'.towers, by simpa using hk'.links, by simpa using hk'.host,
      by simpa using hk'.nv, by simpa using hk'.boot⟩
  · intro x hw
    obtain ⟨a, ha⟩ := hx x.release (by rw [Work.mod_d, Dev.modCrew_crew _ _ _ hrel, if_pos rfl, hw]; rfl)
    exact ⟨a, by simpa [Dev.crew] using ha⟩

/-! ## Between the steps -/

/-- What rekeying sessions can do: the host side and the counter of the model's own numbers change, and nothing else. -/
theorem Work.rekeys_spec (w : Work) : ∃ (h : HostSide) (n : Nat), w.rekeys = { w with d := { w.d with host := h, nextId := n } } := by
  unfold Work.rekeys
  generalize w.d.host.sessions = l
  induction l generalizing w with
  | nil => exact ⟨w.d.host, w.d.nextId, rfl⟩
  | cons x l ih =>
    rw [List.foldl_cons]
    split
    · exact ih w
    · obtain ⟨h, n, e⟩ := ih _
      exact ⟨h, n, e⟩

end Sys2Proof.Machine
end

