-- ==== Sys2Proof/Laws/Operands.lean ====
section
/-! SUPPORT. Operand laws: what the shared forms of the register and predicate instructions do, once for every instruction. -/

namespace Sys2Proof.Machine

/-! ## The G count (R204) -/

theorem filter_length_le {l : List Nat} {p q : Nat → Bool} (h : ∀ x ∈ l, q x = true → p x = true) :
    (l.filter q).length ≤ (l.filter p).length := by
  induction l with
  | nil => simp
  | cons a r ih =>
    have ih := ih fun x hx => h x (by simp [hx])
    by_cases hq : q a = true
    · simp [hq, h a (by simp) hq]; omega
    · by_cases hp : p a = true <;> simp [hq, hp] <;> omega

theorem filter_length_le_succ {l : List Nat} (hn : l.Nodup) {p q : Nat → Bool} {d : Nat} (h : ∀ x ∈ l, x ≠ d → q x = true → p x = true) :
    (l.filter q).length ≤ (l.filter p).length + 1 := by
  induction l with
  | nil => simp
  | cons a r ih =>
    obtain ⟨ha, hr⟩ := List.nodup_cons.1 hn
    by_cases hd : a = d
    · have := filter_length_le (l := r) (p := p) (q := q) fun x hx => h x (by simp [hx]) fun e => ha (hd ▸ e ▸ hx)
      by_cases hq : q a = true <;> by_cases hp : p a = true <;> simp [hq, hp] <;> omega
    · have ih := ih hr fun x hx => h x (by simp [hx])
      by_cases hq : q a = true
      · simp [hq, h a (by simp) hd hq]; omega
      · by_cases hp : p a = true <;> simp [hq, hp] <;> omega

/-- What the G count depends on. -/
structure GSame (c c' : Crew) : Prop where
  regs : c'.regs = c.regs
  allot : c'.allot = c.allot
  gbud : c'.gbud = c.gbud
  waits : c'.waits = c.waits
  pend : ∀ k, c'.pend.any (fun p => p.reg == k) = c.pend.any (fun p => p.reg == k)

theorem GSame.reg {c c' : Crew} (h : GSame c c') (r : Nat) : c'.reg r = c.reg r := by simp [Crew.reg, h.regs]

/-- A register written into a crew with room for one more register tagged G keeps the budget. -/
theorem overBudget_put {c c' : Crew} (h : GSame c c') {d : Nat} (hr : c.roomForG d) (f : Crew → Crew) (hf : (f c').allot = c'.allot)
    (hg : (f c').gbud = c'.gbud) (hp : (f c').pend = c'.pend) (hw : (f c').waits = c'.waits) (ho : ∀ r, r ≠ d → (f c').reg r = c'.reg r) :
    (f c').overBudget = false := by
  unfold Crew.overBudget
  rw [decide_eq_false_iff_not, Nat.not_lt, hg, h.gbud]
  refine Nat.le_trans ?_ hr
  have hq : ∀ x, x ≠ d → (((f c').allot.getLsbD x && (((f c').reg x).isGen || (f c').pend.any (fun p => p.reg == x) ||
      (f c').reserved.contains x)) = true) → ((c.allot.getLsbD x && ((c.reg x).isGen || c.pend.any (fun p => p.reg == x) ||
      c.reserved.contains x)) = true) := by
    intro x hx hh
    rw [hf, h.allot, ho x hx, h.reg, hp, h.pend, show (f c').reserved = c.reserved from by simp [Crew.reserved, hw, h.waits]] at hh
    exact hh
  unfold Crew.gcount
  by_cases hgen : (c.reg d).isGen = true
  · rw [if_pos hgen, Nat.add_zero]
    refine filter_length_le fun x _ hx => ?_
    by_cases hxd : x = d
    · subst hxd
      have : (f c').allot.getLsbD x = true := by
        revert hx; cases (f c').allot.getLsbD x <;> simp
      rw [hf, h.allot] at this
      simp [this, hgen]
    · exact hq x hxd hx
  · rw [if_neg hgen]
    exact filter_length_le_succ List.nodup_range fun x _ hx => hq x hx

/-! ## The crew at the start of an effect -/

/-- The crew of an issue once its group has been advanced. -/
def Crew.started (c : Crew) (cu : Cur) : Crew := (c.choose cu).advance cu

theorem Crew.started_same (c : Crew) (cu : Cur) : GSame c (c.started cu) := by
  refine ⟨by simp [Crew.started], by simp [Crew.started], by simp [Crew.started], by simp [Crew.started], fun k => ?_⟩
  have : (c.started cu).pend = if cu.counts then (c.countDown cu.group).pend else c.pend := by
    unfold Crew.started Crew.advance
    dsimp only
    split <;> rfl
  rw [this]
  split
  · simp [Crew.countDown, List.any_map, Function.comp_def]
  · rfl

theorem State.begun_crew {s : State} {cu : Cur} {c : Crew} (h : s.d.crew cu.crew = some c) :
    (s.begun cu c).d.crew cu.crew = some (c.started cu) := by
  have hid := Dev.crew_id h
  have : (c.started cu).id = cu.crew := by simp [Crew.started, hid]
  unfold State.begun
  rw [Work.mod_d, Dev.setCrew_crew]
  rw [show ((c.choose cu).advance cu).id = cu.crew from this]
  simp [h, Crew.started]

theorem State.begun_kept {s : State} {cu : Cur} {c : Crew} (h : s.d.crew cu.crew = some c) :
    DevKept s.d (s.begun cu c).d cu.crew := by
  have hid := Dev.crew_id h
  have : (c.started cu).id = cu.crew := by simp [Crew.started, hid]
  refine ⟨fun n hn => ?_, fun tw k => ⟨(s.d.core tw k).runOverflow, rfl⟩, rfl, rfl, rfl, rfl, rfl, rfl, rfl, rfl, rfl, rfl, rfl, rfl⟩
  unfold State.begun
  rw [Work.mod_d, Dev.setCrew_crew, show ((c.choose cu).advance cu).id = cu.crew from this, if_neg hn]
  rfl

@[simp] theorem State.begun_wr (s : State) (cu : Cur) (c : Crew) : (s.begun cu c).wr = [] := rfl
@[simp] theorem State.begun_late (s : State) (cu : Cur) (c : Crew) : (s.begun cu c).late = [] := rfl
@[simp] theorem State.begun_fx (s : State) (cu : Cur) (c : Crew) : (s.begun cu c).fx = s.fx := rfl

theorem Crew.started_thread (c : Crew) (cu : Cur) (l : Nat) (t : Thread) (h : c.threads[l]? = some t) :
    ∃ t', (c.started cu).threads[l]? = some t' ∧ t'.pc = (if cu.group.getLsbD l then cu.ret else t.pc) ∧ t'.exited = t.exited ∧ t'.m = t.m := by
  have : (c.started cu).threads = ((c.choose cu).setPc cu.group cu.ret).threads := by
    unfold Crew.started Crew.advance
    dsimp only
    split <;> rfl
  rw [this]
  unfold Crew.setPc Crew.modThreads Crew.choose
  simp only [List.getElem?_mapIdx, h, Option.map_some]
  split
  · rename_i hg
    exact ⟨_, rfl, by simp, rfl, rfl⟩
  · rename_i hg
    exact ⟨_, rfl, by simp, rfl, rfl⟩

theorem Crew.started_threads_length (c : Crew) (cu : Cur) : (c.started cu).threads.length = c.threads.length := by
  have : (c.started cu).threads = ((c.choose cu).setPc cu.group cu.ret).threads := by
    unfold Crew.started Crew.advance
    dsimp only
    split <;> rfl
  rw [this]
  simp [Crew.setPc, Crew.modThreads, Crew.choose]

/-- The threads of a crew advanced past an instruction and released. -/
theorem threadsAdvance_of {cu : Cur} {c x : Crew} (h : x.threads = (c.started cu).threads) (a : Nat) :
    threadsAdvance cu c { x.release with age := a } := by
  refine ⟨?_, fun l t ht => ?_⟩
  · simp [Crew.release, h, Crew.started_threads_length]
  · obtain ⟨t1, h1, hp, he, hm⟩ := c.started_thread cu l t ht
    obtain ⟨t2, h2, hp2, he2, hm2⟩ := Crew.thread_release x l t1 (by rw [h]; exact h1)
    exact ⟨t2, h2, hp2.trans hp, he2.trans he, by rw [← hm]; exact hm2⟩

/-- What is exited and live in a crew once its group has been advanced. -/
theorem Crew.started_exited (c : Crew) (cu : Cur) (l : Nat) : ((c.started cu).thread l).exited = (c.thread l).exited := by
  unfold Crew.thread
  rw [List.getD_eq_getElem?_getD, List.getD_eq_getElem?_getD]
  cases h : c.threads[l]? with
  | none =>
    have : (c.started cu).threads[l]? = none := by
      rw [List.getElem?_eq_none_iff, Crew.started_threads_length, ← List.getElem?_eq_none_iff]; exact h
    rw [this]
  | some t =>
    obtain ⟨t', h', _, he, _⟩ := c.started_thread cu l t h
    rw [h']
    exact he

/-- A write of fewer lanes than the threads that have not exited is not full (R203). -/
theorem Crew.not_full {c : Crew} {act : Mask} {l : Nat} (hl : l < 32) (ha : act.getLsbD l = false) (he : (c.thread l).exited = false) :
    c.full act = false := by
  unfold Crew.full
  rw [beq_eq_false_iff_ne]
  intro h
  have := congrArg (fun m : Mask => m.getLsbD l) h
  simp only [BitVec.getLsbD_and, BitVec.getLsbD_not, ha, Crew.live, maskOf_getLsbD _ _ hl, he, hl] at this
  simp at this

/-! ## One register written -/

/-- A crew changed by an effect that leaves the rest of the device. -/
theorem modCrew_kept {w : Work} {id : Nat} {f : Crew → Crew} {d : Dev} (hf : ∀ c, (f c).id = c.id) (h : DevKept d w.d id) :
    DevKept d (w.mod fun d => d.modCrew id f).d id := h.trans (.modCrew _ _ _ hf)

/-- What is kept of a state whose issue ends in a device that is kept. -/
theorem restKept_of {s : State} {cu : Cur} {c : Crew} {w : Work} (hc : s.cont = none) (hl : w.late = []) (hwr : w.wr = [])
    (h : DevKept s.d w.d cu.crew) : restKept s (s.finish cu c w) cu.crew := by
  obtain ⟨hm, hf, _, _, hk, _⟩ := finish_spec cu c w hc hl
  have k := h.trans hk
  refine ⟨fun a => by rw [hm, hwr]; rfl, k.crews, k.teams, k.grids, k.ctxs, k.parts, k.ops, k.fences, k.clusters, k.towers, k.links, k.host,
    k.nv, k.boot, hf, k.cores⟩

theorem crewKept_of {cu : Cur} {c x : Crew} {a : Nat} (h : crewKept (c.started cu) x) : crewKept c { x.release with age := a } := by
  simpa [crewKept, Crew.started] using h

/-- An instruction whose effect changes its crew alone: it completes, and the crew is as the effect leaves it, released and of an age. -/
theorem crew_done {s : State} {cu : Cur} {c : Crew} {g : Guard} {u : Use} {body : Iss → Work → Res} {f : Crew → Crew}
    (h : Ready s cu c g (u.reads ++ u.writes)) (hs : u.slots.permits c = true)
    (hh : u.home = true → c.landed = false) (hp : u.pends = true → c.wouldExceed u = false)
    (hf : ∀ x, (f x).id = x.id)
    (hb : body { cu := cu, c := c, act := activeLanes cu c g, w0 := s.chosen cu c } (s.begun cu c) =
      .ok ((s.begun cu c).mod fun y => y.modCrew cu.crew f)) (hru : u.refused = false := by rfl) :
    ∃ t a, issue s g u body = .next t ∧ t.d.crew cu.crew = some { (f (c.started cu)).release with age := a } ∧ restKept s t cu.crew := by
  have hok := issue_ok (body := body) h hs hh hp hru hb
  have hx : ((s.begun cu c).mod fun y => y.modCrew cu.crew f).d.crew cu.crew = some (f (c.started cu)) := by
    rw [Work.mod_d, Dev.modCrew_crew _ _ _ hf, if_pos rfl, State.begun_crew h.crew]; rfl
  obtain ⟨a, ha⟩ := (finish_spec cu c _ h.alone rfl).2.2.2.2.2 _ hx
  exact ⟨_, a, hok, ha, restKept_of h.alone rfl rfl ((State.begun_kept h.crew).trans (.modCrew _ _ _ hf))⟩

/-- The effect of an instruction that writes one register, where the G-budget has room for it. -/
theorem Iss.put_ok {s : State} {cu : Cur} {c : Crew} {i : Iss} {d : Nat} (v : RegVal) (hc : s.d.crew cu.crew = some c) (hi : i.cu = cu)
    (hr : c.roomForG d) : i.put (s.begun cu c) d v = .ok ((s.begun cu c).mod fun y => y.modCrew cu.crew fun x => x.put d v i.act) := by
  have hbud : ((c.started cu).put d v i.act).overBudget = false :=
    overBudget_put (c.started_same cu) hr (fun x => x.put d v i.act) rfl rfl rfl rfl fun r hrd => by rw [Crew.reg_put, if_neg hrd]
  subst hi
  unfold Iss.put Iss.write Iss.crew
  simp only [State.begun_crew hc, Option.getD_some, hbud, Bool.false_eq_true, if_false]
  rfl

/-- An instruction whose effect writes one register: it completes, and writes that register alone. -/
theorem put_done {s : State} {cu : Cur} {c : Crew} {g : Guard} {u : Use} {body : Iss → Work → Res} {d : Nat} {P : Nat → Word → Prop}
    {v : RegVal} (h : Ready s cu c g (u.reads ++ u.writes)) (hr : c.roomForG d) (hs : u.slots.permits c = true)
    (hh : u.home = true → c.landed = false) (hp : u.pends = true → c.wouldExceed u = false)
    (hb : ∀ i : Iss, i = { cu := cu, c := c, act := activeLanes cu c g, w0 := s.chosen cu c } →
      body i (s.begun cu c) = i.put (s.begun cu c) d v)
    (hv : ∀ l < 32, (activeLanes cu c g).getLsbD l = true → P l (v.lane l)) (hru : u.refused = false := by rfl) :
    ∃ t, issue s g u body = .next t ∧ regDone s t cu c g d P := by
  have hsame := c.started_same cu
  obtain ⟨t, a, ht, ha, hk⟩ := crew_done (body := body) (f := fun x => x.put d v (activeLanes cu c g)) h hs hh hp (fun _ => rfl)
    ((hb _ rfl).trans (Iss.put_ok v h.crew rfl hr)) hru
  refine ⟨t, ht, _, ha, ⟨?_, ?_, ?_⟩, ?_, ?_, ?_, ?_, hk⟩
  · intro l hl hact
    have : ((c.started cu).put d v (activeLanes cu c g)).val d l = v.lane l := by
      unfold Crew.val
      rw [Crew.reg_put, if_pos rfl]
      exact RegVal.lane_merge_active _ _ _ _ l hl hact
    exact this ▸ hv l hl hact
  · intro l hl hact he
    have hf : (c.started cu).full (activeLanes cu c g) = false := Crew.not_full hl hact (by rw [Crew.started_exited]; exact he)
    show ((c.started cu).put d v (activeLanes cu c g)).val d l = c.val d l
    unfold Crew.val
    rw [Crew.reg_put, if_pos rfl, hf, RegVal.lane_merge_inactive _ _ _ l hl hact, hsame.reg]
  · intro r hrd
    show ((c.started cu).put d v (activeLanes cu c g)).reg r = c.reg r
    rw [Crew.reg_put, if_neg hrd, hsame.reg]
  · intro p
    show ((c.started cu).put d v (activeLanes cu c g)).pred p = c.pred p
    simp [Crew.pred, Crew.started]
  · show ((c.started cu).put d v (activeLanes cu c g)).sp = c.sp
    simp [Crew.started]
  · exact threadsAdvance_of (by simp) a
  · refine crewKept_of (cu := cu) ?_
    simp [crewKept]

/-- An instruction whose effect writes one predicate: it completes, and writes that predicate alone. -/
theorem putPred_done {s : State} {cu : Cur} {c : Crew} {g : Guard} {u : Use} {body : Iss → Work → Res} {q : Nat} {f : Nat → Bool}
    (h : Ready s cu c g (u.reads ++ u.writes)) (hs : u.slots.permits c = true)
    (hh : u.home = true → c.landed = false) (hp : u.pends = true → c.wouldExceed u = false) (hq : q ≠ 7)
    (hb : ∀ i : Iss, i = { cu := cu, c := c, act := activeLanes cu c g, w0 := s.chosen cu c } →
      body i (s.begun cu c) = .ok (i.putPred (s.begun cu c) q (maskOf f))) (hru : u.refused = false := by rfl) :
    ∃ t, issue s g u body = .next t ∧ predDone s t cu c g q f := by
  have hsame := c.started_same cu
  obtain ⟨t, a, ht, ha, hk⟩ := crew_done (body := body) (f := fun x => x.putPred q (maskOf f) (activeLanes cu c g)) h hs hh hp (fun _ => rfl)
    (hb _ rfl) hru
  have hpred : ∀ p, (c.started cu).pred p = c.pred p := fun p => by simp [Crew.pred, Crew.started]
  refine ⟨t, ht, _, ha, ⟨?_, ?_⟩, ?_, ?_, ?_, ?_, hk⟩
  · intro l hl
    show (((c.started cu).putPred q (maskOf f) (activeLanes cu c g)).pred q).getLsbD l = _
    rw [Crew.pred_putPred _ _ _ _ _ hq, if_pos rfl, hpred]
    rw [BitVec.getLsbD_or, BitVec.getLsbD_and, BitVec.getLsbD_and, BitVec.getLsbD_not, maskOf_getLsbD _ _ hl]
    cases (activeLanes cu c g).getLsbD l <;> simp [hl]
  · intro p hpq
    show ((c.started cu).putPred q (maskOf f) (activeLanes cu c g)).pred p = _
    rw [Crew.pred_putPred _ _ _ _ _ hq, if_neg hpq, hpred]
  · intro r
    show ((c.started cu).putPred q (maskOf f) (activeLanes cu c g)).reg r = _
    simp [Crew.reg, Crew.started]
  · show ((c.started cu).putPred q (maskOf f) (activeLanes cu c g)).sp = _
    simp [Crew.started]
  · exact threadsAdvance_of (by simp) a
  · refine crewKept_of (cu := cu) ?_
    simp [crewKept]

/-! ## The shared forms -/

/-- The lanes of the result of a lane-wise instruction: where the sources are all U, its function may depend on the lane only through
them. -/
theorem Iss.spread_lane {i : Iss} {srcs : List Nat} {f : Nat → Word} {l : Nat} (hl : l < 32) (ha : i.act.getLsbD l = true)
    (hu : (∀ r ∈ srcs, (i.c.reg r).isUni = true) → ∀ j k, f j = f k) : (i.spread srcs f).lane l = f l := by
  unfold Iss.spread
  split
  · rename_i h
    exact hu (by simpa using h) _ _
  · simp only [RegVal.lane]
    rw [getD_map_lanes _ _ _ hl, if_pos ha]

theorem Iss.general_lane {i : Iss} {f : Nat → Word} {l : Nat} (hl : l < 32) (ha : i.act.getLsbD l = true) : (i.general f).lane l = f l := by
  unfold Iss.general
  simp only [RegVal.lane]
  rw [getD_map_lanes _ _ _ hl, if_pos ha]

/-- The lanes of a register tagged U are all the same. -/
theorem RegVal.lane_uni {v : RegVal} (h : v.isUni = true) (j k : Nat) : v.lane j = v.lane k := by
  cases v <;> simp_all [RegVal.isUni, RegVal.lane]

theorem Crew.val_uni {c : Crew} {r : Nat} (h : (c.reg r).isUni = true) (j k : Nat) : c.val r j = c.val r k := RegVal.lane_uni h j k

/-- A register computed lane by lane from its sources. -/
theorem laneOp_done {s : State} {cu : Cur} {c : Crew} {g : Guard} {srcs : List Reg} {d : Reg} {f : Crew → Nat → Word}
    {P : Nat → Word → Prop} (h : Ready s cu c g (srcs.map (·.toNat) ++ [d.toNat])) (hr : c.roomForG d.toNat)
    (hu : (∀ r ∈ srcs.map (·.toNat), (c.reg r).isUni = true) → ∀ j k, f c j = f c k)
    (hv : ∀ l < 32, (activeLanes cu c g).getLsbD l = true → P l (f c l)) :
    ∃ t, laneOp s g srcs d f = .next t ∧ regDone s t cu c g d.toNat P := by
  unfold laneOp
  refine put_done (v := Iss.spread { cu := cu, c := c, act := activeLanes cu c g, w0 := s.chosen cu c } (srcs.map (·.toNat)) (f c))
    h hr rfl (by simp) (by simp) (by rintro i rfl; rfl) ?_
  intro l hl ha
  rw [Iss.spread_lane hl ha hu]
  exact hv l hl ha

/-- A register computed lane by lane from two sources, with affine cases. -/
theorem affOp_done {s : State} {cu : Cur} {c : Crew} {g : Guard} {a b d : Reg} {aff : RegVal → RegVal → Option RegVal}
    {f : Word → Word → Word} {P : Nat → Word → Prop} (h : Ready s cu c g [a.toNat, b.toNat, d.toNat]) (hr : c.roomForG d.toNat)
    (haff : ∀ x y z, aff x y = some z → ∀ l, z.lane l = f (x.lane l) (y.lane l))
    (hv : ∀ l < 32, (activeLanes cu c g).getLsbD l = true → P l (f (c.val a.toNat l) (c.val b.toNat l))) :
    ∃ t, affOp s g a b d aff f = .next t ∧ regDone s t cu c g d.toNat P := by
  unfold affOp
  refine put_done (v := (aff (c.reg a.toNat) (c.reg b.toNat)).getD (Iss.spread { cu := cu, c := c, act := activeLanes cu c g, w0 := s.chosen cu c }
    [a.toNat, b.toNat] fun l => f (c.val a.toNat l) (c.val b.toNat l))) h hr rfl (by simp) (by simp) (by rintro i rfl; rfl) ?_
  intro l hl ha
  cases hz : aff (c.reg a.toNat) (c.reg b.toNat) with
  | some z =>
    rw [Option.getD_some, haff _ _ _ hz l]
    exact hv l hl ha
  | none =>
    rw [Option.getD_none, Iss.spread_lane hl ha]
    · exact hv l hl ha
    · intro hu j k
      rw [Crew.val_uni (hu a.toNat (by simp)) j k, Crew.val_uni (hu b.toNat (by simp)) j k]

/-- A register computed lane by lane from a source and an immediate. -/
theorem immOp_done {s : State} {cu : Cur} {c : Crew} {g : Guard} {a d : Reg} {imm : Word} {aff : RegVal → RegVal → Option RegVal}
    {f : Word → Word → Word} {P : Nat → Word → Prop} (h : Ready s cu c g [a.toNat, d.toNat]) (hr : c.roomForG d.toNat)
    (haff : ∀ x z, aff x (.uni imm) = some z → ∀ l, z.lane l = f (x.lane l) imm)
    (hv : ∀ l < 32, (activeLanes cu c g).getLsbD l = true → P l (f (c.val a.toNat l) imm)) :
    ∃ t, immOp s g a d imm aff f = .next t ∧ regDone s t cu c g d.toNat P := by
  unfold immOp
  refine put_done (v := (aff (c.reg a.toNat) (.uni imm)).getD (Iss.spread { cu := cu, c := c, act := activeLanes cu c g, w0 := s.chosen cu c }
    [a.toNat] fun l => f (c.val a.toNat l) imm)) h hr rfl (by simp) (by simp) (by rintro i rfl; rfl) ?_
  intro l hl ha
  cases hz : aff (c.reg a.toNat) (.uni imm) with
  | some z =>
    rw [Option.getD_some, haff _ _ hz l]
    exact hv l hl ha
  | none =>
    rw [Option.getD_none, Iss.spread_lane hl ha]
    · exact hv l hl ha
    · intro hu j k
      rw [Crew.val_uni (hu a.toNat (by simp)) j k]

/-- A register tagged G whatever its sources. -/
theorem genOp_done {s : State} {cu : Cur} {c : Crew} {g : Guard} {srcs : List Reg} {d : Reg} {f : Iss → Nat → Word}
    {P : Nat → Word → Prop} (h : Ready s cu c g (srcs.map (·.toNat) ++ [d.toNat])) (hr : c.roomForG d.toNat)
    (hv : ∀ l < 32, (activeLanes cu c g).getLsbD l = true →
      P l (f { cu := cu, c := c, act := activeLanes cu c g, w0 := s.chosen cu c } l)) :
    ∃ t, genOp s g srcs d f = .next t ∧ regDone s t cu c g d.toNat P := by
  unfold genOp
  refine put_done (v := Iss.general { cu := cu, c := c, act := activeLanes cu c g, w0 := s.chosen cu c }
    (f { cu := cu, c := c, act := activeLanes cu c g, w0 := s.chosen cu c })) h hr rfl (by simp) (by simp) (by rintro i rfl; rfl) ?_
  intro l hl ha
  rw [Iss.general_lane hl ha]
  exact hv l hl ha

/-- A predicate computed lane by lane. -/
theorem predOp_done {s : State} {cu : Cur} {c : Crew} {g : Guard} {srcs : List Reg} {q : Pred} {f : Iss → Nat → Bool}
    (h : Ready s cu c g (srcs.map (·.toNat))) (hq : q ≠ 7) :
    ∃ t, predOp s g srcs q f = .next t ∧
      predDone s t cu c g q.toNat (f { cu := cu, c := c, act := activeLanes cu c g, w0 := s.chosen cu c }) := by
  unfold predOp
  have hq' : q.toNat ≠ 7 := fun e => hq (BitVec.eq_of_toNat_eq (by simpa using e))
  exact putPred_done (by simpa using h) rfl (by simp) (by simp) hq' (by rintro i rfl; rfl)

/-! ## The affine cases (R203) -/

theorem RegVal.addv_lane {x y z : RegVal} (h : x.addv y = some z) (l : Nat) : z.lane l = x.lane l + y.lane l := by
  cases x <;> cases y <;> simp only [RegVal.addv, Option.some.injEq, reduceCtorEq] at h <;> subst h <;> simp only [RegVal.lane] <;> ring

theorem RegVal.subv_lane {x y z : RegVal} (h : x.subv y = some z) (l : Nat) : z.lane l = x.lane l - y.lane l := by
  cases x <;> cases y <;> simp only [RegVal.subv, Option.some.injEq, reduceCtorEq] at h <;> subst h <;> simp only [RegVal.lane] <;> ring

theorem RegVal.mulv_lane {x y z : RegVal} (h : x.mulv y = some z) (l : Nat) : z.lane l = x.lane l * y.lane l := by
  cases x <;> cases y <;> simp only [RegVal.mulv, Option.some.injEq, reduceCtorEq] at h <;> subst h <;> simp only [RegVal.lane] <;> ring

theorem RegVal.shlv_lane {x y z : RegVal} (h : x.shlv y = some z) (l : Nat) : z.lane l = x.lane l <<< (y.lane l).toNat := by
  cases x <;> cases y <;> simp only [RegVal.shlv, Option.some.injEq, reduceCtorEq] at h <;> subst h <;> simp only [RegVal.lane]
  rw [BitVec.shiftLeft_eq_mul_twoPow, BitVec.shiftLeft_eq_mul_twoPow, BitVec.shiftLeft_eq_mul_twoPow]
  ring

end Sys2Proof.Machine
end

