-- ==== Sys2Proof/Tests/Slice0.lean ====
section
/-! SUPPORT. Slice0: tests of the definitions. Every expected value stands in a worked example or a table of the spec, named beside it. -/

open Sys2Proof Sys2Proof.Machine

section

/- One theorem after another: checked side by side they need a thread each, and the threads' stacks together pass a memory limit. -/
set_option Elab.async false

/-! ## WellFormed: one ill-formed term for each check -/

theorem test_wellformed_terms : (Instr.waitc ⟨1, 127, .always⟩).wellFormed = true ∧ (Instr.bar ⟨32, 15, .always⟩).wellFormed = true ∧
    (Instr.ld128 ⟨62, 0, 0, 3, 5, 1, 0, 0, .always⟩).wellFormed = true ∧ (Instr.mma ⟨56, 56, 0, 0, 0, 63, 0, false, false, false, .always⟩).wellFormed = true := by
  decide

/-- R298, R301, R297, R375: counter class, barrier count, scope, register pair. -/
theorem test_illformed_system : (Instr.waitc ⟨0, 0, .always⟩).wellFormed = false ∧ (Instr.waitc ⟨7, 0, .always⟩).wellFormed = false ∧
    (Instr.bar ⟨33, 0, .always⟩).wellFormed = false ∧ (Instr.bara ⟨33, 0, .always⟩).wellFormed = false ∧
    (Instr.fence ⟨0, 6, .always⟩).wellFormed = false ∧ (Instr.winr ⟨63, 0, .always⟩).wellFormed = false := by
  decide

/-- R200, R264, R277, R284, R285: p7 as a destination, condition, function and vote codes, and the field width of R270. -/
theorem test_illformed_register_forms : (Instr.icmp ⟨12, false, 0, 0, 0, 0, .always⟩).wellFormed = false ∧
    (Instr.icmp ⟨0, false, 0, 7, 0, 0, .always⟩).wellFormed = false ∧ (Instr.cmpi ⟨0, 7, 0, 0, .always⟩).wellFormed = false ∧
    (Instr.pset ⟨7, 0, 0, .always⟩).wellFormed = false ∧ (Instr.pand ⟨7, false, 0, false, 0, .always⟩).wellFormed = false ∧
    (Instr.por ⟨7, false, 0, false, 0, .always⟩).wellFormed = false ∧ (Instr.pxor ⟨7, false, 0, false, 0, .always⟩).wellFormed = false ∧
    (Instr.pnot ⟨7, false, 0, .always⟩).wellFormed = false ∧ (Instr.fcmp ⟨8, 0, false, 0, 0, 0, .always⟩).wellFormed = false ∧
    (Instr.fcmp ⟨0, 0, false, 7, 0, 0, .always⟩).wellFormed = false ∧ (Instr.red ⟨0, 0, 13, 0, .always⟩).wellFormed = false ∧
    (Instr.scan ⟨0, 0, 13, 0, .always⟩).wellFormed = false ∧ (Instr.segred ⟨0, 0, 13, 0, .always⟩).wellFormed = false ∧
    (Instr.vote ⟨7, 0, false, 0, .always⟩).wellFormed = false ∧ (Instr.vote ⟨0, 3, false, 0, .always⟩).wellFormed = false ∧
    (Instr.bfxiBfxu ⟨0, 0, 0, 65, 0, .always⟩).wellFormed = false ∧ (Instr.bfxiBfxs ⟨0, 0, 0, 65, 0, .always⟩).wellFormed = false ∧
    (Instr.bfxiBfi ⟨0, 0, 0, 65, 0, .always⟩).wellFormed = false := by
  decide

/-- R13, R79, R289, R291: space, scope, order, and the last register of a pair. -/
theorem test_illformed_loads : (∀ i ∈ [Instr.ld8u, .ld8s, .ld16u, .ld16s, .ld32u, .ld32s, .ld64, .ld128, .ldt, .ldnc],
      (i ⟨0, 0, 0, 4, 0, 0, 0, 0, .always⟩).wellFormed = false ∧ (i ⟨0, 0, 0, 0, 6, 0, 0, 0, .always⟩).wellFormed = false ∧
      (i ⟨0, 0, 0, 0, 0, 2, 0, 0, .always⟩).wellFormed = false) ∧
    (Instr.ld128 ⟨63, 0, 0, 0, 0, 0, 0, 0, .always⟩).wellFormed = false ∧ (Instr.ldaq ⟨0, 0, 0, 0, 0, 0, 0, 0, .always⟩).wellFormed = false ∧
    (Instr.ldaq32 ⟨0, 0, 0, 0, 0, 0, 0, 0, .always⟩).wellFormed = false ∧ (Instr.pref ⟨0, 0, 0, 0, 1, 0, 0, .always⟩).wellFormed = false := by
  decide

theorem test_illformed_stores : (∀ i ∈ [Instr.st8, .st16, .st32, .st64, .st128, .stt, .stnc],
      (i ⟨0, 0, 0, 4, 0, 0, 0, 0, .always⟩).wellFormed = false ∧ (i ⟨0, 0, 0, 0, 6, 0, 0, 0, .always⟩).wellFormed = false ∧
      (i ⟨0, 0, 0, 0, 0, 1, 0, 0, .always⟩).wellFormed = false) ∧
    (Instr.st128 ⟨0, 63, 0, 0, 0, 0, 0, 0, .always⟩).wellFormed = false ∧ (Instr.strl ⟨0, 0, 0, 0, 0, 0, 0, 0, .always⟩).wellFormed = false ∧
    (Instr.strl32 ⟨0, 0, 0, 0, 0, 0, 0, 0, .always⟩).wellFormed = false := by
  decide

/-- R141: the types of integer, floating and wide atomics. -/
theorem test_illformed_atomics : (∀ i ∈ [Instr.aadd, .amin, .amax, .aminu, .amaxu, .aand, .aor, .axor, .aswp, .ainc, .adec],
      (i ⟨0, 0, 0, 0, 0, 0, 0, false, 2, 0, .always⟩).wellFormed = false ∧ (i ⟨0, 0, 0, 0, 4, 0, 0, false, 0, 0, .always⟩).wellFormed = false ∧
      (i ⟨0, 0, 0, 0, 0, 6, 0, false, 0, 0, .always⟩).wellFormed = false) ∧
    (∀ i ∈ [Instr.afadd, .afmin, .afmax], (i ⟨0, 0, 0, 0, 0, 0, 0, false, 2, 0, .always⟩).wellFormed = false ∧
      (i ⟨0, 0, 0, 0, 3, 0, 0, false, 3, 0, .always⟩).wellFormed = false) ∧
    (Instr.acas ⟨0, 0, 0, 0, 0, 0, 0, false, 3, 0, .always⟩).wellFormed = false ∧
    (Instr.acas ⟨63, 0, 0, 0, 0, 0, 0, false, 2, 0, .always⟩).wellFormed = false ∧
    (Instr.acas ⟨0, 0, 63, 0, 0, 0, 0, false, 2, 0, .always⟩).wellFormed = false ∧
    (Instr.acas ⟨0, 0, 0, 0, 3, 0, 0, false, 2, 0, .always⟩).wellFormed = false ∧
    (∀ i ∈ [Instr.aaddN, .aminN, .amaxN, .aminuN, .amaxuN, .aandN, .aorN, .axorN, .aswpN, .aincN, .adecN],
      (i ⟨0, 0, 0, 0, 0, 1, false, 0, 0, .always⟩).wellFormed = false ∧ (i ⟨0, 0, 0, 0, 0, 0, false, 3, 0, .always⟩).wellFormed = false) ∧
    (∀ i ∈ [Instr.afaddN, .afminN, .afmaxN],
      (i ⟨0, 0, 0, 0, 0, 1, false, 3, 0, .always⟩).wellFormed = false ∧ (i ⟨0, 0, 0, 0, 0, 0, false, 0, 0, .always⟩).wellFormed = false) := by
  decide

/-- R308 to R311, R303, R305: the fixed fields of kicks, arrival words, rings, flushes, declarations. -/
theorem test_illformed_async : (Instr.kick ⟨0, 0, 0, 0, 0, 0, 0, 0, .always⟩).wellFormed = false ∧
    (Instr.arrs ⟨0, 0, 0, 0, 0, 0, 0, 0, .always⟩).wellFormed = false ∧ (Instr.arra ⟨0, 0, 2, 1, 0, 0, 0, .always⟩).wellFormed = false ∧
    (Instr.arrw ⟨0, 0, 0, 2, 0, 1, 0, 0, .always⟩).wellFormed = false ∧ (Instr.rclm ⟨0, 0, 0, 0, 3, 0, 0, 0, 0, .always⟩).wellFormed = false ∧
    (Instr.rcmt ⟨0, 0, 0, 0, 6, 0, 0, 0, .always⟩).wellFormed = false ∧ (Instr.rawt ⟨0, 0, 0, 0, 0, 0, 1, 0, 0, .always⟩).wellFormed = false ∧
    (Instr.rret ⟨0, 0, 0, 0, 0, 0, 1, 0, .always⟩).wellFormed = false ∧ (Instr.flush ⟨0, 0, 0, 0, 4, 0, 0, 0, .always⟩).wellFormed = false ∧
    (Instr.inval ⟨0, 0, 0, 0, 5, 0, 0, 0, .always⟩).wellFormed = false ∧ (Instr.rdet ⟨0, 0, 0, 0, 0, 0, 0, .always⟩).wellFormed = false ∧
    (Instr.digb ⟨0, 0, 0, 1, 0, 0, 0, 0, .always⟩).wellFormed = false ∧ (Instr.dige ⟨0, 0, 1, 0, 0, 0, 0, .always⟩).wellFormed = false := by
  decide

/-- R312, R316, R325, R327: task and matrix fields. -/
theorem test_illformed_tasks_and_matrix : (Instr.vpub ⟨7, 0, 0, 0, .always⟩).wellFormed = false ∧ (Instr.vfin ⟨7, 0, 0, 0, .always⟩).wellFormed = false ∧
    (Instr.prdr ⟨63, 0, 0, 0, .always⟩).wellFormed = false ∧ (Instr.mma ⟨57, 0, 0, 0, 0, 0, 0, false, false, false, .always⟩).wellFormed = false ∧
    (Instr.mma ⟨0, 57, 0, 0, 0, 0, 0, false, false, false, .always⟩).wellFormed = false ∧
    (Instr.mmap ⟨0, 57, 0, 0, 0, 0, 0, 0, 0, false, false, false, .always⟩).wellFormed = false ∧
    (Instr.mmapPartner ⟨0, 0, 57, 0, 0, 0, 0, 0, false, false, .always⟩).wellFormed = false ∧
    (Instr.macl ⟨0, 0, 0, 0, 3, 0, 0, 0, 0, .always⟩).wellFormed = false ∧ (Instr.macs ⟨0, 0, 0, 0, 0, 1, 0, 0, 0, .always⟩).wellFormed = false ∧
    (Instr.macz ⟨63, 0, 1, .always⟩).wellFormed = false ∧ (Instr.rstat ⟨62, 0, 0, .always⟩).wellFormed = false := by
  decide

/-! ## Decode: words of the spec's own examples, and of its tables where it gives none -/

/-- 11 (worked clause at 0x1000), 12 R256, R269, R270, 24 (encoded words): integer, immediate and constant forms. -/
theorem test_decode_integer : decodeWord 0x04051467 0 = .ok (.i64Add ⟨5, 5, 6, .always⟩) ∧ decodeWord 0x0402E017 0 = .ok (.i64Add ⟨2, 56, 1, .always⟩) ∧
    decodeWord 0x2871C017 0 = .ok (.xori ⟨7, 7, 1, .always⟩) ∧ decodeWord 0x31138207 0 = .ok (.cmpi ⟨2, 1, 14, 32, .always⟩) ∧
    decodeWord 0x309FC007 0 = .ok (.cmpi ⟨1, 1, 63, 0, .always⟩) ∧ decodeWord 0xD8070007 0x00000100 = .ok (.movxLo ⟨7, 0, 0x100, .always⟩) ∧
    decodeWord 0xD8410007 0x03779B97 = .ok (.movxMid ⟨1, 0, 0x3779B97, .always⟩) ∧ decodeWord 0xD8810007 0x0000009E = .ok (.movxHi ⟨1, 0, 0x9E, .always⟩) ∧
    decodeWord 0xDC030807 0x00001030 = .ok (.bfxiBfxu ⟨3, 2, 0, 16, 48, .always⟩) := by
  decide +kernel

/-- 11, 13 (CVT), 24, 28: floating-point and cross-lane forms. -/
theorem test_decode_float_and_lanes : decodeWord 0x44C81051 0 = .ok (.f32Fma ⟨8, 4, 5, ⟨false, 1⟩⟩) ∧
    decodeWord 0x45060C47 0 = .ok (.f32Fms ⟨6, 3, 4, .always⟩) ∧ decodeWord 0x46C61887 0 = .ok (.f32Fscale ⟨6, 6, 8, .always⟩) ∧
    decodeWord 0x54D230D7 0 = .ok (.fcmp ⟨3, 1, false, 2, 12, 13, .always⟩) ∧ decodeWord 0x5D030917 0 = .ok (.cvt ⟨4, 3, 2, true, 1, .always⟩) ∧
    decodeWord 0x69D01617 0 = .ok (.red ⟨16, 5, 8, 1, .always⟩) ∧ decodeWord 0x69CC2E97 0 = .ok (.red ⟨12, 11, 10, 1, .always⟩) ∧
    decodeWord 0x680714D7 0 = .ok (.shfl64 ⟨7, 5, 13, .always⟩) := by
  decide +kernel

/-- 12, 14 (FENCE, BAR), 19 R369, 25: control, barriers and system forms. -/
theorem test_decode_system : decodeWord 0x00000007 0 = .ok (.nop ⟨.always⟩) ∧ decodeWord 0x01C00001 0 = .ok (.exit ⟨⟨false, 1⟩⟩) ∧
    decodeWord 0x02000807 0 = .ok (.bar ⟨0, 2, .always⟩) ∧ decodeWord 0x02DC0007 0 = .ok (.fence ⟨3, 4, .always⟩) ∧
    decodeWord 0x02C90007 0 = .ok (.fence ⟨1, 1, .always⟩) ∧ decodeWord 0x00C50807 0 = .ok (.srd ⟨5, 2, .always⟩) ∧
    decodeWord 0x00C12C07 0 = .ok (.srd ⟨1, 11, .always⟩) ∧ decodeWord 0x01000C77 0 = .ok (.swrCtmr ⟨7, .always⟩) ∧
    decodeWord 0x01402A57 0 = .ok (.trap ⟨0x2A5, .always⟩) ∧ decodeWord 0x01800007 0 = .ok (.bkpt ⟨0, .always⟩) ∧
    decodeWord 0x03000007 0 = .ok (.eret ⟨.always⟩) ∧ decodeWord 0x03440807 0 = .ok (.winr ⟨4, 2, .always⟩) := by
  decide +kernel

/-- 11, 14, 15, 24, 27: loads, stores, flush, kick, arrival and ring forms. -/
theorem test_decode_memory : decodeWord 0xE1840807 0x20D00040 = .ok (.ld64 ⟨4, 2, 2, 0, 3, 1, 0, 0x40, .always⟩) ∧
    decodeWord 0xE1030807 0x10000000 = .ok (.ld32u ⟨3, 2, 1, 0, 0, 0, 0, 0, .always⟩) ∧
    decodeWord 0xE4C00877 0x04000008 = .ok (.st64 ⟨2, 7, 0, 2, 0, 0, 0, 8, .always⟩) ∧
    decodeWord 0xF200E122 0x01400100 = .ok (.flush ⟨56, 18, 0, 0, 5, 0, 0, 0x100, ⟨false, 2⟩⟩) ∧
    decodeWord 0xF0001057 0x04000000 = .ok (.kick ⟨4, 5, 0, 2, 0, 0, 0, 0, .always⟩) ∧
    decodeWord 0xF0C00057 0x04000000 = .ok (.arrw ⟨0, 5, 0, 2, 0, 0, 0, 0, .always⟩) ∧
    decodeWord 0xF1060837 0x23000000 = .ok (.rclm ⟨6, 2, 3, 2, 1, 4, 0, 0, 0, .always⟩) ∧
    decodeWord 0xF1403922 0x01000000 = .ok (.rcmt ⟨14, 18, 0, 0, 4, 0, 0, 0, ⟨false, 2⟩⟩) ∧
    decodeWord 0xF19138F2 0x01000100 = .ok (.rawt ⟨17, 14, 15, 0, 0, 4, 0, 0, 0x100, ⟨false, 2⟩⟩) := by
  decide +kernel

/-- R140, bit by bit: AT is major 0x3A, minor in [25:22], vd, va, vb, guard; the extension LA, SPACE, SCOPE, ORDER, ORD, TYPE, OFFSET. -/
theorem test_decode_atomics :
    decodeWord (0x3A * 2 ^ 26 + 0 * 2 ^ 22 + 3 * 2 ^ 16 + 4 * 2 ^ 10 + 5 * 2 ^ 4 + 7) (1 * 2 ^ 28 + 0 * 2 ^ 25 + 4 * 2 ^ 22 + 1 * 2 ^ 20 + 1 * 2 ^ 16 + 8) =
      .ok (.aadd ⟨3, 4, 5, 1, 0, 4, 1, false, 1, 8, .always⟩) ∧
    decodeWord (0x3B * 2 ^ 26 + 0 * 2 ^ 22 + 4 * 2 ^ 10 + 5 * 2 ^ 4 + 7) (0 * 2 ^ 28 + 2 * 2 ^ 25 + 1 * 2 ^ 22 + 2 * 2 ^ 20 + 0 * 2 ^ 16 + 8) =
      .ok (.aaddN ⟨4, 5, 0, 2, 1, 2, false, 0, 8, .always⟩) := by
  decide +kernel

/-- 15 (VPUB), 27, 28: task forms. -/
theorem test_decode_tasks : decodeWord 0xFC832807 0 = .ok (.vpub ⟨3, 10, 0, 0, .always⟩) ∧ decodeWord 0xFCC5E007 0x20 = .ok (.vfin ⟨5, 56, 0, 0x20, .always⟩) ∧
    decodeWord 0xFD8CE007 0 = .ok (.vwait ⟨12, 56, 0, 0, 0, .always⟩) ∧ decodeWord 0xFDCEE002 0 = .ok (.stopref ⟨14, 56, 0, 0, ⟨false, 2⟩⟩) ∧
    decodeWord 0xFD40E00B 0x00100000 = .ok (.vrel ⟨56, true, 0, 0, ⟨true, 3⟩⟩) := by
  decide +kernel

/-- 16 (MMA), 17, 26, 27: matrix and Kiln forms. -/
theorem test_decode_matrix_and_kiln : decodeWord 0xF4002107 0x02850116 = .ok (.mma ⟨8, 16, 0, 1, 2, 5, 17, true, true, false, .always⟩) ∧
    decodeWord 0xF9000007 0x00001000 = .ok (.kswp ⟨0, 0, 0, 1, false, false, .always⟩) ∧ decodeWord 0xF9C01057 0 = .ok (.kmodeConfigure ⟨4, 5, 0, .always⟩) ∧
    decodeWord 0xF800E047 0x5 = .ok (.kcpl ⟨56, 4, 0, 0, 0, 5, .always⟩) ∧ decodeWord 0xF8401857 0 = .ok (.kbias ⟨6, 5, 0, 0, false, .always⟩) ∧
    decodeWord 0xF88030D7 0 = .ok (.kclmp ⟨12, 13, 0, .always⟩) ∧ decodeWord 0xF8800007 1 = .ok (.kclmpStates ⟨0, 0, .always⟩) ∧
    decodeWord 0xF8C02407 0 = .ok (.kcol ⟨9, 0, .always⟩) ∧ decodeWord 0xF9500007 0x20000000 = .ok (.kcnt ⟨16, 2, false, .always⟩) ∧
    decodeWord 0xF98E0007 0x20000000 = .ok (.krds ⟨14, 2, .always⟩) ∧ decodeWord 0xF9C00007 0x0C002000 = .ok (.kmodeInject ⟨0, 0x2000, .always⟩) ∧
    decodeWord 0xF9C00007 0x04000000 = .ok (.kmodeQuar ⟨0, .always⟩) := by
  decide +kernel

/-- 18, 28: Slip forms. -/
theorem test_decode_slip : decodeWord 0xFB801057 0 = .ok (.gmodeConfigure ⟨4, 5, 0, .always⟩) ∧
    decodeWord 0xFAC028B7 0x800 = .ok (.grun ⟨10, 11, 0, 0, true, false, false, false, .always⟩) ∧
    decodeWord 0xFBC80047 0 = .ok (.gres ⟨8, 4, 0, 0, .always⟩) ∧ decodeWord 0xFBC50047 6 = .ok (.gres ⟨5, 4, 0, 6, .always⟩) ∧
    decodeWord 0xFB800007 0x04000000 = .ok (.gmodeSetState ⟨0, 0, .always⟩) := by
  decide +kernel

/-- R377: a reserved major (0x1D), a minor outside its row (SYS 15), a zero field that is not zero (NOP with vd 1), a declared value (WAITC CLASS 0). -/
theorem test_decode_rejects : decodeWord (0x1D * 2 ^ 26 + 7) 0 = .error .reservedMajor ∧ decodeWord (15 * 2 ^ 22 + 7) 0 = .error .badMinor ∧
    decodeWord 0x00010007 0 = .error .zeroField ∧ decodeWord (1 * 2 ^ 22 + 7) 0 = .error .badValue := by
  decide +kernel

/-! ## One step on the worked examples of the spec -/

/-- The placed state with registers, predicates and a CMR, and what running a word and its extension there leaves: a register, and FSTAT. -/
def tSt (regs : List (Nat × RegVal)) (preds : List Mask) (cmr : BitVec 32) : State :=
  let c := { placedCrew with regs := regs.foldl (fun l e => l.set e.1 e.2) placedCrew.regs, preds := preds ++ placedCrew.preds.drop preds.length }
  let s := State.reset.placed 7
  { s with d := { s.d with cur := some { crew := 3, group := BitVec.allOnes 32, addr := 4, ret := 8, word := 7 }, crews := [c],
                           ctxs := s.d.ctxs.map fun x => { x with cmr := cmr } } }
noncomputable def tRun (w x : Nat) (s : State) : Option Crew :=
  match decodeWord w x with
  | .ok i => match exec i s with
    | .next t => t.d.crew 3
    | _ => none
  | .error _ => none
/-- A register that holds lane 0's value, and zero in every other lane. -/
def tLane (v : Word) : RegVal := .gen (v :: List.replicate 31 0)

/-- The worked example of 12_isa_control_and_integer.md (R269). -/
theorem test_movx : (tRun 0xD8010007 0x0F4A7C15 (tSt [] [] 0)).map (·.reg 1) = some (.uni 0xFFFFFFFFFF4A7C15) ∧
    (tRun 0xD8410007 0x03779B97 (tSt [(1, .uni 0xFFFFFFFFFF4A7C15)] [] 0)).map (·.reg 1) = some (.uni 0xFF3779B97F4A7C15) ∧
    (tRun 0xD8810007 0x9E (tSt [(1, .uni 0xFF3779B97F4A7C15)] [] 0)).map (·.reg 1) = some (.uni 0x9E3779B97F4A7C15) := by
  decide +kernel

/-- The table of examples of R270. -/
theorem test_bit_fields : let s := tSt [(4, .uni 0x80000000000000AB)] [] 0
    (tRun 0xDC431007 0x083C s).map (·.reg 3) = some (.uni 0xFFFFFFFFFFFFFFF8) ∧ (tRun 0xDC031007 0x083C s).map (·.reg 3) = some (.uni 8) ∧
    (tRun 0xDC831007 0x083C s).map (·.reg 3) = some (.uni 0xB000000000000000) ∧ (tRun 0x3CC31057 0 (tSt [(4, .uni 0x80000000000000AB), (5, .uni 0x4004)] [] 0)).map (·.reg 3) = some (.uni 0xAB0) ∧
    (tRun 0xDC431007 0 s).map (·.reg 3) = some (.uni 0) ∧
    (tRun 0xDC831007 8 (tSt [(4, .uni 0x80000000000000AB), (3, .uni 99)] [] 0)).map (·.reg 3) = some (.uni 99) := by
  decide +kernel

/-- The example of R280: OF and NX are raised. -/
theorem test_cvt : (tRun 0x5D030917 0 (tSt [(2, tLane 0x7FC0000043FA0000)] [] 0)).map (fun c => (c.val 3 0, c.sp.fstat)) = some (0x7F7E, 0b10100) := by
  decide +kernel

/-- The example of R285: the tree, and the sequential order. -/
theorem test_red_fadd : let s := tSt [(6, .gen (0x338000003F800000 :: 0x3380000033800000 :: List.replicate 30 0))] [0, 0, 0, 3] 0
    (tRun 0x69C71A13 0 s).map (fun c => (c.val 7 0, c.val 7 1, c.sp.fstat)) = some (0x3F800001, 0x3F800001, 0b10000) := by
  decide +kernel

/-- The example of R223: NSAT and CANON. -/
theorem test_f8_fadd : let r := [(4, tLane 0xFF7A), (5, tLane 0x3878)]
    (tRun 0x50031057 0 (tSt r [] 0x10)).map (fun c => (c.val 3 0, c.sp.fstat)) = some (0xFF7E, 0b10101) ∧
    (tRun 0x50031057 0 (tSt r [] 0)).map (fun c => c.val 3 0) = some 0xFF7F ∧ (tRun 0x50031057 0 (tSt r [] 0x30)).map (fun c => c.val 3 0) = some 0x7F7E := by
  decide +kernel

/-- P16 of the worked example of R348, and the counters of the example of R144. -/
theorem test_sigmoid_and_counters : [sigmoid16 0x3800 0, sigmoid16 0x3800 (-4), sigmoid16 0x3800 4] = [32768, 7812, 57724] ∧
    [atomInt 13 32 8 9, atomInt 13 32 9 9, atomInt 14 32 0 9, atomInt 14 32 2 9] = [9, 0, 9, 1] := by
  decide +kernel

/-- The tile of the worked example of 18_slip_tiles.md before the second unit of its run. -/
def tSlip : Slip :=
  { a := [(0, 0x4000), (1, 0x3C00), (64, 0x3C00), (65, 0x4000)], b := [(0, 0x40400000)], mode := 1, k := 2, nord := 2, t := 1, step := 1, running := true
    x := [(0, 0x3F400000)], queue := [⟨.run 1 1 1 2 false false false false 0, 9, 3, 2⟩] }
def tSlipState : State :=
  let s := tSt [] [] 0
  { s with d := { (s.d.modCore 0 0 fun k => { k with slip := tSlip }) with ops := [{ id := 9, crew := 3, cls := 5, iaddr := 0, lanes := 1, kind := .sampler }] } }

/-- X after that unit. -/
theorem test_slip_unit : (match exec (.slipStep 0 0) tSlipState with
    | .next u => (u.d.core 0 0).slip.x
    | _ => []) = [(0, 0x3F900000), (1, 0xBE400000)] := by
  decide +kernel

/-- SHA3-512 of the empty message (FIPS 202; the spec names the function only). -/
theorem test_sha3_empty : leNat (sha3 []).reverse =
    0xA69F73CCA23A9AC5C8B567DC185A756E97C982164FE25859E0D1DCC1475C80A615B2123AF1F5F94C11E3E9402C3AC558F500199D95B6D3E301758586281DCD26 := by
  decide +kernel

/-! ## Small states that meet the statements' hypotheses -/

/-- The choice about to issue: crew 3, all its threads, at the placed word. -/
def wCur : Cur := { crew := 3, group := BitVec.allOnes 32, addr := 4, ret := 8, word := 7 }

/-- The placed state with a choice made, another crew 3, and a change of its device. -/
def wSt (cu : Cur := wCur) (c : Crew := placedCrew) (f : Dev → Dev := id) : State :=
  let s := State.reset.placed 7
  let d := f s.d
  { s with d := { d with cur := some cu, crews := c :: d.crews.tail } }

/-- The partition it runs in. -/
def wPart : Part := { towers := [0, 1, 2, 3, 4, 5, 6, 7], ctx := some 0 }

theorem w_ready {s : State} {cu : Cur} {c : Crew} {g : Guard} {rs : List Nat} (h1 : s.d.cur = some cu := by rfl)
    (h2 : s.d.crew cu.crew = some c := by rfl) (h3 : s.cont = none := by rfl) (h4 : activeLanes cu c g ≠ 0 := by decide +kernel)
    (h5 : c.sp.ctmrFault = false := by rfl) (h6 : c.pend = [] := by rfl)
    (h7 : ∀ r ∈ rs, r < 64 ∧ c.allot.getLsbD r = true := by decide +kernel) (h8 : c.badRegs = [] := by rfl) : Ready s cu c g rs :=
  ⟨h1, h2, h3, h4, h5, by simp [h6], h7, by simp [h8]⟩

theorem w_running {s : State} {c : Crew} {p : Part} (h1 : s.d.part c.place.tower = some p := by decide +kernel)
    (h2 : p.ctx.isSome = true := by rfl) (h3 : p.halt.phase = .running := by rfl) (h4 : c.handler = false := by rfl) : Running s c p :=
  ⟨h1, h2, h3, h4⟩

theorem w_room (d : Nat) : placedCrew.roomForG d := by
  have : placedCrew.gcount = 0 := by decide +kernel
  simp only [Crew.roomForG, this]; split <;> decide

theorem w_room' {c : Crew} {d : Nat} (h : c.gcount + 1 ≤ c.gbud := by decide +kernel) : c.roomForG d := by
  simp only [Crew.roomForG]; split <;> omega

/-- The bytes of an access, and whether it is located. -/
def wRefs (s : State) (cu : Cur) (c : Crew) (a : Acc) (space n ea : Nat) : List BRef :=
  match s.d.who c with
  | some q => match (s.begun cu c).locate q (s.d.localGranules c) a space ea n with
    | .ok r => r
    | _ => []
  | none => []

/-- See `wRefs`. -/
def wOk (s : State) (cu : Cur) (c : Crew) (a : Acc) (space n ea : Nat) : Bool :=
  match s.d.who c with
  | some q => match (s.begun cu c).locate q (s.d.localGranules c) a space ea n with
    | .ok _ => true
    | _ => false
  | none => false

theorem w_located {s : State} {cu : Cur} {c : Crew} {a : Acc} {space n ea : Nat} (h : wOk s cu c a space n ea = true := by decide +kernel) :
    locatedAt s cu c a space n ea (wRefs s cu c a space n ea) := by
  simp only [wOk] at h
  cases hq : s.d.who c with
  | none => simp [hq] at h
  | some q =>
    cases hl : (s.begun cu c).locate q (s.d.localGranules c) a space ea n with
    | ok r => exact ⟨q, hq, by simp [wRefs, hq, hl]⟩
    | bad _ _ => simp [hq, hl] at h
    | miss _ => simp [hq, hl] at h
    | held => simp [hq, hl] at h

theorem w_noTraps {s : State} {c : Crew} (h : (((s.d.cmr c) >>> 8).setWidth 5 == (0 : BitVec 5)) = true := by decide +kernel) : noTraps s c :=
  eq_of_beq h

/-- The crew has no check pending. -/
def wFree (s : State) (cu : Cur) : Bool :=
  match s.d.crew cu.crew with
  | some c => c.checking.isNone
  | none => true

theorem w_unfenced {s : State} {cu : Cur} (h1 : s.d.fences = [] := by rfl) (h2 : s.d.ops = [] := by rfl)
    (h3 : wFree s cu = true := by decide +kernel) : Unfenced s cu := by
  refine ⟨?_, ?_, by simp [h1], by simp [h2]⟩ <;> intro c hc <;> simp [wFree, hc] at h3
  · exact h3
  · simp [Dev.requests, h2]

theorem w_quiet {s : State} {cu : Cur} {c : Crew} (h1 : s.d.ops = [] := by rfl) (h2 : s.d.fences = [] := by rfl)
    (h3 : (s.d.core c.place.tower c.place.core).sq = [] := by decide +kernel)
    (h4 : (s.d.cluster c.place.tower (clusterOf c.place.core)).cmb = [] := by decide +kernel) : Quiet s cu c :=
  ⟨by simp [h1], by simp [h2], h3, h4⟩

theorem w_noOverlap {s : State} {cu : Cur} {act : Mask} {refs : Nat → List BRef} (h : s.d.ops = [] := by rfl) : noOverlap s cu act refs := by
  simp [noOverlap, h]

theorem w_noneDirty {s : State} {c : Crew} {act : Mask} {refs : Nat → List BRef}
    (h : (s.d.cluster c.place.tower (clusterOf c.place.core)).cmb = [] := by decide +kernel) : noneDirty s c act refs :=
  fun _ _ r _ => by simp [Cluster.line, h]

/-- The bytes every lane accesses. -/
theorem w_lanes {s : State} {cu : Cur} {c : Crew} {a : Acc} {space n : Nat} {act : Mask} {ea : Nat → Nat} (h1 : (s.d.who c).isSome = true := by decide +kernel)
    (h2 : ∀ l ∈ maskLanes act, wOk s cu c a space n (ea l) = true := by decide +kernel) :
    lanesLocated s cu c a space n act (fun l => some (ea l)) (fun l => wRefs s cu c a space n (ea l)) :=
  ⟨h1, fun l hl => w_located (h2 l hl)⟩

/-- What was sent first overtakes nothing. -/
theorem w_first (w : Work) (t k : Nat) (refs : List BRef) : w.overtakes t k 0 refs = false := by
  simp only [Work.overtakes, List.any_eq_false]
  intro r _
  cases w.path t k r <;> simp

/-- No core asks for a line, and no merge buffer holds one. -/
def wIdle (d : Dev) : Bool := d.cores.all (fun e => e.2.fills.isEmpty) && d.clusters.all fun e => e.2.cmb.isEmpty

/-- Where the one operation on its way was not sent before it, a request overtakes nothing. -/
theorem w_alone {w : Work} {t k sent : Nat} {refs : List BRef} {o : Op} (h1 : w.d.ops = [o]) (h2 : wIdle w.d = true)
    (h3 : sent ≤ o.id ∨ o.kind = .matrix ∨ o.kind = .sampler) (h4 : ∀ m ∈ o.kind.messages o.id, sent ≤ m.2) : w.overtakes t k sent refs = false := by
  simp only [wIdle, Bool.and_eq_true, List.all_eq_true, List.isEmpty_iff] at h2
  have hm : ∀ m ∈ w.messages, sent ≤ m.2 := by
    intro m hm
    simp only [Work.messages, h1, List.flatMap_cons, List.flatMap_nil, List.append_nil, List.mem_append, List.mem_flatMap, List.mem_filterMap] at hm
    rcases hm with (hm | ⟨e, he, f, hf, -⟩) | ⟨e, he, l, hl, -⟩
    · split at hm
      · exact absurd hm (by simp)
      · split at hm
        · exact absurd hm (by simp)
        · simp only [List.mem_filterMap, List.mem_append, List.mem_filter, Option.map_eq_some_iff] at hm
          obtain ⟨a, ha, p, -, rfl⟩ := hm
          rcases ha with ha | ⟨ha, -⟩
          · rcases h3 with h3 | h3 | h3
            · split at ha
              · obtain ⟨r, -, rfl⟩ := List.mem_map.mp ha
                exact h3
              · exact absurd ha (by simp)
            all_goals rw [h3] at ha; exact absurd ha (by simp)
          · exact h4 a ha
    · rw [h2.1 e he] at hf; exact absurd hf (by simp)
    · rw [h2.2 e he] at hl; exact absurd hl (by simp)
  simp only [Work.overtakes, List.any_eq_false]
  intro r _
  cases w.path t k r with
  | none => simp
  | some p =>
    simp only [List.any_eq_true, Bool.and_eq_true, decide_eq_true_eq, not_exists, not_and, Nat.not_lt]
    exact fun m h _ => hm m h

/-- The team and the grid of the crew changed. -/
def wTeam (f : Team → Team) (d : Dev) : Dev := { d with teams := d.teams.map f }

def wGrid (f : Grid → Grid) (d : Dev) : Dev := { d with grids := d.grids.map f }

def wCtx (f : Ctx → Ctx) (d : Dev) : Dev := { d with ctxs := d.ctxs.map f }

def wCore (f : Core → Core) (d : Dev) : Dev := d.modCore 0 0 f

/-- Two granules of local memory. -/
def wLocal : Dev → Dev := wTeam fun t => { t with gran := [0, 1] }

/-- The violation of an access. -/
def wBad (s : State) (cu : Cur) (c : Crew) (a : Acc) (space n ea : Nat) : Option (Nat × Nat) :=
  match s.d.who c with
  | some q => match (s.begun cu c).locate q (s.d.localGranules c) a space ea n with
    | .bad why tensor => some (why, tensor)
    | _ => none
  | none => none

theorem w_bad {s : State} {cu : Cur} {c : Crew} {a : Acc} {space n ea why tensor : Nat} {q : Who} (hq : s.d.who c = some q)
    (h : wBad s cu c a space n ea = some (why, tensor)) :
    (s.begun cu c).locate q (s.d.localGranules c) a space ea n = .bad why tensor := by
  simp only [wBad, hq] at h
  cases hl : (s.begun cu c).locate q (s.d.localGranules c) a space ea n with
  | bad _ _ => simp only [hl, Option.some.injEq, Prod.mk.injEq] at h; rw [h.1, h.2]
  | ok _ => simp [hl] at h
  | miss _ => simp [hl] at h
  | held => simp [hl] at h

/-- A state with an operation of crew 3 in flight. -/
def wOp (o : Op) (f : Dev → Dev := id) : State := wSt wCur placedCrew fun d => let d := f d; { d with ops := [o] }

/-- An operation 9 of crew 3, of class `cls` in lane 0. -/
def wNine (cls : Nat) (k : OpKind) : Op := { id := 9, crew := 3, cls := cls, iaddr := 0, lanes := 1, kind := k }

/-- The state with other memory. -/
def wMem (s : State) (m : Memory) : State := { s with mem := m }

/-- Page tables in memory from 0x10000 on, which map page 0 to physical page 0. -/
def wTables : Memory :=
  [(0x10000, 1), (0x10001, 0x10), (0x10002, 1), (0x11000, 1), (0x11001, 0x20), (0x11002, 1), (0x12000, 1), (0x12001, 0x30), (0x12002, 1), (0x13000, 0x1F)]

/-- The context's page tables begin there. -/
def wRoot : Dev → Dev := wCtx fun x => { x with root := 0x10000 }

/-- A launch record at 0x400: code at 0, of 12 bytes, one team of one crew of one register. -/
def wRecord : Nat := 1 * 2 ^ 384 + 1 * 2 ^ 512 + 1 * 2 ^ 520 + 12 * 2 ^ 1088

def wRecords : Memory := Memory.putAll wTables 0x400 (natLe 256 wRecord)

/-! ## The hypotheses of each statement, met by concrete states -/

theorem witness_DecodeEncode : (Instr.nop ⟨.always⟩).wellFormed = true ∧ encodeWords (.nop ⟨.always⟩) = some (7, 0) := by decide +kernel

theorem witness_DecodeIsExact : decodeWord 7 0 = .ok (.nop ⟨.always⟩) := by decide +kernel

theorem witness_StepRunsDecoded :
    let s := State.reset.placed 7
    let w := s.wake
    let s1 : State := { w with d := { w.d with agenda := [] } }
    let c := placedCrew
    let cl : Clause := ⟨0, placedHeader, [7, 0]⟩
    w.cont = none ∧ (w.d.agenda = [] ∧ w.d.boot.running = true ∧ w.d.crews = [c] ∧ w.d.turn % 2 = 1) ∧ s1.d.crew 3 = some c ∧ s1.d.issues c = true ∧
      (c.sp.ctmrArm = true → c.sp.ctmr ≠ 0) ∧ c.waits = [] ∧ c.repPick = none ∧ c.repGroup = 0 ∧
      c.pick = some (4, BitVec.allOnes 32, List.replicate 32 0) ∧ s1.d.shootdowns = [] ∧ (c.held = true ∨ s1.work.mayStart c 4 (BitVec.allOnes 32) = true) ∧
      s1.work.clauseAt c 4 = .ok (cl, some 0) ∧ cl.dict = false ∧ c.entered &&& BitVec.allOnes 32 = 0 ∧ majorOf 7 ≠ repMajor ∧
      decodeWord 7 0 = .ok (.nop ⟨.always⟩) := by
  decide +kernel

/-- The same crew named by the agenda, no older one standing before it. -/
theorem witness_StepRunsDecoded_agenda :
    let s := State.reset.placed 7
    let w := { s with d := { s.d with agenda := [.crew 3] } : State }.wake
    let s1 : State := { w with d := { w.d with agenda := [] } }
    w.cont = none ∧ w.d.agenda = [.crew 3] ∧ s1.mayTake placedCrew = true ∧ s1.d.crew 3 = some placedCrew ∧ s1.d.issues placedCrew = true ∧
      s1.work.mayStart placedCrew 4 (BitVec.allOnes 32) = true := by
  decide +kernel

theorem witness_StepKeepsMemoryForm : (State.reset.placed 7).wf = true ∧ ∃ t : State, step (State.reset.placed 7) = .next t := by
  refine ⟨by decide +kernel, ?_⟩
  have h : (match step (State.reset.placed 7) with | .next _ => true | _ => false) = true := by decide +kernel
  revert h
  cases step (State.reset.placed 7) with
  | next t => exact fun _ => ⟨t, rfl⟩
  | fault => exact nofun
  | refused => exact nofun

theorem witness_IntegerResults : 64 ∈ [64, 32, 16, 8] ∧ Ready wSt wCur placedCrew .always [6, 7, 5] ∧ placedCrew.roomForG 5 ∧
    (Instr.i32Add, fun (a b : BitVec 32) => a + b) ∈ (intInstrs 32).zip (intRule 32) :=
  ⟨by decide, w_ready, w_room', List.mem_cons_self ..⟩

/-- The lowest and the highest registers, and a register that is source and destination. -/
theorem witness_OneOperandAndImmediateResults : Ready wSt wCur placedCrew .always [0, 63] ∧ placedCrew.roomForG 63 ∧
    Ready wSt wCur placedCrew .always [6, 7, 5, 5] ∧ Ready wSt wCur placedCrew .always [5, 5] ∧ (64#7).toNat ≤ 64 :=
  ⟨w_ready, w_room', w_ready, w_ready, by decide⟩

theorem witness_MoveResults : Ready wSt wCur placedCrew .always [6, 5] ∧ placedCrew.roomForG 5 ∧ Ready wSt wCur placedCrew .always [6, 7, 5] ∧
    Ready wSt wCur placedCrew .always [5] := ⟨w_ready, w_room', w_ready, w_ready⟩

theorem witness_PredicateResults : (11#4).toNat < 12 ∧ (6 : BitVec 3) ≠ 7 ∧ Ready wSt wCur placedCrew .always [6, 7] ∧
    Ready wSt wCur placedCrew .always [6] ∧ Ready wSt wCur placedCrew .always [] := ⟨by decide, by decide, w_ready, w_ready, w_ready⟩

/-- A crew with p0 in lane 0 alone, so that a write under p0 is partial. -/
def wOneLane : Crew := { placedCrew with preds := [1, 0, 0, 0, 0, 0, 0] }

theorem witness_OneOperandAndImmediateResults_tags : (intInstrs 64)[15]? = some .i64Addsat ∧ Ready wSt wCur placedCrew .always [6, 7, 5] ∧ placedCrew.roomForG 5 ∧
    (∀ l < 32, (activeLanes wCur placedCrew .always).getLsbD l = true) ∧ Ready (wSt wCur wOneLane) wCur wOneLane ⟨false, 0⟩ [6, 7, 5] ∧
    (wOneLane.thread 1).exited = false ∧ (activeLanes wCur wOneLane ⟨false, 0⟩).getLsbD 1 = false :=
  ⟨rfl, w_ready, w_room', by decide +kernel, w_ready, by decide +kernel, by decide +kernel⟩

/-- A crew whose G-budget is spent by v7, one with v7 pending within its lookahead, one without v7. -/
def wFullG : Crew := { placedCrew with gbud := 1, regs := (List.replicate 64 (RegVal.uni 0)).set 7 (.gen (List.replicate 32 1)) }

def wPending : Crew := { placedCrew with pend := [⟨7, 9, List.replicate 32 2, 2⟩] }

def wNoV7 : Crew := { placedCrew with allot := 0x7F }

theorem witness_IssueChecks :
    (Running (wSt wCur wNoV7) wNoV7 wPart ∧ (wSt wCur wNoV7).d.crew 3 = some wNoV7 ∧ wNoV7.pend = [] ∧ wNoV7.allot.getLsbD 7 = false) ∧
    (Running (wSt wCur wFullG) wFullG wPart ∧ Ready (wSt wCur wFullG) wCur wFullG .always [6, 7, 5] ∧ (wFullG.reg 7).tag = 2 ∧
      (wFullG.reg 5).tag ≠ 2 ∧ (∀ x ∈ wFullG.pend, x.reg ≠ 5) ∧ (∀ x ∈ wFullG.waits, 5 ∉ x.dests) ∧ wFullG.gbud ≤ wFullG.gcount) ∧
    (Running (wSt wCur wPending) wPending wPart ∧ (activeLanes wCur wPending .always).getLsbD 31 = true ∧
      ∃ x ∈ wPending.pend, 2 ≤ x.left.getD 31 0 ∧ x.reg ∈ [6, 7, 5]) ∧
    (activeLanes wCur placedCrew ⟨true, 7⟩ = 0 ∧ ∀ r ∈ [6, 7, 5], placedCrew.allot.getLsbD r = true) := by
  refine ⟨⟨w_running, rfl, rfl, by decide +kernel⟩, ⟨w_running, w_ready, by decide +kernel, by decide +kernel, nofun, nofun, by decide +kernel⟩,
    ⟨w_running, by decide +kernel, _, List.mem_singleton_self _, by decide, by decide⟩, by decide +kernel, by decide +kernel⟩

/-- A context that traps every flag, and a crew with 1.0 in v6 and 0.0 in v7 of FP64. -/
def wTraps (d : Dev) : Dev := { d with ctxs := [{ ctxid := 0, part := 0, cmr := 0x1F00 }] }

def wDivides : Crew := { placedCrew with regs := (List.replicate 64 (RegVal.uni 0)).set 6 (.uni 0x3FF0000000000000) }

theorem witness_FloatVectorResults : noTraps wSt placedCrew ∧ Ready wSt wCur placedCrew .always [6, 7, 5] ∧ placedCrew.roomForG 5 ∧
    (Ready (wSt wCur wDivides wTraps) wCur wDivides .always [6, 7, 5] ∧ wDivides.roomForG 5 ∧ Running (wSt wCur wDivides wTraps) wDivides wPart ∧
      (wSt wCur wDivides wTraps).wf = true ∧
      let s := wSt wCur wDivides wTraps
      (laneFlags (activeLanes wCur wDivides .always) fun l => (eachElemF 64 fun j => VFn.fdiv.apply (controls s wDivides) .fp64
        (elem 64 (wDivides.val 6 l) j) (elem 64 (wDivides.val 7 l) j) (elem 64 (wDivides.val 5 l) j)).2) &&&
          ((s.d.cmr wDivides) >>> 8).setWidth 5 ≠ 0) :=
  ⟨w_noTraps, w_ready, w_room', w_ready, w_room', w_running, by decide +kernel, by decide +kernel⟩

theorem witness_FloatFunctionResults : noTraps wSt placedCrew ∧ Ready wSt wCur placedCrew .always [6, 5] ∧ placedCrew.roomForG 5 ∧
    Ready wSt wCur placedCrew .always [6, 7, 5, 5] ∧ (7#4).toNat < 8 ∧ (0 : BitVec 3) ≠ 7 ∧ Ready wSt wCur placedCrew .always [6, 7] :=
  ⟨w_noTraps, w_ready, w_room', w_ready, by decide, by decide, w_ready⟩

/-- 1, 2 and 3 in FP32, its smallest subnormal, and 1 below its largest value. -/
theorem witness_RoundingRules : let k := FCtl.ofCmr 0
    Fmt.fp32.isFloat = true ∧ ((Fmt.fp32.input k 0x3F800000).rat.isSome ∧ (Fmt.fp32.input k 0x40000000).rat.isSome ∧
      (Fmt.fp32.input k 0x40400000).rat.isSome) ∧ (Fmt.fp32.value 1).rat.isSome ∧ k.ftzr = false ∧ k.rnd = .rne ∧
    (Val.fin false 1 0).rat = some 1 ∧ ∃ v : ℚ, (Fmt.fp32.value Fmt.fp32.maxBits).rat = some v ∧ |1| ≤ v := by
  have h : Fmt.fp32.value Fmt.fp32.maxBits = .fin false 16777215 104 := by decide +kernel
  refine ⟨by decide, by decide +kernel, by decide +kernel, by decide +kernel, by decide +kernel, by norm_num [Val.rat], _, by rw [h]; rfl, ?_⟩
  norm_num

/-- A crew whose format slot 0 is the launch record's default. -/
theorem witness_FloatFunctionResults_scaled : noTraps wSt placedCrew ∧
    Ready wSt wCur placedCrew .always (regRange 8 (wSt.d.slotOf placedCrew 0).regsN ++ [6, 5]) ∧ placedCrew.roomForG 5 ∧
    Ready wSt wCur placedCrew .always ([6, 7] ++ regRange 8 (wSt.d.slotOf placedCrew 0).regsN) ∧
    placedCrew.gcount + (wSt.d.slotOf placedCrew 0).regsN ≤ placedCrew.gbud :=
  ⟨w_noTraps, w_ready, w_room', w_ready, by decide +kernel⟩

theorem witness_CrossLaneResults : Ready wSt wCur placedCrew .always [6, 7, 5] ∧ placedCrew.roomForG 5 ∧ Ready wSt wCur placedCrew .always [6, 5] ∧
    Ready wSt wCur placedCrew .always [5] ∧ (0 : BitVec 3) ≠ 7 ∧ (2#2).toNat < 3 ∧ Ready wSt wCur placedCrew .always [] :=
  ⟨w_ready, w_room', w_ready, w_ready, by decide, by decide, w_ready⟩

theorem witness_Reductions : (7#4).toNat ≤ 7 ∧ Ready wSt wCur placedCrew .always [6, 5, 5] ∧ placedCrew.roomForG 5 ∧ noTraps wSt placedCrew ∧
    8 ≤ (12#4).toNat ∧ (12#4).toNat ≤ 12 := ⟨by decide, w_ready, w_room', w_noTraps, by decide, by decide⟩

/-- v6 holds the last PC in lane 0, and v7 an address that is no PC. -/
def wJumps : Crew := { placedCrew with regs := ((List.replicate 64 (RegVal.uni 0)).set 6 (.uni 0xFFFFFFFFFFFFC)).set 7 (.uni 2) }

theorem witness_ControlResults : Ready wSt wCur placedCrew .always [] ∧ Ready (wSt wCur wJumps) wCur wJumps .always [6] ∧
    (∀ l < 32, (activeLanes wCur wJumps .always).getLsbD l = true → (wJumps.val 6 l).toNat % 4 = 0 ∧ (wJumps.val 6 l).toNat < 2 ^ 52) ∧
    Ready wSt wCur placedCrew .always [0] ∧ (∀ l < 32, (placedCrew.val 0 l).toNat % 4 = 0 ∧ (placedCrew.val 0 l).toNat < 2 ^ 52) ∧
    placedCrew.roomForG 0 ∧ Ready (wSt wCur wJumps) wCur wJumps .always [6, 0] ∧ wJumps.roomForG 0 :=
  ⟨w_ready, w_ready, by decide +kernel, w_ready, by decide +kernel, w_room', w_ready, w_room'⟩

/-- A crew whose lane 0 is held at 8 while lane 1 is still to come. -/
def wHeld : Crew := { threads := [{ pc := 8, m := 8 }, { pc := 4, m := 8 }] }

/-- A choice of a REP whose target is an addition, and of one whose target is a NOP. -/
def wRep (w : Nat) : Cur := { wCur with ret := 4, target := some (w, 0) }

/-- A dictionary of one entry, an addition, and a word of its code with padding, and of a code past its end. -/
def wDict (d : Dev) : Dev :=
  { d with cores := [(0, { d.core 0 0 with dict := [0x04051467] })], grids := [{ placedGrid with launch := { placedGrid.launch with dictn := 1 } }] }

def wDictCur (w : Nat) : Cur := { wCur with word := w }

theorem witness_HoldsAndDictionaryWords :
    (wHeld.release.threads[0]? = some { pc := 8, m := 8 } ∧ (8 : Word) ≠ BitVec.allOnes 64) ∧
    (Ready (wSt (wRep 0x04051467)) (wRep 0x04051467) placedCrew .always [] ∧ (wRep 0x04051467).target = some (0x04051467, 0) ∧
      (wRep 0x04051467).ret = (wRep 0x04051467).addr ∧ 0x04051467 < 2 ^ 32 ∧ 0x04051467 / 2 ^ 26 = 1) ∧
    (Ready (wSt (wRep 7)) (wRep 7) placedCrew .always [] ∧ 7 / 2 ^ 26 = 0 ∧ Running (wSt (wRep 7)) placedCrew wPart) ∧
    (let s := wSt (wDictCur 0xFFFF0000) placedCrew wDict;
      s.cont = none ∧ s.d.cur = some (wDictCur 0xFFFF0000) ∧ s.d.crew 3 = some placedCrew ∧
      (match (⟨0, 7 * 2 ^ 21, [0xFFFF0000]⟩ : Clause).pair (s.d.dictOf placedCrew) 0 with | .ok x => some x | _ => none) = some ((0x04051467, 0), none)) ∧
    (let s := wSt (wDictCur 0xFFFF0001) placedCrew wDict;
      s.cont = none ∧ s.d.cur = some (wDictCur 0xFFFF0001) ∧ s.d.crew 3 = some placedCrew ∧
      (match (⟨0, 7 * 2 ^ 21, [0xFFFF0001]⟩ : Clause).pair (s.d.dictOf placedCrew) 0 with
        | .error (.illegal e w) => some (e, w) | _ => none) = some (.dictionary, 0xFFFF0001) ∧ Running s placedCrew wPart ∧ s.wf = true) :=
  ⟨by decide +kernel, ⟨w_ready, rfl, rfl, by decide, by decide⟩, ⟨w_ready, by decide, w_running⟩, by decide +kernel,
    rfl, rfl, rfl, by decide +kernel, w_running, by decide +kernel⟩

/-- A handler crew. -/
def wHandler : Crew := { placedCrew with handler := true }

theorem witness_SpecialRegisters : ((0#6).toNat < 14 ∧ (13#6).toNat < 14) ∧ (placedCrew.handler = false → (13#6).toNat ≠ 10 ∧ (13#6).toNat ≠ 11) ∧
    Ready wSt wCur placedCrew .always [5] ∧ placedCrew.roomForG 5 ∧ wSt.d.gridOf placedCrew = some placedGrid ∧
    Ready (wSt wCur wHandler) wCur wHandler .always [5] ∧ wHandler.handler = true ∧ Ready wSt wCur placedCrew .always [7] :=
  ⟨⟨by decide, by decide⟩, by decide, w_ready, w_room', by decide +kernel, w_ready, rfl, w_ready⟩

/-- The team with one crew arrived at barrier 0 with N = 1. -/
def wArrived (d : Dev) : Dev := wTeam (fun t => { t with barriers := t.barriers.set 0 { arrived := [9], n := 1 } }) d

/-- A tile table with an input that was not final, and one that is full. -/
def wInput (d : Dev) : Dev := wTeam (fun t => { t with tiles := [{ cell := 64, got := true }] }) d

def wTiles (d : Dev) : Dev := wTeam (fun t => { t with tiles := (List.range 16).map fun k => { cell := BitVec.ofNat 64 (64 * k + 1024) } }) d

def wSecond : Crew := { placedCrew with index := 1 }

/-- v0 is an address that is no PC. -/
def wReturns : Crew := { placedCrew with regs := (List.replicate 64 (RegVal.uni 0)).set 0 (.uni 2) }

/-- The partition with its handler at work. -/
def wHandlingPart : Part := { wPart with halt := { wPart.halt with phase := .handling } }

def wHandling (d : Dev) : Dev := { d with parts := [wHandlingPart] }

theorem witness_InstructionTraps :
    (Running (wSt wCur wJumps) wJumps wPart ∧ Ready (wSt wCur wJumps) wCur wJumps .always [7, 0] ∧
      (activeLanes wCur wJumps .always).getLsbD 31 = true ∧ (wJumps.val 7 31).toNat % 4 ≠ 0) ∧
    (Running (wSt wCur wReturns) wReturns wPart ∧ Ready (wSt wCur wReturns) wCur wReturns .always [0] ∧
      (activeLanes wCur wReturns .always).getLsbD 31 = true ∧ (wReturns.val 0 31).toNat % 4 ≠ 0) ∧
    (let s := wSt wCur wHandler wHandling
     wHandler.handler = true ∧ s.d.part wHandler.place.tower = some wHandlingPart ∧ wHandlingPart.ctx.isSome = true ∧
      wHandlingPart.halt.phase = .handling ∧ wHandlingPart.halt.count < 16383 ∧ s.cont = none ∧ s.d.cur = some wCur ∧ s.d.crew 3 = some wHandler ∧
      ∀ y ∈ s.d.crews, y.handler = true → y.place.gid = wHandler.place.gid → y.place = wHandler.place) ∧
    (Running wSt placedCrew wPart ∧ 14 ≤ (14#6).toNat ∧ Ready wSt wCur placedCrew .always [5] ∧ wSt.cont = none) ∧
    (placedCrew.landed = false ∧ Ready wSt wCur placedCrew .always [] ∧ wSt.d.team 2 = some placedTeam ∧ placedCrew.bar.getLsbD 0 = false ∧
      placedTeam.crews.length < (2#6).toNat) ∧
    (let s := wSt wCur placedCrew wArrived
     ∃ tm, s.d.team 2 = some tm ∧ (0#6).toNat ≤ tm.crews.length ∧ placedCrew.bar.getLsbD 0 = false ∧
      (tm.barriers.getD 0 {}).arrived ≠ [] ∧ (tm.barriers.getD 0 {}).n ≠ (0#6).toNat) ∧
    (Unfenced wSt wCur ∧ placedCrew.cnt.getD 5 0 < 127 ∧ wSt.d.teamOf placedCrew = some placedTeam ∧ wSt.d.gridOf placedCrew = some placedGrid ∧
      wSt.d.rootOf placedCrew = some placedGrid ∧ Ready wSt wCur placedCrew .always [6, 5]) ∧
    (wSecond.index ≠ 0 ∧ Running (wSt wCur wSecond) wSecond wPart) ∧
    ((activeLanes wCur placedCrew .always).getLsbD 0 = true ∧ ∃ g, (wSt wCur placedCrew (wGrid fun g => { g with depth := 10 })).d.gridOf placedCrew = some g ∧
      10 ≤ g.depth) ∧
    placedGrid.launch.coop = false ∧
    (let s := wSt wCur placedCrew wLocal
     let ea := placedCrew.ea 6 0 0x40
     ea % 64 = 0 ∧ locatedAt s wCur placedCrew .load 2 64 ea (wRefs s wCur placedCrew .load 2 64 ea) ∧ wRefs s wCur placedCrew .load 2 64 ea ≠ [] ∧
      (placedGrid.graph.bind fun x => x.nodes[(placedCrew.val 7 0).toNat % 256]?) = none) ∧
    (let s := wSt wCur placedCrew wInput
     let ea := placedCrew.ea 6 0 0x100
     locatedAt s wCur placedCrew .atomic 0 (if ea % 32 = 0 then 32 else 1) ea (wRefs s wCur placedCrew .atomic 0 (if ea % 32 = 0 then 32 else 1) ea) ∧
      wRefs s wCur placedCrew .atomic 0 (if ea % 32 = 0 then 32 else 1) ea ≠ [] ∧
      noOverlap s wCur (BitVec.ofNat 32 (2 ^ 0)) (fun _ => wRefs s wCur placedCrew .atomic 0 (if ea % 32 = 0 then 32 else 1) ea) ∧
      (∃ tm, s.d.teamOf placedCrew = some tm ∧ tm.inputsFinal = false ∧
        ((tm.tiles.find? fun e => e.cell == BitVec.ofNat 64 ea).map fun e => if true then e.held1 else e.held0).getD 0 = 0)) ∧
    ∃ tm, (wSt wCur placedCrew wTiles).d.teamOf placedCrew = some tm ∧
      (wSt wCur placedCrew wTiles).d.tableFull tm (BitVec.ofNat 64 (placedCrew.ea 6 0 0x100)) = true :=
  ⟨⟨w_running, w_ready, by decide +kernel, by decide +kernel⟩, ⟨w_running, w_ready, by decide +kernel, by decide +kernel⟩, by decide +kernel,
   ⟨w_running, by decide, w_ready, rfl⟩, ⟨rfl, w_ready, rfl, by decide, by decide⟩,
   ⟨_, rfl, by decide +kernel, by decide +kernel, by decide +kernel, by decide +kernel⟩,
   ⟨w_unfenced, by decide, rfl, rfl, rfl, w_ready⟩, ⟨by decide, w_running⟩, ⟨by decide +kernel, _, rfl, by decide +kernel⟩, rfl,
   ⟨by decide +kernel, w_located, by decide +kernel, rfl⟩, ⟨w_located, by decide +kernel, w_noOverlap, _, rfl, by decide +kernel, by decide +kernel⟩,
   _, rfl, by decide +kernel⟩

/-- A crew with a load outstanding, and one asked to yield. -/
def wCounted : Crew := { placedCrew with cnt := [1, 0, 0, 0, 0, 0] }

def wYields : Crew := { placedCrew with sp := { preempt := true } }

def wCancelled : Crew := { placedCrew with sp := { cancel := true } }

/-- A pair arrival of the crew is pending. -/
def wPairing (d : Dev) : Dev := { d with pairs := [⟨3, 2, 0, 0, 4, 1, 0, 1, 0, [], [], 9, none⟩] }

theorem witness_StopsAndWaits : (Ready wSt wCur placedCrew .always [] ∧ wCur.group ≠ 0 ∧ 1 ≤ (1#4).toNat ∧ (6#4).toNat ≤ 6 ∧
      placedCrew.cnt.getD 0 0 ≤ (0#7).toNat) ∧ (Ready (wSt wCur wCounted) wCur wCounted .always [] ∧ (0#7).toNat < wCounted.cnt.getD 0 0) ∧
    (placedCrew.sp.preempt = false ∧ placedCrew.sp.cancel = false) ∧
    (Ready (wSt wCur wYields) wCur wYields .always [] ∧ wYields.sp.preempt = true ∧ wYields.sp.cancel = false ∧
      (wSt wCur wYields).d.pairing wYields = false ∧ (wSt wCur wYields wPairing).d.pairing wYields = true) ∧
    (Ready (wSt wCur wCancelled) wCur wCancelled .always [] ∧ wCancelled.sp.cancel = true ∧ (wSt wCur wCancelled).d.pairing wCancelled = false) ∧
    Running wSt placedCrew wPart ∧ placedCrew.handler = false :=
  ⟨⟨w_ready, by decide, by decide, by decide, by decide⟩, ⟨w_ready, by decide⟩, ⟨rfl, rfl⟩,
    ⟨w_ready, rfl, rfl, by decide +kernel, by decide +kernel⟩, ⟨w_ready, rfl, by decide +kernel⟩, w_running, rfl⟩

/-- A crew that has arrived at barrier 0. -/
def wAtBarrier : Crew := { placedCrew with bar := 1 }

/-- The team with an older generation of barrier 0 that waits for a store of crew 3. -/
def wClosing (d : Dev) : Dev :=
  { wTeam (fun t => { t with closing := [(0, { arrived := [5], n := 1, owes := [9] })] }) d with
    ops := [{ id := 9, crew := 3, cls := 2, iaddr := 0, lanes := 1, kind := .store 1 [] }] }

/-- The last arrival of a generation (N = 1), one that is not the last (N = 2 with a second crew in the team), one whose older generation still
completes, and a crew that waits. -/
theorem witness_BarrierResults :
    (placedCrew.handler = false ∧ placedCrew.landed = false ∧ Ready wSt wCur placedCrew .always [] ∧ wSt.d.team 2 = some placedTeam ∧
      (1#6).toNat ≤ placedTeam.crews.length ∧ (wSt.d.ops.map (·.id)).Nodup ∧ (∀ x ∈ wSt.d.crews, x.tw < 2 ^ 32 - 1) ∧
      placedCrew.bar.getLsbD 0 = false ∧ (placedTeam.barriers.getD 0 {}).arrived = [] ∧ (1#6).toNat ≤ (placedTeam.barriers.getD 0 {}).arrived.length + 1 ∧
      wSt.d.opsDone (placedTeam.barriers.getD 0 {}).owes = true ∧ wSt.d.ops = [] ∧ placedTeam.closing = []) ∧
    (let s := wSt wCur placedCrew (wTeam fun t => { t with crews := [3, 5] })
     ∃ tm, s.d.team 2 = some tm ∧ ¬ ((2#6).toNat ≤ (tm.barriers.getD 0 {}).arrived.length + 1) ∧ (2#6).toNat ≤ tm.crews.length) ∧
    (let s := wSt wCur placedCrew wClosing
     Ready s wCur placedCrew .always [] ∧ (s.d.ops.map (·.id)).Nodup ∧ ∃ tm, s.d.team 2 = some tm ∧ (∃ e ∈ tm.closing, e.1 = 0) ∧
      ∀ e ∈ tm.closing, e.1 = 0 → s.d.opsDone e.2.owes = false) ∧
    Ready (wSt wCur wAtBarrier) wCur wAtBarrier .always [] ∧ wAtBarrier.bar.getLsbD 0 = true :=
  ⟨⟨rfl, rfl, w_ready, rfl, by decide, by decide +kernel, by decide +kernel, by decide, rfl, by decide, by decide +kernel, rfl, rfl⟩,
    ⟨_, rfl, by decide +kernel, by decide⟩, ⟨w_ready, by decide +kernel, _, rfl, by decide +kernel, by decide +kernel⟩, w_ready, by decide⟩

/-- The core's store queue filled past its room. -/
def wFullQueue (d : Dev) : Dev := wCore (fun k => { k with sq := List.replicate (Config.storeQueue + 1) (.marker 9) }) d

/-- The store of 8 bytes where its core's store queue is full. -/
theorem witness_LoadsAndStoresIssue_full : let s := wSt wCur placedCrew wFullQueue
    let act := activeLanes wCur placedCrew .always
    let ea := fun l => placedCrew.ea 6 l 0x100
    Ready s wCur placedCrew .always [6, 7] ∧ Unfenced s wCur ∧ laneAddrs s placedCrew false true 8 0 0 6 0x100 act = some (fun l => some (ea l)) ∧
      lanesLocated s wCur placedCrew .store 0 8 act (fun l => some (ea l)) (fun l => wRefs s wCur placedCrew .store 0 8 (ea l)) ∧
      noOverlap s wCur act (fun l => wRefs s wCur placedCrew .store 0 8 (ea l)) ∧ Config.storeQueue < (s.d.core 0 0).sq.length := by
  refine ⟨w_ready, w_unfenced, ?_, w_lanes, w_noOverlap, ?_⟩
  · simp only [laneAddrs, Bool.false_eq_true, if_false]
    exact if_pos (.inl (by decide +kernel))
  · have : (wSt wCur placedCrew wFullQueue).d.core 0 0 = { wSt.d.core 0 0 with sq := List.replicate (Config.storeQueue + 1) (.marker 9) } := rfl
    rw [this, List.length_replicate]
    exact Nat.lt_succ_self _

/-- A load and a store of 8 bytes at address 0x100, every lane at the same place. -/
theorem witness_LoadsAndStoresIssue : let act := activeLanes wCur placedCrew .always
    let ea := fun l => placedCrew.ea 6 l 0x100
    (((Instr.ld64, ⟨⟨8, false, false⟩, true, false, true, true⟩) ∈ loadInstrs) ∧ Ready wSt wCur placedCrew .always [6, 5] ∧ Unfenced wSt wCur ∧
      placedCrew.cnt.getD 0 0 < 127 ∧ placedCrew.lateRoom [5] ∧
      laneAddrs wSt placedCrew false true 8 0 0 6 0x100 act = some (fun l => some (ea l)) ∧
      lanesLocated wSt wCur placedCrew .load 0 8 act (fun l => some (ea l)) (fun l => wRefs wSt wCur placedCrew .load 0 8 (ea l)) ∧
      noOverlap wSt wCur act (fun l => wRefs wSt wCur placedCrew .load 0 8 (ea l)) ∧
      noneDirty wSt placedCrew act (fun l => wRefs wSt wCur placedCrew .load 0 8 (ea l)) ∧ wRefs wSt wCur placedCrew .load 0 8 (ea 0) ≠ []) ∧
    ((Instr.st64, ⟨8, true, false, false, false⟩) ∈ storeInstrs ∧ Ready wSt wCur placedCrew .always [6, 7] ∧ placedCrew.cnt.getD 1 0 < 127 ∧
      (wSt.d.core 0 0).sq.length ≤ Config.storeQueue ∧ lanesLocated wSt wCur placedCrew .store 0 8 act (fun l => some (ea l)) (fun l => wRefs wSt wCur placedCrew .store 0 8 (ea l)) ∧
      noOverlap wSt wCur act (fun l => wRefs wSt wCur placedCrew .store 0 8 (ea l)) ∧ Quiet wSt wCur placedCrew) := by
  refine ⟨⟨by simp [loadInstrs], w_ready, w_unfenced, by decide, by unfold Crew.lateRoom; decide +kernel, ?_, w_lanes, w_noOverlap, w_noneDirty,
    by decide +kernel⟩, by simp [storeInstrs], w_ready, by decide, Nat.zero_le _, w_lanes, w_noOverlap, w_quiet⟩
  simp only [laneAddrs, Bool.false_eq_true, if_false]
  exact if_pos (.inl (by decide +kernel))

/-- An acquire and a release store of 8 bytes at address 1, and a load and a store of 1 byte at an address past 2^52. -/
theorem witness_AccessFaults : let act := activeLanes wCur placedCrew .always
    ((Instr.ldaq, ⟨⟨8, false, false⟩, false, false, false, true⟩) ∈ loadInstrs ∧ Running wSt placedCrew wPart ∧ wSt.wf = true ∧
      Ready wSt wCur placedCrew .always [6, 5] ∧ Unfenced wSt wCur ∧ placedCrew.lateRoom [5] ∧ laneAddrs wSt placedCrew false false 8 0 1 6 1 act = none) ∧
    ((Instr.strl, ⟨8, false, false, true, false⟩) ∈ storeInstrs ∧ Ready wSt wCur placedCrew .always [6, 7] ∧ placedCrew.cnt.getD 1 0 < 127 ∧
      laneAddrs wSt placedCrew false false 8 0 2 6 1 act = none) ∧
    ((Instr.st8, ⟨1, false, false, false, false⟩) ∈ storeInstrs ∧ ∃ q, wSt.d.who placedCrew = some q ∧ ∀ k ∈ maskLanes act,
        (wSt.begun wCur placedCrew).locate q (wSt.d.localGranules placedCrew) .store 0 (placedCrew.ea 6 k 0x10000000000000) 1 = .bad 2 0) ∧
    ((Instr.ld8u, ⟨⟨1, false, false⟩, false, false, true, true⟩) ∈ loadInstrs ∧
      laneAddrs wSt placedCrew false false 1 0 0 6 0x10000000000000 act = some (fun l => some (placedCrew.ea 6 l 0x10000000000000)) ∧
      ∃ q, wSt.d.who placedCrew = some q ∧ 0 ∈ maskLanes act ∧ ∀ k ∈ maskLanes act,
        (wSt.begun wCur placedCrew).locate q (wSt.d.localGranules placedCrew) .load 0 (placedCrew.ea 6 k 0x10000000000000) 1 = .bad 2 0) := by
  refine ⟨⟨by simp [loadInstrs], w_running, by decide +kernel, w_ready, w_unfenced, by unfold Crew.lateRoom; decide +kernel, ?_⟩,
    ⟨by simp [storeInstrs], w_ready, by decide, ?_⟩, ⟨by simp [storeInstrs], _, rfl, ?_⟩, by simp [loadInstrs], ?_, _, rfl, by decide +kernel, ?_⟩
  · simp only [laneAddrs, Bool.false_eq_true, if_false]
    exact if_neg (by decide +kernel)
  · simp only [laneAddrs, Bool.false_eq_true, if_false]
    exact if_neg (by decide +kernel)
  · have h : ∀ k ∈ maskLanes (activeLanes wCur placedCrew .always), wBad wSt wCur placedCrew .store 0 1 (placedCrew.ea 6 k 0x10000000000000) = some (2, 0) := by
      decide +kernel
    exact fun k hk => w_bad rfl (h k hk)
  · simp only [laneAddrs, Bool.false_eq_true, if_false]
    exact if_pos (.inl (by decide +kernel))
  · have h : ∀ k ∈ maskLanes (activeLanes wCur placedCrew .always), wBad wSt wCur placedCrew .load 0 1 (placedCrew.ea 6 k 0x10000000000000) = some (2, 0) := by
      decide +kernel
    exact fun k hk => w_bad rfl (h k hk)

/-- A load outstanding, a store queue with a store of the flushed range, an L1 line, and a context that detects races. -/
def wLoadOp : Op := { id := 9, crew := 3, cls := 1, iaddr := 0, lanes := 1, kind := .load [] ⟨8, false, false⟩ 9 true true 0 none }

def wQueued (d : Dev) : Dev := wCore (fun k => { k with sq := [.store 9 3 (flatTag 0x100) [({ key := 0x100, va := 0x100, cached := true }, 7)] [0x100] 0] }) d

def wRacing (d : Dev) : Dev := wCtx (fun x => { x with raceMode := 1, decls := [(0x40, 9)] }) d

def wRange : Crew := { placedCrew with regs := (List.replicate 64 (RegVal.uni 0)).set 7 (.uni 256) }

theorem witness_FencesAndHints : (Ready wSt wCur placedCrew .always [] ∧ Quiet wSt wCur placedCrew) ∧
    (let s := wSt wCur placedCrew (fun d => { d with ops := [wLoadOp] })
     Ready s wCur placedCrew .always [] ∧ wLoadOp ∈ s.d.ops ∧ wLoadOp.crew = 3 ∧ wLoadOp.done = false ∧ wLoadOp.owedBy none = true ∧ wLoadOp.owedBy (some 0) = true ∧ s.d.fences = [] ∧
      wLoadOp.lanes &&& activeLanes wCur placedCrew .always ≠ 0) ∧
    (let s := wSt wCur wRange wQueued
     Ready s wCur wRange .always [6, 7] ∧ Unfenced s wCur ∧ wRange.cnt.getD 1 0 < 127 ∧
      (∃ x ∈ (s.d.core 0 0).sq, ∃ l ∈ maskLanes (activeLanes wCur wRange .always),
        x.inRange [(wRange.ea 6 l 0x100, (wRange.val 7 l).toNat)] = true ∧ (wRange.val 7 l).toNat ≠ 0) ∧ s.d.fences = []) ∧
    (Ready wSt wCur placedCrew .always [6] ∧ let r : BRef := { key := 0x100, tag := flatTag 0x100, cached := true, alloc := true, va := 0x100 }
      wRefs wSt wCur placedCrew .load 0 1 (placedCrew.ea 6 0 0x100) = [r] ∧ (wSt.d.core 0 0).l1Byte r.tag r.pos = none ∧ (wSt.d.core 0 0).fills = []) ∧
    (∃ q, wSt.d.who placedCrew = some q ∧ q.x.raceMode = 0) ∧
    (∃ q, (wSt wCur placedCrew wRacing).d.who placedCrew = some q ∧ q.x.raceMode ≠ 0 ∧
      q.x.decls.find? (fun y => y.1 == placedCrew.val 6 0 + 0x40) = some (0x40, 9)) := by
  exact ⟨⟨w_ready, w_quiet⟩, ⟨w_ready, by decide +kernel, rfl, rfl, rfl, rfl, rfl, by decide +kernel⟩,
    ⟨w_ready, w_unfenced, by decide, by decide +kernel, rfl⟩, ⟨w_ready, by decide +kernel⟩, ⟨_, rfl, by decide +kernel⟩,
    _, rfl, by decide +kernel, by decide +kernel⟩

/-- A store to vault space with one lane still to be applied, of crew 3, at key 2^39. -/
def wVaultRefs : List BRef := [{ key := 2 ^ 39 }, { key := 2 ^ 39 + 1 }]

def wStoreOp : Op := { id := 9, crew := 3, cls := 2, iaddr := 0, lanes := 1, kind := .store 0 [{ lane := 0, refs := wVaultRefs, data := [1, 2] }] }

/-- A merge-buffer line with one dirty byte of page 0, drained on its way or not, and its write at the home slice. -/
def wLine : CmbLine := { tag := flatTag 0x100, dirty := [({ key := 0x100, tag := flatTag 0x100, cached := true, alloc := true }, 7)], segs := [0] }

def wCmb (l : CmbLine) (d : Dev) : Dev := { d with clusters := [(0, { cmb := [l], tlb := [⟨0, 0, 3, placedLeaf⟩] })] }

def wHomeWrite (x : HomeWrite) (d : Dev) : Dev := { d with homeWrites := [x] }

theorem witness_StoresReachMemory :
    (let s := wSt wCur placedCrew (fun d => { d with ops := [wStoreOp] })
     s.d.op 9 = some wStoreOp ∧ s.d.crew 3 = some placedCrew ∧ wStoreOp.done = false ∧ s.work.overtakes 0 0 9 wVaultRefs = false ∧ (∀ r ∈ wVaultRefs, (placeOf r.key == 3) = false) ∧
      s.d.linesPending placedCrew wVaultRefs = false ∧ routeUp s placedCrew wVaultRefs ∧ s.d.meetsBad true wVaultRefs = none ∧
      (wVaultRefs.map (·.key)).Nodup ∧ noLateTraps s ∧ s.wf = true) ∧
    (let s := wSt wCur placedCrew wQueued
     (∃ x, (s.d.core 0 0).sq = [x]) ∧ (s.d.cluster 0 (clusterOf 0)).cmb.length < 192 ∧ noLateTraps s) ∧
    (let s := wSt wCur placedCrew (wCmb wLine)
     (s.d.cluster 0 0).cmb[0]? = some wLine ∧ (∀ x ∈ (s.d.cluster 0 0).cmb, x.tag = wLine.tag → x = wLine) ∧ wLine.draining = false ∧ wLine.failed = none ∧
      wLine.bad = false ∧ wLine.segs = [0] ∧ s.work.segRefuses 0 0 wLine 0 = none) ∧
    (let l := { wLine with draining := true }
     let s := wSt wCur placedCrew (wCmb l)
     (s.d.cluster 0 0).cmb[0]? = some l ∧ l.arrived = false ∧ s.d.homeWrites = [] ∧ (l.dirty.map (·.1.key)).Nodup ∧ s.wf = true ∧ s.d.home 0 l.tag = none ∧
      s.d.meetsBad true (l.dirty.map (·.1)) = none) ∧ (wSt wCur placedCrew (wCmb wLine)).work.overtakes 0 0 wLine.sent [(wLine.dirty.head?.map (·.1)).getD { key := 0 }] = false ∧
    (let l := { wLine with draining := true }
     let h : HomeLine := { tag := l.tag, home := 0, slice := 0, sectors := [1] }
     let s := wSt wCur placedCrew (fun d => { wCmb l d with homes := [h] })
     s.d.home 0 l.tag = some h ∧ h.sectors ≠ []) ∧
    (let h : HomeWrite := { id := 1, tag := wLine.tag, applied := true }
     let s := wSt wCur placedCrew (wHomeWrite h ∘ wCmb { wLine with draining := true })
     wLine.fresh = [] ∧ h ∈ s.d.homeWrites ∧ h.tower = 0 ∧ h.cluster = 0 ∧ noLateTraps s) ∧
    (let h : HomeWrite := { id := 1, tag := wLine.tag, bytes := wLine.dirty, sectors := [(1, false)] }
     let s := wSt wCur placedCrew (wHomeWrite h)
     s.d.homeWrites.find? (fun h => h.id == 1) = some h ∧ (h.sectors[0]?).map (·.1) = some 1 ∧ ∃ x ∈ h.sectors, x.2 = false) ∧
    (let h : HomeWrite := { id := 1, tag := wLine.tag, bytes := wLine.dirty, sectors := [(1, true)] }
     let s := wSt wCur placedCrew (wHomeWrite h)
     h.applied = false ∧ (∀ x ∈ h.sectors, x.2 = true) ∧ (h.bytes.map (·.1.key)).Nodup ∧ s.wf = true ∧ s.d.meetsBad true (h.bytes.map (·.1)) = none) := by
  unfold routeUp noLateTraps
  refine ⟨by decide +kernel, ⟨⟨_, rfl⟩, by decide +kernel, by decide +kernel⟩, by decide +kernel, by decide +kernel, w_first .., by decide +kernel, by decide +kernel,
    by decide +kernel, by decide +kernel⟩

/-- A walk of page 0 that reads the entry at 0x10000 as a leaf, as a node's and as no entry; the fill of a line in each state. -/
def wWalk (level : Nat) : Walk := { id := 9, ctx := 0, vpn := 0, level := level, node := 0x10000, cores := [0] }

def wWalks (x : Walk) : State := wSt wCur placedCrew fun d => d.modTower 0 fun t => { t with walks := [x] }

def wStep (s : State) (level : Nat) : Option (Nat × Nat) :=
  match s.work.walkStep wPart level 0x10000 0 with
  | .leaf v => some (0, v)
  | .node v => some (1, v)
  | .fail v => some (2, v)

def wFill (x : FillState) : Fill := { tag := flatTag 0x100, refs := [(0, 0x100)], state := x }

def wFills (x : FillState) : State := wSt wCur placedCrew (wCore fun k => { k with fills := [wFill x] })

def wLoad : Op := wNine 1 (.load [{ lane := 0, refs := [{ key := 2 ^ 39 }] }] ⟨1, false, false⟩ 5 true true 0 none)

def wLoaded : Op := wNine 1 (.load [{ lane := 0, refs := [{ key := 2 ^ 39 }], got := [(0, 7)], done := true }] ⟨1, true, false⟩ 5 true true 0 (some 2))

theorem witness_LoadsReachRegisters :
    (let s := wMem (wWalks (wWalk 3)) [(0x10000, 0x1F)]
     (s.d.tower 0).walks.find? (fun x => x.id == 9) = some (wWalk 3) ∧ s.d.part 0 = some wPart ∧ s.d.shot 0 0 = false ∧ (s.d.tower 0).walkCache = [] ∧
      s.d.isBad (0x10000 + 8 * levelIndex 3 0) = false ∧ wStep s 3 = some (0, 0x1F)) ∧
    wStep (wMem (wWalks (wWalk 0)) [(0x10000, 1), (0x10002, 2)]) 0 = some (1, 0x20000) ∧ wStep (wWalks (wWalk 0)) 0 = some (2, 0) ∧
    (let s := wFills .requested
     (s.d.core 0 0).fills[0]? = some (wFill .requested) ∧ s.d.writing 0 (flatTag 0x100) = false ∧ (∀ r ∈ (wFill .requested).refs, s.d.isBad r.2 = false) ∧
      (s.work.homeOf 0 0 (flatTag 0x100) 0x100).1 = 0 ∧ s.d.home 0 (flatTag 0x100) = none ∧
      (s.d.cluster 0 (clusterOf 0)).line (flatTag 0x100) = none) ∧
    (wFills .requested).work.overtakes 0 0 (wFill .requested).sent [(wFill .requested).head] = false ∧
    (let s := wFills .requested
     (s.work.homeOf 1 0 (flatTag 0x100) 0x100).1 ≠ 1) ∧
    (let s := wFills .served
     ((s.work.lineBytes 0 0 (flatTag 0x100) (wFill .served).refs).map (·.1)).Nodup ∧ s.work.lineBytes 0 0 (flatTag 0x100) (wFill .served).refs ≠ [] ∧
      (s.d.cluster 0 (clusterOf 0)).line (flatTag 0x100) = none ∧ s.d.writing 0 (flatTag 0x100) = false ∧ (wFill .served).hint ≠ 3 ∧
      (wFill .served).homeOnly = false) ∧
    (let s := wSt wCur placedCrew (wCore fun k => { k with fills := [wFill .served], l1 := [{ tag := flatTag 0x100, valid := [(0, 7)] }] })
     (s.d.core 0 0).l1.any (fun l => l.tag == flatTag 0x100 &&
       l.torn (s.work.lineBytes 0 0 (flatTag 0x100) (wFill .served).refs) ((s.d.core 0 0).sqByte (flatTag 0x100))) = true) ∧
    (let f : Fill := { wFill .served with homeOnly := true }
     (wSt wCur placedCrew (wCore fun k => { k with fills := [f] })).d.core 0 0 = { wSt.d.core 0 0 with fills := [f] } ∧ f.homeOnly = true) ∧
    (let s := wOp wLoad
     s.d.op 9 = some wLoad ∧ s.d.crew 3 = some placedCrew ∧ wLoad.done = false ∧ placeOf (2 ^ 39) ≠ 3 ∧ s.d.linesPending placedCrew [{ key := 2 ^ 39 }] = false ∧
      routeUp s placedCrew [{ key := 2 ^ 39 }] ∧ s.work.overtakes 0 0 9 [{ key := 2 ^ 39 }] = false ∧ s.d.meetsBad false [{ key := 2 ^ 39 }] = none) ∧
    (wOp wLoaded).d.op 9 = some wLoaded ∧ wLoaded.done = false := by
  unfold routeUp
  refine ⟨by decide +kernel, by decide +kernel, by decide +kernel, by decide +kernel, w_first .., by decide +kernel, by decide +kernel, by decide +kernel,
    by decide +kernel, by decide +kernel, by decide +kernel, by decide +kernel⟩

/-- AADD of 4 bytes at 0x100, returning and posted, unordered and ordered. -/
theorem witness_AtomicsIssue : let act := activeLanes wCur placedCrew .always
    let ea := fun l => placedCrew.ea 6 l 0x100
    (0, Instr.aadd) ∈ atInstrs ∧ (0, Instr.aaddN) ∈ atnInstrs ∧ Ready wSt wCur placedCrew .always [6, 7, 5] ∧ Unfenced wSt wCur ∧
    placedCrew.cnt.getD 0 0 < 127 ∧ placedCrew.lateRoom [5] ∧ (wSt.d.core 0 0).outbox.length + (maskLanes act).length ≤ 4096 ∧
    (∀ l ∈ maskLanes act, ea l % atomSize 0 = 0) ∧
    (∀ l ∈ maskLanes act, locatedAt wSt wCur placedCrew .atomic 0 (atomSize 0) (ea l) (wRefs wSt wCur placedCrew .atomic 0 (atomSize 0) (ea l))) ∧
    (∀ r ∈ wRefs wSt wCur placedCrew .atomic 0 (atomSize 0) (ea 0), placeOf r.key ≠ 2 ∧ placeOf r.key ≠ 3) ∧ placedCrew.seq ≠ 2 ^ 32 - 1 ∧
    noOverlap wSt wCur act (fun l => wRefs wSt wCur placedCrew .atomic 0 (atomSize 0) (ea l)) ∧
    noneDirty wSt placedCrew act (fun l => wRefs wSt wCur placedCrew .atomic 0 (atomSize 0) (ea l)) ∧ Quiet wSt wCur placedCrew := by
  refine ⟨by simp [atInstrs], by simp [atnInstrs], w_ready, w_unfenced, by decide, by unfold Crew.lateRoom; decide +kernel, by decide +kernel, by decide +kernel,
    fun l hl => w_located ?_, by decide +kernel, by decide, w_noOverlap, w_noneDirty, w_quiet⟩
  revert l; decide +kernel

/-- A posted one with a release behind a load that is not bound. -/
theorem witness_AtomicsIssue_posted : let s := wSt wCur placedCrew (fun d => { d with ops := [wLoadOp] })
    (0, Instr.aaddN) ∈ atnInstrs ∧ Ready s wCur placedCrew .always [6, 7] ∧ placedCrew.cnt.getD 1 0 < 127 ∧
      (s.d.core 0 0).outbox.length + (maskLanes (activeLanes wCur placedCrew .always)).length ≤ 4096 ∧
      (∀ l ∈ maskLanes (activeLanes wCur placedCrew .always), wOk s wCur placedCrew .atomic 0 (atomSize 0) (placedCrew.ea 6 l 0x100) = true) ∧
      Unfenced s wCur ∧ wLoadOp ∈ s.d.ops ∧ wLoadOp.crew = 3 ∧ wLoadOp.done = false ∧ wLoadOp.owedBy (some 4) = true ∧
      wLoadOp.lanes &&& activeLanes wCur placedCrew .always ≠ 0 := by
  refine ⟨by simp [atnInstrs], w_ready, by decide, by decide +kernel, by decide +kernel, ⟨?_, ?_, ?_, ?_⟩, by decide +kernel, rfl, rfl, rfl, by decide +kernel⟩
  · intro c h; obtain rfl : placedCrew = c := Option.some.inj h
    rfl
  · intro c h; obtain rfl : placedCrew = c := Option.some.inj h
    decide +kernel
  · exact nofun
  · intro o h; obtain rfl : o = wLoadOp := List.mem_singleton.mp h
    exact fun _ => .inr (.inl rfl)

/-- An AADD of lane 0, with and without a lane still to be done. -/
def wAtomRefs : List BRef := [{ key := 2 ^ 44 }, { key := 2 ^ 44 + 1 }, { key := 2 ^ 44 + 2 }, { key := 2 ^ 44 + 3 }]

def wAtomic (more : List AtomicLane) (tag : Option OrderTag) (x : AtomicLane := { lane := 0, refs := wAtomRefs, opnd := 5 }) : Op :=
  wNine 1 (.atomic 0 0 0 (some 5) (x :: more) tag none)

theorem witness_AtomicsAtTheirPlace : ((0, 32) ∈ [(0, 32), (1, 64)] ∧ (0, fun (a b : BitVec 32) => a + b) ∈ atomRule 32) ∧
    (let s := wOp (wAtomic [] none)
     s.d.op 9 = some (wAtomic [] none) ∧ s.d.crew 3 = some placedCrew ∧ (wAtomic [] none).done = false ∧
      s.work.inTurn (wAtomic [] none) placedCrew false { lane := 0, refs := wAtomRefs, opnd := 5 } = true ∧
      routeUp s placedCrew wAtomRefs ∧ s.d.meetsBad false wAtomRefs = none ∧ (wAtomRefs.map (·.key)).Nodup ∧ noLateTraps s ∧ s.wf = true ∧
      ∀ z ∈ s.d.ops, z.id = 9 → z = wAtomic [] none) ∧
    (wOp (wAtomic [{ lane := 1 }] none)).d.op 9 = some (wAtomic [{ lane := 1 }] none) := by
  unfold routeUp noLateTraps
  exact ⟨⟨by decide, by simp [atomRule]⟩, by decide +kernel, by decide +kernel⟩

/-- An ordered lane in each of its states, alone on its line and below the horizon, and above it; a race check of one lane. -/
def wTag (seq : Nat) : OrderTag := ⟨0, 0, 0, 0, seq, 0⟩

def wHeldEntry : Held := { place := 97, line := flatTag (2 ^ 44), tag := wTag 1, grid := 1, op := 9, lane := 0 }

def wOrdered (x : AtomicLane) (h : Nat) : State :=
  wOp (wAtomic [] (some (wTag 1)) x) fun d => { d.modTower 0 (fun t => { t with held := [wHeldEntry] }) with horizons := [(0, 1, wTag h), (8, 1, wTag h)] }

def wRace : RaceReq := { id := 9, crew := 3, gid := 0, team := 2, te := 0, ge := 0, kind := 1, iaddr := 0, lanes := [(0, 0x100, 0x100)] }

theorem witness_OrderedAtomicsAndRaces :
    (wSt.d.grid 1 = some placedGrid ∧ wSt.d.heldH 8 1 = none) ∧
    (let x : AtomicLane := { lane := 0, refs := wAtomRefs, opnd := 5, accepted := true }
     let s := wOrdered x 2
     s.d.heldH 8 1 = some (wTag 2) ∧ s.d.heldH 0 1 = some (wTag 2) ∧ s.d.op 9 = some (wAtomic [] (some (wTag 1)) x) ∧
      (s.work.reorderPlace placedCrew x.refs).1 = 0 ∧ (s.work.reorderPlace placedCrew x.refs).2.1 = 97 ∧
      (s.d.tower 0).held.find? (fun h => h.place == 97 && h.op == 9 && h.lane == 0) = some wHeldEntry ∧ wHeldEntry.cancelled = false ∧
      s.d.meetsBad false x.refs = none ∧ (x.refs.map (·.key)).Nodup ∧ noLateTraps s ∧ s.wf = true ∧
      (∀ y ∈ (s.d.tower 0).held, y.faulted = false ∧ (y = wHeldEntry ∨ wHeldEntry.tag.lt y.tag = true)) ∧ wHeldEntry.tag.lt (wTag 2) = true ∧
      wHeldEntry.tag.lt (wTag 1) = false) ∧
    (let x : AtomicLane := { lane := 0, refs := wAtomRefs }
     let s := wOrdered x 1
     x.accepted = false ∧ x.returned = false ∧ s.work.inTurn (wAtomic [] (some (wTag 1)) x) placedCrew true x = true ∧ ((s.d.tower 0).held.filter fun h => h.place == 97).length < 64) ∧
    (let s := wSt wCur placedCrew fun d => { d with races := [wRace] }
     s.d.races.find? (fun r => r.id == 9) = some wRace ∧ wRace.lanes ≠ [] ∧ s.d.crew 3 = some placedCrew ∧ s.d.part 0 = some wPart ∧ (s.d.ctxOf 0).isSome = true ∧
      (∀ l ∈ wRace.lanes, wPart.hbm (s.d.shadowKey l.2.1) = true ∧ let v := s.work.num (s.d.shadowKey l.2.1) 8
        (Machine.bit 0 v = false ∨ Machine.bits 63 40 v = wRace.gid) ∧ (wRace.kind = 0 ∨ Machine.bit 1 v = false)) ∧
      (wRace.lanes.map fun l => s.d.shadowKey l.2.1).Nodup ∧ (∀ l ∈ wRace.lanes, s.d.shadowKey l.2.1 % 8 = 0) ∧ s.wf = true) := by
  unfold noLateTraps
  exact ⟨by decide +kernel, by decide +kernel, by decide +kernel, by decide +kernel⟩

/-- v7 holds 0, 1 or 128 records; a digest list that is full, and a digest already declared. -/
def wCount (n : Nat) : Crew := { placedCrew with regs := (List.replicate 64 (RegVal.uni 0)).set 7 (.uni (BitVec.ofNat 64 n)) }

def wRegions : Dev → Dev := wGrid fun g => { g with regions := List.replicate 16 (0, 1) }

def wDigest : Dev → Dev := wGrid fun g => { g with digestDest := some (0, 64) }

theorem witness_AsyncIssues :
    (placedCrew.handler = false ∧ Unfenced wSt wCur ∧ Ready wSt wCur placedCrew .always [6, 7] ∧ (placedCrew.val 7 0).toNat = 0 ∧
      (wSt.d.core 0 0).copies = []) ∧
    (let s := wSt wCur (wCount 128)
     Ready s wCur (wCount 128) .always [6, 7] ∧ 127 < ((wCount 128).val 7 0).toNat ∧ Running s (wCount 128) wPart) ∧
    (let s := wSt wCur (wCount 127) (wTeam fun t => { t with gran := [0, 1, 2, 3] })
     let ea := (wCount 127).ea 6 0 0
     Unfenced s wCur ∧ Ready s wCur (wCount 127) .always [6, 7] ∧ ((wCount 127).val 7 0).toNat = 127 ∧ (wCount 127).cnt.getD 2 0 + 127 ≤ 127 ∧
      (s.d.core 0 0).copies.length + 127 ≤ 512 ∧ locatedAt s wCur (wCount 127) .load 2 (32 * 127) (ea / 32 * 32) (wRefs s wCur (wCount 127) .load 2 (32 * 127) (ea / 32 * 32)) ∧ s.d.bad = []) ∧
    (let s := wSt wCur (wCount 1) wLocal
     let ea := (wCount 1).ea 6 0 0x10
     ea % 16 = 0 ∧ locatedAt s wCur (wCount 1) .atomic 2 16 ea (wRefs s wCur (wCount 1) .atomic 2 16 ea) ∧ (wCount 1).cnt.getD 1 0 < 127 ∧
      locatedAt s wCur (wCount 1) .load 2 16 ea (wRefs s wCur (wCount 1) .load 2 16 ea) ∧
      s.d.meetsBad false (wordRefs ((((wRefs s wCur (wCount 1) .load 2 16 ea).head?).map (·.key)).getD 0)) = none ∧
      (let gen := s.work.num ((((wRefs s wCur (wCount 1) .load 2 16 ea).head?).map (·.key)).getD 0 + 8) 4
       ¬ (gen + 2 ^ 32 - 1) % 2 ^ 32 < 2 ^ 31 ∧ (gen + 2 ^ 32 - 0) % 2 ^ 32 < 2 ^ 31)) ∧
    (wSt.d.rootOf placedCrew = some placedGrid ∧ 1 ≤ ((wCount 1).val 7 0).toNat ∧ placedCrew.ea 6 0 0x100 + 1 ≤ 2 ^ 52 ∧
      locatedAt (wSt wCur (wCount 1)) wCur (wCount 1) .load 0 1 0x100 (wRefs (wSt wCur (wCount 1)) wCur (wCount 1) .load 0 1 0x100) ∧
      placedGrid.regions.length < 16) ∧
    (∃ g, (wSt wCur placedCrew wRegions).d.rootOf placedCrew = some g ∧ 16 ≤ g.regions.length) ∧
    (placedCrew.ea 6 0 0x40 % 64 = 0 ∧ locatedAt wSt wCur placedCrew .store 0 64 (placedCrew.ea 6 0 0x40) (wRefs wSt wCur placedCrew .store 0 64 (placedCrew.ea 6 0 0x40)) ∧
      placedGrid.digestDest = none) ∧
    ∃ g, (wSt wCur placedCrew wDigest).d.rootOf placedCrew = some g ∧ g.digestDest ≠ none :=
  ⟨⟨rfl, w_unfenced, w_ready, by decide +kernel, by decide +kernel⟩, ⟨w_ready, by decide +kernel, w_running⟩,
   ⟨w_unfenced, w_ready, by decide +kernel, by decide, by decide +kernel, w_located, rfl⟩,
   ⟨by decide +kernel, w_located, by decide, w_located, by decide +kernel, by decide +kernel⟩, ⟨rfl, by decide +kernel, by decide +kernel, w_located, by decide⟩,
   ⟨_, rfl, by decide +kernel⟩, ⟨by decide +kernel, w_located, rfl⟩, _, rfl, by decide +kernel⟩

/-- A ring of 4 with a claim of 2 made; headers are at local address 64. -/
def wRing : Nat := 4 + 2 * 2 ^ 32

theorem witness_Rings : let act := activeLanes wCur placedCrew .always
    let s := wSt wCur placedCrew wLocal
    (Ready s wCur placedCrew .always [6, 7, 5] ∧ Unfenced s wCur ∧ placedCrew.cnt.getD 0 0 < 127 ∧ placedCrew.lateRoom [5] ∧
      (∀ l ∈ maskLanes act, locatedAt s wCur placedCrew .atomic 2 64 (placedCrew.ea 6 l 0x40) (wRefs s wCur placedCrew .atomic 2 64 (placedCrew.ea 6 l 0x40))) ∧
      noOverlap s wCur act (fun l => wRefs s wCur placedCrew .atomic 2 64 (placedCrew.ea 6 l 0x40)) ∧
      noneDirty s placedCrew act (fun l => wRefs s wCur placedCrew .atomic 2 64 (placedCrew.ea 6 l 0x40)) ∧ Quiet s wCur placedCrew) ∧
    (ringOk 3 = false ∧ ringOk wRing = true ∧ (Ring.ofNat wRing).cap < 5 ∧ 1 ≤ 2 ∧ 2 ≤ (Ring.ofNat wRing).cap) := by
  refine ⟨⟨w_ready, w_unfenced, by decide, by unfold Crew.lateRoom; decide +kernel, fun l hl => w_located ?_, w_noOverlap, w_noneDirty, w_quiet⟩,
    by decide +kernel, by decide +kernel, by decide +kernel, by decide, by decide +kernel⟩
  revert l; decide +kernel

/-- A copy of 16 bytes from local 0 to local 0x100, without an arrival word, before its start and after it. -/
def wCopyRec : Nat := 0x100 * 2 ^ 64 + 16 * 2 ^ 128 + 2 * 2 ^ 176 + 2 * 2 ^ 179 + 2 ^ 184

def wCopyReq (started : Bool) : CopyReq := { op := 9, crew := 3, iaddr := 0, recOff := 0, recd := wCopyRec, started := started }

def wCopies (started : Bool) : State := wOp (wNine 3 .copy) fun d => wCore (fun k => { k with copies := [wCopyReq started] }) (wLocal d)

def wDest : List BRef := plainRefs (fun i => localKey 0 0 (0x100 + i)) 16

def wArrival : Op := wNine 2 (.arrival (2 ^ 44) 0 false 5)

def wRingRefs : List BRef := (List.range 64).map fun i => { key := 2 ^ 44 + i }

def wRingOp (state : Nat) : Op := wNine 1 (.ring .claim (some 5) [{ lane := 0, refs := wRingRefs, n := 2, state := state }] 0)

theorem witness_AsyncEngineSteps :
    (let s := wCopies false
     s.d.copyReq 9 = some (placedCrew, wCopyReq false) ∧ (wCopyReq false).started = false ∧ (s.d.engineWho placedCrew).isSome = true ∧
      ((s.d.core 0 0).copies.find? fun x => !x.started) = some (wCopyReq false) ∧ s.d.engineRuns 0 0 .request = true ∧
      ((s.d.core 0 0).copies.filter (·.started)).length < 16 ∧ (Copy.ofNat wCopyRec).malformed wCopyRec { ctxid := 0, part := 0 } ((s.d.localGranules placedCrew).length * 1024) = false ∧
      (Copy.ofNat wCopyRec).granules { ctxid := 0, part := 0 } ≠ 0) ∧
    (let s := wCopies true
     let cp := Copy.ofNat wCopyRec
     let sp := cp.span { ctxid := 0, part := 0 } 0 0
     s.d.copyReq 9 = some (placedCrew, wCopyReq true) ∧ (wCopyReq true).applied.contains (0 * 2 ^ 32 + 0) = false ∧ s.d.engineRuns 0 0 .request = true ∧
      0 < (cp.units).1 ∧ 0 < cp.blocks { ctxid := 0, part := 0 } 0 ∧ cp.noarr = true ∧ s.d.meetsBad true wDest = none ∧ (wDest.map (·.key)).Nodup ∧ noLateTraps s ∧
      s.wf = true ∧
      ((s.d.engineWho placedCrew).map fun q => match s.work.copySource q (s.d.localGranules placedCrew) cp 0 sp.1 sp.2 with
        | .ok b => some b | _ => none) = some (some (List.replicate 16 0)) ∧
      ((s.d.engineWho placedCrew).map fun q =>
        match s.work.locate q (s.d.localGranules placedCrew) .copyDst cp.dspace ((cp.dstOf { ctxid := 0, part := 0 } 0 + sp.1) % 2 ^ 64) sp.2 with
        | .ok r => some r | _ => none) = some (some wDest) ∧
      ((s.d.engineWho placedCrew).map fun q => s.work.passes 0 0 (s.work.copyReads q (s.d.localGranules placedCrew) cp 0 sp.1 sp.2 ++ wDest)) = some false) ∧
    (Machine.bits 127 98 (wSt.work.num localBase 16) = 0 ∧ wSt.work.d.meetsBad false (wordRefs localBase) = none ∧ ∀ p ∈ wSt.work.d.parts, p.low < 8) ∧
    (let s := wOp wArrival
     s.d.op 9 = some wArrival ∧ s.d.crew 3 = some placedCrew ∧ wArrival.done = false ∧ s.d.meetsBad false (wordRefs (2 ^ 44)) = none ∧ noLateTraps s ∧ s.wf = true) ∧
    (let s := wOp (wRingOp 4)
     s.d.op 9 = some (wRingOp 4) ∧ s.d.relands 3 = false ∧ ((s.d.who placedCrew).map fun q => match s.work.afresh q .atomic wRingRefs with
        | .ok rs => some rs | _ => none) = some (some wRingRefs)) ∧
    (let s := wMem (wOp (wRingOp 0)) [(2 ^ 44, 4)]
     s.d.op 9 = some (wRingOp 0) ∧ s.d.linesPending placedCrew wRingRefs = false ∧ s.work.overtakes 0 0 9 wRingRefs = false ∧ s.d.meetsBad false wRingRefs = none ∧ 2 ^ 44 % 64 = 0 ∧
      wRingRefs.map (·.key) = (List.range 64).map (2 ^ 44 + ·) ∧ noLateTraps s ∧ s.wf = true ∧ s.d.ringWaiters = [] ∧
      (match ringStep .claim (leNat (wRingRefs.map fun y => s.mem.get y.key)) 0 2 with | .go off v r => some (off, v, r) | _ => none) = some (4, 2, 0)) := by
  unfold noLateTraps
  exact ⟨by decide +kernel, by decide +kernel, by decide +kernel, by decide +kernel, by decide +kernel, by decide +kernel⟩

/-- A work graph of one conditional node with one decision, in bin 0 of tower 0; a cooperative grid; a crew asked to launch the record at 0x400. -/
def wNode : GraphNode := { pred := 8, decisions := 1, timer := 5 }

def wGraph (f : Graph → Graph) : Dev → Dev := wGrid fun g => { g with graph := some (f { nodes := [wNode], settleAddr := 0x100 }) }

def wCoop : Dev → Dev := wGrid fun g => { g with launch := { g.launch with coop := true } }

def wAbsent : Dev → Dev := wTeam fun t => { t with crews := [3, 5] }

theorem witness_TasksAndVersionsIssue :
    (placedCrew.handler = false ∧ placedCrew.landed = false ∧ Unfenced wSt wCur ∧ placedCrew.cnt.getD 5 0 < 127 ∧ wSt.d.teamOf placedCrew = some placedTeam ∧
      wSt.d.gridOf placedCrew = some placedGrid ∧ wSt.d.rootOf placedCrew = some placedGrid ∧ (wSt.d.who placedCrew).isSome = true ∧
      Ready wSt wCur placedCrew .always [6, 5] ∧ placedCrew.roomForG 5 ∧ Quiet wSt wCur placedCrew ∧ placedCrew.index = 0 ∧
      (activeLanes wCur placedCrew .always).getLsbD 0 = true ∧ placedGrid.depth < 10) ∧
    (let s := wMem (wSt wCur placedCrew wRoot) wRecords
     ((s.d.who placedCrew).bind fun q => s.work.readRecord (q.p.who q.x) (placedCrew.val 6 0 + 0x400)).isSome = true ∧
     ((s.d.who placedCrew).bind fun q => s.work.readRecord (q.p.who q.x) (placedCrew.val 6 0 + 0x401)) = none ∧
     [0x400, 0x401].map (fun x => (s.d.who placedCrew).map fun q => match s.work.recordGot (q.p.who q.x) (placedCrew.val 6 0 + x) with
       | .error (some _) => false | _ => true) = [some true, some true]) ∧
    (let s := wSt wCur placedCrew (wLocal ∘ wGraph id)
     let ea := placedCrew.ea 6 0 0x40
     Ready s wCur placedCrew .always [6, 7] ∧ Quiet s wCur placedCrew ∧ ea % 64 = 0 ∧ locatedAt s wCur placedCrew .load 2 64 ea (wRefs s wCur placedCrew .load 2 64 ea) ∧ s.d.bad = [] ∧
      ((s.d.rootOf placedCrew).bind fun r => r.graph.bind fun x => x.nodes[(placedCrew.val 7 0).toNat % 256]?) = some wNode) ∧
    (Ready wSt wCur placedCrew .always [7, 5, 6] ∧ placedCrew.gcount + 2 ≤ placedCrew.gbud ∧ wNode.pred ≠ 0 ∧ wNode.decisions ≠ 0) ∧
    (let s := wSt wCur placedCrew wCoop
     Ready s wCur placedCrew .always [] ∧ Quiet s wCur placedCrew ∧ ((s.d.gridOf placedCrew).map (·.launch.coop)) = some true ∧ placedCrew.gw < 2 ^ 32 - 1 ∧
      (∀ x ∈ s.d.crews, x.gw < 2 ^ 32 - 1) ∧ 3 ∈ placedTeam.crews ∧ placedTeam ∈ s.d.teams ∧
      (∀ n ∈ (s.d.teams.filter fun x => x.grid == 1).flatMap (·.crews), n = 3)) ∧
    (let s := wSt wCur placedCrew (fun d => { wAbsent (wCoop d) with crews := [placedCrew, { id := 5, threads := [{}] }] })
     5 ∈ (s.d.teams.filter fun x => x.grid == 1).flatMap (·.crews) ∧ s.d.crewEnded 5 = false ∧ s.d.crew 5 = some { id := 5, threads := [{}] }) ∧
    (let y : Crew := { id := 5, threads := [{ exited := true }], cnt := [0, 0, 0, 0, 0, 0] }
     let s := wSt wCur placedCrew (fun d => { wAbsent (wCoop d) with crews := [placedCrew, y] })
     s.d.crewEnded 5 = true ∧ s.d.crew 5 = some y ∧ ∀ k ∈ y.cnt, k = 0) ∧
    (Ready wSt wCur placedCrew .always [6] ∧ (∀ k < 6, placedCrew.cnt.getD k 0 = 0) ∧
      locatedAt wSt wCur placedCrew .load 0 1 (placedCrew.ea 6 0 0x100) (wRefs wSt wCur placedCrew .load 0 1 (placedCrew.ea 6 0 0x100)) ∧
      (wRefs wSt wCur placedCrew .load 0 1 (placedCrew.ea 6 0 0x100)).head? = some { key := 0x100, tag := flatTag 0x100, cached := true, alloc := true, va := 0x100 }) ∧
    (let s := wSt wCur placedCrew (wTeam fun t => { t with tiles := [{ cell := 0x100, held1 := 1 }] })
     let refs := wRefs s wCur placedCrew .atomic 0 (if placedCrew.ea 6 0 0x100 % 32 = 0 then 32 else 1) (placedCrew.ea 6 0 0x100)
     Ready s wCur placedCrew .always [6, 7, 5] ∧ placedCrew.lateRoom [5] ∧
      locatedAt s wCur placedCrew .atomic 0 (if placedCrew.ea 6 0 0x100 % 32 = 0 then 32 else 1) (placedCrew.ea 6 0 0x100) refs ∧
      refs.head? = some { key := 0x100, tag := flatTag 0x100, cached := true, alloc := true, va := 0x100 } ∧ noOverlap s wCur (BitVec.ofNat 32 (2 ^ 0)) (fun _ => refs) ∧
      (∃ tm, s.d.teamOf placedCrew = some tm ∧ tm.inputsFinal = true ∧ s.d.tableFull tm 0x100 = false ∧
        ((tm.tiles.find? fun e => e.cell == 0x100).map fun e => if (1 : Nat) = 0 then e.held0 else e.held1).getD 0 ≠ 0) ∧ Quiet s wCur placedCrew ∧
      noneDirty s placedCrew (activeLanes wCur placedCrew .always) (fun _ => cellRefs 0x100)) :=
  ⟨⟨rfl, rfl, w_unfenced, by decide, rfl, rfl, rfl, by decide +kernel, w_ready, w_room', w_quiet, rfl, by decide +kernel, by decide⟩, by decide +kernel,
   ⟨w_ready, w_quiet, by decide +kernel, w_located, rfl, by decide +kernel⟩, ⟨w_ready, by decide +kernel, by decide, by decide⟩,
   ⟨w_ready, w_quiet, by decide +kernel, by decide, by decide +kernel, by decide, by decide +kernel, by decide +kernel⟩, by decide +kernel, by decide +kernel,
   ⟨w_ready, by decide, w_located, by decide +kernel⟩,
   w_ready, by unfold Crew.lateRoom; decide +kernel, w_located, by decide +kernel, w_noOverlap, ⟨_, rfl, by decide +kernel, by decide +kernel, by decide +kernel⟩,
     w_quiet, w_noneDirty⟩

/-- A version-cell operation on the cell at 0x100, of size 256, whose word 0 is `v`. -/
def wVersion (op : VerOp) (arg : Nat) : Op := wNine 6 (.version op 0x100 0x100 arg (some 5) none 0 0 0)

def wCell (v : Nat) : Memory := Memory.putAll [] 0x100 (natLe 32 (v + 256 * 2 ^ 128))

/-- The tower's bin store is in slice 0 of its first vault. -/
def wBinStore (d : Dev) : Dev := d.modTower 0 fun t => { t with binVault := 1 }

def wDelivered : Delivery := { op := 9, grid := 1, sub := 0, cell := 0x100, key := 0x100, ver := 1, unread := false }

def wPair : SubPair := { id := 8, grid := 1, sub := 0, slot := 0, cell := 0x100, node := 0, policy := 0, cancel := true }

def wDelivers (p : List SubPair) (d : Dev) : Dev := { (wGraph id d).modTower 0 (fun t => { t with pairs := p }) with deliveries := [wDelivered] }

def wCancels (x : GridPhase) (d : Dev) : Dev := (wGrid (fun g => { g with pairs := [8], phase := x }) d).modTower 0 fun t => { t with pairs := [wPair] }

theorem witness_VersionCellsAndDeliveries :
    (let o := wVersion .publish 0
     let s := wMem (wOp o) (wCell 0)
     s.d.op 9 = some o ∧ s.d.crew 3 = some placedCrew ∧ s.d.teamOf placedCrew = some placedTeam ∧ s.d.ctxOf 0 = some { ctxid := 0, part := 0 } ∧
      s.d.linesPending placedCrew (cellRefs 0x100) = false ∧ s.d.meetsBad false (cellRefs 0x100) = none ∧ noLateTraps s ∧ s.wf = true ∧ s.d.ringWaiters = [] ∧
      s.d.versionWaiters = [] ∧ s.d.bad = [] ∧ cellBad { ctxid := 0, part := 0 } 0x100 (s.work.num 0x100 32) = false ∧ Machine.bit 16 (s.work.num 0x100 32) = false ∧
      Machine.bits 15 0 (s.work.num 0x100 32) = 0 ∧ Machine.bits 39 32 (s.work.num 0x100 32) = 0) ∧
    (let s := wMem (wOp (wVersion .publish 0)) (wCell 0)
     s.work.overtakes 0 0 9 (cellRefs 0x100) = false ∧ s.work.versionsAt (s.work.waitPlace 0 0 { key := 0x100, tag := flatTag 0x100 }) = []) ∧
    (let v := (wMem (wOp (wVersion .publish 0)) (wCell (1 * 2 ^ 32))).work.num 0x100 32
     cellBad { ctxid := 0, part := 0 } 0x100 v = false ∧ Machine.bits 39 32 v ≠ 0) ∧
    (let s := wMem (wOp (wVersion .release 1) (wTeam fun t => { t with tiles := [{ cell := 0x100, held1 := 1 }] })) (wCell (1 + 1 * 2 ^ 32))
     ∃ tm e, s.d.teamOf placedCrew = some tm ∧ tm.tile 0x100 = some e ∧ e.heldOn 1 ≠ 0 ∧ Machine.bits 39 32 (s.work.num 0x100 32) ≠ 0 ∧
      Machine.bits 15 0 (s.work.num 0x100 32) ≠ 0 ∧ 1 ≤ Machine.bits 15 0 (s.work.num 0x100 32) ∧ Machine.bits 15 0 (s.work.num 0x100 32) < 2) ∧
    (let s := wSt wCur placedCrew (wDelivers [])
     s.d.deliveries[0]? = some wDelivered ∧ ∃ g gr, s.d.grid 1 = some g ∧ (s.d.part g.tower).bind (·.ctx) = some g.ctx ∧ g.graph = some gr ∧
      gr.nodes[0]? = some wNode ∧ wNode.bin < (s.d.tower 0).bins.length ∧ (s.d.tower 0).pairs = [] ∧ ((s.d.tower 0).bins.getD 0 {}).records.length < 256 ∧
      ((s.d.tower 0).bins.getD 0 {}).wait = [] ∧ (s.d.tower 0).binVault = 0) ∧
    (let other : Delivery := { wDelivered with cell := 0x200, key := 0x200, ver := 7 }
     let s := wSt wCur placedCrew fun d => { wBinStore (wDelivers [] d) with deliveries := [other, wDelivered] }
     s.d.deliveries[1]? = some wDelivered ∧ (∀ y ∈ s.d.deliveries.take 1, wDelivered.after y = false) ∧ (s.d.tower 0).binVault ≠ 0 ∧
      wDelivered.after { wDelivered with ver := 0 } = true) ∧
    ((wSt wCur placedCrew (wDelivers [wPair])).d.tower 0).pairs.find? (fun p => p.grid == 1 && p.cell == 0x100 && p.sub == 0 && p.slot == 0) = some wPair ∧
    (let s := wSt wCur placedCrew (wCancels .queued)
     s.d.pairAt 8 = some (0, wPair) ∧ wPair.cancel = true ∧ ∃ g, (s.d.grids.find? fun g => g.pairs.contains 8 && g.ended == 0) = some g ∧ g.phase = .queued) ∧
    (let s := wSt wCur placedCrew (wCancels .dealt)
     ∃ g, (s.d.grids.find? fun g => g.pairs.contains 8 && g.ended == 0) = some g ∧ g.phase ≠ .queued ∧
      (s.d.teams.find? fun z => z.grid == g.id) = some placedTeam ∧ placedTeam.phase = .resident) ∧
    (let o := wNine 6 (.binPush 0 0 [])
     let s := wOp o fun d => (wGraph id d).modTower 0 fun t => { t with bins := t.bins.set 0 { owner := some (1, 0) } }
     s.d.op 9 = some o ∧ o.done = false ∧ noLateTraps s ∧ ((s.d.tower 0).bins.getD 0 {}).records = [] ∧ ((s.d.tower 0).bins.getD 0 {}).wait = [] ∧
      0 < (s.d.tower 0).bins.length ∧ ((s.d.tower 0).bins.getD 0 {}).owner = some (1, 0) ∧ (s.d.tower 0).binVault = 0 ∧
      ((wOp o (wBinStore ∘ wGraph id)).d.tower 0).binVault ≠ 0 ∧
      (((s.d.grid 1).bind (·.graph)).bind (·.nodes[0]?)) = some wNode ∧ wNode.timer ≠ 0) ∧
    (let s := wMem (wSt wCur placedCrew (wRoot ∘ wGraph fun x => { x with settle := { updates := [(true, false, 1)] } })) wTables
     ∃ g gr x, s.d.grid 1 = some g ∧ g.graph = some gr ∧ s.d.part g.tower = some wPart ∧ s.d.ctx g.ctx = some x ∧ wPart.ctx = some x.ctxid ∧
      wPart.halt.phase = .running ∧ gr.settle.updates = [(true, false, 1)] ∧ gr.settleAddr.toNat % 8 = 0 ∧
      (match s.work.locate (wPart.who x) [] .atomic gr.settleSpace gr.settleAddr.toNat 8 with
        | .ok r => decide (s.d.meetsBad false r = none ∧ (r.map (·.key)).Nodup ∧ r.length = 8) | _ => false) = true ∧ s.wf = true) := by
  unfold noLateTraps
  refine ⟨by decide +kernel, ⟨w_alone rfl (by decide +kernel) (.inl (by decide)) (by decide +kernel), rfl⟩, by decide +kernel, ⟨_, _, rfl, rfl, ?_⟩, ⟨by decide +kernel, _, _, rfl, ?_, rfl, ?_⟩, by decide +kernel, by decide +kernel,
    ⟨by decide +kernel, by decide +kernel, _, rfl, by decide +kernel⟩, ⟨_, rfl, by decide +kernel⟩, by decide +kernel, _, _, _, rfl, rfl, ?_, rfl, ?_⟩
  all_goals decide +kernel

/-- A crew with a gang of itself and crew 1, led by itself, and the other member's arrival; the partner's arrival at core 4. -/
def wGang : Crew := { placedCrew with sp := { gangr := 2 + 1 * 2 ^ 8 } }

def wMma : OpMma := ⟨8, 16, 0, 0, 0, 0, 0, false, false, false, .always⟩

def wMember : GangArrival := ⟨5, 1, 4, 1, 2 + 1 * 2 ^ 8, (mmaForm wMma).ext, [], [], none⟩

def wTwo (d : Dev) : Dev := { wTeam (fun t => { t with crews := [3, 5] }) d with crews := [placedCrew, { id := 5, index := 1 }] }

def wPartner : PairArrival := ⟨5, 6, 0, 4, 4, 1, 1, 3, 0, [], [], 9, none⟩

def wNls (d : Dev) : Dev := wCore (fun k => { k with nq := [[], [[1]], [], []] }) d

theorem witness_MatrixIssues :
    (placedCrew.handler = false ∧ placedCrew.landed = false ∧ Unfenced wSt wCur ∧ wSt.d.teamOf placedCrew = some placedTeam ∧ wSt.d.arrived 3 = false ∧
      placedCrew.cnt.getD 3 0 < 127 ∧ wSt.d.mxUsed 0 0 < 32 ∧ Ready wSt wCur placedCrew .always [6, 7] ∧ Ready wSt wCur placedCrew .always [] ∧
      Ready wSt wCur placedCrew .always [5, 6, 7] ∧ placedCrew.lateRoom [5, 6, 7]) ∧
    ((placedCrew.val 7 0).toNat < 2 ^ 33 ∧ (placedCrew.val 7 0).toNat % 2 ^ 32 % 128 = 0 ∧ placedCrew.ea 6 0 0x100 % 8 = 0 ∧
      ∀ m < 32, wOk wSt wCur placedCrew .load 0 128 ((placedCrew.ea 6 0 0x100 + m * ((placedCrew.val 7 0).toNat % 2 ^ 32)) % 2 ^ 64) = true) ∧
    (let x := wSt.d.slotOf placedCrew 0
     Ready wSt wCur placedCrew .always ((List.range 8).map (8 + ·) ++ (List.range 8).map (16 + ·) ++ x.scaleRegs 0 0 ++ x.scaleRegs 0 0) ∧
      placedCrew.sp.gangr.toNat % 8 = 0 ∧ placedTeam.baton = placedCrew.index ∧ placedTeam.tower = placedCrew.place.tower ∧
      placedTeam.core = placedCrew.place.core ∧ x.format.width = x.format.width ∧ false = x.cplx ∧ x.format = .fp64 ∧ 0 + 1 ≤ slabK x.format false) ∧
    (gangValid ((placedCrew.val 6 0).setWidth 33) 0 1 = true ∧ gangValid (1 + 8 : BitVec 33) 0 1 = false ∧ Running wSt placedCrew wPart) ∧
    (let s := wSt wCur placedCrew (wTeam fun t => { t with baton := 1 })
     ∃ tm, s.d.teamOf placedCrew = some tm ∧ tm.baton ≠ placedCrew.index ∧ Ready s wCur placedCrew .always []) ∧
    (let s := wSt wCur placedCrew wTwo
     (∀ a ∈ s.d.gangs, a.crew ≠ 3) ∧ ∃ tm, s.d.teamOf placedCrew = some tm ∧ tm.crews[0]? = some 3 ∧ s.d.crewEnded 3 = false ∧ placedCrew.index < tm.crews.length) ∧
    (neighbourCore 0 1 = some 4 ∧ wSt.work.present 0 4 = true ∧ 0 < (wSt.d.core 0 0).credits.getD 1 0 ∧ neighbourCore 0 3 = none) ∧
    ((wSt wCur placedCrew wNls).d.core 0 0).nq.getD 1 [] = [[1]] ∧
    ((wSt.d.core 0 0).nq.getD 1 [] = [] ∧ placedCrew.lateRoom [5] ∧ wFullG.wouldExceed { writes := [5] } = true) := by
  refine ⟨⟨rfl, rfl, w_unfenced, rfl, by decide +kernel, by decide, by decide +kernel, w_ready, w_ready, w_ready, by unfold Crew.lateRoom; decide +kernel⟩,
    by decide +kernel, ⟨w_ready, by decide, rfl, rfl, rfl, rfl, by decide +kernel, by decide +kernel, by decide +kernel⟩,
    ⟨by decide +kernel, by decide +kernel, w_running⟩, ⟨_, rfl, by decide, w_ready⟩, ⟨by decide +kernel, _, rfl, by decide +kernel⟩, by decide +kernel,
    by decide +kernel, by decide +kernel, by unfold Crew.lateRoom; decide +kernel, by decide +kernel⟩

/-- The arrival that faces core 4 of tower 0 in a direction, for an arrival of a role. -/
def wThere (d : Dev) (dir role : Nat) : Option PairArrival :=
  let facing := d.pairs.filter fun b => b.tower == 0 && b.core == 4 && b.dir == (dir + 2) % 4
  (facing.find? fun b => b.role != role).or facing.head?

theorem witness_RendezvousResults :
    (let s := wSt wCur wGang wTwo
     ∃ tm, s.d.teamOf wGang = some tm ∧ Unfenced s wCur ∧ s.d.arrived 3 = false ∧ wGang.cnt.getD 3 0 < 127 ∧ tm.tower = 0 ∧ tm.core = 0 ∧
      s.d.mxUsed 0 0 < 32 ∧ Ready s wCur wGang .always ((mmaForm wMma).reads s.d wGang wGang.leads) ∧ gangCount wGang.sp.gangr ≠ 0 ∧
      gangValid wGang.sp.gangr wGang.index tm.crews.length = true ∧ (gangMembers wGang.sp.gangr).head? = some wGang.index ∧ tm.baton = wGang.index ∧
      (mmaForm wMma).illegal (s.d.slotOf wGang 0) (s.d.slotOf wGang 0) = false ∧ 0 + 1 ≤ gangCount wGang.sp.gangr * slabK (s.d.slotOf wGang 0).format false ∧
      s.d.latch tm = [] ∧ 3 ∈ tm.crews ∧ 1 ∈ gangMembers wGang.sp.gangr) ∧
    (let s := wSt wCur wGang fun d => { wTwo d with gangs := [wMember] }
     ∃ tm, s.d.teamOf wGang = some tm ∧ s.d.latch tm = [wMember] ∧ wMember.gangr = wGang.sp.gangr ∧ wMember.ext = (mmaForm wMma).ext ∧
      (∀ m ∈ gangMembers wGang.sp.gangr, m = wGang.index ∨ m = wMember.index) ∧ some wMember.index ≠ (gangMembers wGang.sp.gangr).head? ∧
      wMember.index ∈ gangMembers wGang.sp.gangr ∧ wMember.index ≠ wGang.index ∧ (s.d.crew wMember.crew).isSome = true) ∧
    (let f : MmaForm := ⟨8, 16, 0, 0, 0, 0, false, false, false⟩
     Ready wSt wCur placedCrew .always (5 :: f.reads wSt.d placedCrew (0 == 0)) ∧ f.illegal (wSt.d.slotOf placedCrew 0) (wSt.d.slotOf placedCrew 0) = false ∧
      placedCrew.sp.gangr.toNat % 8 = 0 ∧ neighbourCore 0 1 = some 4 ∧ wSt.work.present 0 4 = true ∧ f.km1 + 1 ≤ 2 * slabK (wSt.d.slotOf placedCrew 0).format false ∧
      wSt.d.pairs = []) ∧
    (let s := wSt wCur placedCrew fun d => { wTwo d with pairs := [wPartner] }
     wThere s.d 1 0 = some wPartner ∧ wPartner.watchdog ≠ 0 ∧ wPartner.role + 0 = 1 ∧ wPartner.fields = 0 ∧
      wPartner.crew ≠ 3 ∧ (s.d.crew wPartner.crew).isSome = true ∧ s.d.mxUsed 0 0 < 32) ∧
    (let b := { wPartner with role := 0 }
     let s := wSt wCur placedCrew fun d => { wTwo d with pairs := [b] }
     wThere s.d 1 0 = some b ∧ b.watchdog ≠ 0 ∧ b.role = 0 ∧ b.crew ≠ 3 ∧ Running s placedCrew wPart ∧ s.d.crew 5 = some { id := 5, index := 1 }) ∧
    (let s := wSt wCur placedCrew fun d => { wTwo d with pairs := [{ wPartner with fields := 4 }] }
     wThere s.d 1 0 = some { wPartner with fields := 4 } ∧ ({ wPartner with fields := 4 } : PairArrival).fields ≠ 0) ∧
    (let b := { wPartner with watchdog := 0 }
     let s := wSt wCur placedCrew fun d => { wTwo d with pairs := [b] }
     ∀ x : PairArrival, wThere s.d 1 0 = some x → x.watchdog = 0) :=
  ⟨⟨_, rfl, w_unfenced, by decide +kernel, by decide, rfl, rfl, by decide +kernel, w_ready, by decide +kernel, by decide +kernel, by decide +kernel, rfl,
    by decide +kernel, by decide +kernel, by decide +kernel, by decide, by decide +kernel⟩,
   ⟨_, rfl, by decide +kernel, by decide, by decide, by decide +kernel, by decide +kernel, by decide +kernel, by decide, by decide +kernel⟩,
   ⟨w_ready, by decide +kernel, by decide, by decide +kernel, by decide +kernel, by decide +kernel, rfl⟩, by decide +kernel,
   ⟨by decide +kernel, by decide, rfl, by decide, w_running, rfl⟩, by decide +kernel, fun x h => by
     have e : wThere (wSt wCur placedCrew fun d => { wTwo d with pairs := [{ wPartner with watchdog := 0 }] }).d 1 0 =
         some { wPartner with watchdog := 0 } := by decide +kernel
     obtain rfl := Option.some.inj (e.symm.trans h)
     rfl⟩

/-- An engine with one operation of a kind at its head. -/
def wEngine (k : MxKind) (bytes : Option (List (List Byte)) := none) : State :=
  wOp (wNine 4 .matrix) (wCore fun x => { x with mxq := [{ kind := k, op := 9, crew := 3, bytes := bytes }] })

/-- One row of 128 bytes at address 0, and the places that the entries standing now give for the rows of a queued operation of crew 3. -/
def wRows : List (List BRef) := [(List.range 128).map fun j => { key := j, va := j }]

def wGot (s : State) (a : Acc) (refs : List (List BRef)) : Option (List (List BRef)) :=
  match (s.d.crew 3).bind s.d.engineWho with
  | none => none
  | some q => match s.work.afreshRows q a refs with
    | .ok rows => if s.d.linkFor 0 rows.flatten = none ∧ s.d.meetsBad (a == .store) rows.flatten = none then some rows else none
    | _ => none

theorem w_rows {s : State} {a : Acc} {refs rows : List (List BRef)} {o : Op} (h : wGot s a refs = some rows) (h1 : s.d.ops = [o] := by rfl)
    (h2 : wIdle s.d = true := by decide +kernel) (h3 : o.kind = .matrix ∨ o.kind = .sampler := by decide) : rowsReached s 0 0 3 a refs rows := by
  unfold wGot at h
  cases hc : s.d.crew 3 with
  | none => simp [hc] at h
  | some c =>
    cases hq : s.d.engineWho c with
    | none => simp [hc, hq] at h
    | some q =>
      simp only [hc, hq, Option.bind_some] at h
      split at h
      · rename_i e
        split at h
        · rename_i b
          obtain rfl := Option.some.inj h
          exact ⟨c, q, hc, hq, e, w_alone h1 h2 (.inr h3) (by rcases h3 with h3 | h3 <;> simp [h3, OpKind.messages]), b⟩
        · exact nomatch h
      · exact nomatch h

/-- The bytes of that row where page 0 is mapped to physical page 0. -/
def wPlaces : List (List BRef) :=
  [(List.range 128).map fun j => { key := j, tag := flatTag j, pos := j, cached := true, alloc := true, va := j }]

def wOperand : Operand := { slot := { fmt := 1 }, slabs := [], scales := [], cplx := false }

theorem witness_MatrixEngineSteps :
    (let s := wEngine (.mma 0 0 true false false { fmt := 1 } { fmt := 1 } [] [] [] 0)
     (s.d.core 0 0).mxNext s.d.free = some 0 ∧ (∃ x, (s.d.core 0 0).mxq = [x] ∧ x.op = 9) ∧ (s.d.core 0 0).badAcc = [] ∧ s.d.engineRuns 0 0 .matrix = true ∧ noLateTraps s ∧ ({ fmt := 1 : FmtSlot }).format ≠ .fp64 ∧ s.d.op 9 = some (wNine 4 .matrix) ∧
      s.d.crew 3 = some placedCrew ∧ noTraps s placedCrew) ∧
    (let s := wEngine (.macs 0 false wRows)
     (s.d.core 0 0).mxNext s.d.free = some 0 ∧ (s.d.core 0 0).mxq = [{ kind := .macs 0 false wRows, op := 9, crew := 3 }]) ∧
    (let s := wEngine (.macs 0 false wRows) (some [List.replicate 128 0])
     (s.d.core 0 0).mxNext s.d.free = some 0 ∧ s.wf = true ∧ ∃ places, rowsReached s 0 0 3 .store wRows places ∧
      places.map (·.length) = [List.replicate 128 (0 : Byte)].map (·.length) ∧ (places.flatten.map (·.key)).Nodup) ∧
    (let s := wEngine (.macl 0 false wRows)
     (s.d.core 0 0).mxNext s.d.free = some 0 ∧ ∃ rows, rowsReached s 0 0 3 .load wRows rows) ∧
    (let s := wEngine (.macl 0 false wRows) (some (List.replicate 32 (List.replicate 128 0)))
     (s.d.core 0 0).mxNext s.d.free = some 0) ∧
    (let s := wEngine (.nls 1 [7])
     (s.d.core 0 0).mxq[(s.d.core 0 0).mxHead]? = some { kind := .nls 1 [7], op := 9, crew := 3 }) ∧
    (∀ y ∈ (wEngine (.rstat 0 5)).d.ops, y.id = 9 → y = wNine 4 .matrix) ∧ (neighbourCore 0 1 = some 4 ∧ (4 : Nat) ≠ 0) ∧
    (wOperand.slot.scale = 0 ∧ wOperand.slot.format ≠ .fp64 ∧ 1 ≤ blockK wOperand.slot.format ∧ (wOperand.raw 0 0 0).rat.isSome ∧ (Fmt.fp32.value 0).rat.isSome) ∧
    (let s := wSt wCur placedCrew (wCore fun x => { x with credits := [7, 8, 8, 8] })
     0 < s.d.creditsBack 0 0 0) ∧
    (let a : PairArrival := ⟨3, 2, 0, 0, 4, 1, 0, 1, 0, [], [], 0, none⟩
     let s := wSt wCur placedCrew fun d => { d with pairs := [a] }
     s.d.pairs.find? (fun a => a.crew == 3) = some a ∧ s.d.crew 3 = some placedCrew ∧ Running s placedCrew wPart ∧ wPart.debugHalted = [] ∧
      placedCrew.status = .running) := by
  refine ⟨⟨by decide +kernel, ⟨_, rfl, rfl⟩, by decide +kernel, by decide +kernel, by unfold noLateTraps; decide +kernel, by decide +kernel, by decide +kernel,
      by decide +kernel, w_noTraps⟩, by decide +kernel, ⟨by decide +kernel, by decide +kernel, wPlaces, w_rows (by decide +kernel), by decide +kernel, by decide +kernel⟩,
    ⟨by decide +kernel, wPlaces, w_rows (by decide +kernel)⟩, by decide +kernel, by decide +kernel, by decide +kernel, by decide +kernel, by decide +kernel,
    by decide +kernel, rfl, rfl, w_running, rfl, rfl⟩

/-- v7 holds a pitch of 512, or a run of one unit with a period and a window of one. -/
def wPitch : Crew := { placedCrew with regs := (List.replicate 64 (RegVal.uni 0)).set 7 (.uni 512) }

def wUnits : Crew := { placedCrew with regs := (List.replicate 64 (RegVal.uni 0)).set 7 (.uni 0x10001000000) }

theorem witness_KilnIssues :
    (placedCrew.handler = false ∧ placedCrew.landed = false ∧ Unfenced wSt wCur ∧ wSt.d.teamOf placedCrew = some placedTeam ∧ placedCrew.cnt.getD 4 0 < 127 ∧
      (wSt.d.core 0 0).kiln.quarantined = false ∧ (wSt.d.core 0 0).kiln.queue.length < 16 ∧ Ready wSt wCur placedCrew .always [6, 7] ∧
      Ready wSt wCur placedCrew .always [7] ∧ Ready wSt wCur placedCrew .always [6] ∧ Ready wSt wCur placedCrew .always []) ∧
    (let s := wSt wCur wPitch
     let a := (wPitch.val 6 0).toNat
     let pitch := (wPitch.val 7 0).toNat
     Ready s wCur wPitch .always [6, 7] ∧ a % 8 = 0 ∧ pitch < 2 ^ 32 ∧ pitch % 8 = 0 ∧ 288 ≤ pitch ∧
      locatedAt s wCur wPitch .load 0 288 ((a + 0 * pitch) % 2 ^ 64) (wRefs s wCur wPitch .load 0 288 ((a + 0 * pitch) % 2 ^ 64))) ∧
    ((Fmt.fp16.value ((placedCrew.val 7 0).toNat % 2 ^ 16)).rat ≠ none ∧
      locatedAt wSt wCur placedCrew .load 0 512 (placedCrew.val 6 0).toNat (wRefs wSt wCur placedCrew .load 0 512 (placedCrew.val 6 0).toNat)) ∧
    (let cfg := placedCrew.val 7 0
     cfg.extractLsb' 0 2 ≠ 3 ∧ cfg.extractLsb' 13 3 = 0 ∧ cfg.extractLsb' 33 31 = 0 ∧ (wSt.d.cmr placedCrew).getLsbD 6 = false ∧ cfg.extractLsb' 0 2 ≠ 2) ∧
    (let x := (wSt.d.core 0 0).kiln
     x.issued.1 ≠ 0 ∧ x.issued.1 ≠ 2 ∧ (wPitch.val 7 0).toNat % 2 ^ 32 ≠ 0 ∧ (511 + 1) % ((wPitch.val 7 0).toNat % 2 ^ 32) = 0 ∧ x.issued.2.2 = []) ∧
    (Ready wSt wCur placedCrew .always [5, 6, 7, 8] ∧ placedCrew.lateRoom [5, 6, 7, 8] ∧ placedCrew.lateRoom [5]) ∧
    (let s := wSt wCur { placedCrew with regs := (List.replicate 64 (RegVal.uni 0)).set 7 (.uni 1) } wLocal
     let c : Crew := { placedCrew with regs := (List.replicate 64 (RegVal.uni 0)).set 7 (.uni 1) }
     s.d.part 0 = some wPart ∧ (s.work.logical wPart)[(c.val 7 0).toNat % 2 ^ 16]? = some (0, 1) ∧ (0, 1) ≠ (0, 0) ∧ (s.d.core 0 1).kiln.quarantined = false ∧
      locatedAt s wCur c .load 2 1 (c.val 6 0).toNat (wRefs s wCur c .load 2 1 (c.val 6 0).toNat)) :=
  ⟨⟨rfl, rfl, w_unfenced, rfl, by decide, by decide +kernel, by decide +kernel, w_ready, w_ready, w_ready, w_ready⟩,
   ⟨w_ready, by decide +kernel, by decide +kernel, by decide +kernel, by decide +kernel, w_located⟩,
   ⟨by have h : Fmt.fp16.value ((placedCrew.val 7 0).toNat % 2 ^ 16) = .fin false 0 (-24) := by decide +kernel
       rw [h]; simp [Val.rat], w_located⟩, by decide +kernel, by decide +kernel,
   ⟨w_ready, by unfold Crew.lateRoom; decide +kernel, by unfold Crew.lateRoom; decide +kernel⟩, by decide +kernel, by decide +kernel, by decide, by decide +kernel, w_located⟩

/-- An array with one operation queued, a sweep in its first phase, one waiting for a snapshot, and the two ends of a binding. -/
def wKiln (f : Kiln → Kiln) : Dev → Dev := wCore fun k => { k with kiln := f k.kiln }

def wSweep : KilnOp := ⟨.sweep 1 1 false 0x100, 9, 3, 2⟩

def wBinding : Binding := { id := 1, crew := 0, iaddr := 0, g0 := 0, n := 1, partner := 1, nodes := [0], stale := 0 }

theorem witness_KilnSteps :
    (let q : KilnOp := ⟨.counts 5 false, 9, 3, 2⟩
     let s := wOp (wNine 5 .sampler) (wKiln fun x => { x with queue := [q] })
     (s.d.core 0 0).kiln.queue = [q] ∧ q.kind.isSweep = false ∧ (s.d.core 0 0).kiln.making = none ∧ s.d.engineRuns 0 0 .kiln = true ∧ rowsReached s 0 0 3 .load q.kind.rows [] ∧ noLateTraps s ∧
      s.d.op 9 = some (wNine 5 .sampler) ∧ s.d.crew 3 = some placedCrew ∧ ∀ z ∈ s.d.ops, z.id = 9 → z = wNine 5 .sampler) ∧
    (let s := wOp (wNine 5 .sampler) (wKiln fun x => { x with queue := [wSweep], phase := some 0 })
     let x := (s.d.core 0 0).kiln
     x.queue = [wSweep] ∧ x.windowEnd = false ∧ noLateTraps s ∧ x.nnodes ≤ 256 ∧ x.phase = some 0 ∧ x.mode = 1 ∧ 0 < x.ncol ∧ 0 + 1 = x.ncol) ∧
    (let s := wOp (wNine 5 .sampler) (wKiln fun x => { x with queue := [wSweep], mode := 2 })
     let x := (s.d.core 0 0).kiln
     x.phase = none ∧ x.mode = 2 ∧ x.tlen < x.tpos + x.entries ∧ s.work.registering 0 0 = false) ∧
    (let s := wOp (wNine 5 .sampler) (wKiln fun x => { x with queue := [wSweep], bindings := [{ wBinding with registered := true }] })
     let x := (s.d.core 0 0).kiln
     x.phase = none ∧ x.mode ≠ 2 ∧ s.work.registering 0 0 = false ∧ x.stalled = false ∧ (s.d.part 0).map (·.debugHalted) = some [] ∧
      ∃ b ∈ x.bindings, b.snaps = []) ∧
    (let s := wSt wCur placedCrew (wKiln fun x => { x with inbound := [(1, 0, [1])], bindings := [wBinding] })
     (s.d.core 0 0).kiln.inbound[0]? = some (1, 0, [1]) ∧ noLateTraps s) ∧
    (let q : KilnOp := ⟨.bind 0 1 1 [] 0, 9, 3, 2⟩
     let b := { wBinding with registered := true, op := 9 }
     let s := wOp (wNine 5 .sampler) (wKiln fun x => { x with inbound := [(1, 0, [1])], bindings := [b], queue := [q] })
     let x := (s.d.core 0 0).kiln
     x.making = some b ∧ b.registered = true ∧ (∀ e ∈ x.inbound.eraseIdx 0, e.1 ≠ 1) ∧ x.queue = [q] ∧ noLateTraps s) ∧
    (let s := wSt wCur placedCrew (wKiln fun x => { x with bindings := [wBinding] })
     (s.d.core 0 0).kiln.bindings.find? (fun b => b.g0 == 0 && !b.registered) = some wBinding ∧ s.d.part 0 = some wPart ∧
      (s.work.logical wPart)[wBinding.partner]? = some (0, 1) ∧ (s.d.core 0 1).kiln.phase = none ∧ (s.d.core 0 1).kiln.quarantined = false ∧
      (s.d.core 0 1).kiln.subscribers.length < 8) ∧
    (let s := wSt wCur wHandler
     Unfenced s wCur ∧ wHandler.cnt.getD 4 0 < 127 ∧ noLateTraps s ∧ Ready s wCur wHandler .always [] ∧ (s.d.core 0 0).kiln.quarantined = false) ∧
    (wSt.d.part 0 = some wPart ∧ wSt.work.present 0 0 = true) := by
  unfold noLateTraps
  exact ⟨⟨by decide +kernel, by decide, by decide +kernel, by decide +kernel, w_rows (by decide +kernel), by decide +kernel, by decide +kernel, by decide +kernel, by decide +kernel⟩,
    by decide +kernel, by decide +kernel, by decide +kernel, by decide +kernel, by decide +kernel, by decide +kernel,
    ⟨w_unfenced, by decide, by decide +kernel, w_ready, by decide +kernel⟩, by decide +kernel⟩

theorem witness_SlipIssues :
    (placedCrew.handler = false ∧ placedCrew.landed = false ∧ Unfenced wSt wCur ∧ wSt.d.teamOf placedCrew = some placedTeam ∧ placedCrew.cnt.getD 4 0 < 127 ∧
      (wSt.d.core 0 0).slip.queue.length < 16 ∧ Ready wSt wCur placedCrew .always [6, 7] ∧ Ready wSt wCur placedCrew .always [7] ∧
      Ready wSt wCur placedCrew .always [7, 5] ∧ placedCrew.lateRoom [5] ∧ Ready wSt wCur placedCrew .always [6] ∧ Running wSt placedCrew wPart) ∧
    (let s := wSt wCur wPitch
     let a := (wPitch.val 6 0).toNat
     let pitch := (wPitch.val 7 0).toNat
     Ready s wCur wPitch .always [6, 7] ∧ a % 8 = 0 ∧ pitch < 2 ^ 32 ∧ pitch % 8 = 0 ∧ 128 ≤ pitch ∧
      locatedAt s wCur wPitch .load 0 128 ((a + 0 * pitch) % 2 ^ 64) (wRefs s wCur wPitch .load 0 128 ((a + 0 * pitch) % 2 ^ 64))) ∧
    (∃ v, (Fmt.fp16.value ((placedCrew.val 7 0).toNat % 2 ^ 16)).rat = some v ∧ 0 ≤ v) ∧
    (let v := wUnits.val 7 0
     Ready (wSt wCur wUnits) wCur wUnits .always [6, 7] ∧ (v.extractLsb' 24 16).toNat ≠ 0 ∧ (v.extractLsb' 40 24).toNat ≠ 0 ∧
      (v.extractLsb' 40 24).toNat % (v.extractLsb' 24 16).toNat = 0 ∧ (wSt.d.core 0 0).slip.issued.1 = 1) ∧
    ((∃ v : ℚ, (Fmt.fp32.value 0).rat = some v ∧ |v| < 8) ∧ ∃ v : ℚ, (Fmt.fp32.value 0x41000000).rat = some v ∧ ¬ |v| < 8) ∧
    (let cfg := placedCrew.val 7 0
     cfg.extractLsb' 0 2 = 0 ∧ cfg.extractLsb' 13 3 = 0 ∧ cfg.extractLsb' 33 31 = 0 ∧ (wSt.d.cmr placedCrew).getLsbD 6 = false) := by
  have h : Fmt.fp16.value ((placedCrew.val 7 0).toNat % 2 ^ 16) = .fin false 0 (-24) := by decide +kernel
  have h0 : Fmt.fp32.value 0 = .fin false 0 (-149) := by decide +kernel
  have h8 : Fmt.fp32.value 0x41000000 = .fin false (2 ^ 23) (-20) := by decide +kernel
  refine ⟨⟨rfl, rfl, w_unfenced, rfl, by decide, by decide +kernel, w_ready, w_ready, w_ready, by unfold Crew.lateRoom; decide +kernel, w_ready, w_running⟩,
   ⟨w_ready, by decide +kernel, by decide +kernel, by decide +kernel, by decide +kernel, w_located⟩, ⟨0, by rw [h]; simp [Val.rat], le_refl _⟩,
   ⟨w_ready, by decide +kernel, by decide +kernel, by decide +kernel, by decide +kernel⟩, ⟨⟨0, by rw [h0]; simp [Val.rat], by norm_num⟩, 8, ?_, by norm_num⟩, by decide +kernel⟩
  rw [h8]; norm_num [Val.rat]

/-- A tile with one operation queued, and with a run before its start check, in its first unit, and at its window end with a cell at 0x100. -/
def wSlip (f : Slip → Slip) : Dev → Dev := wCore fun k => { k with slip := f k.slip }

def wRun : SlipOp := ⟨.run 1 0 1 1 true false false false 0x100, 9, 3, 2⟩

def wSlipCell : Memory := Memory.putAll [] 0x100 (natLe 32 (0x1000 * 2 ^ 64 + 1024 * 2 ^ 128 + 0xFFFF * 2 ^ 160))

def wEndState : State := wMem (wOp (wNine 5 .sampler) (wSlip fun x => { x with queue := [wRun], running := true, windowEnd := true, t := 1 })) wSlipCell

def wKey (e : Look) : Option (List BRef) := match e with | .ok r => some r | _ => none

theorem witness_SlipSteps :
    (let q : SlipOp := ⟨.readMean 5 0, 9, 3, 2⟩
     let s := wOp (wNine 5 .sampler) (wSlip fun x => { x with queue := [q] })
     (s.d.core 0 0).slip.queue = [q] ∧ q.kind.isRun = false ∧ s.d.engineRuns 0 0 .slip = true ∧ rowsReached s 0 0 3 .load q.kind.rows [] ∧ noLateTraps s ∧
      noTraps s placedCrew ∧ s.d.op 9 = some (wNine 5 .sampler) ∧ ∀ z ∈ s.d.ops, z.id = 9 → z = wNine 5 .sampler) ∧
    (let s := wOp (wNine 5 .sampler) (wSlip fun x => { x with queue := [wRun] })
     let x := (s.d.core 0 0).slip
     x.queue = [wRun] ∧ s.d.engineRuns 0 0 .slip = true ∧ x.windowEnd = false ∧ (∀ n ∈ x.spent, s.d.faulted 0 n = true) ∧ x.resettle = 0 ∧ x.nord ≤ 64 ∧ x.running = false ∧ 0 < x.nord ∧
      ∀ v : ℚ, (Fmt.fp16.value (getA x.a (64 * 0 + 0) 0)).rat = some v → v ≤ 0) ∧
    (let s := wOp (wNine 5 .sampler) (wSlip fun x => { x with queue := [wRun], running := true })
     let x := (s.d.core 0 0).slip
     x.running = true ∧ x.mode ≠ 0 ∧ x.temp % 2 ^ 15 = 0 ∧ 0 < x.t + 1 ∧ (x.t + 1 - 0) % 1 = 0) := by
  unfold noLateTraps noTraps
  refine ⟨⟨by decide +kernel, by decide, by decide +kernel, w_rows (by decide +kernel), by decide +kernel⟩, ⟨by decide +kernel, by decide +kernel, by decide +kernel,
    by decide +kernel, by decide +kernel, by decide +kernel, by decide +kernel, by decide +kernel, fun v h => ?_⟩, by decide +kernel⟩
  have h1 : Fmt.fp16.value (getA ((wOp (wNine 5 .sampler) (wSlip fun x => { x with queue := [wRun] })).d.core 0 0).slip.a (64 * 0 + 0) 0) = .fin false 0 (-24) := by
    decide +kernel
  rw [h1] at h
  simp only [Val.rat, Option.some.injEq] at h
  rw [← h]; simp

/-- The last window end of a sweep, with the same cell, of 1,280 bytes a buffer; and the runs whose last publish a reader held back. -/
def wKilnEnd (f : Kiln → Kiln) : State :=
  wMem (wOp (wNine 5 .sampler) (wKiln fun x => f { x with queue := [⟨.sweep 0 1 false 0x100, 9, 3, 2⟩], windowEnd := true }))
    (Memory.putAll [] 0x100 (natLe 32 (0x1000 * 2 ^ 64 + 1280 * 2 ^ 128 + 0xFFFF * 2 ^ 160)))

/-- The publish of a window end finds its cell and its buffer, where nothing holds it back. -/
def wPublishes (s : State) (need : Nat) (payload : List Byte) : Prop :=
  let v := s.work.num 0x100 32
  s.d.faulted 0 9 = false ∧ s.d.crew 3 = some placedCrew ∧ s.d.teamOf placedCrew = some placedTeam ∧ noLateTraps s ∧ s.wf = true ∧ s.d.deliveries = [] ∧
    s.d.tableFull placedTeam 0x100 = false ∧ s.d.bad = [] ∧ (∀ o ∈ s.d.ops, o.kind = .sampler) ∧
    ((s.d.engineWho placedCrew).bind fun w => wKey (s.work.locate w [] .atomic 0 0x100 32)) = some ((List.range 32).map fun i =>
      { key := 0x100 + i, tag := flatTag 0x100, pos := i, cached := true, alloc := true, va := 0x100 + i }) ∧
    cellBad { ctxid := 0, part := 0 } 0x100 v = false ∧ need ≤ Machine.bits 159 128 v ∧ Machine.bit 16 v = false ∧ Machine.bits 15 0 v = 0 ∧
    Machine.bits 39 24 v = 0 ∧ Machine.bits 175 160 v = 0xFFFF ∧ payload.length = need ∧
    ((s.d.engineWho placedCrew).bind fun w => (wKey (s.work.locate w [] .store 0 (Machine.bits 127 64 v + 1 * Machine.bits 159 128 v) need)).map
      fun r => r.map (·.key)) = some ((List.range need).map (0x1000 + need + ·)) ∧ (∀ refs : List BRef, s.work.passes 0 0 refs = false) ∧
    noTraps s placedCrew ∧ ∀ o ∈ s.d.ops, o.id = 9 → o.crew = 3

theorem witness_WindowEnds :
    (let s := wEndState
     (s.d.core 0 0).slip.closing = none ∧ wPublishes s 1024 ((s.d.core 0 0).slip.windowBytes false) ∧ (s.d.core 0 0).slip.windowEnd = true ∧ s.d.engineRuns 0 0 .slip = true ∧ (s.d.core 0 0).slip.t = 0 + 1 * 1) ∧
    (let s := wKilnEnd id
     (s.d.core 0 0).kiln.closing = none ∧ wPublishes s 1280 ((s.d.core 0 0).kiln.windowBytes 1) ∧ (s.d.core 0 0).kiln.windowEnd = true ∧
      s.d.engineRuns 0 0 .kiln = true) ∧
    (let s := wMem wEndState (Memory.putAll [] 0x100 (natLe 32 (0x1000 * 2 ^ 64 + 1024 * 2 ^ 128 + 0xFFFF * 2 ^ 160 + 2 ^ 24)))
     Machine.bits 31 24 (s.work.num 0x100 32) ≠ 0 ∧ Machine.bits 15 0 (s.work.num 0x100 32) = 0) ∧
    (let s := wKilnEnd fun x => { x with closing := some (0x100, 0) }
     s.work.publishRetired 0 0x100 0 = true ∧ s.d.deliveries = [] ∧ noLateTraps s ∧ (s.d.core 0 0).kiln.windowEnd = true ∧
      (s.d.core 0 0).kiln.closing = some (0x100, 0) ∧ s.d.crew 3 = some placedCrew ∧ s.d.engineRuns 0 0 .kiln = true ∧ s.d.faulted 0 9 = false) ∧
    (let s := wMem (wOp (wNine 5 .sampler) (wSlip fun x => { x with queue := [wRun], running := true, windowEnd := true, t := 1, closing := some (0x100, 0) })) wSlipCell
     s.work.publishRetired 0 0x100 0 = true ∧ s.d.deliveries = [] ∧ noLateTraps s ∧ (s.d.core 0 0).slip.windowEnd = true ∧
      (s.d.core 0 0).slip.closing = some (0x100, 0) ∧ s.d.crew 3 = some placedCrew ∧ s.d.engineRuns 0 0 .slip = true ∧ s.d.faulted 0 9 = false ∧
      noTraps s placedCrew) := by
  have alone : ∀ (s : State) (o : Op) (refs : List BRef), s.d.ops = [o] → wIdle s.d = true → o.kind = .sampler → s.work.passes 0 0 refs = false :=
    fun s o refs h1 h2 h3 => w_alone h1 h2 (.inr (.inr h3)) (by simp [h3, OpKind.messages])
  unfold wPublishes noLateTraps noTraps
  refine ⟨⟨by decide +kernel, ?_, by decide +kernel⟩, ⟨by decide +kernel, ?_, by decide +kernel⟩, by decide +kernel, by decide +kernel, by decide +kernel⟩
  all_goals
    refine ⟨by decide +kernel, by decide +kernel, by decide +kernel, by decide +kernel, by decide +kernel, by decide +kernel, by decide +kernel,
      by decide +kernel, by decide +kernel, by decide +kernel, by decide +kernel, by decide +kernel, by decide +kernel, by decide +kernel, by decide +kernel,
      by decide +kernel, by decide +kernel, by decide +kernel, fun refs => alone _ _ refs rfl (by decide +kernel) rfl, by decide +kernel, by decide +kernel⟩

/-- A readout; a run before its start check with a system that passes it; a unit that takes its noise from the table. -/
theorem witness_SlipRowsComplete :
    (let q : SlipOp := ⟨.readMean 5 0, 9, 3, 2⟩
     let s := wOp (wNine 5 .sampler) (wSlip fun x => { x with queue := [q] })
     (s.d.core 0 0).slip.queue = [q] ∧ q.kind.isRun = false ∧ s.d.engineRuns 0 0 .slip = true ∧ rowsReached s 0 0 3 .load q.kind.rows []) ∧
    (let s := wOp (wNine 5 .sampler) (wSlip fun x => { x with queue := [wRun], nord := 1, a := [(0, 0x3C00)] })
     let x := (s.d.core 0 0).slip
     x.queue = [wRun] ∧ s.d.engineRuns 0 0 .slip = true ∧ x.windowEnd = false ∧ (∀ n ∈ x.spent, s.d.faulted 0 n = true) ∧ x.resettle = 0 ∧
      x.running = false ∧ x.notPd = none ∧ x.mode ≠ 2) ∧
    (let s := wOp (wNine 5 .sampler) (wSlip fun x => { x with queue := [wRun], running := true, nord := 1, mode := 2, temp := 0x3C00, tlen := 1 })
     let x := (s.d.core 0 0).slip
     x.running = true ∧ x.mode = 2 ∧ x.temp % 2 ^ 15 ≠ 0 ∧ x.tpos + x.nord ≤ x.tlen ∧ s.d.bad = []) := by
  exact ⟨⟨by decide +kernel, by decide, by decide +kernel, w_rows (by decide +kernel)⟩, by decide +kernel, by decide +kernel⟩

/-- A part of the state replaced: two cores on the device, and a grid 9 at the head of priority 3, of a given record. -/
def wTwoCores (s : State) : State := { s with fx := { s.fx with harv := [3] } }

def wNext (l : LaunchRec) : Grid := { id := 9, root := 9, launch := { l with prio := 3 } }

def wHeadGrid (l : LaunchRec) (d : Dev) : Dev := { d with towers := [(0, { queues := [[], [], [], [9], [], [], [], []] })], grids := d.grids ++ [wNext l] }

/-- No team, and no crew, of the context is dealt. -/
def wNone (d : Dev) : Dev := { d with teams := [], crews := [], cur := none }

def wDrain (ids : List Nat) : Dev → Dev := fun d => { d with parts := [{ wPart with drain := some ids }] }

/-- Pending lists of core 0, and a team 5 of grid 1. -/
def wPend (ids : List Nat) : Dev → Dev := wCore fun k => { k with pending := ids }

def wFive : Team := { id := 5, grid := 1, index := 1 }

def wSix : Team := { id := 6, grid := 9 }

def wTeams (ts : List Team) (d : Dev) : Dev := { d with teams := d.teams ++ ts }

def wBlocked : Crew := { placedCrew with waits := [{ mask := BitVec.allOnes 32, cond := .barrier 0, again := false }] }

def wEvicted : Team := { wFive with phase := .evicted, image := [{ placedCrew with id := 7, team := 5 }] }

theorem witness_GridsAndTeams :
    (wSt wCur placedCrew (wHeadGrid {})).d.headGrid wPart = some (wNext {}) ∧
    (let p : Part := { wPart with head := some 9 }
     let d := (wSt wCur placedCrew (wHeadGrid {})).d
     p.head.bind d.grid = some (wNext {}) ∧ (wNext {}).phase = .queued ∧ wPart.head.bind d.grid = none) ∧
    (let g := wNext { det := true }
     let s := wSt wCur placedCrew (wHeadGrid { det := true })
     s.d.schedules 0 = some (wPart, { ctxid := 0, part := 0 }) ∧ g.launch.coop = false ∧ wPart.dealing = none ∧ s.d.nextGrid wPart = some g ∧ g.launch.ranget = 0 ∧
      g.launch.cmrv = 0 ∧ g.graph = none ∧ g.launch.det = true ∧ (s.work.logical wPart)[g.dealtTeams % (s.work.logical wPart).length]? = some (0, 0)) ∧
    (let g := wNext {}
     let s := wTwoCores (wSt wCur placedCrew (wHeadGrid {}))
     s.d.schedules 0 = some (wPart, { ctxid := 0, part := 0 }) ∧ s.d.nextGrid wPart = some g ∧ g.launch.det = false ∧ s.work.logical wPart = [(0, 0), (0, 1)] ∧
      (s.d.core 0 0).pending.length = 0 ∧ (s.d.core 0 1).pending.length = 0 ∧ s.d.freeRegs 0 0 < s.d.freeRegs 0 1) ∧
    (let s := wSt wCur placedCrew fun d => wHeadGrid { cmrv := 1 } (wNone d)
     let g := wNext { cmrv := 1 }
     s.d.schedules 0 = some (wPart, { ctxid := 0, part := 0 }) ∧ s.d.nextGrid wPart = some g ∧ wPart.head ≠ some g.id ∧ s.d.part 0 = some wPart ∧ g.launch.ranget = 0 ∧ g.launch.cmrv ≠ 0 ∧ s.d.anyDealt 0 = false ∧
      s.d.ctx 0 = some { ctxid := 0, part := 0 }) ∧
    (let s := wSt wCur placedCrew fun d => wHeadGrid { ranget := 0x400 } (wNone d)
     let g := wNext { ranget := 0x400 }
     s.d.schedules 0 = some (wPart, { ctxid := 0, part := 0 }) ∧ s.d.nextGrid wPart = some g ∧ g.launch.ranget ≠ 0 ∧ s.d.anyDealt 0 = false ∧
      s.d.part 0 = some wPart ∧ wPart.drain = none ∧ ∀ tw ∈ wPart.towers, ∀ cl < 12, (s.d.cluster tw cl).cmb = []) ∧
    (let s := wMem (wSt wCur placedCrew fun d => wDrain [4] (wRoot (wHeadGrid { ranget := 0x400 } (wNone d)))) wTables
     let p : Part := { wPart with drain := some [4] }
     let x : Ctx := { ctxid := 0, part := 0, root := 0x10000 }
     let w := (s.work.l1sEmpty p).mod fun d => { (d.modPart 0 fun p => { p with drain := none }).modCtx 0 fun x => { x with ranget := 0, ranges := [] } with
        homes := d.homes.filter fun h => h.tag.tensor == 0, copies := d.copies.filter fun c => c.tag.tensor == 0 }
     s.d.schedules 0 = some (p, x) ∧ s.d.nextGrid p = some (wNext { ranget := 0x400 }) ∧ s.d.part 0 = some p ∧ s.d.drained [4] = true ∧
      (match w.rangesGot (p.who { x with ranget := 0, ranges := [] }) 0x400 with | .ok rs => some rs | .error _ => none) = some []) ∧
    (let s := wSt wCur placedCrew fun d => wTeams [wFive] (wPend [5] d)
     s.d.schedulesAt 0 = some (wPart, { ctxid := 0, part := 0 }) ∧ (s.d.core 0 0).pending = [5] ∧ s.d.team 5 = some wFive ∧
      s.d.grid 1 = some placedGrid ∧ s.d.fits 0 0 placedGrid = true ∧ placedGrid.inOrder wFive = true ∧ placedGrid.launch.dictn = 0 ∧ wFive.bound = false ∧
      s.work.present 0 1 = true ∧ coreKey 0 1 ≠ coreKey 0 0 ∧ s.d.fits 0 1 placedGrid = true ∧ (s.d.core 0 1).pending.length < 4) ∧
    (let s := wSt wCur placedCrew fun d => wTeams [wFive, wSix] (wPend [6, 5] (wHeadGrid { crews := 40, agelim := 1 } d))
     let g := wNext { crews := 40, agelim := 1 }
     (s.d.core 0 0).pending = [6, 5] ∧ s.d.team 6 = some wSix ∧ s.d.givesWay wSix = false ∧ s.d.grid 9 = some g ∧ s.d.fits 0 0 g = false ∧ g.launch.det = false ∧ wSix.age < g.launch.agelim ∧
      s.d.team 5 = some wFive ∧ s.d.fits 0 0 placedGrid = true) ∧
    (let g : Grid := { wNext { crews := 40 } with parentTeam := some 2 }
     let s := wSt wCur wBlocked fun d => wTeams [wSix] (wPend [6] { d with grids := d.grids ++ [g] })
     s.d.team 2 = some placedTeam ∧ placedGrid.launch.coop = false ∧ g ∈ s.d.grids ∧ (s.d.core 0 0).pending = [6] ∧ (s.d.team 6).map (·.grid) = some 9 ∧
      s.work.childStuck wPart placedTeam g = true ∧ s.d.evictable placedTeam = true ∧ s.d.ops = [] ∧ placedTeam.drain = none ∧
      placedTeam.crews.map (fun n => (s.d.crew n).map fun y => (y.place.tower, y.place.core)) = [some (0, 0)] ∧
      (s.d.core 0 0).sq = [] ∧ (s.d.cluster 0 (clusterOf 0)).cmb = [] ∧ s.d.drained [9] = true ∧
      g.parentTeam = some placedTeam.id ∧ placedTeam.phase = .resident) ∧
    (let s := wSt wCur placedCrew fun d => wTeams [wEvicted] (wPend [5] d)
     (s.d.core 0 0).pending = [5] ∧ s.d.team 5 = some wEvicted ∧ s.d.givesWay wEvicted = false ∧ wEvicted.ops = [] ∧ s.d.takesRequests 0 0 [] = true ∧ (∀ c ∈ wEvicted.image, c.landed = false) ∧ s.d.fits 0 0 placedGrid = true ∧ s.wf = true ∧ wEvicted.image.length ≤ placedGrid.launch.crews) := by
  refine ⟨?_, ?_, ?_, ?_, ?_, ?_, ?_, ?_, ?_, ?_, ?_⟩ <;> decide +kernel

/-- The node and the bin of a work graph of grid 1, and the grid at its end. -/
def wGraphNode (pred : Word) : GraphNode := { pred := pred }

def wBin (b : Bin) (pred : Word) (queue : List Nat) (d : Dev) : Dev :=
  wGrid (fun g => { g with graph := some { nodes := [wGraphNode pred] } }) { d with towers := [(0, { bins := [b], queues := [queue] })] }

def wRecBin : Bin := { owner := some (1, 0), records := [([1], none)] }

def wEnded (f : Grid → Grid) : Dev → Dev := wGrid fun g => f { g with ended := 1 }

/-- The bytes at `va` when page 0 is mapped to physical page 0. -/
def wBytes (va n : Nat) : List BRef :=
  (List.range n).map fun i => { key := va + i, tag := flatTag (va + i), pos := (va + i) % 128, cached := true, alloc := true, va := va + i }

theorem witness_EndsAndBins :
    (let s := wSt wCur placedCrew (wBin { timer := some 0 } 0 [])
     s.d.schedulesAt 0 = some (wPart, { ctxid := 0, part := 0 }) ∧ 0 < (s.d.tower 0).bins.length ∧
      ((s.d.tower 0).bins.getD 0 {}).timer = some 0) ∧
    (let s := wSt wCur placedCrew (wBin wRecBin 0 [])
     let bin := (s.d.tower 0).bins.getD 0 {}
     bin.owner = some (1, 0) ∧ ((s.d.grid 1).bind (·.graph)).bind (fun g => g.nodes[0]?) = some (wGraphNode 0) ∧ bin.waiting = none ∧ bin.wait = [] ∧ 0 < bin.records.length ∧
      0 < (wGraphNode 0).coal ∧ (wGraphNode 0).coal ≤ bin.records.length ∧ (wGraphNode 0).launch.prio < (s.d.tower 0).queues.length ∧
      ((s.d.tower 0).queues.getD (wGraphNode 0).launch.prio []).length < 64) ∧
    (let s := wSt wCur placedCrew (wBin wRecBin 0 (List.replicate 64 8))
     64 ≤ ((s.d.tower 0).queues.getD (wGraphNode 0).launch.prio []).length) ∧
    (let s := wMem (wSt wCur placedCrew fun d => wRoot (wBin wRecBin 0x100 [] d)) ((0x100, 1) :: wTables)
     let x : Ctx := { ctxid := 0, part := 0, root := 0x10000 }
     s.d.schedules 0 = some (wPart, x) ∧ wKey (s.work.locate (wPart.who x) [] .load 0 0x100 8) = some (wBytes 0x100 8) ∧ s.d.meetsBad false (wBytes 0x100 8) = none ∧
      BitVec.ofNat 64 (leNat ((wBytes 0x100 8).map fun r => s.mem.get r.key)) ≠ 0) ∧
    (let s := wMem (wSt wCur placedCrew fun d => wRoot (wBin wRecBin 0x100 [] d)) wTables
     let x : Ctx := { ctxid := 0, part := 0, root := 0x10000 }
     wKey (s.work.locate (wPart.who x) [] .load 0 0x100 8) = some (wBytes 0x100 8) ∧ BitVec.ofNat 64 (leNat ((wBytes 0x100 8).map fun r => s.mem.get r.key)) = 0 ∧
      (wRecBin.records.take 1).filterMap (·.2) = []) ∧
    (let c : Crew := { placedCrew with status := .cancelled }
     let s := wSt wCur c
     s.d.crew 3 = some c ∧ c.handler = false ∧ c.status = .cancelled ∧ (∀ n ∈ c.cnt, n = 0) ∧ ∀ y ∈ s.d.crews, y.tw + 17 < 2 ^ 32) ∧
    (let c : Crew := { placedCrew with threads := List.replicate 32 { exited := true } }
     (wSt wCur c).d.crew 3 = some c ∧ c.live = 0 ∧ ∀ n ∈ c.cnt, n = 0) ∧
    (let tm : Team := { placedTeam with crews := [8] }
     let s := wSt wCur placedCrew (wTeam fun t => { t with crews := [8] })
     s.d.team 2 = some tm ∧ s.d.grid 1 = some placedGrid ∧ s.d.part 0 = some wPart ∧ s.d.ctxOf 0 = some { ctxid := 0, part := 0 } ∧ tm.phase = .resident ∧
      (∀ n ∈ tm.crews, s.d.crew n = none) ∧ (∀ e ∈ tm.tiles, e.held0 = 0 ∧ e.held1 = 0) ∧ placedGrid.pairs = [] ∧ s.d.bad = []) ∧
    (let f := fun (g : Grid) => { g with regions := [(0x100, 8)], digestDest := some (0, 0x200) }
     let s := wSt wCur placedCrew (wEnded f)
     let g := f { placedGrid with ended := 1 }
     s.d.grid 1 = some g ∧ s.d.part 0 = some wPart ∧ s.d.ctx 0 = some { ctxid := 0, part := 0 } ∧ wPart.ctx = some g.ctx ∧ s.d.mayRetire g = true ∧
      g.owesDigest = true ∧ g.drain = none ∧ s.work.runsHeld (wPart.who { ctxid := 0, part := 0 }) (runsOf g.regions) = false) ∧
    (let f := fun (g : Grid) => { g with regions := [(0x100, 8)], digestDest := some (0, 0x200), drain := some [4] }
     let s := wMem (wSt wCur placedCrew fun d => wRoot (wEnded f d)) wTables
     let g := f { placedGrid with ended := 1 }
     let x : Ctx := { ctxid := 0, part := 0, root := 0x10000 }
     let w := s.work.mod fun d => d.modGrid 1 fun y => { y with drain := none }
     s.d.grid 1 = some g ∧ s.d.ctx 0 = some x ∧ s.d.mayRetire g = true ∧ g.owesDigest = true ∧ s.d.drained [4] = true ∧ s.work.runsHeld (wPart.who x) (runsOf g.regions) = false ∧
      (match w.runBytes (wPart.who x) 0x100 8 with | .ok b => some b | _ => none) = some (List.replicate 8 0) ∧
      wKey (w.locate (wPart.who x) [] .store 0 0x200 64) = some (wBytes 0x200 64) ∧ ((wBytes 0x200 64).map (·.key)).Nodup ∧ s.wf = true) ∧
    (let f := fun (g : Grid) => { g with digestDest := some (0, 0x200), drain := some [4] }
     let s := wMem (wSt wCur placedCrew fun d => wRoot (wEnded f d)) wTables
     let g := f { placedGrid with ended := 1 }
     let x : Ctx := { ctxid := 0, part := 0, root := 0x10000 }
     s.d.grid 1 = some g ∧ s.d.mayRetire g = true ∧ g.owesDigest = true ∧ g.regions = [] ∧ s.work.runsHeld (wPart.who x) (runsOf g.regions) = false ∧ s.d.drained [4] = true ∧
      wKey ((s.work.mod fun d => d.modGrid 1 fun y => { y with drain := none }).locate (wPart.who x) [] .store 0 0x200 64) = some (wBytes 0x200 64)) ∧
    (let f := fun (g : Grid) => { g with drain := some [4], launch := { g.launch with complete := 0x100 } }
     let s := wMem (wSt wCur placedCrew fun d => wRoot (wEnded f d)) wTables
     let g := f { placedGrid with ended := 1 }
     let x : Ctx := { ctxid := 0, part := 0, root := 0x10000 }
     s.d.grid 1 = some g ∧ s.d.schedulesAt 0 = some (wPart, x) ∧ x.ctxid = g.ctx ∧ g.launch.complete ≠ 0 ∧ s.d.mayRetire g = true ∧
      g.owesDigest = false ∧ s.d.drained [4] = true ∧ g.launch.complete.toNat % 16 = 0 ∧
      wKey (s.work.locate (wPart.who x) [] .atomic 0 0x100 16) = some (wBytes 0x100 16) ∧ (∀ r ∈ wBytes 0x100 16, r.cached = true) ∧
      s.d.meetsBad false (wBytes 0x100 16) = none ∧ ((wBytes 0x100 16).map (·.key)).Nodup ∧ s.wf = true) ∧
    (let s := wSt wCur placedCrew (wGrid fun g => { g with phase := .retiring })
     (s.d.grid 1).map (·.phase) = some .retiring) := by
  refine ⟨?_, ?_, ?_, ?_, ?_, ?_, ?_, ?_, ?_, ?_, ?_, ?_, ?_⟩ <;> decide +kernel

/-- A crew that migrates to core 1 of tower 0, the queue of that core, and its landed crew on the way back. -/
def wGoes (stage k : Nat) : Op := wNine 5 (.migrate stage 0 k)

def wLanding (l : List Nat) : Dev → Dev := fun d => d.modCore 0 1 fun k => { k with landing := l }

def wLanded : Crew := { placedCrew with landed := true, place := { placedCrew.place with core := 1, slot := 33 } }

theorem witness_Migrations :
    (let s := wOp (wGoes 0 1)
     s.d.migration 9 = some (wGoes 0 1, placedCrew, 0, 0, 1) ∧ s.d.crew placedCrew.id = some placedCrew ∧ s.d.moves placedCrew = true ∧ placedCrew.home.core ≠ 1 ∧ (s.d.core 0 1).landing.length < 32) ∧
    (let s := wOp (wGoes 0 1) (wLanding (List.replicate 32 8))
     s.d.migration 9 = some (wGoes 0 1, placedCrew, 0, 0, 1) ∧ 32 ≤ (s.d.core 0 1).landing.length) ∧
    (wOp (wGoes 2 1)).d.migration 9 = some (wGoes 2 1, placedCrew, 2, 0, 1) ∧
    (let s := wOp (wGoes 1 1) (wLanding [3])
     noLateTraps s ∧ s.d.moves placedCrew = true ∧ s.d.fences = [] ∧ (s.d.core 0 0).sq = [] ∧ (s.d.cluster 0 (clusterOf 0)).cmb = [] ∧
      s.d.takesRequests 0 1 (s.d.ops.filter fun x => x.crew == 3) = true ∧ (∀ y ∈ s.d.teams, ∀ e ∈ y.lands, e.1 ≠ 3) ∧ s.d.migration 9 = some (wGoes 1 1, placedCrew, 1, 0, 1) ∧ (s.d.core 0 1).landing.head? = some 3 ∧
      ∀ y ∈ s.d.crews, ¬ (y.place.tower = 0 ∧ y.place.core = 1 ∧ y.place.slot = 33)) ∧
    (let o := wGoes 0 0
     let s := wSt wCur wLanded fun d => { d with ops := [o] }
     noLateTraps s ∧ s.d.moves wLanded = true ∧ s.d.fences = [] ∧ (s.d.core 0 1).sq = [] ∧ (s.d.cluster 0 (clusterOf 1)).cmb = [] ∧
      s.d.takesRequests 0 0 (s.d.ops.filter fun x => x.crew == 3) = true ∧ (∀ y ∈ s.d.teams, ∀ e ∈ y.lands, e.1 ≠ 3) ∧ s.d.migration 9 = some (o, wLanded, 0, 0, 0) ∧ s.d.crew 3 = some wLanded ∧ wLanded.home.tower = 0 ∧ wLanded.home.core = 0 ∧ wLanded.landed = true) := by
  unfold noLateTraps
  refine ⟨?_, ?_, ?_, ?_, ?_⟩ <;> decide +kernel

/-- The partition changed, a halt in a phase. -/
def wParts (f : Part → Part) : Dev → Dev := fun d => { d with parts := [f wPart] }

def wHalt (ph : HaltPhase) : Part → Part := fun p => { p with halt := { phase := ph } }

def wStopped : Crew := { placedCrew with status := .stopped }

theorem witness_AccessWindow :
    (let w := wSt.work
     w.d.crew 3 = some placedCrew ∧ placedCrew.handler = false ∧ (∀ z ∈ w.d.crews, z.handler = false → z.place.gid = placedCrew.place.gid → z = placedCrew) ∧
      placedCrew.place.gid < 2 ^ 24 ∧ placedCrew.place.slot ≤ 33 ∧ (placedCrew.place.tower, placedCrew.place.core) = (0, 0) ∧ w.d.crewStopped placedCrew = false) ∧
    (let w := (wSt wCur wStopped).work
     w.d.crew 3 = some wStopped ∧ (∀ z ∈ w.d.crews, z.handler = false → z.place.gid = wStopped.place.gid → z = wStopped) ∧ w.d.crewStopped wStopped = true ∧
      wStopped.allotted 0 = true ∧ wStopped.allotted 63 = true ∧ wStopped.allotted 64 = false ∧ wStopped.gcount + 1 ≤ wStopped.gbud ∧
      wStopped.threads.length = 32 ∧ wStopped.preds.length = 7) ∧
    (let c := { wStopped with gbud := 0 }
     (wSt wCur c).work.d.crewStopped c = true ∧ (c.reg 0).isGen = false ∧ ¬ c.gcount + 1 ≤ c.gbud ∧ c.pend = [] ∧ c.reserved = []) := by
  decide +kernel

theorem witness_HandlerInstructions :
    (let s := wSt wCur wHandler
     wHandler.handler = true ∧ s.d.part wHandler.place.tower = some wPart ∧ Ready s wCur wHandler .always [7, 6, 7] ∧ wHandler.gcount + 2 ≤ wHandler.gbud ∧
      Ready s wCur wHandler .always [7, 6, 5] ∧ wHandler.roomForG 5 ∧ (s.d.crews.map (·.id)).Nodup) ∧
    (let s := wSt wCur wHandler fun d => { d with crews := d.crews ++ [{ wHandler with id := 8 }] }
     Ready s wCur wHandler .always [] ∧ Quiet s wCur wHandler ∧ (∀ n ∈ wHandler.cnt, n = 0) ∧ (s.d.crews.map (·.id)).Nodup ∧
      ∃ y ∈ s.d.crews, y.handler = true ∧ wPart.towers.contains y.place.tower = true ∧ y.id ≠ 3) ∧
    (let p := wHalt .handling wPart
     let s := wSt wCur wHandler fun d => wParts (wHalt .handling) { d with crews := d.crews ++ [{ placedCrew with id := 8 }] }
     s.d.part wHandler.place.tower = some p ∧ Ready s wCur wHandler .always [] ∧ Quiet s wCur wHandler ∧ (s.d.crews.map (·.id)).Nodup ∧
      (∀ y ∈ s.d.crews, ¬ (y.handler = true ∧ p.towers.contains y.place.tower = true ∧ y.id ≠ 3)) ∧ p.halt.phase = .handling ∧ s.d.checkpoints = [] ∧
      p.halt.records = [] ∧ p.ctx.bind s.d.ctx = some { ctxid := 0, part := 0 } ∧ s.d.fences = [] ∧ s.d.parts.find? (fun z => z.low == p.low) = some p ∧ s.wf = true ∧
      p.halt.count ≤ stopRecords ∧ (∀ y ∈ s.d.crews, y.handler = false → y.release.deadlocked = false) ∧ s.cont = none ∧ s.d.cur = some wCur ∧
      s.d.crew 3 = some wHandler ∧ p.ctx.isSome = true ∧ p.halt.count < stopRecords) :=
  ⟨⟨rfl, by decide +kernel, w_ready, by decide +kernel, w_ready, w_room' , by decide +kernel⟩,
   ⟨w_ready, w_quiet, by decide +kernel, by decide +kernel, by decide +kernel⟩,
   by decide +kernel, w_ready, w_quiet, by decide +kernel, by decide +kernel, rfl, rfl, rfl, by decide +kernel, rfl, by decide +kernel, by decide +kernel, by decide +kernel,
   by decide +kernel, rfl, rfl, rfl, rfl, by decide +kernel⟩

/-- A matrix operation that writes no register, at the head of the engine's queue. -/
def wMxHead : MxOp := { op := 9, crew := 3, kind := .macz 0 1 }

def wAllStopped : Part := { wPart with handler := some (0x40, 0x4000, 64), halt := { phase := .stopping, stopped := (wTwoCores wSt).work.engines wPart } }

def wTimed : Crew := { placedCrew with sp := { ctmrArm := true, preempt := true } }

theorem witness_HaltsComplete :
    (let p := wHalt .stopping wPart
     let s := wSt wCur placedCrew (wParts (wHalt .stopping))
     s.d.part 0 = some p ∧ p.halt.phase = .stopping ∧ p.halt.stopped = [] ∧ (0, 0, 0) ∈ s.work.engines p ∧ (0, 0, 1) ∈ s.work.engines p ∧ (0, 0, 2) ∈ s.work.engines p ∧
      (0, 0, 3) ∈ s.work.engines p ∧ (0, 0, 4) ∈ s.work.engines p ∧ (0, 0, Engine.scheduler.code) ∈ s.work.engines p ∧ (0, 0, Engine.cmb.code) ∈ s.work.engines p ∧
      s.d.checkpoints = [] ∧ (s.d.core 0 0).copies = [] ∧ (s.d.core 0 0).mxq = [] ∧ s.work.pairRecords 0 0 = [] ∧ (s.d.core 0 0).kiln.queue = [] ∧ (s.d.core 0 0).slip.queue = [] ∧
      (s.d.cluster 0 0).undrained = []) ∧
    (let p : Part := { wHalt .stopping wPart with halt := { phase := .stopping, stopped := [(0, 0, 0)] } }
     let s := wTwoCores (wSt wCur placedCrew (wParts fun _ => p))
     s.work.cores 0 = [0, 1] ∧ (0, 0, 0) ∈ p.halt.stopped ∧ (s.d.core 0 0).sq = [] ∧ (0, 0, Engine.cmb.code) ∉ p.halt.stopped) ∧
    (let s := wOp (wNine 5 .sampler) fun d => wParts (wHalt .stopping) (wCore (fun k => { k with mxq := [wMxHead] }) d)
     (s.d.core 0 0).mxq = [wMxHead] ∧ wMxHead.kind.writesRegs = false ∧ s.work.pairRecords 0 0 = [] ∧ wMxHead.paired s.d = false ∧ s.d.faulted 0 wMxHead.op = false ∧ (wHalt .stopping wPart).halt.count < stopRecords) ∧
    (let s := wTwoCores (wSt wCur placedCrew (wParts fun _ => wAllStopped))
     s.d.parts.find? (fun p => p.low == 0) = some wAllStopped ∧ s.d.part 0 = some wAllStopped ∧ wAllStopped.low = 0 ∧
      (∀ e ∈ s.work.engines wAllStopped, e ∈ wAllStopped.halt.stopped) ∧ (∀ o ∈ s.d.ops, s.d.owedAtHalt o = false) ∧ wAllStopped.handler = some (0x40, 0x4000, 64) ∧
      s.d.faultedTeams wAllStopped.halt = []) ∧
    (let s := wSt wCur wTimed (wCtx fun x => { x with switch := .stopping })
     s.d.crew 3 = some wTimed ∧ wTimed.sp.ctmrArm = true ∧ wTimed.sp.ctmr = 0 ∧ s.d.resident wTimed = true ∧ s.d.part wTimed.place.tower = some wPart ∧
      wPart.ctx.bind s.d.ctx = some { ctxid := 0, part := 0, switch := .stopping } ∧ wTimed.handler = false ∧ wTimed.status = .running ∧ wTimed.sp.preempt = true ∧
      wTimed.deadline = 0 ∧ wTimed.sp.cancel = false ∧ s.d.pairing wTimed = false ∧ s.d.unwritten wTimed = false) := by
  refine ⟨?_, ?_, ?_, ?_, ?_⟩ <;> decide +kernel

/-- A session 1 whose queue 0 holds one command, the KIND's code in its header, and a state with it. -/
def wPay (code n ops : Nat) : List Byte := natLe 16 code ++ natLe n ops

def wSess (key : Option (List Byte)) (pay : List Byte) (busy : Bool := false) (drains : List Nat := []) : Session :=
  { id := 1, number := 1, key := key, queues := [{ id := 0, commands := [pay], busy := busy, drains := drains }] }

def wHost (x : Session) (f : Dev → Dev := id) : State :=
  wSt wCur placedCrew fun d => let d := f d; { d with host := { d.host with sessions := [x] } }

/-- An authenticated session's command, with an operand block of `n` bytes. -/
def wX (code n ops : Nat) : Session := wSess (some []) (wPay code n ops)

def wCmd (code n ops : Nat) : Cmd := Cmd.ofBytes 1 0 (wPay code n ops)

theorem w_atHead {s : State} {key : Option (List Byte)} {pay : List Byte} (h1 : s.d.boot.running = true := by rfl)
    (h2 : s.d.host.sessions = [wSess key pay] := by rfl) : AtHead s 1 0 (wSess key pay) (Cmd.ofBytes 1 0 pay) :=
  ⟨h1, by rw [h2]; simp, by rw [h2]; rfl, ⟨pay, rfl, rfl⟩, rfl⟩

theorem w_posted {s : State} {code n ops kind : Nat} (h1 : s.d.boot.running = true := by rfl) (h2 : s.d.host.sessions = [wX code n ops] := by rfl)
    (h3 : (wCmd code n ops).ok = true := by decide +kernel) (h4 : (wCmd code n ops).kind = kind := by decide +kernel)
    (h5 : (wCmd code n ops).ops.length = n := by decide +kernel) : Posted s 1 0 (wX code n ops) (wCmd code n ops) kind n :=
  ⟨w_atHead h1 h2, rfl, h3, h4, h5⟩

/-- The header of a frame of session 1, queue 0: its KIND and an empty payload of `n` bytes. -/
def wFrame (kind n seq ack : Nat) : List Byte :=
  natLe 16 (1 + 1 * 2 ^ 8 + kind * 2 ^ 40 + n * 2 ^ 48 + seq * 2 ^ 64 + ack * 2 ^ 96) ++ List.replicate (n + 16) 0

theorem witness_FramesAndCommands :
    ((∀ e ∈ [(0, 0), (0, 1), (2, 0)], let s := wHost (wX 15 8 0)
      let bytes := wFrame e.1 16 e.2 0
      let v := leNat (bytes.take 16)
      s.d.boot.running = true ∧ s.work.hasAddr (linkLocal s.fx.mac) = true ∧ linkLocal s.fx.mac < 2 ^ 128 ∧ bytes.length ≤ 9216 ∧ bytes.length = 32 + Machine.bits 63 48 v ∧ Machine.bits 63 48 v ≤ 9120 ∧
        Machine.bits 7 0 v = 1 ∧ Machine.bits 39 22 v = 0 ∧ Machine.bits 47 40 v = e.1 ∧ (∃ y ∈ s.d.host.sessions, y.number = Machine.bits 15 8 v) ∧
        s.d.host.sessions.find? (fun y => y.number == Machine.bits 15 8 v) = some (wX 15 8 0) ∧ (s.d.host.sessions.map (·.id)).Nodup ∧
        (Machine.bits 95 64 v = ((wX 15 8 0).queue 0).expected ↔ e.2 = 0))) ∧
    (wFrame 0 16 0 0).length + 1 ≠ 32 + 17 + 1 ∧
    ((63 < 64 ∧ 3 < 4 ∧ 2 ^ 32 - 1 < 2 ^ 32) ∧ ([] : List Byte).length < 2 ^ 16) ∧
    (let s := wHost (wX 15 8 0)
     s.d.host.sessions.length < 4 ∧ s.d.nv.keys = [] ∧ s.d.host.sessions.find? (fun y => y.id == 1) = some (wX 15 8 0) ∧ ∃ y ∈ s.d.host.sessions, y.id = 1) ∧
    (let s := wSt wCur placedCrew fun d => { d with host := { d.host with sessions := List.replicate 4 {} } }
     4 ≤ s.d.host.sessions.length) ∧
    (AtHead (wHost (wX 1 8 0)) 1 0 (wX 1 8 0) (wCmd 1 8 0) ∧ (wCmd 1 8 0).kind = 1) ∧
    (AtHead (wHost (wSess none (wPay 1 8 0))) 1 0 (wSess none (wPay 1 8 0)) (wCmd 1 8 0) ∧ (wCmd 1 8 0).kind ≠ 14 + 3 * 65536) ∧
    (AtHead (wHost (wX 1 9 0)) 1 0 (wX 1 9 0) (wCmd 1 9 0) ∧ (wCmd 1 9 0).ops.length ≠ 8) ∧
    (AtHead (wHost (wX (1 + 2 ^ 16) 8 0)) 1 0 (wX (1 + 2 ^ 16) 8 0) (wCmd (1 + 2 ^ 16) 8 0) ∧ (wCmd (1 + 2 ^ 16) 8 0).ok = false) ∧
    (AtHead (wHost (wX 15 8 0)) 1 0 (wX 15 8 0) (wCmd 15 8 0) ∧ (∀ e ∈ commandTable 1 0 0 0, (wCmd 15 8 0).kind ≠ e.2.1) ∧
      (wCmd 15 8 0).code ∉ [7, 8, 10, 11, 14] ∧ (wCmd 15 8 0).ok = true) ∧
    (AtHead (wHost (wX 7 8 11)) 1 0 (wX 7 8 11) (wCmd 7 8 11) ∧ (∀ e ∈ commandTable 1 0 0 0, (wCmd 7 8 11).kind ≠ e.2.1) ∧ (wCmd 7 8 11).code ∈ [7, 8, 10, 11, 14]) :=
  ⟨by decide +kernel, by decide +kernel, by decide +kernel, by decide +kernel, by decide +kernel, ⟨w_atHead, by decide +kernel⟩, ⟨w_atHead, by decide +kernel⟩,
   ⟨w_atHead, by decide +kernel⟩, ⟨w_atHead, by decide +kernel⟩, ⟨w_atHead, by decide +kernel⟩, ⟨w_atHead, by decide +kernel⟩⟩

/-- A launch record that also asks for cooperation, with 100001 teams. -/
def wCoopRecord : Memory := Memory.putAll wTables 0x400 (natLe 256 (wRecord + 100000 * 2 ^ 384 + 2 ^ 553))

def wMapped (x : Session) (m : Memory) (f : Dev → Dev := id) : State := wMem (wHost x fun d => wRoot (f d)) m

def wCtxR : Ctx := { ctxid := 0, part := 0, root := 0x10000 }

/-- A command that names `n` bytes at `va`: launch, read, write, flush, invalidate. -/
def wArea (va n space : Nat) : Nat := va + n * 2 ^ 64 + space * 2 ^ 96

def wNamed (e : Except Nat (List BRef)) : Option (List BRef) := match e with | .ok r => some r | _ => none

def wOne : Part := { towers := [0], ctx := some 0 }

/-- A dirty line of address 0x100 in cluster 0. -/
def wCmbLine : CmbLine := { tag := flatTag 0x100, dirty := [({ key := 0x100, tag := flatTag 0x100, va := 0x100 }, 1)], segs := [0x100] }

def wDirty (d : Dev) : Dev := Dev.modCluster { d with parts := [wOne] } 0 0 fun k => { k with cmb := [wCmbLine] }

theorem witness_MemoryCommands :
    (let s := wMapped (wX 1 8 0x400) wRecords
     let c := wCmd 1 8 0x400
     Posted s 1 0 (wX 1 8 0x400) c 1 8 ∧ c.ctxOf s.d = some (wPart, wCtxR) ∧ wCtxR.resident = true ∧ s.d.part wPart.low = some wPart ∧
      (s.work.readRecord (wPart.who wCtxR) (BitVec.ofNat 64 (c.field 63 0))).map (fun r =>
        (decide (r.regBytes ≤ 512 * 1024), (s.work.readRanges (wPart.who wCtxR) r.ranget).isSome, (s.work.signature (wPart.who wCtxR) r []).isSome,
          s.work.coopOk wPart r, r.graphp == 0, r.prio == 0)) = some (true, true, true, true, true, true) ∧ (s.d.tower 0).queues = [[], [], [], [], [], [], [], []]) ∧
    (let s := wMapped (wX 1 8 0x400) wCoopRecord
     let c := wCmd 1 8 0x400
     Posted s 1 0 (wX 1 8 0x400) c 1 8 ∧ c.ctxOf s.d = some (wPart, wCtxR) ∧
      (s.work.readRecord (wPart.who wCtxR) (BitVec.ofNat 64 (c.field 63 0))).map (fun r => (s.work.coopOk wPart r, (s.work.signature (wPart.who wCtxR) r []).isSome)) =
        some (false, true)) ∧
    (let s := wMapped (wX 1 8 0x400) wTables
     Posted s 1 0 (wX 1 8 0x400) (wCmd 1 8 0x400) 1 8 ∧ (match s.work.recordGot (wPart.who wCtxR) (BitVec.ofNat 64 ((wCmd 1 8 0x400).field 63 0)) with | .error none => true | _ => false) = true) ∧
    (let s := wMapped (wX 1 8 0x400) wRecords fun d => { d with towers := [(0, { queues := [List.replicate 64 8] })] }
     Posted s 1 0 (wX 1 8 0x400) (wCmd 1 8 0x400) 1 8 ∧ 0 < (s.d.tower 0).queues.length ∧ 64 ≤ ((s.d.tower 0).queues.getD 0 []).length) ∧
    (let n := wArea 0x200 8 0
     let c := wCmd 2 16 n
     let s := wMapped (wX 2 16 n) wTables
     Posted s 1 0 (wX 2 16 n) c 2 16 ∧ c.field 127 99 = 0 ∧ c.field 95 64 = 8 ∧ c.field 98 96 = 0 ∧
      wNamed (s.work.named c .load 0 (c.field 63 0) 8) = some (wBytes 0x200 8)) ∧
    (let n := wArea 0x40000000 8 0
     let c := wCmd 2 16 n
     let s := wMapped (wX 2 16 n) wTables
     Posted s 1 0 (wX 2 16 n) c 2 16 ∧ wNamed (s.work.named c .load (c.field 98 96) (c.field 63 0) (c.field 95 64)) = none) ∧
    ((∀ e ∈ [(0x00, 0x80000), (0x08, 15 * 16), (0x10, 1), (0x18, 0), (0xE0, 0), (0x20, (BitVec.allOnes 48).toNat), (0xA0, 3000), (0x60, 2 ^ 32), (0x68, 0), (0xE8, 0)],
      let n := wArea e.1 8 4
      let c := wCmd 2 16 n
      let d := (wHost (wX 2 16 n)).d
      c.ok = true ∧ c.kind = 2 ∧ c.ops.length = 16 ∧ c.field 127 99 = 0 ∧ c.field 98 96 = 4 ∧ c.field 95 64 = 8 ∧ c.field 63 0 = e.1 ∧
        (e.1 = 0x08 → d.boot.stage % 16 * 16 + (if d.boot.safe then 1 else 0) = e.2) ∧ (e.1 = 0x10 → (d.parts.map fun p => 2 ^ p.low).sum = e.2))) ∧
    (let n := wArea 0x204 8 4
     Posted (wHost (wX 2 16 n)) 1 0 (wX 2 16 n) (wCmd 2 16 n) 2 16 ∧ (wCmd 2 16 n).field 98 96 = 4 ∧ (wCmd 2 16 n).field 63 0 % 8 ≠ 0) ∧
    (let n := wArea 0x200 8 0
     let c := wCmd 3 24 n
     let s := wMapped (wX 3 24 n) wTables
     Posted s 1 0 (wX 3 24 n) c 3 (16 + c.field 95 64) ∧ c.field 127 99 = 0 ∧ c.field 95 64 = 8 ∧ c.field 98 96 = 0 ∧
      wNamed (s.work.named c .store 0 (c.field 63 0) 8) = some (wBytes 0x200 8) ∧ s.wf = true ∧ ((wBytes 0x200 8).map (·.key)).Nodup) ∧
    (let n := wArea 0x40000000 8 0
     let c := wCmd 3 24 n
     let s := wMapped (wX 3 24 n) wTables
     Posted s 1 0 (wX 3 24 n) c 3 (16 + c.field 95 64) ∧ wNamed (s.work.named c .store (c.field 98 96) (c.field 63 0) (c.field 95 64)) = none) ∧
    (let n := wArea 0x200 8 4
     Posted (wHost (wX 3 24 n)) 1 0 (wX 3 24 n) (wCmd 3 24 n) 3 (16 + (wCmd 3 24 n).field 95 64) ∧ (wCmd 3 24 n).field 98 96 = 4) ∧
    (let n := wArea 0x100 64 0
     let s := wMapped (wX 4 16 n) wTables
     Posted s 1 0 (wX 4 16 n) (wCmd 4 16 n) 4 16 ∧ (wCmd 4 16 n).ctxOf s.d = some (wPart, wCtxR) ∧ ∀ t ∈ wPart.towers, ∀ cl < 12, (s.d.cluster t cl).cmb = []) ∧
    (let n := wArea 0x100 64 0
     let c := wCmd 4 16 n
     let s := wMapped (wX 4 16 n) wTables wDirty
     Posted s 1 0 (wX 4 16 n) c 4 16 ∧ c.ctxOf s.d = some (wOne, wCtxR) ∧ wOne.towers = [0] ∧ (s.d.cluster 0 0).cmb = [wCmbLine] ∧
      wCmbLine.dirty.any (fun b => inRanges [(c.field 63 0, c.field 127 64)] b.1.va) = true ∧ wCmbLine.draining = false ∧ wCmbLine.failed = none ∧ wCmbLine.bad = false ∧ wCmbLine.segs = [0x100] ∧
      s.work.segRefuses 0 0 wCmbLine 0x100 = none ∧ ∀ k < 12, k ≠ 0 → (s.d.cluster 0 k).cmb = []) ∧
    (∀ b : Bool, let x := wSess (some []) (wPay 4 16 0) true [4]
      let s := wHost x fun d => { d with fences := [{ id := 4, done := b }] }
      s.d.boot.running = true ∧ (s.d.host.sessions.map (·.id)).Nodup ∧ s.d.host.sessions.find? (fun y => y.id == 1) = some x ∧
        (x.queue 0).commands.head? = some (wPay 4 16 0) ∧ (x.queue 0).busy = true ∧ (Cmd.ofBytes 1 0 (wPay 4 16 0)).kind = 4 ∧
        ((∀ f ∈ s.d.fences, f.id ∈ (x.queue 0).drains → f.done = true) ↔ b = true)) ∧
    (let n := wArea 0x100 64 0
     let s := wHost (wX 5 16 n)
     Posted s 1 0 (wX 5 16 n) (wCmd 5 16 n) 5 16 ∧ (wCmd 5 16 n).ctxOf s.d = some (wPart, { ctxid := 0, part := 0 })) :=
  ⟨⟨w_posted, by decide +kernel, rfl, by decide +kernel, by decide +kernel, by decide +kernel⟩, ⟨w_posted, by decide +kernel⟩, ⟨w_posted, by decide +kernel⟩, ⟨w_posted, by decide +kernel⟩, ⟨w_posted, by decide +kernel⟩,
   ⟨w_posted, by decide +kernel⟩, by decide +kernel, ⟨w_posted, by decide +kernel⟩, ⟨w_posted, by decide +kernel⟩, ⟨w_posted, by decide +kernel⟩,
   ⟨w_posted, by decide +kernel⟩, ⟨w_posted, by decide +kernel⟩, ⟨w_posted, by decide +kernel⟩, by decide +kernel, ⟨w_posted, by decide +kernel⟩⟩

/-- A shootdown at a step, with the accesses it waits for. -/
def wShoot (n : Nat) (settle : Option (List Nat)) : Shootdown := { part := 0, ctx := 0, start := 0, pages := 1, globals := false, step := n, cmd := (1, 0, 0), settle := settle }

def wCtx0 : Ctx := { ctxid := 0, part := 0 }

theorem witness_Shootdowns :
    (Posted (wHost (wX 6 16 1)) 1 0 (wX 6 16 1) (wCmd 6 16 1) 6 16 ∧ (wCmd 6 16 1).ctxOf (wHost (wX 6 16 1)).d = some (wPart, wCtx0) ∧ (wCmd 6 16 1).field 15 0 ≠ 0) ∧
    (let n := 0x10000 + 1 * 2 ^ 64
     let c := wCmd 6 16 n
     Posted (wHost (wX 6 16 n)) 1 0 (wX 6 16 n) c 6 16 ∧ c.field 127 101 = 0 ∧ c.field 15 0 = 0 ∧ c.field 63 52 = 0) ∧
    (∀ n < 6, let z := wShoot n none
      let s := wHost (wX 6 16 0) fun d => { d with shootdowns := [z] }
      s.d.parts.find? (fun p => p.low == 0) = some wPart ∧ s.d.part 0 = some wPart ∧ s.d.shootdowns.find? (fun z => z.part == 0) = some z ∧ s.d.shootdowns.Nodup ∧
        s.d.ctx z.ctx = some wCtx0 ∧ s.d.host.sessions.find? (fun x => x.id == 1) = some (wX 6 16 0) ∧ (s.d.host.sessions.map (·.id)).Nodup ∧
        s.d.ops = [] ∧ s.work.fillsSent wPart = [] ∧ (∀ t ∈ wPart.towers, ∀ cl < 12, (s.d.cluster t cl).cmb = []) ∧
        ∀ f ∈ s.d.fences, f.id ∈ z.drains.getD [] → f.done = true) ∧
    (let z := wShoot 2 (some [9])
     let s := wHost (wX 6 16 0) fun d => { d with shootdowns := [z], ops := [wAtomic [] none] }
     s.d.shootdowns.find? (fun z => z.part == 0) = some z ∧ z.settle.getD [] = [9] ∧ s.d.op 9 = some (wAtomic [] none) ∧ (wAtomic [] none).done = false ∧
      s.d.crew 3 = some placedCrew ∧ (wAtomic [] none).unsettled = true ∧ (s.d.crew (wAtomic [] none).crew).isSome = true ∧ 9 ∉ s.work.fillsSent wPart) :=
  ⟨⟨w_posted, by decide +kernel⟩, ⟨w_posted, by decide +kernel⟩, by decide +kernel, by decide +kernel⟩

/-- The partition of tower 0 with no context, and a command on it with SUB `n` of a code, `len` bytes and further values above. -/
def wEmpty : Part := { wPart with ctx := none }

def wSub (n v : Nat) : Nat := n + v * 2 ^ 64

theorem witness_PartitionCommands :
    (∀ e ∈ [(1, 16), (3, 16), (4, 80), (5, 16), (6, 32), (7, 16), (8, 16), (9, 40), (10, 16), (2, 24)],
      Posted (wHost (wX 7 e.2 (wSub e.1 1))) 1 0 (wX 7 e.2 (wSub e.1 1)) (wCmd 7 e.2 (wSub e.1 1)) (7 + e.1 * 65536) e.2 ∧
        (wCmd 7 e.2 (wSub e.1 1)).field 63 32 = 0 ∧ (wCmd 7 e.2 (wSub e.1 1)).partOf (wHost (wX 7 e.2 (wSub e.1 1))).d = some wPart ∧
        (wCmd 7 e.2 (wSub e.1 1)).ctxOf (wHost (wX 7 e.2 (wSub e.1 1))).d = some (wPart, wCtx0)) ∧
    (let ps := [[0, 1, 2, 3, 4, 5, 6, 7]]
     ps.flatten = List.range 8 ∧ (∀ g ∈ ps, g ≠ []) ∧
      ∀ t < 8, Machine.bit t ((wCmd 7 16 (wSub 1 1)).field 71 64) = true ↔ ∃ g ∈ ps, g.head? = some t) ∧
    (Posted (wHost (wX 7 16 (wSub 1 2))) 1 0 (wX 7 16 (wSub 1 2)) (wCmd 7 16 (wSub 1 2)) (7 + 1 * 65536) 16 ∧
      Machine.bit 0 ((wCmd 7 16 (wSub 1 2)).field 71 64) = false) ∧
    (let c := wCmd 7 24 (wSub 2 (1 + 2 ^ 64))
     c.field 127 67 = 0 ∧ c.field 191 176 = 0 ∧ c.field 66 64 ∈ wPart.towers ∧ wPart.ctx.isSome = true ∧ (wCmd 7 24 (wSub 2 8)).field 127 67 ≠ 0) ∧
    (let n := wSub 2 (1 + 2 ^ 64)
     let c := wCmd 7 24 n
     let s := wHost (wX 7 24 n) (wParts fun _ => wEmpty)
     Posted s 1 0 (wX 7 24 n) c (7 + 2 * 65536) 24 ∧ c.partOf s.d = some wEmpty ∧ s.d.part wEmpty.low = some wEmpty ∧ wEmpty.ctx = none ∧
      (BitVec.ofNat 48 (c.field 175 128)).getLsbD 0 = true ∧ getA s.d.vaultOwner (48 * 1 + 0) 0 ≠ wEmpty.low * 16 + wEmpty.towers.length) ∧
    (let n := wSub 2 (1 + 2 ^ 64)
     let c := wCmd 7 24 n
     let s := wHost (wX 7 24 n) fun d => wParts (fun _ => wEmpty) { d with vaultOwner := [(48, 8)] }
     Posted s 1 0 (wX 7 24 n) c (7 + 2 * 65536) 24 ∧ (BitVec.ofNat 48 (c.field 175 128)) = 1 ∧
      getA s.d.vaultOwner (48 * 1 + 0) 0 = wEmpty.low * 16 + wEmpty.towers.length) ∧
    (let z : Zeroing := { tower := 1, mask := 1, newMask := 1, part := 0, cmd := (1, 0, 0) }
     let s := wHost (wX 7 24 2) fun d => wParts (fun _ => wEmpty) { d with zeroings := [z] }
     s.d.zeroings[0]? = some z ∧ s.d.parts.find? (fun y => y.low == z.part) = some wEmpty ∧ s.d.part wEmpty.low = some wEmpty ∧ (wCmd 7 24 2).tag = 0 ∧
      (s.d.host.sessions.map (·.id)).Nodup ∧ s.d.host.sessions.find? (fun y => y.id == 1) = some (wX 7 24 2) ∧ s.wf = true ∧ z.tower < 8) := by
  refine ⟨?_, by decide +kernel, ⟨w_posted, by decide +kernel⟩, by decide +kernel, ⟨w_posted, by decide +kernel⟩, ⟨w_posted, by decide +kernel⟩, by decide +kernel⟩
  simp only [List.forall_mem_cons, List.not_mem_nil, false_imp_iff, implies_true, and_true]
  exact ⟨⟨w_posted, by decide +kernel⟩, ⟨w_posted, by decide +kernel⟩, ⟨w_posted, by decide +kernel⟩, ⟨w_posted, by decide +kernel⟩, ⟨w_posted, by decide +kernel⟩,
    ⟨w_posted, by decide +kernel⟩, ⟨w_posted, by decide +kernel⟩, ⟨w_posted, by decide +kernel⟩, ⟨w_posted, by decide +kernel⟩, w_posted, by decide +kernel⟩

theorem w_natLe_length (n v : Nat) : (natLe n v).length = n := by
  induction n generalizing v with
  | zero => rfl
  | succ n h => simp [natLe, h]

theorem w_round_length (a : Lanes) (k : Word) : (a.round k).length = 25 := by
  have h : a.mix.scatter.bend.length = 25 := by simp [Lanes.bend, Lanes.build, List.range, List.range.loop]
  simpa [Lanes.round, modNth] using h

theorem w_takeIn_length {a : Lanes} (h : a.length = 25) (b : List Byte) : (a.takeIn b).length = 25 := by
  have : ∀ (l : List Word) (a : Lanes), a.length = 25 → (l.foldl Lanes.round a).length = 25 := by
    intro l
    induction l with
    | nil => exact fun _ h => h
    | cons x r ih => exact fun a _ => ih _ (w_round_length a x)
  exact this _ _ (by simpa using h)

theorem w_takeAll_length (n : Nat) {a : Lanes} (h : a.length = 25) (m : List Byte) : (Lanes.takeAll n a m).length = 25 := by
  induction n generalizing a m with
  | zero => exact h
  | succ n ih =>
    unfold Lanes.takeAll
    split
    · exact w_takeIn_length h _
    · exact ih (w_takeIn_length h _) _

theorem w_sha3_length (m : List Byte) : (sha3 m).length = 64 := by
  have h : ((Lanes.takeAll (m.length / sha3Rate + 1) (List.replicate 25 0) m).take 8).length = 8 := by
    rw [List.length_take, w_takeAll_length _ (by rfl)]; rfl
  have : ∀ l : List Word, (l.flatMap fun v => natLe 8 v.toNat).length = 8 * l.length := by
    intro l
    induction l with
    | nil => rfl
    | cons x r ih => simp [w_natLe_length, ih]; omega
  rw [sha3, this, h]

theorem w_padTo_length {n : Nat} {b : List Byte} (h : b.length ≤ n) : (padTo n b).length = n := by
  simp [padTo, zeros]; omega

theorem w_headLength (x : Ctx) (halts used teams : Nat) {mac : List Byte} (h : mac.length ≤ 64) : (x.imageHeader halts used teams mac).length = 4096 := by
  have hd : ∀ l : List Nat, (l.flatMap fun i => match x.decls[i]? with
      | some (a, g) => natLe 16 (a.toNat + g % 2 ^ 24 * 2 ^ 64 + 2 ^ 88)
      | none => zeros 16).length = 16 * l.length := by
    intro l
    induction l with
    | nil => rfl
    | cons i r ih =>
      rw [List.flatMap_cons, List.length_append, ih, List.length_cons]
      split <;> simp [w_natLe_length, zeros] <;> omega
  unfold Ctx.imageHeader
  refine w_padTo_length ?_
  rw [List.length_append, w_padTo_length (by rw [List.length_append, w_natLe_length]; omega)]
  exact le_trans (le_of_eq (congrArg (1024 + ·) (hd (List.range 64)))) (by simp)

theorem w_imageLength (v : Saved) (x : Ctx) (halts : Nat) (m : Locals) : (v.image x halts m).length = 4096 + (v.body m).length := by
  simp only [Saved.image]
  rw [List.length_append, w_headLength _ _ _ _ (by rw [w_sha3_length])]

theorem w_putAll {m : Memory} (h : m.wf = true) (k : Nat) (l : List Byte) (j : Nat) :
    (m.putAll k l).get j = if k ≤ j ∧ j < k + l.length then l.getD (j - k) 0 else m.get j := by
  induction l generalizing m k with
  | nil => simp [Memory.putAll]
  | cons b r ih =>
    rw [Memory.putAll, ih (Memory.put_wf h k b)]
    by_cases hj : j = k
    · subst hj; simp [Memory.get_put_same h]
    · rw [Memory.get_put_other h hj]
      by_cases hk : k ≤ j ∧ j < k + (r.length + 1)
      · have e : j - k = (j - (k + 1)) + 1 := by omega
        rw [if_pos (by omega), if_pos (by simpa using hk), e]; rfl
      · rw [if_neg (by omega), if_neg (by simpa using hk)]

theorem w_gets (s : State) (k : Nat) (l : List Byte) : (wMem s (Memory.putAll [] k l)).work.gets k l.length = l := by
  refine List.ext_getElem (by simp [Work.gets]) fun i h1 h2 => ?_
  have e : Memory.get (Memory.putAll [] k l) (k + i) = l[i] := by
    rw [w_putAll rfl, if_pos (by omega)]; simp [h2]
  simp only [Work.gets, List.getElem_map, List.getElem_range]
  exact e

theorem w_num (s : State) (k : Nat) {n m : Nat} (h : n ≤ m) : s.work.num k n = leNat ((s.work.gets k m).take n) := by
  simp [Work.num, Work.gets, ← List.map_take, List.take_range, Nat.min_eq_left h]

theorem w_wf {s : State} {m : Memory} (h : m.wf = true) (hc : s.cont = none) : (wMem s m).wf = true := by
  simp [State.wf, wMem, h, hc]

theorem w_bodyLength {v : Saved} {e : Nat × Tower} (ht : v.towers = [e]) (hc : v.cores = []) (hi : v.imageTeams = []) (m : Locals) :
    (v.body m).length = 65536 := by
  simp [Saved.body, ht, hc, hi, opaqueBytes]

/-- The context switched out, with nothing but its layout saved, and the image of that save, in the save area of tower 0. -/
def wSaved : Saved := { layout := [(0, 0), (0, 1)] }

def wAway : Ctx := { ctxid := 0, part := 0, resident := false, saved := some wSaved }

def wNoLocals : Locals := ⟨fun _ => [], fun _ => []⟩

def wImage : List Byte := wSaved.image wAway 0 wNoLocals

def wRoomy : Part := { wEmpty with handler := some (0x40, 0x4000, 64), saveSize := 0x10000 }

def wPut (p : Part) (x : Ctx) (d : Dev) : Dev := { wParts (fun _ => p) d with ctxs := [x] }

theorem wImage_length : wImage.length = 4096 := by
  rw [wImage, w_imageLength]; decide +kernel

theorem w_parsed {b : List Byte} (h : numAt b 0 64 = 4096) (hd : ((List.range 64).filter fun i => bit 88 (numAt b (1024 + 16 * i) 16)) = []) :
    wSaved.ofImage wAway b = (wAway, 0, wSaved, { rest := b.drop 4096 }) := by
  simp only [Saved.ofImage, h, hd]
  rfl

theorem wImage_parsed : wSaved.ofImage wAway wImage = (wAway, 0, wSaved, { rest := wImage.drop 4096 }) :=
  w_parsed (by decide +kernel) (by decide +kernel)

/-- A context being switched out, at a stage, in a partition with a given save area. -/
def wLeaves (f : SwitchPhase) : Ctx := { ctxid := 0, part := 0, switch := f, switchCmd := some (1, 0, 0) }

def wBare (p : Part) (f : SwitchPhase) : State :=
  let s := wHost (wX 8 16 3) fun d => wPut p (wLeaves f) { d with teams := [], grids := [] }
  { s with fx := { s.fx with harv := [0] }, d := { s.d with crews := [], cur := none } }

theorem w_bareLate (p : Part) (f : SwitchPhase) : noLateTraps (wBare p f) := by
  have h1 : (wBare p f).d.ops = [] := rfl
  have h2 : (wBare p f).d.fences = [] := rfl
  simp [noLateTraps, h1, h2]

theorem witness_ContextCommands :
    (let n := wSub 1 0
     let c := wCmd 8 16 n
     let s := wHost (wX 8 16 n) fun d => { wParts (fun _ => wRoomy) d with ctxs := [] }
     Posted s 1 0 (wX 8 16 n) c (8 + 1 * 65536) 16 ∧ c.partOf s.d = some wRoomy ∧ s.d.part wRoomy.low = some wRoomy ∧ c.field 63 33 = 0 ∧ c.field 127 64 = 0 ∧
      wRoomy.ctx = none ∧ wRoomy.handler.isSome = true ∧ s.d.ctx c.ctxid = none ∧ wRoomy.halt.deferred = [] ∧ s.wf = true ∧ (wCmd 8 16 (wSub 1 1)).field 127 64 % 4096 ≠ 0) ∧
    (∀ e ∈ [2, 3, 4], let n := wSub e 0
      let c := wCmd 8 16 n
      let s := wHost (wX 8 16 n)
      Posted s 1 0 (wX 8 16 n) c (8 + e * 65536) 16 ∧ c.ctxOf s.d = some (wPart, wCtx0) ∧ s.d.part wPart.low = some wPart ∧ c.field 63 32 = 0 ∧ c.field 127 64 = 0 ∧
        (s.d.crews.map (·.id)).Nodup ∧ wCtx0.resident = true ∧ wCtx0.switch = .idle ∧ wPart.debugHalted = [] ∧ (wCmd 8 16 (wSub e 1)).field 127 64 ≠ 0) ∧
    (let n := wSub 4 0
     let c := wCmd 8 16 n
     let s := wMem (wTwoCores (wHost (wX 8 16 n) (wPut wRoomy wAway))) (Memory.putAll [] (areaKey 0 1 0) wImage)
     Posted s 1 0 (wX 8 16 n) c (8 + 4 * 65536) 16 ∧ c.ctxOf s.d = some (wRoomy, wAway) ∧ s.d.part wRoomy.low = some wRoomy ∧ wAway.resident = false ∧
      wAway.saved = some wSaved ∧ wRoomy.halt.deferred = [] ∧ wRoomy.halt.phase = .running ∧ s.wf = true ∧ s.work.num (areaKey 0 1 0) 8 = 4096 ∧
      s.work.gets (areaKey 0 1 0) 4096 = wImage ∧ wSaved.ofImage wAway wImage = (wAway, 0, wSaved, { rest := wImage.drop 4096 }) ∧
      wSaved.image wAway 0 wNoLocals = wImage ∧ Machine.bits 75 64 (leNat (wImage.take 64)) = wAway.ctxid ∧ (∀ e ∈ wSaved.layout, e ∈ s.work.logical wRoomy) ∧
      wSaved.imageTeams = [] ∧ s.d.ops = []) ∧
    (∀ f ∈ [SwitchPhase.idle, .stopping, .draining, .cmbs, .image], let s := wHost (wX 8 16 3) (wPut wPart (wLeaves f))
      s.d.parts.find? (fun p => p.low == 0) = some wPart ∧ s.d.part 0 = some wPart ∧ wPart.ctx = some 0 ∧ s.d.ctx 0 = some (wLeaves f) ∧ wPart.halt.phase = .running ∧
        (wLeaves f).switchCmd = some (1, 0, 0) ∧ s.d.host.sessions.find? (fun x => x.id == 1) = some (wX 8 16 3) ∧ (s.d.host.sessions.map (·.id)).Nodup ∧
        (∃ e ∈ s.d.crews, e.handler = false ∧ e.place.tower ∈ wPart.towers ∧ e.status = .running) ∧ (∀ f ∈ s.d.fences, f.done = true) ∧
        (∀ tw ∈ wPart.towers, ∀ cl < 12, (s.d.cluster tw cl).cmb = [])) ∧
    (let s := wBare wOne .draining
     (∀ e ∈ s.d.crews, e.status ≠ .running ∧ s.d.departs e.id = false) ∧ s.work.quiet wOne = true) ∧
    (let s := wHost (wX 8 16 3) fun d => wPut wPart (wLeaves .stopping) { d with ops := [wNine 5 (.migrate 4 0 1)] }
     ∃ e ∈ s.d.crews, e.handler = false ∧ e.place.tower ∈ wPart.towers ∧ s.d.departs e.id = true) ∧
    (let s := wHost (wX 8 16 3) fun d => wPut wPart (wLeaves .draining) { d with ops := [wLoadOp] }
     s.work.quiet wPart = false) ∧
    (let s := wHost (wX 8 16 3) fun d => Dev.modCluster (wPut wPart (wLeaves .cmbs) d) 0 0 fun k => { k with cmb := [{ tag := {} }] }
     (s.d.cluster 0 0).cmb ≠ []) ∧
    (∀ n ∈ [0, 0x20000], let p : Part := { wOne with saveSize := n }
      let s := wBare p .image
      let w := s.work.freeAt.2.readyToSave p
      let v := w.savedOf p (wLeaves .image) s.d.free
      let img := v.image (wLeaves .image) p.halt.halts (w.localsOf v)
      noLateTraps s ∧ (s.d.crews.map (·.id)).Nodup ∧
      s.d.parts.find? (fun p => p.low == 0) = some p ∧ s.d.part 0 = some p ∧ s.d.ctx 0 = some (wLeaves .image) ∧ (wLeaves .image).switch = .image ∧ s.wf = true ∧
        s.d.host.sessions.find? (fun x => x.id == 1) = some (wX 8 16 3) ∧ (n = 0 → p.saveSize < img.length) ∧ (n ≠ 0 → img.length ≤ p.saveSize)) := by
  refine ⟨⟨w_posted, by decide +kernel⟩, ?_, ⟨w_posted, by decide +kernel, by decide +kernel, rfl, rfl, rfl, rfl, ?_, ?_, ?_, wImage_parsed, rfl, by decide +kernel,
    by decide +kernel, rfl, rfl⟩, by decide +kernel, by decide +kernel, by decide +kernel, by decide +kernel, by decide +kernel, ?_⟩
  · simp only [List.forall_mem_cons, List.not_mem_nil, false_imp_iff, implies_true, and_true]
    exact ⟨⟨w_posted, by decide +kernel⟩, ⟨w_posted, by decide +kernel⟩, w_posted, by decide +kernel⟩
  · exact w_wf (Memory.putAll_wf rfl _ _) rfl
  · rw [w_num _ _ (by decide : 8 ≤ 4096), ← wImage_length, w_gets]; decide +kernel
  · rw [← wImage_length]; exact w_gets _ _ _
  · intro n hn
    refine ⟨w_bareLate _ .image, List.nodup_nil, rfl, rfl, rfl, rfl, rfl, rfl, fun h => ?_, fun h => ?_⟩
    · subst h; rw [w_imageLength]; exact Nat.lt_of_lt_of_le (by decide) (Nat.le_add_right 4096 _)
    · have : n = 0x20000 := by simp only [List.mem_cons, List.not_mem_nil, or_false] at hn; omega
      subst this
      rw [w_imageLength, w_bodyLength (e := (0, {})) (by decide +kernel) (by decide +kernel) (by decide +kernel)]
      decide

/-- The states of the witnesses above, each with what the statement asks of it. -/
theorem witness_SystemFormsComplete :
    (Ready wSt wCur placedCrew .always [5] ∧ (0#6).toNat < 14 ∧ (placedCrew.handler = false → (0#6).toNat ≠ 10 ∧ (0#6).toNat ≠ 11) ∧ placedCrew.roomForG 5 ∧
      Ready wSt wCur placedCrew .always [7] ∧ Ready wSt wCur placedCrew .always [6, 5] ∧ (7#4).toNat ≤ 7) ∧
    (let s := wSt wCur placedCrew (wTeam fun t => { t with crews := [3, 5] })
     Ready s wCur placedCrew .always [] ∧ ∃ tm, s.d.team 2 = some tm ∧ (2#6).toNat ≤ tm.crews.length ∧ (s.d.ops.map (·.id)).Nodup ∧
      (∀ x ∈ s.d.crews, x.tw < 2 ^ 32 - 1) ∧ placedCrew.bar.getLsbD 0 = false ∧ (tm.barriers.getD 0 {}).arrived = [] ∧ tm.closing = []) ∧
    (let s := wMapped (wX 1 8 0x400) wRecords
     let c := wCmd 1 8 0x400
     Posted s 1 0 (wX 1 8 0x400) c 1 8 ∧ c.ctxOf s.d = some (wPart, wCtxR) ∧ wCtxR.resident = true ∧ s.d.part wPart.low = some wPart ∧
      (s.work.readRecord (wPart.who wCtxR) (BitVec.ofNat 64 (c.field 63 0))).map (fun r =>
        (decide (r.regBytes ≤ 512 * 1024), (s.work.readRanges (wPart.who wCtxR) r.ranget).isSome, (s.work.signature (wPart.who wCtxR) r []).isSome,
          s.work.coopOk wPart r, r.graphp == 0, r.prio == 0)) = some (true, true, true, true, true, true) ∧ (s.d.tower 0).queues = [[], [], [], [], [], [], [], []]) ∧
    (∀ e ∈ [(2, 16), (3, 24)], let n := wArea 0x200 8 0
     let c := wCmd e.1 e.2 n
     let s := wMapped (wX e.1 e.2 n) wTables
     Posted s 1 0 (wX e.1 e.2 n) c e.1 e.2 ∧ c.ctxOf s.d = some (wPart, wCtxR) ∧ c.field 127 99 = 0 ∧ c.field 95 64 = 8 ∧ c.field 98 96 = 0 ∧
      wNamed (s.work.named c (if e.1 = 2 then .load else .store) 0 (c.field 63 0) 8) = some (wBytes 0x200 8) ∧ s.wf = true ∧ ((wBytes 0x200 8).map (·.key)).Nodup) ∧
    (∀ e ∈ [(4, 16, wArea 0x100 64 0), (5, 16, wArea 0x100 64 0), (6, 16, 0x10000 + 1 * 2 ^ 64), (8, 16, wSub 2 0), (8, 16, wSub 3 0)],
     let s := wHost (wX e.1 e.2.1 e.2.2)
     let c := wCmd e.1 e.2.1 e.2.2
     c.ok = true ∧ c.ops.length = e.2.1 ∧ c.ctxOf s.d = some (wPart, wCtx0) ∧ (∀ t ∈ wPart.towers, ∀ cl < 12, (s.d.cluster t cl).cmb = []) ∧
      (e.1 = 6 → c.field 127 101 = 0 ∧ c.field 15 0 = 0 ∧ c.field 63 52 = 0) ∧ (e.1 = 8 → c.field 63 32 = 0 ∧ c.field 127 64 = 0)) ∧
    (let s := wHost (wX 8 16 (wSub 4 0)) (wPut wRoomy wAway)
     Posted s 1 0 (wX 8 16 (wSub 4 0)) (wCmd 8 16 (wSub 4 0)) (8 + 4 * 65536) 16 ∧ (wCmd 8 16 (wSub 4 0)).ctxOf s.d = some (wRoomy, wAway) ∧ wAway.resident = false ∧
      wAway.saved = some wSaved ∧ wRoomy.ctx = none ∧ wRoomy.halt.deferred = [] ∧ wRoomy.halt.phase = .running ∧ s.wf = true) ∧
    (let n := wSub 1 0
     let c := wCmd 8 16 n
     let s := wHost (wX 8 16 n) fun d => { wParts (fun _ => wRoomy) d with ctxs := [] }
     Posted s 1 0 (wX 8 16 n) c (8 + 1 * 65536) 16 ∧ c.partOf s.d = some wRoomy ∧ s.d.part wRoomy.low = some wRoomy ∧ c.field 63 33 = 0 ∧ c.field 127 64 = 0 ∧
      wRoomy.handler.isSome = true ∧ s.d.ctx c.ctxid = none ∧ s.wf = true) ∧
    (let s := wHost (wX 6 16 0) fun d => { d with shootdowns := [wShoot 5 none] }
     s.d.parts.find? (fun p => p.low == 0) = some wPart ∧ s.d.part 0 = some wPart ∧ s.d.shootdowns.find? (fun z => z.part == 0) = some (wShoot 5 none) ∧
      s.d.shootdowns.Nodup ∧ s.d.ctx 0 = some wCtx0 ∧ s.d.host.sessions.find? (fun x => x.id == 1) = some (wX 6 16 0) ∧ (s.d.host.sessions.map (·.id)).Nodup) ∧
    (let s := wBare wOne .stopping
     s.d.part 0 = some wOne ∧ s.d.ctx 0 = some (wLeaves .stopping) ∧ (∀ e ∈ s.d.crews, e.status ≠ .running ∧ s.d.departs e.id = false) ∧ s.d.host.sessions.find? (fun x => x.id == 1) = some (wX 8 16 3)) ∧
    (let s := wSt wCur placedCrew fun d => wDrain [4] { wHeadGrid {} (wNone d) with ctxs := [{ ctxid := 0, part := 0, ranget := 0x400 }] }
     let p : Part := { wPart with drain := some [4] }
     let x : Ctx := { ctxid := 0, part := 0, ranget := 0x400 }
     s.d.schedules 0 = some (p, x) ∧ s.d.nextGrid p = some (wNext {}) ∧ s.d.part 0 = some p ∧ s.d.ctx 0 = some x ∧ s.d.drained [4] = true ∧ s.d.anyDealt 0 = false) ∧
    (let s := wSt wCur placedCrew fun d => wHeadGrid { cmrv := 1 } (wNone d)
     s.d.schedules 0 = some (wPart, { ctxid := 0, part := 0 }) ∧ s.d.nextGrid wPart = some (wNext { cmrv := 1 }) ∧ s.d.part 0 = some wPart ∧ s.d.anyDealt 0 = false) ∧
    (let s := wSt wCur placedCrew (wHeadGrid { det := true })
     s.d.schedules 0 = some (wPart, { ctxid := 0, part := 0 }) ∧ s.d.nextGrid wPart = some (wNext { det := true }) ∧
      (s.work.logical wPart)[(wNext { det := true }).dealtTeams % (s.work.logical wPart).length]? = some (0, 0)) ∧
    (∀ tm ∈ [wFive, wEvicted], let s := wSt wCur placedCrew fun d => wTeams [tm] (wPend [5] d)
     s.d.schedulesAt 0 = some (wPart, { ctxid := 0, part := 0 }) ∧ (s.d.core 0 0).pending = [5] ∧ s.d.team 5 = some tm ∧
      s.d.grid 1 = some placedGrid ∧ s.d.fits 0 0 placedGrid = true ∧ placedGrid.inOrder tm = true ∧ placedGrid.launch.dictn = 0 ∧ s.d.givesWay tm = false ∧ tm.ops = [] ∧
      s.d.takesRequests 0 0 [] = true ∧ s.wf = true ∧ tm.image.length ≤ placedGrid.launch.crews ∧ ∀ c ∈ tm.image, c.landed = false) ∧
    (let g : Grid := { wNext { crews := 40 } with parentTeam := some 2 }
     let tm : Team := { placedTeam with drain := some [] }
     let s := wSt wCur wBlocked fun d => wTeams [wSix] (wPend [6] (wTeam (fun _ => tm) { d with grids := d.grids ++ [g] }))
     s.d.schedulesAt 0 = some (wPart, { ctxid := 0, part := 0 }) ∧ s.d.team 2 = some tm ∧ tm.id = 2 ∧ placedGrid.launch.coop = false ∧ placedGrid.launch.dictn = 0 ∧
      g ∈ s.d.grids ∧ s.work.childStuck wPart tm g = true ∧ s.d.evictable tm = true ∧ s.d.ops = [] ∧ s.d.drained [] = true ∧ tm.phase = .resident) := by
  refine ⟨⟨w_ready, by decide, by decide, w_room', w_ready, w_ready, by decide⟩,
    ⟨w_ready, _, rfl, by decide, by decide +kernel, by decide +kernel, by decide, by decide +kernel, rfl⟩,
    ⟨w_posted, by decide +kernel, rfl, by decide +kernel, by decide +kernel, by decide +kernel⟩, ?_, by decide +kernel,
    ⟨w_posted, by decide +kernel⟩, ⟨w_posted, by decide +kernel⟩, by decide +kernel, by decide +kernel, by decide +kernel, by decide +kernel, by decide +kernel,
    by decide +kernel, by decide +kernel⟩
  simp only [List.forall_mem_cons, List.not_mem_nil, false_imp_iff, implies_true, and_true]
  exact ⟨⟨w_posted, by decide +kernel⟩, w_posted, by decide +kernel⟩

/-- A context in debug mode, and a debugger's command with a tower, an item address and a value. -/
def wDebugged : Ctx := { wCtx0 with debug := true }

def wDebug (n t a v : Nat) : Nat := n + t * 2 ^ 32 + a * 2 ^ 64 + v * 2 ^ 128

def wHalted : Part := { wOne with debugHalted := [0] }

/-- A handler crew that has faulted, in slot 32, and another one. -/
def wFailed : Crew := { wHandler with status := .faulted, place := { slot := 32 } }

theorem witness_DebuggerCommands :
    (∀ e ∈ [1, 2, 3, 4, 5], let n := wDebug e 0 0 0
      let c := wCmd 10 24 n
      Posted (wHost (wX 10 24 n) (wPut wOne wDebugged)) 1 0 (wX 10 24 n) c (10 + e * 65536) 24 ∧ c.field 63 35 = 0 ∧
        c.ctxOf (wHost (wX 10 24 n) (wPut wOne wDebugged)).d = some (wOne, wDebugged) ∧ (wHost (wX 10 24 n) (wPut wOne wDebugged)).d.part wOne.low = some wOne ∧
        c.field 191 128 = 0 ∧ c.field 127 64 = 0 ∧ c.field 34 32 = 0 ∧ wOne.ctx = some wDebugged.ctxid ∧ wDebugged.debug = true ∧ 0 ∈ wOne.towers ∧
        0 ∉ wOne.debugHalted ∧ (∀ cl < 12, ((wHost (wX 10 24 n) (wPut wOne wDebugged)).d.cluster 0 cl).cmb = []) ∧ c.ctxOf (wHost (wX 10 24 n) (wPut wOne wCtx0)).d = some (wOne, wCtx0) ∧ wCtx0.debug = false) ∧
    (let c := wCmd 10 24 (wDebug 1 1 0 0)
     c.field 34 32 = 1 ∧ c.field 63 35 = 0 ∧ 1 ∉ wOne.towers) ∧
    (let n := wDebug 2 0 0 0
     let s := wHost (wX 10 24 n) (wPut wHalted wDebugged)
     Posted s 1 0 (wX 10 24 n) (wCmd 10 24 n) (10 + 2 * 65536) 24 ∧ (wCmd 10 24 n).ctxOf s.d = some (wHalted, wDebugged) ∧ s.d.part wHalted.low = some wHalted ∧
      0 ∈ wHalted.debugHalted) ∧
    (let n := wDebug 4 0 (5 * 2 ^ 24 + 4 * 2 ^ 16) 7
     let s := wHost (wX 10 24 n) (wPut wHalted wDebugged)
     let c := wCmd 10 24 n
     let r := s.work.winStore (BitVec.ofNat 64 (c.field 127 64)) (BitVec.ofNat 64 (c.field 191 128)) none
     Posted s 1 0 (wX 10 24 n) c (10 + 4 * 65536) 24 ∧ c.ctxOf s.d = some (wHalted, wDebugged) ∧ r.1 = 0 ∧ r.2.wr = [] ∧ r.2.d.host = s.d.host ∧
      r.2.d.checkpoints = s.d.checkpoints) ∧
    (let c := wCmd 10 24 (wDebug 5 0 (2 ^ 56) 0)
     c.field 127 64 / 2 ^ 56 ≠ 0 ∧ c.field 191 128 = 0 ∧ c.field 34 32 = 0) ∧
    (let n := wDebug 5 0 (32 * 2 ^ 41) 0
     let c := wCmd 10 24 n
     let s := wHost (wX 10 24 n) (wPut wOne wCtx0)
     let a := c.field 127 64
     Posted s 1 0 (wX 10 24 n) c (10 + 5 * 65536) 24 ∧ a / 2 ^ 56 = 0 ∧ a % 2 ^ 32 = 0 ∧ a / 2 ^ 41 % 2 ^ 6 = 32 ∧ c.ctxOf s.d = some (wOne, wCtx0) ∧
      ∀ e ∈ s.d.crews, e.handler = false) ∧
    (let n := wDebug 5 0 (32 * 2 ^ 41) 0
     let c := wCmd 10 24 n
     let s := wHost (wX 10 24 n) fun d => wPut wOne wCtx0 { d with crews := [placedCrew, { wFailed with id := 8 }, { wHandler with id := 9 }] }
     let a := c.field 127 64
     let e := { wFailed with id := 8 }
     let o := { wHandler with id := 9 }
     let named := fun (e : Crew) => e.handler = true ∧ e.status = .faulted ∧ e.place.gid = a / 2 ^ 32 ∧ e.place.tower ∈ wOne.towers
     Posted s 1 0 (wX 10 24 n) c (10 + 5 * 65536) 24 ∧ (s.d.crews.map (·.id)).Nodup ∧ s.d.crews = [placedCrew, e, o] ∧ named e ∧ placedCrew.handler = false ∧
      o.status ≠ .faulted ∧ s.d.part e.place.tower = some wOne ∧ o.id ≠ e.id ∧ o.handler = true ∧ o.place.tower ∈ wOne.towers) := by
  refine ⟨?_, by decide +kernel, ⟨w_posted, by decide +kernel⟩, ⟨w_posted, by decide +kernel⟩, by decide +kernel, ⟨w_posted, by decide +kernel⟩, ⟨w_posted, by decide +kernel⟩⟩
  simp only [List.forall_mem_cons, List.not_mem_nil, false_imp_iff, implies_true, and_true]
  exact ⟨⟨w_posted, by decide +kernel⟩, ⟨w_posted, by decide +kernel⟩, ⟨w_posted, by decide +kernel⟩, ⟨w_posted, by decide +kernel⟩, w_posted, by decide +kernel⟩

/-- A checkpoint region of tower 0, and the partition halted with a handler at work. -/
def wRegion : Checkpoint := { tower := 0, host := 1, size := 0x1000, interval := 5, elapsed := 5 }

def wAll (p : Part) (ks : List Checkpoint) (d : Dev) : Dev := { d with parts := [p], checkpoints := ks }

def wHandles : Part := { wPart with halt := { phase := .handling, handlersLeft := 1 } }

theorem witness_Checkpoints :
    (let n := wDebug 1 0 0 0
     let s := wHost (wX 11 16 n) (wAll wPart [wRegion])
     let c := wCmd 11 16 n
     Posted s 1 0 (wX 11 16 n) c (11 + 1 * 65536) 16 ∧ c.partOf s.d = some wPart ∧ 0 = c.field 34 32 ∧ c.field 63 35 = 0 ∧ c.field 127 64 = 0 ∧ 0 ∈ wPart.towers ∧
      (∃ k ∈ s.d.checkpoints, k.tower = 0 ∧ k.taking = false ∧ k.failed = false) ∧ s.d.part 0 = some wPart ∧ wPart.ctx.isSome = true ∧ wPart.halt.phase = .running ∧
      (wHost (wX 11 16 n)).d.checkpoints = [] ∧ (wCmd 11 16 (wDebug 1 0 1 0)).field 127 64 ≠ 0) ∧
    (let s := wHost (wX 11 16 1) (wAll wPart [wRegion])
     s.d.part 0 = some wPart ∧ wRegion ∈ s.d.checkpoints ∧ wRegion.tower = 0 ∧ wRegion.failed = false ∧ wRegion.taking = false ∧ wRegion.interval ≠ 0 ∧
      wRegion.interval ≤ wRegion.elapsed) ∧
    (let s := wHost (wX 11 16 1) (wAll wPart [{ wRegion with elapsed := 1 }])
     ∀ z ∈ s.d.checkpoints, z.tower = 0 → z.elapsed < z.interval ∨ z.interval = 0) ∧
    (∀ cmd ∈ [none, some (1, 0, 0)], let k : Checkpoint := { wRegion with taking := true, cmd := cmd }
      let s := wHost (wX 11 16 1) (wAll wPart [k])
      s.d.part 0 = some wPart ∧ k ∈ s.d.checkpoints ∧ s.d.checkpoints.find? (fun k => k.tower == 0 && k.taking) = some k ∧ (s.d.host.sessions.map (·.id)).Nodup ∧
        s.d.host.sessions.find? (fun y => y.id == 1) = some (wX 11 16 1)) ∧
    (let n := wDebug 2 0 100 0
     let k : Checkpoint := { wRegion with taken := true, undo := [(0x100, 1)] }
     let s := wHost (wX 11 16 n) (wAll wHandles [k])
     let c := wCmd 11 16 n
     Posted s 1 0 (wX 11 16 n) c (11 + 2 * 65536) 16 ∧ c.partOf s.d = some wHandles ∧ 0 = c.field 34 32 ∧ c.field 63 35 = 0 ∧
      s.d.checkpoints.find? (fun k => k.tower == 0 && k.taken && !k.failed && k.replay.isNone) = some k ∧ 0 ∈ wHandles.towers ∧ wHandles.halt.phase = .handling ∧
      s.wf = true ∧ (k.undo.map (·.1)).Nodup ∧ k.snap.locals = [] ∧ c.partOf (wHost (wX 11 16 n) (wAll wPart [k])).d = some wPart ∧ wPart.halt.phase ≠ .handling) ∧
    (let k : Checkpoint := { wRegion with replay := some (100, (1, 0, 0)) }
     let s := wHost (wX 11 16 1) (wAll wHandles [k])
     s.d.checkpoints.find? (fun k => k.tower == 0 && k.replay.isSome) = some k ∧ s.d.part 0 = some wHandles ∧ wHandles.ctx.isSome = true ∧
      wHandles.halt.phase = .handling ∧ wHandles.halt.handlersLeft ≠ 0 ∧ wHandles.halt.count < stopRecords ∧ (∀ e ∈ s.d.crews, e.handler = true → e.place.gid ≠ 0xFFFFFF) ∧
      s.d.host.sessions.find? (fun y => y.id == 1) = some (wX 11 16 1) ∧ (s.d.host.sessions.map (·.id)).Nodup) :=
  ⟨⟨w_posted, by decide +kernel⟩, by decide +kernel, by decide +kernel, by decide +kernel, ⟨w_posted, by decide +kernel⟩, by decide +kernel⟩

/-- A firmware chunk of `n` bytes at an offset of an image of `total`, and a store with one owner key. -/
def wChunk (off total n : Nat) : Nat := off + total * 2 ^ 32 + n * 2 ^ 64

def wOwned (d : Dev) : Dev := { d with nv := { d.nv with keys := [([], true), ([1], false)] } }

theorem witness_ManageCommands :
    (∀ e ∈ [(1, 5), (2, 5), (3, 9), (4, 383), (5, 33), (6, 33), (7, 7), (8, 7), (9, 0), (0, 0), (10, 0), (1, 14), (3, 10), (4, 384), (5, 34), (6, 0), (7, 8), (9, 1)],
      let c := wCmd 9 8 (e.1 + e.2 * 2 ^ 16)
      c.ok = true ∧ c.kind = 9 ∧ c.ops.length = 8 ∧ c.field 63 33 = 0 ∧ c.field 15 0 = e.1 ∧ c.field 31 16 = e.2) ∧
    (Posted (wHost (wX 9 8 1)) 1 0 (wX 9 8 1) (wCmd 9 8 1) 9 8 ∧ (wCmd 9 8 (2 ^ 33)).field 63 33 ≠ 0 ∧ (wCmd 9 8 (1 + 2 ^ 32)).field 32 32 = 1) ∧
    Posted (wHost (wX 12 32 0)) 1 0 (wX 12 32 0) (wCmd 12 32 0) 12 32 ∧
    (let n := wChunk 0 8 4
     let s := wHost (wX 13 20 n)
     Posted s 1 0 (wX 13 20 n) (wCmd 13 20 n) 13 (16 + (wCmd 13 20 n).field 95 64) ∧ (wCmd 13 20 n).field 127 96 = 0 ∧ (wCmd 13 20 n).field 95 64 = 4 ∧
      (wCmd 13 20 n).field 31 0 = s.d.host.fwParts.length ∧ 0 + 4 < (wCmd 13 20 n).field 63 32 ∧ 0 + 4 = (wCmd 13 20 (wChunk 0 4 4)).field 63 32 ∧
      (wCmd 13 20 (wChunk 4 8 4)).field 31 0 ≠ s.d.host.fwParts.length ∧ (wCmd 13 16 (wChunk 0 8 0)).field 95 64 = 0) ∧
    ((∀ e ∈ [(1, 24), (2, 48), (3, 80), (4, 72), (5, 8), (6, 8)], let c := wCmd 14 e.2 e.1
      c.ok = true ∧ c.kind = 14 + e.1 * 65536 ∧ c.ops.length = e.2 ∧ c.part = 0 ∧ c.ctxid = 0 ∧ c.field 63 32 = 0 ∧ (wCmd 14 e.2 (e.1 + 2 ^ 32)).field 63 32 ≠ 0)) ∧
    (Posted (wHost (wX 14 24 1)) 1 0 (wX 14 24 1) (wCmd 14 24 1) (14 + 1 * 65536) 24 ∧ (wHost (wX 14 24 1)).d.nv.keys = []) ∧
    (AtHead (wHost (wSess none (wPay 14 80 3))) 1 0 (wSess none (wPay 14 80 3)) (wCmd 14 80 3) ∧ (wCmd 14 80 3).kind = 14 + 3 * 65536 ∧ (wCmd 14 80 3).ops.length = 80) ∧
    (let s := wHost (wX 14 72 4) wOwned
     Posted s 1 0 (wX 14 72 4) (wCmd 14 72 4) (14 + 4 * 65536) 72 ∧ (∃ k : List Byte, (wX 14 72 4).key = some k ∧ (k, true) ∈ s.d.nv.keys)) ∧
    (let s := wHost (wSess (some [1]) (wPay 14 72 4)) wOwned
     AtHead s 1 0 (wSess (some [1]) (wPay 14 72 4)) (wCmd 14 72 4) ∧ ¬ (s.d.nv.keys = [] ∨ ∃ k : List Byte, some [1] = some k ∧ (k, true) ∈ s.d.nv.keys)) :=
  ⟨by decide +kernel, ⟨w_posted, by decide +kernel⟩, w_posted, ⟨w_posted, by decide +kernel⟩, by decide +kernel, ⟨w_posted, by decide +kernel⟩,
   ⟨w_atHead, by decide +kernel⟩, ⟨w_posted, [], rfl, by decide +kernel⟩, w_atHead, by
      rintro (h | ⟨k, h, g⟩)
      · exact absurd h (by decide +kernel)
      · injection h with h
        subst h
        exact absurd g (by decide +kernel)⟩

theorem witness_BringUpAndLinks :
    (State.reset.d.boot.running = false ∧ State.reset.d.boot.safe = false ∧ State.reset.d.boot.stage = 0 ∧ (1 ≤ 2 ∧ 2 ≤ 4 ∧ 5 ≤ 5 ∧ 7 < 8) ∧
      State.reset.d.boot.meas.length = 8) ∧
    (let s := wHost (wX 11 16 1)
     let q := fun (op index : Nat) => natLe 8 (1 + op * 256 + index * 2 ^ 32)
     s.work.hasAddr (linkLocal s.fx.mac) = true ∧ linkLocal s.fx.mac < 2 ^ 128 ∧ s.work.hasAddr 3 = false ∧ 47000 ≠ 47001 ∧ (q 1 0).length = 8 ∧ Machine.bits 31 0 (leNat (q 1 0)) = 1 + 1 * 256 ∧ Machine.bits 63 32 (leNat (q 1 0)) = 0 ∧
      Machine.bits 31 0 (leNat (q 2 5)) = 1 + 2 * 256 ∧ Machine.bits 63 32 (leNat (q 2 5)) = 5) ∧
    (let s := wSt
     (s.d.links.getD 0 {}).width = 4 ∧ (wSt wCur placedCrew fun d => { d with links := [{ width := 2 }, { width := 0 }] }).d.links.map (·.width) = [2, 0] ∧
      s.d.parts = [wPart] ∧ wPart.usesLink 0 = true ∧ s.d.part wPart.low = some wPart ∧ wPart.ctx.isSome = true ∧ wPart.halt.phase = .running ∧ s.wf = true) ∧
    (wOne.usesLink 0 = false ∧ ∃ dir < 4, (neighbourCluster 0 dir).isSome = true) ∧
    ((0#16).extractLsb' 10 5 ≠ 31 ∧ (BitVec.allOnes 16).extractLsb' 10 5 = 31) ∧
    (∀ unit < 3, wSt.d.part (if unit = 1 then Machine.bits 31 29 0 else 0 / 2 ^ 36 % 8) = some wPart) ∧
    ((12 < 13 ∧ 7 < 8) ∧ (wSt.d.core 0 0).tlb[0]? = some { ctx := 0, vpn := 0, level := 3, leaf := placedLeaf }) := by
  decide +kernel

end
end

section
/-! PROOFS. Shootdowns: the SHOOTDOWN command and its five steps (R43, R44, R45). -/

namespace Sys2Proof.Machine

/-! ## Folds -/

/-- What one element establishes and every element keeps holds after a fold over a list that has it. -/
theorem foldl_establishes {α β : Type} {P : β → Prop} {g : β → α → β} (keeps : ∀ b a, P b → P (g b a)) {l : List α} {a : α} (ha : a ∈ l)
    (sets : ∀ b, P (g b a)) (b : β) : P (l.foldl g b) := by
  obtain ⟨l₁, l₂, rfl⟩ := List.append_of_mem ha
  rw [List.foldl_append, List.foldl_cons]
  exact List.foldlRecOn l₂ g (sets _) fun b hb a _ => keeps b a hb

/-- A part that every element leaves as it is, a fold leaves as it is. -/
theorem foldl_leaves {α β γ : Type} {part : β → γ} {g : β → α → β} (leaves : ∀ b a, part (g b a) = part b) (l : List α) (b : β) :
    part (l.foldl g b) = part b :=
  List.foldlRecOn l g (motive := fun d => part d = part b) rfl fun d hd a _ => (leaves d a).trans hd

/-- A fold whose every element leaves the value it starts from ends there. -/
theorem foldl_eq_self {α β : Type} {g : β → α → β} {l : List α} {b : β} (h : ∀ a ∈ l, g b a = b) : l.foldl g b = b :=
  List.foldlRecOn l g (motive := fun d => d = b) rfl fun _ hd a ha => hd ▸ h a ha

/-! ## Clusters and towers after a change -/

@[simp] theorem Dev.modCluster_cluster (d : Dev) (t k : Nat) (f : Cluster → Cluster) (t' k' : Nat) :
    (d.modCluster t k f).cluster t' k' = if clusterKey t' k' = clusterKey t k then f (d.cluster t k) else d.cluster t' k' := by
  simp [Dev.cluster, Dev.modCluster, getA_putA]

@[simp] theorem Dev.modTower_tower (d : Dev) (t : Nat) (f : Tower → Tower) (t' : Nat) :
    (d.modTower t f).tower t' = if t' = t then f (d.tower t) else d.tower t' := by
  simp [Dev.tower, Dev.modTower, getA_putA]

/-! ## The state a device step without memory writes leaves -/

theorem State.after_of_wr_nil {s : State} {w : Work} (h : w.wr = []) : s.after w = { s with d := w.d } := by
  have record_nil : ∀ c : Checkpoint, c.record s.mem [] = c := fun _ => rfl
  simp [State.after, h, Memory.commit, record_nil]

theorem event_of_wr_nil {s : State} {f : Work → Option Work} {w : Work} (h : f s.work = some w) (hw : w.wr = []) :
    event s f = .next { s with d := w.d } := by
  rw [event_some h, State.after_of_wr_nil hw]

/-! ## Responses and commands (R436, R437) -/

theorem Session.queue_id (x : Session) (q : Nat) : (x.queue q).id = q := by
  unfold Session.queue
  cases h : x.queues.find? (fun k => k.id == q) with
  | none => rfl
  | some k => simpa using List.find?_some h

theorem Session.queue_setQueue (x : Session) (k : Queue) : (x.setQueue k).queue k.id = k := by
  have same_id : ∀ e : Queue, (if e.id = k.id then k else e).id = k.id ↔ e.id = k.id := by
    intro e
    by_cases he : e.id = k.id <;> simp [he]
  unfold Session.queue Session.setQueue
  cases h : x.queues.find? (fun e => e.id == k.id) with
  | none =>
    have absent : ∀ e ∈ x.queues, ¬ e.id = k.id := by simpa using h
    have not_any : ¬ ∃ e ∈ x.queues, e.id = k.id := fun ⟨e, he, hid⟩ => absent e he hid
    simp [not_any, h]
  | some e =>
    have hid : e.id = k.id := by simpa using List.find?_some h
    have any : ∃ e ∈ x.queues, e.id = k.id := ⟨e, List.mem_of_find?_eq_some h, hid⟩
    have found : x.queues.find? (fun e => decide ((if e.id = k.id then k else e).id = k.id)) = some e := by
      simpa [same_id, beq_eq_decide] using h
    simp [any, List.find?_map, beq_eq_decide, found, hid]

theorem Session.setQueue_setQueue (x : Session) {j k : Queue} (h : j.id = k.id) : (x.setQueue j).setQueue k = x.setQueue k := by
  unfold Session.setQueue
  by_cases hq : ∃ e ∈ x.queues, e.id = k.id
  · have replaced : ∀ e : Queue, (if (if e.id = k.id then j else e).id = k.id then k else if e.id = k.id then j else e) = if e.id = k.id then k else e := by
      intro e
      by_cases he : e.id = k.id <;> simp [he, h]
    have present : ∃ e ∈ x.queues, (if e.id = k.id then j else e).id = k.id := by
      obtain ⟨e, he, hek⟩ := hq
      exact ⟨e, he, by simp [hek, h]⟩
    simp [h, hq, present, replaced]
  · have absent : ∀ e ∈ x.queues, ¬ e.id = k.id := by simpa using hq
    have unchanged : x.queues.map (fun e => if e.id = k.id then k else e) = x.queues :=
      (List.map_congr_left fun e he => if_neg (absent e he)).trans (List.map_id' _)
    simp [h, hq, unchanged]

@[simp] theorem Session.id_setQueue (x : Session) (k : Queue) : (x.setQueue k).id = x.id := rfl

/-- A queue changed that has just been put in. -/
theorem HostSide.modQueue_setQueue (h : HostSide) (sess : Nat) {q : Nat} {k : Queue} (hk : k.id = q) {f : Queue → Queue} (hf : (f k).id = q)
    (sent : List SentFrame) :
    ({ h with sessions := h.sessions.map fun y => if y.id == sess then y.setQueue k else y, sent := sent } : HostSide).modQueue sess q f =
      { h with sessions := h.sessions.map fun y => if y.id == sess then y.setQueue (f k) else y, sent := sent } := by
  have twice : ∀ y : Session, (y.setQueue k).setQueue (f ((y.setQueue k).queue q)) = y.setQueue (f k) := by
    intro y
    rw [← hk, Session.queue_setQueue, Session.setQueue_setQueue y (hk.trans hf.symm)]
  simp only [HostSide.modQueue, List.map_map, HostSide.mk.injEq, and_self, and_true]
  refine List.map_congr_left fun y _ => ?_
  by_cases hy : y.id = sess <;> simp [hy, twice]

/-- The response sent and the queue then let go is the host side of `HostSide.answer`. -/
theorem Dev.respond_eq_answer {d : Dev} {sess : Nat} {x : Session} (hx : d.host.sessions.find? (fun y => y.id == sess) = some x) (q tag status : Nat)
    (data : List Byte) : d.respond (sess, q, tag) status data = { d with host := d.host.answer x q tag status data fun _ => false } := by
  have hid : x.id = sess := by simpa using List.find?_some hx
  simp only [Dev.respond, HostSide.send, hx]
  rw [HostSide.modQueue_setQueue _ _ ?_ ?_]
  · simp only [HostSide.answer, hid, Bool.or_false]
    rfl
  all_goals exact x.queue_id q

theorem Dev.headCmd_of_atHead {s : State} {sess q : Nat} {x : Session} {c : Cmd} (h : AtHead s sess q x c) :
    s.d.headCmd sess q = some (c, x, x.queue q) := by
  obtain ⟨b, hb, rfl⟩ := h.head
  simp [Dev.headCmd, h.running, h.session, hb]

theorem AtHead.cmd_session {s : State} {sess q : Nat} {x : Session} {c : Cmd} (h : AtHead s sess q x c) : c.session = sess := by
  obtain ⟨_, _, rfl⟩ := h.head
  rfl

theorem AtHead.cmd_queue {s : State} {sess q : Nat} {x : Session} {c : Cmd} (h : AtHead s sess q x c) : c.queue = q := by
  obtain ⟨_, _, rfl⟩ := h.head
  rfl

theorem AtHead.cmd_id {s : State} {sess q : Nat} {x : Session} {c : Cmd} (h : AtHead s sess q x c) : c.id = (sess, q, c.tag) := by
  simp [Cmd.id, h.cmd_session, h.cmd_queue]

/-- A posted command of its KIND and length is applied. -/
theorem command_of_posted {s : State} {sess q kind n : Nat} {x : Session} {c : Cmd} (h : Posted s sess q x c kind n) {len : Cmd → Nat} (hlen : len c = n)
    {f : Work → Cmd → Session → Work} {w : Work} (hf : f s.work c x = w) (hw : w.wr = []) : command kind sess q len s f = .next { s with d := w.d } := by
  refine event_of_wr_nil ?_ hw
  have hkey : ¬ x.key = none := by simpa [Option.isSome_iff_ne_none] using h.key
  simp [Dev.headCmd_of_atHead h.toAtHead, h.idle, h.isKind, hkey, h.zeros, h.len, hlen, hf]

/-- The response to a command at the head of a queue. -/
theorem Work.respond_of_posted {s : State} {sess q kind n : Nat} {x : Session} {c : Cmd} (h : Posted s sess q x c kind n) (status : Nat) :
    ({ s with d := (s.work.respond c.id status).d } : State) = s.answered s.d x c status := by
  rw [h.cmd_id, State.answered, h.cmd_queue]
  exact congrArg (fun d => ({ s with d := d } : State)) (Dev.respond_eq_answer h.session q c.tag status [])

/-! ## The command -/

theorem exec_shootdown (sess q : Nat) (s : State) : exec (.shootdown sess q) s = execShootdown sess q s := rfl

section Command

variable {s : State} {sess q : Nat} {x : Session} {c : Cmd} {p : Part} {y : Ctx}

/-- A shootdown whose reserved fields or START break a rule is malformed (R43, R436). -/
theorem shootdown_malformed (h : Posted s sess q x c 6 16) (hc : c.ctxOf s.d = some (p, y))
    (bad : c.field 127 101 ≠ 0 ∨ c.field 15 0 ≠ 0 ∨ c.field 63 52 ≠ 0) : exec (.shootdown sess q) s = .next (s.answered s.d x c stMalformed) := by
  have hbad : (c.field 127 101 != 0 || c.field 15 0 != 0 || c.field 63 52 != 0) = true := by simpa [or_assoc] using bad
  rw [← Work.respond_of_posted h]
  rw [exec_shootdown]
  refine command_of_posted h rfl (w := s.work.respond c.id stMalformed) ?_ rfl
  simp only [State.work_d, hc, hbad, if_true]

/-- A shootdown accepted holds its queue and stands behind the others at step 0. -/
theorem shootdown_queued (h : Posted s sess q x c 6 16) (hc : c.ctxOf s.d = some (p, y)) (h₁ : c.field 127 101 = 0) (h₂ : c.field 15 0 = 0)
    (h₃ : c.field 63 52 = 0) : exec (.shootdown sess q) s = .next { s with d := { s.d with
      host := s.d.host.modQueue sess q fun k => { k with busy := true }
      shootdowns := s.d.shootdowns ++ [{ part := p.low, ctx := y.ctxid, step := 0, start := c.field 63 0, pages := c.field 99 64
                                         globals := c.field 100 100 == 1, cmd := (sess, q, c.tag) }] } } := by
  have hgood : (c.field 127 101 != 0 || c.field 15 0 != 0 || c.field 63 52 != 0) = false := by simp [h₁, h₂, h₃]
  obtain ⟨b, _, rfl⟩ := h.head
  rw [exec_shootdown]
  refine command_of_posted h rfl (w := (s.work.hold (Cmd.ofBytes sess q b)).mod fun d => { d with shootdowns := d.shootdowns ++ [_] }) ?_ rfl
  simp only [State.work_d, hc, hgood, if_false, Bool.false_eq_true]
  rfl

end Command

/-! ## Lines that wait in the merge buffers of a partition -/

/-- The clusters of a partition hold no dirty line. -/
def Work.noLines (w : Work) (p : Part) : Prop := ∀ t ∈ p.towers, ∀ cl < 12, (w.d.cluster t cl).cmb = []

theorem Work.noLines_pair {w : Work} {p : Part} (h : w.noLines p) {tc : Nat × Nat}
    (htc : tc ∈ p.towers.flatMap fun t => (List.range 12).map fun cl => (t, cl)) : (w.d.cluster tc.1 tc.2).cmb = [] := by
  simp only [List.mem_flatMap, List.mem_map, List.mem_range] at htc
  obtain ⟨t, ht, cl, hcl, rfl⟩ := htc
  exact h t ht cl hcl

theorem Work.retryFailed_of_noLines {w : Work} {p : Part} (h : w.noLines p) : w.retryFailed p = w :=
  foldl_eq_self fun _ htc => by rw [Work.noLines_pair h htc, List.foldl_nil]

theorem Work.drainPart_of_noLines {w : Work} {p : Part} (h : w.noLines p) (x : Trigger) (sel : CmbLine → Bool) : w.drainPart p x sel = ([], w) :=
  foldl_eq_self fun _ htc => by simp [Work.drainCluster, Work.noLines_pair h htc, Cluster.dirtyTags]

/-! ## What step 4 drops (R44) -/

/-- Whether a tensor line has a segment in the range of a shootdown. -/
def Shootdown.hits (z : Shootdown) (x : Ctx) (tag : Tag) : Bool :=
  tag.tensor != 0 && (match x.ranges.find? fun e => e.2.2.1 == tag.tensor with
    | some (_, _, _, v) => ((Desc.ofNat v).segments tag).any z.covers
    | none => false)

/-- A core without the lines and the TLB entries of the range. -/
def Shootdown.strikeCore (z : Shootdown) (x : Ctx) (k : Core) : Core :=
  { k.dropWhere (fun tag _ => z.hits x tag) with tlb := k.tlb.filter fun e => !z.takes e }

/-- A cluster without the TLB entries of the range. -/
def Shootdown.strikeCluster (z : Shootdown) (k : Cluster) : Cluster := { k with tlb := k.tlb.filter fun e => !z.takes e }

/-- A walk of the context, begun again at the root. -/
def Shootdown.restart (z : Shootdown) (x : Ctx) (a : Walk) : Walk := if a.ctx == z.ctx then { a with level := 0, node := x.root } else a

/-- A tower without the walk-cache entries of the context, its walks begun again. -/
def Shootdown.strikeWalks (z : Shootdown) (x : Ctx) (k : Tower) : Tower :=
  { k with walkCache := k.walkCache.filter (fun e => e.ctx != z.ctx), walks := k.walks.map (z.restart x), waitingWalks := k.waitingWalks.map (z.restart x) }

/-- A crew of the partition without the failed walks of the range. -/
def Shootdown.strikeCrew (z : Shootdown) (p : Part) (c : Crew) : Crew :=
  if p.towers.contains c.place.tower && !c.walkFails.isEmpty then { c with walkFails := c.walkFails.filter fun f => !z.covers (f.1 * 2 ^ 16) } else c

/-- The cores of a list struck. -/
def Dev.strikeCores (d : Dev) (z : Shootdown) (x : Ctx) (ks : List (Nat × Nat)) : Dev := ks.foldl (fun d k => d.modCore k.1 k.2 (z.strikeCore x)) d

/-- The clusters of a tower struck. -/
def Dev.strikeClusters (d : Dev) (z : Shootdown) (t : Nat) : Dev := (List.range 12).foldl (fun d c => d.modCluster t c z.strikeCluster) d

/-- A tower struck, with its clusters. -/
def Dev.strikeTower (z : Shootdown) (x : Ctx) (d : Dev) (t : Nat) : Dev := (d.strikeClusters z t).modTower t (z.strikeWalks x)

/-- The towers of a list struck. -/
def Dev.strikeTowers (d : Dev) (z : Shootdown) (x : Ctx) (ts : List Nat) : Dev := ts.foldl (Dev.strikeTower z x) d

/-- The work of step 4: the fence records of the drains go, and the invalidation is made. -/
def Work.shootdownInvalidated (w : Work) (p : Part) (x : Ctx) (z : Shootdown) : Work :=
  (w.mod fun d => { d with fences := d.fences.filter fun f => !(z.drains.getD []).contains f.id }).invalidate p x z

/-- Step 4 drops from the cores, then from the towers with their clusters, then from the homes, the copies and the crews. -/
theorem Work.invalidate_eq (w : Work) (p : Part) (x : Ctx) (z : Shootdown) : w.invalidate p x z = w.mod fun d =>
    let d := (d.strikeCores z x (w.logical p)).strikeTowers z x p.towers
    { d with homes := d.homes.filter (fun h => !z.hits x h.tag), copies := d.copies.filter (fun c => !z.hits x c.tag)
             crews := d.crews.map (z.strikeCrew p) } := rfl

/-! ### What it leaves -/

/-- A part of the device that no change of a core touches. -/
theorem Dev.strikeCores_leaves {γ : Type} {part : Dev → γ} (leaves : ∀ d t k f, part (Dev.modCore d t k f) = part d) (d : Dev) (z : Shootdown) (x : Ctx)
    (ks : List (Nat × Nat)) : part (d.strikeCores z x ks) = part d :=
  foldl_leaves (g := fun d k => d.modCore k.1 k.2 (z.strikeCore x)) (fun d k => leaves d k.1 k.2 _) ks d

/-- A part of the device that no change of a cluster or tower touches. -/
theorem Dev.strikeTowers_leaves {γ : Type} {part : Dev → γ} (leavesC : ∀ d t k f, part (Dev.modCluster d t k f) = part d)
    (leavesT : ∀ d t f, part (Dev.modTower d t f) = part d) (d : Dev) (z : Shootdown) (x : Ctx) (ts : List Nat) : part (d.strikeTowers z x ts) = part d :=
  foldl_leaves (fun d t => (leavesT _ t _).trans (foldl_leaves (fun d c => leavesC d t c _) _ d)) ts d

section Invalidate

variable (w : Work) (p : Part) (x : Ctx) (z : Shootdown)

theorem Work.invalidate_host : (w.invalidate p x z).d.host = w.d.host := by
  rw [Work.invalidate_eq]
  exact (Dev.strikeTowers_leaves (part := Dev.host) (fun _ _ _ _ => rfl) (fun _ _ _ => rfl) _ z x _).trans
    (Dev.strikeCores_leaves (part := Dev.host) (fun _ _ _ _ => rfl) _ z x _)

theorem Work.invalidate_shootdowns : (w.invalidate p x z).d.shootdowns = w.d.shootdowns := by
  rw [Work.invalidate_eq]
  exact (Dev.strikeTowers_leaves Dev.modCluster_shootdowns Dev.modTower_shootdowns _ z x _).trans
    (Dev.strikeCores_leaves Dev.modCore_shootdowns _ z x _)

theorem Work.invalidate_crews : (w.invalidate p x z).d.crews = w.d.crews.map (z.strikeCrew p) := by
  rw [Work.invalidate_eq]
  exact congrArg (List.map _)
    ((Dev.strikeTowers_leaves Dev.modCluster_crews Dev.modTower_crews _ z x _).trans (Dev.strikeCores_leaves Dev.modCore_crews _ z x _))

theorem Work.invalidate_core (t k : Nat) : (w.invalidate p x z).d.core t k = (w.d.strikeCores z x (w.logical p)).core t k := by
  rw [Work.invalidate_eq]
  exact Dev.strikeTowers_leaves (part := fun d => d.core t k) (fun _ _ _ _ => rfl) (fun _ _ _ => rfl) _ z x _

end Invalidate

/-! ### The TLBs of the cores -/

/-- Step 4 leaves a core of the partition the entries it does not take. -/
theorem Dev.strikeCores_tlb (d : Dev) (z : Shootdown) (x : Ctx) {ks : List (Nat × Nat)} {k : Nat × Nat} (hk : k ∈ ks) :
    ((d.strikeCores z x ks).core k.1 k.2).tlb = (d.core k.1 k.2).tlb.filter fun e => !z.takes e := by
  have kept : ((d.strikeCores z x ks).core k.1 k.2).tlb.filter (fun e => !z.takes e) = (d.core k.1 k.2).tlb.filter fun e => !z.takes e := by
    refine foldl_leaves (part := fun d : Dev => (d.core k.1 k.2).tlb.filter fun e => !z.takes e) (fun d j => ?_) ks d
    by_cases hj : coreKey k.1 k.2 = coreKey j.1 j.2
    · have same : d.core j.1 j.2 = d.core k.1 k.2 := by simp only [Dev.core, hj]
      simp [hj, same, Shootdown.strikeCore]
    · simp [hj]
  have clean : ∀ e ∈ ((d.strikeCores z x ks).core k.1 k.2).tlb, z.takes e = false := by
    refine foldl_establishes (P := fun d : Dev => ∀ e ∈ (d.core k.1 k.2).tlb, z.takes e = false) (fun d j hd => ?_) hk (fun d => ?_) d
    · by_cases hj : coreKey k.1 k.2 = coreKey j.1 j.2
      · simp [hj, Shootdown.strikeCore]
      · simpa [hj] using hd
    · simp [Shootdown.strikeCore]
  rw [← kept, List.filter_eq_self.2]
  simpa using clean

/-! ### The cluster TLBs and walk caches of the towers -/

section Tower

variable {z : Shootdown} {x : Ctx} {t cl : Nat}

theorem Dev.modCluster_strike_clean {d : Dev} (h : ∀ e ∈ (d.cluster t cl).tlb, z.takes e = false) (t' cl' : Nat) :
    ∀ e ∈ ((d.modCluster t' cl' z.strikeCluster).cluster t cl).tlb, z.takes e = false := by
  by_cases hk : clusterKey t cl = clusterKey t' cl'
  · simp [hk, Shootdown.strikeCluster]
  · simpa [hk] using h

theorem Dev.strikeTowers_cluster_clean (d : Dev) {ts : List Nat} (ht : t ∈ ts) (hcl : cl < 12) :
    ∀ e ∈ ((d.strikeTowers z x ts).cluster t cl).tlb, z.takes e = false := by
  refine foldl_establishes (P := fun d : Dev => ∀ e ∈ (d.cluster t cl).tlb, z.takes e = false) (fun d t' hd => ?_) ht (fun d => ?_) d
  · exact List.foldlRecOn (motive := fun d : Dev => ∀ e ∈ (d.cluster t cl).tlb, z.takes e = false) _ _ hd
      fun d hd c _ => Dev.modCluster_strike_clean hd t' c
  · exact foldl_establishes (P := fun d : Dev => ∀ e ∈ (d.cluster t cl).tlb, z.takes e = false) (fun d c hd => Dev.modCluster_strike_clean hd t c)
      (List.mem_range.2 hcl) (fun d => by simp [Shootdown.strikeCluster]) d

theorem Dev.strikeTower_walkCache_clean {d : Dev} (h : ∀ e ∈ (d.tower t).walkCache, e.ctx ≠ z.ctx) (t' : Nat) :
    ∀ e ∈ ((Dev.strikeTower z x d t').tower t).walkCache, e.ctx ≠ z.ctx := by
  have htower : (d.strikeClusters z t').tower t = d.tower t :=
    foldl_leaves (part := fun d : Dev => d.tower t) (g := fun d c => d.modCluster t' c z.strikeCluster) (fun _ _ => rfl) _ d
  by_cases ht : t = t'
  · subst ht
    simp [Dev.strikeTower, Shootdown.strikeWalks]
  · simpa [Dev.strikeTower, ht, htower] using h

theorem Dev.strikeTowers_walkCache_clean (d : Dev) {ts : List Nat} (ht : t ∈ ts) : ∀ e ∈ ((d.strikeTowers z x ts).tower t).walkCache, e.ctx ≠ z.ctx :=
  foldl_establishes (P := fun d : Dev => ∀ e ∈ (d.tower t).walkCache, e.ctx ≠ z.ctx) (fun _ t' hd => Dev.strikeTower_walkCache_clean hd t') ht
    (fun d => by simp [Dev.strikeTower, Shootdown.strikeWalks]) d

end Tower

/-! ### The failed walks of the crews -/

theorem Shootdown.strikeCrew_others (z : Shootdown) (p : Part) (c : Crew) : { z.strikeCrew p c with walkFails := [] } = { c with walkFails := [] } := by
  unfold Shootdown.strikeCrew
  split <;> rfl

theorem Shootdown.strikeCrew_place (z : Shootdown) (p : Part) (c : Crew) : (z.strikeCrew p c).place = c.place := by
  unfold Shootdown.strikeCrew
  split <;> rfl

theorem Shootdown.strikeCrew_clean (z : Shootdown) {p : Part} {c : Crew} (h : p.towers.contains c.place.tower = true) :
    ∀ f ∈ (z.strikeCrew p c).walkFails, z.covers (f.1 * 2 ^ 16) = false := by
  by_cases hw : c.walkFails = []
  · simp [Shootdown.strikeCrew, hw]
  · have hw : c.walkFails.isEmpty = false := by simpa using hw
    simp only [Shootdown.strikeCrew, h, hw, Bool.not_false, Bool.and_true, if_true]
    intro f hf
    simpa using (List.mem_filter.1 hf).2

/-! ## The steps (R44, R45) -/

theorem exec_shootdownStep (low : Nat) (s : State) : exec (.shootdownStep low) s = execShootdownStep low s := rfl

/-- A shootdown in progress changed. -/
def Dev.modShootdown (d : Dev) (z : Shootdown) (f : Shootdown → Shootdown) : Dev :=
  { d with shootdowns := d.shootdowns.map fun e => if e == z then f e else e }

theorem Dev.modShootdown_shootdowns (d : Dev) (z : Shootdown) (f : Shootdown → Shootdown) :
    (d.modShootdown z f).shootdowns = d.shootdowns.map fun e => if e = z then f z else e := by
  refine List.map_congr_left fun e _ => ?_
  by_cases h : e = z <;> simp [h]

/-- The state `t` is `s` with the shootdown `z` gone on by `f`: memory and the host side are as they were, and so are the crews but for their
failed walks, which step 4 alone touches. -/
structure Shootdown.GoesOn (z : Shootdown) (f : Shootdown → Shootdown) (s t : State) : Prop where
  mem : t.mem = s.mem
  host : t.d.host = s.d.host
  crewsBut : t.d.crews.map (fun n => { n with walkFails := [] }) = s.d.crews.map fun n => { n with walkFails := [] }
  crews : z.step ≠ 3 → t.d.crews = s.d.crews
  shootdowns : t.d.shootdowns = s.d.shootdowns.map fun e => if e = z then f z else e

/-- A step that changes the shootdown and nothing else. -/
theorem Shootdown.goesOn_modShootdown (z : Shootdown) (f : Shootdown → Shootdown) (s : State) : z.GoesOn f s { s with d := s.d.modShootdown z f } :=
  ⟨rfl, rfl, rfl, fun _ => rfl, s.d.modShootdown_shootdowns z f⟩

/-- What step 2 waits for is over: no access of its list goes on, and no fill of it is on its way. -/
def Shootdown.settled (z : Shootdown) (s : State) (p : Part) : Prop :=
  ∀ id ∈ z.settle.getD [], (∀ o ∈ s.d.ops, o.id = id → ¬ (o.done = false ∧ o.unsettled = true ∧ (s.d.crew o.crew).isSome = true)) ∧
    id ∉ s.work.fillsSent p

/-- The test that step 2 makes. -/
def Shootdown.unsettled (z : Shootdown) (w : Work) (p : Part) : Bool :=
  (w.d.ops.any fun o => (z.settle.getD []).contains o.id && !o.done && o.unsettled && (w.d.crew o.crew).isSome) ||
    (w.fillsSent p).any (z.settle.getD []).contains

theorem Shootdown.unsettled_eq_false_iff (z : Shootdown) (s : State) (p : Part) : z.unsettled s.work p = false ↔ z.settled s p := by
  simp only [Shootdown.unsettled, Shootdown.settled, Bool.or_eq_false_iff, List.any_eq_false, State.work_d, Bool.and_eq_true, Bool.not_eq_true',
    List.contains_iff_mem]
  constructor
  · rintro ⟨hops, hfills⟩ id hid
    exact ⟨fun o ho hoid ⟨hdone, hun, hcrew⟩ => hops o ho ⟨⟨⟨hoid ▸ hid, hdone⟩, hun⟩, hcrew⟩, fun hf => hfills id hf hid⟩
  · intro h
    exact ⟨fun o ho ⟨⟨⟨hid, hdone⟩, hun⟩, hcrew⟩ => (h o.id hid).1 o ho rfl ⟨hdone, hun, hcrew⟩, fun id hf hid => (h id hid).2 hf⟩

section Steps

variable {s : State} {low : Nat} {p : Part} {z : Shootdown} {y : Ctx}

section
variable (hp : s.d.parts.find? (fun p => p.low == low) = some p) (hz : s.d.shootdowns.find? (fun z => z.part == low) = some z)
  (hy : s.d.ctx z.ctx = some y)
include hp hz hy

/-- Step 1 holds new translations. -/
theorem shootdownStep_hold (hs : z.step = 0) : exec (.shootdownStep low) s = .next { s with d := s.d.modShootdown z fun e => { e with step := 1 } } := by
  rw [exec_shootdownStep]
  refine event_of_wr_nil (w := s.work.mod fun d => d.modShootdown z fun e => { e with step := 1 }) ?_ rfl
  simp only [State.work_d, hp, hz, hy, hs]
  rfl

/-- Step 2 begins with the accesses in flight as its list. -/
theorem shootdownStep_list (hs : z.step = 1) : exec (.shootdownStep low) s = .next { s with d := s.d.modShootdown z fun e =>
    { e with step := 2, settle := some (if p.ctx = some z.ctx then s.work.inFlight p else []) } } := by
  rw [exec_shootdownStep]
  refine event_of_wr_nil (w := s.work.mod fun d => d.modShootdown z fun e =>
    { e with step := 2, settle := some (if p.ctx = some z.ctx then s.work.inFlight p else []) }) ?_ rfl
  have here : ∀ a b : List Nat, (if p.ctx == some z.ctx then a else b) = if p.ctx = some z.ctx then a else b := fun a b => by simp only [beq_iff_eq]
  simp only [State.work_d, hp, hz, hy, hs, here]
  rfl

/-- Step 2 waits until every access of its list is over. -/
theorem shootdownStep_waits (hs : z.step = 2) (hw : ¬ z.settled s p) : exec (.shootdownStep low) s = .next s := by
  have hun : z.unsettled s.work p = true := by simpa [← Shootdown.unsettled_eq_false_iff] using hw
  unfold Shootdown.unsettled at hun
  rw [exec_shootdownStep]
  simp only [execShootdownStep, event, State.work_d, hp, hz, hy, hs] at hun ⊢
  simp only [hun, if_true]

/-- Step 3 begins with no drain to wait for where no line is dirty or the context does not run. -/
theorem shootdownStep_drain (hs : z.step = 2) (hw : z.settled s p) (hl : p.ctx ≠ some z.ctx ∨ s.work.noLines p) :
    exec (.shootdownStep low) s = .next { s with d := s.d.modShootdown z fun e => { e with step := 3, drains := some [] } } := by
  have hun := (Shootdown.unsettled_eq_false_iff z s p).2 hw
  unfold Shootdown.unsettled at hun
  have nothing : (if p.ctx == some z.ctx then (s.work.retryFailed p).drainPart p .shootdown fun l => l.failed.isNone else ([], s.work)) = ([], s.work) := by
    rcases hl with hl | hl
    · simp [hl]
    · rw [Work.retryFailed_of_noLines hl, Work.drainPart_of_noLines hl, ite_self]
  rw [exec_shootdownStep]
  refine event_of_wr_nil (w := s.work.mod fun d => d.modShootdown z fun e => { e with step := 3, drains := some [] }) ?_ rfl
  simp only [State.work_d, hp, hz, hy, hs] at hun ⊢
  simp only [hun, nothing, Bool.false_eq_true, if_false]
  rfl

/-- Step 4 invalidates once the drains of step 3 are done. -/
theorem shootdownStep_invalidate (hs : z.step = 3) (hd : ∀ f ∈ s.d.fences, f.id ∈ z.drains.getD [] → f.done = true) :
    exec (.shootdownStep low) s =
      .next { s with d := (s.work.shootdownInvalidated p y z).d.modShootdown z fun e => { e with step := 4 } } := by
  have drained : ∀ failed : FenceRec → Bool, (s.d.fences.any fun f => (z.drains.getD []).contains f.id && !f.done && !failed f) = false := by
    intro failed
    rw [List.any_eq_false]
    intro f hf
    by_cases hid : f.id ∈ z.drains.getD []
    · simp [hd f hf hid]
    · simp [hid]
  rw [exec_shootdownStep]
  refine event_of_wr_nil (w := (s.work.shootdownInvalidated p y z).mod fun d => d.modShootdown z fun e => { e with step := 4 }) ?_ rfl
  simp only [State.work_d, hp, hz, hy, hs, drained, Bool.false_eq_true, if_false]
  rfl

/-- Step 5 releases the hold. -/
theorem shootdownStep_release (hs : z.step = 4) : exec (.shootdownStep low) s = .next { s with d := s.d.modShootdown z fun e => { e with step := 5 } } := by
  rw [exec_shootdownStep]
  refine event_of_wr_nil (w := s.work.mod fun d => d.modShootdown z fun e => { e with step := 5 }) ?_ rfl
  simp only [State.work_d, hp, hz, hy, hs]
  rfl

/-- After step 5 the shootdown is answered and the next one of the partition begins. -/
theorem shootdownStep_answer (hs : z.step = 5) {sess q tag : Nat} {x : Session} (hcmd : z.cmd = (sess, q, tag))
    (hx : s.d.host.sessions.find? (fun x => x.id == sess) = some x) : exec (.shootdownStep low) s = .next { s with d := { s.d with
      shootdowns := s.d.shootdowns.erase z, host := s.d.host.answer x q tag 0 [] fun _ => false } } := by
  rw [exec_shootdownStep]
  refine event_of_wr_nil (w := s.work.mod fun d => { d with
    shootdowns := d.shootdowns.erase z, host := d.host.answer x q tag 0 [] fun _ => false }) ?_ rfl
  simp only [State.work_d, hp, hz, hy, hs, hcmd]
  exact congrArg (fun d => some { s.work with d := d }) (Dev.respond_eq_answer (d := { s.d with shootdowns := s.d.shootdowns.erase z }) hx q tag 0 [])

end

/-- Step 4 leaves memory, the host side and the other shootdowns as they were, and of the crews all but their failed walks. -/
theorem Shootdown.goesOn_invalidated (hs : z.step = 3) (f : Shootdown → Shootdown) :
    z.GoesOn f s { s with d := (s.work.shootdownInvalidated p y z).d.modShootdown z f } where
  mem := rfl
  host := Work.invalidate_host ..
  crewsBut := by
    change ((s.work.shootdownInvalidated p y z).d.crews).map _ = _
    rw [Work.shootdownInvalidated, Work.invalidate_crews, List.map_map]
    exact List.map_congr_left fun c _ => z.strikeCrew_others p c
  crews := fun h => absurd hs h
  shootdowns := by
    rw [Dev.modShootdown_shootdowns, Work.shootdownInvalidated, Work.invalidate_shootdowns]
    rfl

/-- The cores after step 4. -/
theorem Work.shootdownInvalidated_tlb {w : Work} {k : Nat × Nat} (hk : k ∈ w.logical p) :
    ((w.shootdownInvalidated p y z).d.core k.1 k.2).tlb = (w.d.core k.1 k.2).tlb.filter fun e => !z.takes e := by
  rw [Work.shootdownInvalidated, Work.invalidate_core]
  exact Dev.strikeCores_tlb _ z y hk

/-- The cluster TLBs and the walk cache of a tower of the partition after step 4. -/
theorem Work.shootdownInvalidated_tower_clean {w : Work} {t : Nat} (ht : t ∈ p.towers) :
    (∀ cl < 12, ∀ e ∈ ((w.shootdownInvalidated p y z).d.cluster t cl).tlb, z.takes e = false) ∧
    ∀ e ∈ ((w.shootdownInvalidated p y z).d.tower t).walkCache, e.ctx ≠ z.ctx := by
  rw [Work.shootdownInvalidated, Work.invalidate_eq]
  exact ⟨fun _ hcl => Dev.strikeTowers_cluster_clean _ ht hcl, Dev.strikeTowers_walkCache_clean _ ht⟩

/-- The crews of the partition after step 4. -/
theorem Work.shootdownInvalidated_crew_clean {w : Work} {n : Crew} (hn : n ∈ (w.shootdownInvalidated p y z).d.crews)
    (hplace : p.towers.contains n.place.tower = true) : ∀ f ∈ n.walkFails, z.covers (f.1 * 2 ^ 16) = false := by
  rw [Work.shootdownInvalidated, Work.invalidate_crews] at hn
  obtain ⟨c, _, rfl⟩ := List.mem_map.1 hn
  exact z.strikeCrew_clean (z.strikeCrew_place p c ▸ hplace)

end Steps

/-- Settles O53, step by step: each step of the model is one equation above, and step 4 is followed through its folds over the cores, the clusters
and the towers of the partition. -/
theorem shootdowns : Obligations.Shootdowns := by
  unfold Obligations.Shootdowns
  refine ⟨fun s sess q x c p y h hc => ⟨shootdown_malformed h hc, shootdown_queued h hc⟩, ?_⟩
  intro s low sess q tag p z y x hp _ hz _ hy hcmd hx _ goes goesOn settled drained
  have goes_of : ∀ {t : State} {f : Shootdown → Shootdown}, exec (.shootdownStep low) s = .next t → z.GoesOn f s t → goes t f :=
    fun hexec h => ⟨hexec, fun k => by rw [h.mem], h.host, h.crewsBut, h.crews, h.shootdowns⟩
  refine ⟨fun hs => ?_, fun hs => ?_, fun hs hw => ?_, fun hs hw hl => ?_, fun hs hd => ?_, fun hs => ?_, fun hs => ?_⟩
  · exact ⟨_, goes_of (shootdownStep_hold hp hz hy hs) (z.goesOn_modShootdown _ s)⟩
  · exact ⟨_, goes_of (shootdownStep_list hp hz hy hs) (z.goesOn_modShootdown _ s)⟩
  · exact shootdownStep_waits hp hz hy hs hw
  · exact ⟨_, goes_of (shootdownStep_drain hp hz hy hs hw hl) (z.goesOn_modShootdown _ s)⟩
  · refine ⟨_, goes_of (shootdownStep_invalidate hp hz hy hs hd) (Shootdown.goesOn_invalidated hs _), fun k hk e he => ?_, fun k hk e he hkeep => ?_,
      fun tw htw => Work.shootdownInvalidated_tower_clean htw, fun n hn hplace => Work.shootdownInvalidated_crew_clean hn hplace⟩
    · change e ∈ ((s.work.shootdownInvalidated p y z).d.core k.1 k.2).tlb at he
      rw [Work.shootdownInvalidated_tlb hk, List.mem_filter] at he
      exact ⟨by simpa using he.2, he.1⟩
    · change e ∈ ((s.work.shootdownInvalidated p y z).d.core k.1 k.2).tlb
      rw [Work.shootdownInvalidated_tlb hk, List.mem_filter]
      exact ⟨he, by simpa using hkeep⟩
  · exact ⟨_, goes_of (shootdownStep_release hp hz hy hs) (z.goesOn_modShootdown _ s)⟩
  · exact shootdownStep_answer hp hz hy hs hcmd hx

end Sys2Proof.Machine
end

section
/-! PROOFS. Settling: what follows from an operation's completion (`Work.settle`) where no operation can trap as it retires and no fence has still to
name its lines: no byte is written and no register changes. -/

namespace Sys2Proof.Machine

/-! ## Bytes written at their keys -/

/-- The number that the `n` low bytes of a number stand for (R10). -/
theorem leNat_natLe (n v : Nat) : leNat (natLe n v) = v % 2 ^ (8 * n) := by
  induction n generalizing v with
  | zero => simp [natLe, leNat, Nat.mod_one]
  | succ n ih =>
    have split : 2 ^ (8 * (n + 1)) = 256 * 2 ^ (8 * n) := by rw [Nat.mul_succ, Nat.pow_add, Nat.mul_comm]
    rw [natLe, leNat, ih, split, Nat.mod_mul, BitVec.toNat_ofNat]

theorem natLe_length (n v : Nat) : (natLe n v).length = n := by
  induction n generalizing v with
  | zero => rfl
  | succ n ih => simp [natLe, ih]

/-- Bytes written at keys, the first one the oldest. -/
theorem Work.putAt_eq (w : Work) (bs : List (Nat × Byte)) : w.putAt bs = { w with wr := bs.reverse ++ w.wr } := by
  induction bs generalizing w with
  | nil => rfl
  | cons b r ih => simp [Work.putAt, ih, Work.put]

/-- A key that no write names reads as before. -/
theorem Memory.get_commit_other {m : Memory} (h : m.wf = true) {l : List Host.Cell} {k : Nat} (hk : k ∉ l.map (·.1)) : (m.commit l).get k = m.get k := by
  have absent : l.find? (fun c => c.1 == k) = none := by
    rw [List.find?_eq_none]
    intro c hc he
    exact hk (List.mem_map.2 ⟨c, hc, by simpa using he⟩)
  rw [Memory.get_commit h, absent]

/-- Of writes at distinct keys, each is read back. -/
theorem Memory.get_commit_mem {m : Memory} (h : m.wf = true) {l : List Host.Cell} (hn : (l.map (·.1)).Nodup) {c : Host.Cell} (hc : c ∈ l) :
    (m.commit l).get c.1 = c.2 := by
  have found : l.find? (fun x => x.1 == c.1) = some c := by
    cases hf : l.find? (fun x => x.1 == c.1) with
    | none => exact absurd (List.find?_eq_none.1 hf c hc) (by simp)
    | some x =>
      have same : x.1 = c.1 := by simpa using List.find?_some hf
      exact congrArg some (List.inj_on_of_nodup_map hn (List.mem_of_find?_eq_some hf) hc same)
  rw [Memory.get_commit h, found]

/-- Bytes written at as many distinct keys are read back there. -/
theorem Memory.map_get_commit_zip {m : Memory} (h : m.wf = true) {ks : List Nat} {bs : List Byte} (hn : ks.Nodup) (hl : bs.length = ks.length) :
    ks.map (m.commit (ks.zip bs).reverse).get = bs := by
  have keys : (ks.zip bs).map (·.1) = ks := List.map_fst_zip hl.ge
  have distinct : ((ks.zip bs).reverse.map (·.1)).Nodup := by rw [List.map_reverse, List.nodup_reverse, keys]; exact hn
  calc ks.map (m.commit (ks.zip bs).reverse).get
      = (ks.zip bs).map (fun c => (m.commit (ks.zip bs).reverse).get c.1) := by rw [← Function.comp_def, ← List.map_map, keys]
    _ = (ks.zip bs).map (·.2) := List.map_congr_left fun c hc => Memory.get_commit_mem h distinct (List.mem_reverse.2 hc)
    _ = bs := List.map_snd_zip hl.le

/-! ## Where settling faults nothing -/

/-- No operation of the device can trap as it retires, and no fence has still to name its lines; see `noLateTraps`. -/
def Dev.calm (d : Dev) : Prop := (∀ x ∈ d.ops, x.flags = 0 ∨ x.kind.isAtomic = true) ∧ ∀ f ∈ d.fences, f.again = false

theorem noLateTraps_iff_calm (s : State) : noLateTraps s ↔ s.d.calm := Iff.rfl

/-- What settling leaves where it faults nothing: the bytes written so far, the registers of every crew, and a device in which it goes on to fault
nothing. -/
structure Work.Settles (w w' : Work) : Prop where
  calm : w'.d.calm
  wr : w'.wr = w.wr
  regs : ∀ n, (w'.d.crew n).map Crew.regs = (w.d.crew n).map Crew.regs

theorem Work.Settles.refl {w : Work} (h : w.d.calm) : w.Settles w := ⟨h, rfl, fun _ => rfl⟩

theorem Work.Settles.trans {w₁ w₂ w₃ : Work} (h₁ : w₁.Settles w₂) (h₂ : w₂.Settles w₃) : w₁.Settles w₃ :=
  ⟨h₂.calm, h₂.wr.trans h₁.wr, fun n => (h₂.regs n).trans (h₁.regs n)⟩

/-- A fold of changes each of which settles. -/
theorem Work.Settles.foldl {α : Type} {g : Work → α → Work} {l : List α} (step : ∀ w : Work, w.d.calm → ∀ a ∈ l, w.Settles (g w a)) {w : Work}
    (h : w.d.calm) :
    w.Settles (l.foldl g w) :=
  List.foldlRecOn l g (motive := fun x => w.Settles x) (.refl h) fun x hx a ha => hx.trans (step x hx.calm a ha)

theorem Work.Settles.crew {w w' : Work} (h : w.Settles w') {n : Nat} {c : Crew} (hc : w.d.crew n = some c) :
    ∃ c', w'.d.crew n = some c' ∧ c'.regs = c.regs := by
  have regs := h.regs n
  rw [hc, Option.map_some, Option.map_eq_some_iff] at regs
  exact regs

/-- Crews changed in what is neither their number nor their registers. -/
theorem Dev.crew_map_regs {d d' : Dev} {f : Crew → Crew} (h : d'.crews = d.crews.map f) (hid : ∀ c, (f c).id = c.id) (hregs : ∀ c, (f c).regs = c.regs)
    (n : Nat) : (d'.crew n).map Crew.regs = (d.crew n).map Crew.regs := by
  have ids : (fun c : Crew => c.id == n) ∘ f = fun c => c.id == n := funext fun c => by simp [hid]
  have same : Crew.regs ∘ f = Crew.regs := funext hregs
  rw [Dev.crew, Dev.crew, h, List.find?_map, ids, Option.map_map, same]

/-- Operations changed in what is neither their flags nor whether they are atomics. -/
theorem Dev.calm_map_ops {d d' : Dev} {f : Op → Op} (h : d.calm) (hops : d'.ops = d.ops.map f) (hflags : ∀ o, (f o).flags = o.flags)
    (hkind : ∀ o, (f o).kind.isAtomic = o.kind.isAtomic) (hfences : d'.fences = d.fences) : d'.calm := by
  refine ⟨fun x hx => ?_, hfences ▸ h.2⟩
  rw [hops] at hx
  obtain ⟨o, ho, rfl⟩ := List.mem_map.1 hx
  rw [hflags, hkind]
  exact h.1 o ho

/-! ## The parts of settling -/

theorem Work.acquire_settles {w : Work} (h : w.d.calm) (t k scope : Nat) : w.Settles (w.acquire t k scope) := by
  unfold Work.acquire
  split
  · exact .refl h
  · exact ⟨h, rfl, fun _ => rfl⟩

theorem Work.opDone_settles {w : Work} (h : w.d.calm) (id : Nat) : w.Settles (w.opDone id) where
  calm := Dev.calm_map_ops h rfl (fun o => by split <;> rfl) (fun o => by split <;> rfl) rfl
  wr := rfl
  regs := Dev.crew_map_regs rfl (fun c => by split <;> rfl) (fun c => by split <;> rfl)

theorem Work.fencesAgain_of_calm {w : Work} (h : w.d.calm) : w.fencesAgain = w := by
  have none_again : w.d.fences.filter (fun f => f.again && !f.marker && f.opsDone w.d) = [] := by
    rw [List.filter_eq_nil_iff]
    intro f hf
    simp [h.2 f hf]
  rw [Work.fencesAgain, none_again, List.foldl_nil]

/-- Fences taken out, or marked as complete. -/
theorem Work.mod_fences_settles {w : Work} (h : w.d.calm) {fs : List FenceRec} (hfs : ∀ f ∈ fs, f.again = false) :
    w.Settles (w.mod fun d => { d with fences := fs }) := ⟨⟨h.1, hfs⟩, rfl, fun _ => rfl⟩

theorem Work.fenceDone_settles {w : Work} (h : w.d.calm) (f : FenceRec) : w.Settles (w.fenceDone f) := by
  have acquired : w.Settles (match f.acquire with | some s => w.acquire f.tower f.core s | none => w) := by
    split
    · exact Work.acquire_settles h ..
    · exact .refl h
  have completed : ∀ {w : Work}, w.d.calm → w.Settles (match f.op with | some o => w.opDone o | none => w) := fun h => by
    split
    · exact Work.opDone_settles h _
    · exact .refl h
  refine acquired.trans ((completed acquired.calm).trans (Work.mod_fences_settles (completed acquired.calm).calm ?_))
  have calm := (completed acquired.calm).calm
  split
  · intro x hx
    obtain ⟨y, hy, rfl⟩ := List.mem_map.1 hx
    split <;> exact calm.2 y hy
  · exact fun x hx => calm.2 x (List.mem_filter.1 hx).1

theorem Work.fencesDone_settles {w : Work} (h : w.d.calm) : w.Settles w.fencesDone := by
  rw [Work.fencesDone, Work.fencesAgain_of_calm h]
  exact .foldl (fun w hw f _ => Work.fenceDone_settles hw f) h

theorem OpKind.stamp_isAtomic (k : OpKind) (on : List BRef → Bool) (n : Nat) : (k.stamp on n).isAtomic = k.isAtomic := by
  unfold OpKind.stamp
  split <;> rfl

theorem Work.ungate_settles {w : Work} (h : w.d.calm) : w.Settles w.ungate := by
  unfold Work.ungate
  split
  · exact .refl h
  · refine ⟨Dev.calm_map_ops h rfl (fun o => ?_) (fun o => ?_) rfl, rfl, fun _ => rfl⟩
    · split <;> rfl
    · split
      · rfl
      · exact o.kind.stamp_isAtomic (fun _ => true) w.d.nextId

/-- The operations that retire are operations of the list. -/
theorem mem_of_mem_retiring {l : List Op} {held : List (Nat × Nat)} {o : Op} (h : o ∈ retiring l held) : o ∈ l := by
  induction l generalizing held with
  | nil => exact absurd h (by simp [retiring])
  | cons x r ih =>
    rw [retiring] at h
    split at h
    · exact (List.mem_cons.1 h).elim (fun e => e ▸ List.mem_cons_self) fun h => List.mem_cons_of_mem _ (ih h)
    · exact List.mem_cons_of_mem _ (ih h)

/-- The retirement of an operation that cannot trap (R115, R146, R223). -/
theorem Work.retire_settles {w : Work} (h : w.d.calm) {o : Op} (ho : o.flags = 0 ∨ o.kind.isAtomic = true) : w.Settles (w.retire o) := by
  have calm : ∀ cs, Dev.calm { w.d with ops := w.d.ops.filter fun x => x.id != o.id, crews := cs } :=
    fun _ => ⟨fun x hx => h.1 x (List.mem_filter.1 hx).1, h.2⟩
  have counted : w.Settles (((w.mod fun d => { d with ops := d.ops.filter fun x => x.id != o.id }).mod fun d =>
      d.modCrew o.crew fun c => (c.modCount o.cls (· - 1)).orFlags o.flags)) :=
    ⟨calm _, rfl, Dev.crew_map_regs rfl (fun c => by split <;> rfl) (fun c => by split <;> rfl)⟩
  unfold Work.retire
  dsimp only
  split
  · exact ⟨calm _, rfl, fun _ => rfl⟩
  · rw [if_pos]
    · exact counted
    · rcases ho with ho | ho
      · simp [ho, Flags.trapped]
      · cases hk : o.kind <;> simp_all [OpKind.isAtomic]

theorem Work.retires_settles {w : Work} (h : w.d.calm) : w.Settles w.retires :=
  .foldl (fun _ hw o ho => Work.retire_settles hw (h.1 o (mem_of_mem_retiring ho))) h

theorem Work.settle_settles {w : Work} (h : w.d.calm) : w.Settles w.settle := by
  have fences := Work.fencesDone_settles h
  have sent := Work.ungate_settles fences.calm
  exact fences.trans (sent.trans (Work.retires_settles sent.calm))

end Sys2Proof.Machine
end

section
/-! PROOFS. AtPlace: an unordered atomic at its executing place (R142 to R146). Where the operation's number is its own, a lane reads and writes its
bytes as one step and nothing else. -/

namespace Sys2Proof.Machine

/-! ## What an integer atomic computes (R144, R145) -/

theorem toSigned_toNat {w : Nat} (hw : 0 < w) (a : BitVec w) : toSigned w a.toNat = a.toInt := by
  have half : 2 ^ w = 2 * 2 ^ (w - 1) := by rw [← Nat.pow_succ', Nat.succ_eq_add_one, Nat.sub_add_cancel hw]
  rw [toSigned, BitVec.toInt_eq_toNat_cond, half]
  by_cases h : a.toNat < 2 ^ (w - 1)
  · rw [if_pos h, if_pos (by omega)]
  · rw [if_neg h, if_neg (by omega), ← half]
    rfl

/-- Signed comparison of the numbers of two patterns is that of the patterns. -/
theorem toSigned_le_iff_sle {w : Nat} (hw : 0 < w) (a b : BitVec w) : toSigned w a.toNat ≤ toSigned w b.toNat ↔ a.sle b = true := by
  rw [toSigned_toNat hw, toSigned_toNat hw, BitVec.sle_iff_toInt_le]

/-- AINC on patterns: below its bound the old value has a successor (R144). -/
theorem toNat_ainc {w : Nat} (hw : 0 < w) (old b : BitVec w) :
    (if b.toNat ≤ old.toNat then 0 else old + 1).toNat = if b.toNat ≤ old.toNat then 0 else old.toNat + 1 := by
  by_cases h : b.toNat ≤ old.toNat
  · simp [h]
  · have bounded : old.toNat + 1 < 2 ^ w := by have := b.isLt; omega
    rw [if_neg h, if_neg h, BitVec.toNat_add, BitVec.ofNat_eq_ofNat, BitVec.toNat_one hw, Nat.mod_eq_of_lt bounded]

/-- ADEC on patterns: an old value that is not 0 has a predecessor (R144). -/
theorem toNat_adec {w : Nat} (hw : 0 < w) (old b : BitVec w) :
    (if old = 0 ∨ b.toNat < old.toNat then b else old - 1).toNat =
      if old.toNat == 0 || decide (b.toNat < old.toNat) then b.toNat else old.toNat - 1 := by
  have zero : old.toNat = 0 ↔ old = 0 := by simp [BitVec.toNat_eq]
  simp only [← zero, Bool.or_eq_true, beq_iff_eq, decide_eq_true_iff]
  by_cases h : old.toNat = 0 ∨ b.toNat < old.toNat
  · rw [if_pos h, if_pos h]
  · have one_le : 1#w ≤ old := by rw [BitVec.le_def, BitVec.toNat_one hw]; omega
    rw [if_neg h, if_neg h, BitVec.ofNat_eq_ofNat, BitVec.toNat_sub_of_le one_le, BitVec.toNat_one hw]

/-- The integer atomics on numbers are those of R144 on patterns. -/
theorem atomInt_of_atomRule {w minor : Nat} {f : BitVec w → BitVec w → BitVec w} (hw : 0 < w) (h : (minor, f) ∈ atomRule w) (old b : BitVec w) :
    atomInt minor w old.toNat b.toNat = (f old b).toNat := by
  have signed := toSigned_le_iff_sle hw old b
  simp only [atomRule, List.mem_cons, Prod.mk.injEq, List.not_mem_nil, or_false] at h
  rcases h with ⟨rfl, rfl⟩ | ⟨rfl, rfl⟩ | ⟨rfl, rfl⟩ | ⟨rfl, rfl⟩ | ⟨rfl, rfl⟩ | ⟨rfl, rfl⟩ | ⟨rfl, rfl⟩ | ⟨rfl, rfl⟩ | ⟨rfl, rfl⟩ |
    ⟨rfl, rfl⟩ | ⟨rfl, rfl⟩
  · exact (BitVec.toNat_add ..).symm
  · simp only [atomInt, signed, apply_ite BitVec.toNat]
  · simp only [atomInt, signed, apply_ite BitVec.toNat]
  · exact (Nat.min_def).trans (apply_ite BitVec.toNat ..).symm
  · exact (Nat.max_def).trans (apply_ite BitVec.toNat ..).symm
  · exact (BitVec.toNat_and ..).symm
  · exact (BitVec.toNat_or ..).symm
  · exact (BitVec.toNat_xor ..).symm
  · rfl
  · exact (toNat_ainc hw old b).symm
  · exact (toNat_adec hw old b).symm

/-- The first part of O29: an integer atomic gives the value of R144 and sets no flag. -/
theorem atomNew_of_atomRule {typ w minor : Nat} {f : BitVec w → BitVec w → BitVec w} (ht : (typ, w) ∈ [(0, 32), (1, 64)]) (h : (minor, f) ∈ atomRule w)
    (cmr : BitVec 32) (old b new_ : BitVec w) : atomNew minor typ cmr old.toNat b.toNat new_.toNat = ((f old b).toNat, fNone) := by
  have width : 8 * atomSize typ = w ∧ typ ≤ 2 ∧ 0 < w := by
    rcases List.mem_pair.1 ht with h | h <;> cases h <;> decide
  obtain ⟨hw, hle, hpos⟩ := width
  have not_cas : (minor == 9) = false := by
    simp only [atomRule, List.mem_cons, Prod.mk.injEq, List.not_mem_nil, or_false] at h
    rcases h with h | h | h | h | h | h | h | h | h | h | h <;> simp [h.1]
  simp only [atomNew, not_cas, hw, hle, if_true, Bool.false_eq_true, if_false, atomInt_of_atomRule hpos h]
/-- A compare-and-swap of any width gives the value of R145 and sets no flag. -/
theorem atomNew_cas (typ : Nat) (cmr : BitVec 32) (old b new_ : Nat) : atomNew 9 typ cmr old b new_ = (if old = b then new_ else old, fNone) := by
  simp [atomNew]

/-! ## What an access at its executing place leaves as it is -/

/-- From one work to another these bytes are written, and crews, operations and fences are as they were. -/
structure Work.Writes (w w' : Work) (bs : List (Nat × Byte)) : Prop where
  wr : w'.wr = bs.reverse ++ w.wr
  crews : w'.d.crews = w.d.crews
  ops : w'.d.ops = w.d.ops
  fences : w'.d.fences = w.d.fences

theorem Work.Writes.refl (w : Work) : w.Writes w [] := ⟨rfl, rfl, rfl, rfl⟩

theorem Work.Writes.trans {w₁ w₂ w₃ : Work} {bs cs : List (Nat × Byte)} (h₁ : w₁.Writes w₂ bs) (h₂ : w₂.Writes w₃ cs) : w₁.Writes w₃ (bs ++ cs) :=
  ⟨by simp [h₂.wr, h₁.wr], h₂.crews.trans h₁.crews, h₂.ops.trans h₁.ops, h₂.fences.trans h₁.fences⟩

/-- A fold of changes none of which writes a byte. -/
theorem Work.Writes.foldl {α : Type} {g : Work → α → Work} (step : ∀ (w : Work) (a : α), w.Writes (g w a) []) (l : List α) (w : Work) :
    w.Writes (l.foldl g w) [] :=
  List.foldlRecOn l g (motive := fun x => w.Writes x []) (.refl w) fun x hx a _ => hx.trans (step x a)

theorem Dev.freeWay_eq (d : Dev) (ways : List Way) : ∃ hs cs, d.freeWay ways = { d with homes := hs, copies := cs } := by
  unfold Dev.freeWay
  split
  · exact ⟨d.homes, d.copies, rfl⟩
  · split
    · exact ⟨_, d.copies, rfl⟩
    · exact ⟨_, _, rfl⟩
    · exact ⟨d.homes, d.copies, rfl⟩

theorem Work.homeUse_writes (w : Work) (tag : Tag) (home slice hint grid : Nat) : w.Writes (w.homeUse tag home slice hint grid) [] := by
  unfold Work.homeUse
  dsimp only
  split
  · exact ⟨rfl, rfl, rfl, rfl⟩
  · obtain ⟨hs, cs, e⟩ := Dev.freeWay_eq w.newId.2.d (w.newId.2.d.sliceWays home slice tag)
    simp only [Work.mod, e]
    exact ⟨rfl, rfl, rfl, rfl⟩

theorem Work.logAccess_writes (w : Work) (src t k : Nat) (refs : List BRef) : w.Writes (w.logAccess src t k refs) [] := by
  unfold Work.logAccess
  split
  · exact .refl w
  · refine .foldl (fun w r => ?_) _ _
    exact ⟨rfl, rfl, rfl, rfl⟩

theorem Work.touch_writes (w : Work) (t k hint grid : Nat) (refs : List BRef) (load : Bool) : w.Writes (w.touch t k hint grid refs load) [] := by
  have unlisted : ∀ (w : Work) (b : Bool) (y : CopyLine), w.Writes (if b then w else w.mod fun d => d.unlist y) [] := fun w b y => by
    cases b
    · exact ⟨rfl, rfl, rfl, rfl⟩
    · exact .refl w
  refine (w.logAccess_writes t t k refs).trans (.foldl (fun w r => ?_) _ _)
  dsimp only
  split
  · exact (w.homeUse_writes ..).trans (unlisted ..)
  · exact unlisted ..

theorem Work.apply_writes (w : Work) (bs : List (BRef × Byte)) : w.Writes (w.apply bs) (bs.map fun b => (b.1.key, b.2)) := by
  unfold Work.apply
  rw [Work.putAt_eq]
  dsimp only
  split <;> split <;> exact ⟨rfl, rfl, rfl, rfl⟩

theorem Work.dropL1_writes (w : Work) (t k : Nat) (tags : List Tag) : w.Writes (w.dropL1 t k tags) [] := by
  unfold Work.dropL1
  split <;> exact ⟨rfl, rfl, rfl, rfl⟩

/-- Bytes written at their executing places by a core, whose L1 drops their lines (R51, R59, R60). -/
def Work.coreWrite (w : Work) (c : Crew) (refs : List BRef) (bytes : List Byte) : Work :=
  ((w.touch c.place.tower c.place.core 0 (w.d.gridId c) refs).apply (refs.zip bytes)).dropL1 c.place.tower c.place.core (lineTags refs)

theorem Work.coreWrite_writes (w : Work) (c : Crew) (refs : List BRef) (bytes : List Byte) :
    w.Writes (w.coreWrite c refs bytes) ((refs.map (·.key)).zip bytes) := by
  have keyed : (refs.zip bytes).map (fun b => (b.1.key, b.2)) = (refs.map (·.key)).zip bytes := (List.zip_map_left ..).symm
  have h := ((w.touch_writes c.place.tower c.place.core 0 (w.d.gridId c) refs false).trans (Work.apply_writes _ (refs.zip bytes))).trans
    (Work.dropL1_writes _ c.place.tower c.place.core (lineTags refs))
  rw [keyed, List.nil_append, List.append_nil] at h
  exact h

/-! ## One lane performed (R143) -/

/-- The lanes of an atomic once one of them is done. -/
def lanesDone (ls : List AtomicLane) (lane old : Nat) : List AtomicLane := ls.map fun a => if a.lane == lane then { a with old := old, done := true } else a

theorem mem_lanesDone {ls : List AtomicLane} {x : AtomicLane} (h : x ∈ ls) (old : Nat) : { x with old := old, done := true } ∈ lanesDone ls x.lane old :=
  List.mem_map.2 ⟨x, h, by simp⟩

/-- Every lane is done once one lane of a list of otherwise done ones is. -/
theorem all_lanesDone_iff (ls : List AtomicLane) (lane old : Nat) :
    (lanesDone ls lane old).all (·.done) = true ↔ ∀ y ∈ ls, y.lane ≠ lane → y.done = true := by
  simp only [lanesDone, List.all_map, List.all_eq_true]
  refine forall_congr' fun y => imp_congr_right fun _ => ?_
  by_cases hy : y.lane = lane <;> simp [hy]

/-- The old value kept of the lane that is done. -/
theorem lanesDone_old {ls : List AtomicLane} {x : AtomicLane} (h : x ∈ ls) (old : Nat) :
    (((lanesDone ls x.lane old).find? fun a => a.lane == x.lane).map (·.old)).getD 0 = old := by
  cases hf : (lanesDone ls x.lane old).find? fun a => a.lane == x.lane with
  | none => exact absurd (List.find?_eq_none.1 hf _ (mem_lanesDone h old)) (by simp)
  | some y =>
    have lane_eq : y.lane = x.lane := by simpa using List.find?_some hf
    obtain ⟨z, _, rfl⟩ := List.mem_map.1 (List.mem_of_find?_eq_some hf)
    by_cases hz : z.lane = x.lane
    · simp [hz]
    · exact absurd lane_eq (by simp [hz])

/-- An atomic once a lane of it is done: what the lane read is kept, and a returning one keeps its flags (R142, R146). -/
def Op.laneDone (o : Op) (minor typ : Nat) (cmr : BitVec 32) (reg : Option Nat) (ls : List AtomicLane) (acq : Option Nat) (lane old : Nat) (fl : Flags) : Op :=
  { o with kind := .atomic minor typ cmr reg (lanesDone ls lane old) none acq, flags := if reg.isSome then o.flags ||| fl else o.flags }

/-- A changed operation is found under its number. -/
theorem Dev.op_of_ops_map {d d' : Dev} {op : Nat} {o o' : Op} (h : d.op op = some o) (ho' : o'.id = o.id)
    (hops : d'.ops = d.ops.map fun x => if x.id = o.id then o' else x) : d'.op op = some o' := by
  have hid : o.id = op := by simpa using List.find?_some h
  have ids : (fun x : Op => x.id == op) ∘ (fun x => if x.id = o.id then o' else x) = fun x => x.id == op := by
    funext x
    by_cases hx : x.id = o.id <;> simp [hx, ho']
  rw [Dev.op, hops, List.find?_map, ids]
  rw [Dev.op] at h
  simp [h]

/-- A lane marked as done, with the flags that a returning atomic keeps, and its entry of the outbox freed (R143, R146, R147). -/
def Work.markLane (w : Work) (o : Op) (c : Crew) (reg : Option Nat) (lane old : Nat) (fl : Flags) : Work :=
  let w := w.modLane o.id lane fun x => { x with old := old, done := true }
  (if reg.isSome then w.mod fun d => d.modOp o.id fun x => { x with flags := x.flags ||| fl } else w).freeOutbox c o.id lane

/-- A lane performed is its bytes written, the lane marked and, where it was the last one, the operation ended. -/
theorem Work.performLane_eq (w : Work) (o : Op) (c : Crew) (minor typ : Nat) (cmr : BitVec 32) (reg : Option Nat) (x : AtomicLane) :
    w.performLane o c minor typ cmr reg x =
      let old := leNat (x.refs.map fun r => w.get r.key)
      let new_ := atomNew minor typ cmr old x.opnd x.newv
      ((w.coreWrite c x.refs (natLe x.refs.length new_.1)).markLane o c reg x.lane old new_.2).endAtomic o.id := rfl

theorem Work.markLane_wr (w : Work) (o : Op) (c : Crew) (reg : Option Nat) (lane old : Nat) (fl : Flags) : (w.markLane o c reg lane old fl).wr = w.wr := by
  cases reg <;> rfl

theorem Work.markLane_crews (w : Work) (o : Op) (c : Crew) (reg : Option Nat) (lane old : Nat) (fl : Flags) :
    (w.markLane o c reg lane old fl).d.crews = w.d.crews := by
  cases reg <;> rfl

theorem Work.markLane_fences (w : Work) (o : Op) (c : Crew) (reg : Option Nat) (lane old : Nat) (fl : Flags) :
    (w.markLane o c reg lane old fl).d.fences = w.d.fences := by
  cases reg <;> rfl

/-- Marking a lane of an operation whose number is its own changes that operation alone. -/
theorem Work.markLane_ops {w : Work} {o : Op} {minor typ : Nat} {cmr : BitVec 32} {reg : Option Nat} {ls : List AtomicLane} {acq : Option Nat}
    (hk : o.kind = .atomic minor typ cmr reg ls none acq) (own : ∀ z ∈ w.d.ops, z.id = o.id → z = o) (c : Crew) (lane old : Nat) (fl : Flags) :
    (w.markLane o c reg lane old fl).d.ops = w.d.ops.map fun y => if y.id = o.id then o.laneDone minor typ cmr reg ls acq lane old fl else y := by
  cases reg with
  | none =>
    refine List.map_congr_left fun y hy => ?_
    by_cases hid : y.id = o.id
    · rw [own y hy hid]
      simp [hk, Op.laneDone, lanesDone]
    · simp [hid]
  | some r =>
    refine (List.map_map ..).trans (List.map_congr_left fun y hy => ?_)
    by_cases hid : y.id = o.id
    · rw [own y hy hid]
      simp [hk, Op.laneDone, lanesDone]
    · simp [hid]

/-! ## The end of the operation (R91, R142) -/

/-- The result registers of an atomic written in its lanes. -/
def Work.lateResults (w : Work) (o : Op) (typ : Nat) (reg : Option Nat) (old : Nat → Nat) : Work :=
  match reg with
  | some r =>
    let w := w.writeLate o r fun l => BitVec.ofNat 64 (old l)
    if typ == 2 then w.writeLate o (r + 1) fun l => BitVec.ofNat 64 (old l / 2 ^ 64) else w
  | none => w

/-- The acquire of an atomic. -/
def Work.lateAcquire (w : Work) (o : Op) (acq : Option Nat) : Work :=
  match acq, w.d.crew o.crew with
  | some s, some c => w.acquire c.place.tower c.place.core s
  | _, _ => w

/-- With a lane still to be done nothing ends. -/
theorem Work.endAtomic_of_left {w : Work} {id minor typ : Nat} {o : Op} {cmr : BitVec 32} {reg : Option Nat} {ls : List AtomicLane} {g : Option OrderTag}
    {acq : Option Nat} (ho : w.d.op id = some o) (hk : o.kind = .atomic minor typ cmr reg ls g acq) (hls : ¬ ls.all (·.done) = true) :
    w.endAtomic id = w := by
  simp only [Work.endAtomic, ho, hk, hls, Bool.not_false, if_true]

/-- With every lane done the operation ends. -/
theorem Work.endAtomic_of_all {w : Work} {id minor typ : Nat} {o : Op} {cmr : BitVec 32} {reg : Option Nat} {ls : List AtomicLane} {g : Option OrderTag}
    {acq : Option Nat} (ho : w.d.op id = some o) (hk : o.kind = .atomic minor typ cmr reg ls g acq) (hls : ls.all (·.done) = true) :
    w.endAtomic id =
      (((w.lateResults o typ reg fun l => ((ls.find? fun a => a.lane == l).map (·.old)).getD 0).lateAcquire o acq).opDone id).settle := by
  simp only [Work.endAtomic, ho, hk, hls, Bool.not_true, Bool.false_eq_true, if_false]
  rfl

theorem Work.lateResults_wr (w : Work) (o : Op) (typ : Nat) (reg : Option Nat) (old : Nat → Nat) : (w.lateResults o typ reg old).wr = w.wr := by
  unfold Work.lateResults
  split
  · dsimp only
    split <;> rfl
  · rfl

theorem Work.lateResults_calm {w : Work} (h : w.d.calm) (o : Op) (typ : Nat) (reg : Option Nat) (old : Nat → Nat) :
    (w.lateResults o typ reg old).d.calm := by
  unfold Work.lateResults
  split
  · dsimp only
    split <;> exact h
  · exact h

/-- What ends an atomic after its results settles. -/
theorem Work.ended_settles {w : Work} (h : w.d.calm) (o : Op) (acq : Option Nat) (id : Nat) : w.Settles ((w.lateAcquire o acq).opDone id).settle := by
  have acquired : w.Settles (w.lateAcquire o acq) := by
    unfold Work.lateAcquire
    split
    · exact Work.acquire_settles h ..
    · exact .refl h
  have completed := Work.opDone_settles acquired.calm id
  exact acquired.trans (completed.trans (Work.settle_settles completed.calm))

/-- The end of an atomic writes no byte. -/
theorem Work.endAtomic_wr {w : Work} {id minor typ : Nat} {o : Op} {cmr : BitVec 32} {reg : Option Nat} {ls : List AtomicLane} {g : Option OrderTag}
    {acq : Option Nat} (h : w.d.calm) (ho : w.d.op id = some o) (hk : o.kind = .atomic minor typ cmr reg ls g acq) : (w.endAtomic id).wr = w.wr := by
  by_cases hls : ls.all (·.done) = true
  · rw [Work.endAtomic_of_all ho hk hls]
    exact (Work.ended_settles (Work.lateResults_calm h ..) ..).wr.trans (Work.lateResults_wr ..)
  · rw [Work.endAtomic_of_left ho hk hls]

/-- A crew with a register written late by an operation in its lanes, and pending on it no more (R203, R240). -/
def Crew.putLate (c : Crew) (o : Op) (r : Nat) (f : Nat → Word) : Crew :=
  { c.put r (.gen (lanes.map f)) o.lanes with pend := c.pend.filter fun p => !(p.op == o.id && p.reg == r), stalled := false }

theorem Work.writeLate_eq (w : Work) (o : Op) (r : Nat) (f : Nat → Word) :
    w.writeLate o r f = w.mod fun d => d.modCrew o.crew fun c => c.putLate o r f := rfl

theorem Crew.putLate_val (c : Crew) (r : Nat) (f : Nat → Word) {o : Op} {l : Nat} (hl : o.lanes.getLsbD l = true) : (c.putLate o r f).val r l = f l := by
  have hl32 : l < 32 := BitVec.lt_of_getLsbD hl
  have written := Crew.reg_put c r (.gen (lanes.map f)) o.lanes r
  rw [if_pos rfl] at written
  calc RegVal.lane ((c.put r (.gen (lanes.map f)) o.lanes).reg r) l
      = (RegVal.gen (lanes.map f)).lane l := by rw [written, RegVal.lane_merge_active _ _ _ _ _ hl32 hl]
    _ = f l := getD_map_lanes _ _ _ hl32

theorem Work.writeLate_crew {w : Work} {o : Op} {c : Crew} (hc : w.d.crew o.crew = some c) (r : Nat) (f : Nat → Word) :
    (w.writeLate o r f).d.crew o.crew = some (c.putLate o r f) := by
  rw [Work.writeLate_eq, Work.mod_d, Dev.modCrew_crew _ _ (·.putLate o r f) fun _ => rfl, if_pos rfl, hc, Option.map_some]

/-- The result register of an atomic that ends, but for the two registers of a 128-bit one. -/
theorem Work.endAtomic_val {w : Work} {id minor typ r l old : Nat} {o : Op} {c : Crew} {cmr : BitVec 32} {ls : List AtomicLane} {g : Option OrderTag}
    {acq : Option Nat} (h : w.d.calm) (ho : w.d.op id = some o) (hk : o.kind = .atomic minor typ cmr (some r) ls g acq) (hls : ls.all (·.done) = true)
    (htyp : typ ≠ 2) (hc : w.d.crew o.crew = some c) (hl : o.lanes.getLsbD l = true)
    (hold : ((ls.find? fun a => a.lane == l).map (·.old)).getD 0 = old) :
    ∃ c', (w.endAtomic id).d.crew o.crew = some c' ∧ c'.val r l = BitVec.ofNat 64 old := by
  have results : ∀ old, w.lateResults o typ (some r) old = w.writeLate o r fun l => BitVec.ofNat 64 (old l) := fun old => by
    simp [Work.lateResults, htyp]
  rw [Work.endAtomic_of_all ho hk hls, results]
  obtain ⟨c₂, hc₂, hregs⟩ := (Work.ended_settles (w := w.writeLate o r _) h o acq id).crew (Work.writeLate_crew hc r _)
  refine ⟨c₂, hc₂, ?_⟩
  rw [← hold, Crew.val_of_reg (congrArg (·.getD r (.uni 0)) hregs : c₂.reg r = Crew.reg _ r), Crew.putLate_val _ _ _ hl]

/-! ## The step -/

/-- An atomic about to perform a lane at its executing place (R139, R143): the lane is the first of its number still to be done, no lower lane comes
before it (R78), its turn has come, its route stands and its bytes are sound. The operation's number is its own. -/
structure AtPlace (s : State) (op lane : Nat) (o : Op) (c : Crew) (minor typ : Nat) (cmr : BitVec 32) (reg : Option Nat) (ls : List AtomicLane)
    (acq : Option Nat) (x : AtomicLane) : Prop where
  found : s.d.op op = some o
  crew : s.d.crew o.crew = some c
  kind : o.kind = .atomic minor typ cmr reg ls none acq
  left : o.done = false
  next : ls.find? (fun a => a.lane == lane && !a.done) = some x
  lower : ∀ y ∈ ls, y.lane < lane → y.done = true ∨ ∀ r ∈ y.refs, ∀ z ∈ x.refs, r.key ≠ z.key
  turn : s.work.inTurn o c false x = true
  route : routeUp s c x.refs
  sound : s.d.meetsBad false x.refs = none
  keys : (x.refs.map (·.key)).Nodup
  late : noLateTraps s
  wf : s.wf = true
  own : ∀ z ∈ s.d.ops, z.id = op → z = o

section AtPlace

variable {s : State} {op lane : Nat} {o : Op} {c : Crew} {minor typ : Nat} {cmr : BitVec 32} {reg : Option Nat} {ls : List AtomicLane}
  {acq : Option Nat} {x : AtomicLane}

theorem AtPlace.id (h : AtPlace s op lane o c minor typ cmr reg ls acq x) : o.id = op := by simpa using List.find?_some h.found

theorem AtPlace.lane_eq (h : AtPlace s op lane o c minor typ cmr reg ls acq x) : x.lane = lane := by
  have := List.find?_some h.next
  simp_all

theorem AtPlace.mem (h : AtPlace s op lane o c minor typ cmr reg ls acq x) : x ∈ ls := List.mem_of_find?_eq_some h.next

theorem AtPlace.calm (h : AtPlace s op lane o c minor typ cmr reg ls acq x) : s.d.calm := (noLateTraps_iff_calm s).1 h.late

theorem AtPlace.mem_wf (h : AtPlace s op lane o c minor typ cmr reg ls acq x) : s.mem.wf = true := (Bool.and_eq_true_iff.1 h.wf).1

theorem exec_atomicAtPlace (op lane : Nat) (s : State) : exec (.atomicAtPlace op lane) s = execAtomicAtPlace op lane s := rfl

/-- Without a host-window route that is down no link stops the access (R70). -/
theorem linkFor_of_routeUp {s : State} {c : Crew} {refs : List BRef} (h : routeUp s c refs) : s.d.linkFor c.place.tower refs = none := by
  unfold Dev.linkFor
  split
  · rename_i hany
    obtain ⟨r, hr, hplace⟩ := List.any_eq_true.1 hany
    exact h r hr (by simpa using hplace)
  · rfl

/-- The lane is performed. -/
theorem AtPlace.exec (h : AtPlace s op lane o c minor typ cmr reg ls acq x) :
    exec (.atomicAtPlace op lane) s = .next (s.after (s.work.performLane o c minor typ cmr reg x)) := by
  have noneLower : (ls.any fun y => decide (y.lane < lane) && !y.done && y.refs.any fun r => x.refs.any fun z => z.key == r.key) = false := by
    rw [List.any_eq_false]
    intro y hy hbefore
    simp only [Bool.and_eq_true, decide_eq_true_iff, Bool.not_eq_true', List.any_eq_true, beq_iff_eq] at hbefore
    obtain ⟨⟨hlt, hopen⟩, r, hr, z, hz, hkey⟩ := hbefore
    rcases h.lower y hy hlt with hdone | hapart
    · exact absurd hdone (by simp [hopen])
    · exact hapart r hr z hz hkey.symm
  rw [exec_atomicAtPlace]
  refine event_some ?_
  simp only [State.work_d, h.found, h.crew, h.kind, h.next, noneLower, h.left, h.turn, linkFor_of_routeUp h.route, h.sound, Bool.not_true, Bool.or_false,
    Bool.false_eq_true, if_false]

/-- The work with the lane's bytes written and the lane marked, before the operation ends where it can. -/
def lanePlaced (s : State) (o : Op) (c : Crew) (minor typ : Nat) (cmr : BitVec 32) (reg : Option Nat) (x : AtomicLane) : Work :=
  let old := leNat (x.refs.map fun r => s.mem.get r.key)
  let new_ := atomNew minor typ cmr old x.opnd x.newv
  (s.work.coreWrite c x.refs (natLe x.refs.length new_.1)).markLane o c reg x.lane old new_.2

theorem performLane_eq_lanePlaced (s : State) (o : Op) (c : Crew) (minor typ : Nat) (cmr : BitVec 32) (reg : Option Nat) (x : AtomicLane) :
    s.work.performLane o c minor typ cmr reg x = (lanePlaced s o c minor typ cmr reg x).endAtomic o.id := s.work.performLane_eq ..

theorem lanePlaced_wr (s : State) (o : Op) (c : Crew) (minor typ : Nat) (cmr : BitVec 32) (reg : Option Nat) (x : AtomicLane) :
    (lanePlaced s o c minor typ cmr reg x).wr = ((x.refs.map (·.key)).zip
      (natLe x.refs.length (atomNew minor typ cmr (leNat (x.refs.map fun r => s.mem.get r.key)) x.opnd x.newv).1)).reverse := by
  rw [lanePlaced, Work.markLane_wr, (Work.coreWrite_writes ..).wr, State.work_wr, List.append_nil]

theorem lanePlaced_crews (s : State) (o : Op) (c : Crew) (minor typ : Nat) (cmr : BitVec 32) (reg : Option Nat) (x : AtomicLane) :
    (lanePlaced s o c minor typ cmr reg x).d.crews = s.d.crews := by
  rw [lanePlaced, Work.markLane_crews, (Work.coreWrite_writes ..).crews, State.work_d]

/-- The operation with the lane done. -/
def opPlaced (s : State) (o : Op) (minor typ : Nat) (cmr : BitVec 32) (reg : Option Nat) (ls : List AtomicLane) (acq : Option Nat) (x : AtomicLane) : Op :=
  let old := leNat (x.refs.map fun r => s.mem.get r.key)
  o.laneDone minor typ cmr reg ls acq x.lane old (atomNew minor typ cmr old x.opnd x.newv).2

theorem AtPlace.lanePlaced_ops (h : AtPlace s op lane o c minor typ cmr reg ls acq x) :
    (lanePlaced s o c minor typ cmr reg x).d.ops = s.d.ops.map fun y => if y.id = o.id then opPlaced s o minor typ cmr reg ls acq x else y := by
  have hops : ∀ bytes, (s.work.coreWrite c x.refs bytes).d.ops = s.d.ops := fun bytes => (Work.coreWrite_writes ..).ops
  rw [lanePlaced, Work.markLane_ops h.kind, hops, opPlaced]
  intro z hz hid
  rw [hops] at hz
  exact h.own z hz (hid.trans h.id)

theorem AtPlace.lanePlaced_op (h : AtPlace s op lane o c minor typ cmr reg ls acq x) :
    (lanePlaced s o c minor typ cmr reg x).d.op o.id = some (opPlaced s o minor typ cmr reg ls acq x) :=
  Dev.op_of_ops_map (o := o) (h.id ▸ h.found) rfl h.lanePlaced_ops

/-- The flags of a lane stand in an atomic alone, which no trap stops (R146). -/
theorem AtPlace.lanePlaced_calm (h : AtPlace s op lane o c minor typ cmr reg ls acq x) : (lanePlaced s o c minor typ cmr reg x).d.calm := by
  refine ⟨fun y hy => ?_, fun f hf => ?_⟩
  · rw [h.lanePlaced_ops] at hy
    obtain ⟨z, hz, rfl⟩ := List.mem_map.1 hy
    split
    · exact .inr rfl
    · exact h.calm.1 z hz
  · rw [lanePlaced, Work.markLane_fences, (Work.coreWrite_writes ..).fences] at hf
    exact h.calm.2 f hf

theorem AtPlace.mem_after (h : AtPlace s op lane o c minor typ cmr reg ls acq x) :
    (s.after (s.work.performLane o c minor typ cmr reg x)).mem = s.mem.commit ((x.refs.map (·.key)).zip
      (natLe x.refs.length (atomNew minor typ cmr (leNat (x.refs.map fun r => s.mem.get r.key)) x.opnd x.newv).1)).reverse := by
  rw [State.after_mem, performLane_eq_lanePlaced, Work.endAtomic_wr h.lanePlaced_calm h.lanePlaced_op rfl, lanePlaced_wr]

/-- The lane's bytes hold the new value (R143). -/
theorem AtPlace.bytes (h : AtPlace s op lane o c minor typ cmr reg ls acq x) :
    leNat (x.refs.map fun r => (s.after (s.work.performLane o c minor typ cmr reg x)).mem.get r.key) =
      (atomNew minor typ cmr (leNat (x.refs.map fun r => s.mem.get r.key)) x.opnd x.newv).1 % 2 ^ (8 * x.refs.length) := by
  have keyed : ∀ m : Memory, (x.refs.map fun r => m.get r.key) = (x.refs.map (·.key)).map m.get := fun m => by rw [List.map_map]; rfl
  rw [h.mem_after, keyed (s.mem.commit _), Memory.map_get_commit_zip h.mem_wf h.keys (by rw [natLe_length, List.length_map]), leNat_natLe]

/-- No other byte changes (R143). -/
theorem AtPlace.kept (h : AtPlace s op lane o c minor typ cmr reg ls acq x) :
    memKeptBut s (s.after (s.work.performLane o c minor typ cmr reg x)) (x.refs.map (·.key)) := by
  intro k hk
  rw [h.mem_after]
  refine Memory.get_commit_other h.mem_wf fun hmem => hk ?_
  rw [List.map_reverse, List.mem_reverse] at hmem
  obtain ⟨y, hy, rfl⟩ := List.mem_map.1 hmem
  exact (List.of_mem_zip hy).1

/-- With another lane still to be done the operation goes on, and keeps what the lane has read (R142). -/
theorem AtPlace.goesOn (h : AtPlace s op lane o c minor typ cmr reg ls acq x) (hleft : ∃ y ∈ ls, y.lane ≠ lane ∧ y.done = false) :
    (s.after (s.work.performLane o c minor typ cmr reg x)).d.op op = some (opPlaced s o minor typ cmr reg ls acq x) := by
  have unfinished : ¬ (lanesDone ls x.lane (leNat (x.refs.map fun r => s.mem.get r.key))).all (·.done) = true := by
    rw [all_lanesDone_iff, h.lane_eq]
    obtain ⟨y, hy, hne, hopen⟩ := hleft
    exact fun hall => absurd (hall y hy hne) (by simp [hopen])
  rw [Dev.op, State.after_ops, performLane_eq_lanePlaced, Work.endAtomic_of_left h.lanePlaced_op rfl unfinished, ← h.id]
  exact h.lanePlaced_op

/-- With every other lane done the result register takes what each lane has read (R142). -/
theorem AtPlace.result (h : AtPlace s op lane o c minor typ cmr reg ls acq x) (hall : ∀ y ∈ ls, y.lane ≠ lane → y.done = true) {r : Nat}
    (hreg : reg = some r) (htyp : typ ≠ 2) (hlane : o.lanes.getLsbD lane = true) :
    ∃ c', (s.after (s.work.performLane o c minor typ cmr reg x)).d.crew o.crew = some c' ∧
      c'.val r lane = BitVec.ofNat 64 (leNat (x.refs.map fun r => s.mem.get r.key)) := by
  subst hreg
  have found : (lanePlaced s o c minor typ cmr (some r) x).d.crew o.crew = some c := by
    rw [Dev.crew, lanePlaced_crews]
    exact h.crew
  have closed := (all_lanesDone_iff ls x.lane (leNat (x.refs.map fun r => s.mem.get r.key))).2 (h.lane_eq ▸ hall)
  have read := lanesDone_old h.mem (leNat (x.refs.map fun r => s.mem.get r.key))
  rw [Dev.crew, State.after_crews, performLane_eq_lanePlaced]
  exact Work.endAtomic_val (o := opPlaced s o minor typ cmr (some r) ls acq x) h.lanePlaced_calm h.lanePlaced_op rfl closed htyp found hlane
    (h.lane_eq ▸ read)

/-- What O29 says of the step, of an operation whose number is its own: the lane reads the old value and writes the new one and nothing else, keeps the
old value, and with every lane done the result register is written (R142, R143). -/
theorem AtPlace.performs (h : AtPlace s op lane o c minor typ cmr reg ls acq x) :
    let old := leNat (x.refs.map fun r => s.mem.get r.key)
    ∃ t : State, Machine.exec (.atomicAtPlace op lane) s = .next t ∧
      leNat (x.refs.map fun r => t.mem.get r.key) = (atomNew minor typ cmr old x.opnd x.newv).1 % 2 ^ (8 * x.refs.length) ∧
      memKeptBut s t (x.refs.map (·.key)) ∧
      ((∃ y ∈ ls, y.lane ≠ lane ∧ y.done = false) → ∃ (o' : Op) (ls' : List AtomicLane), t.d.op op = some o' ∧ o'.done = false ∧
        o'.kind = .atomic minor typ cmr reg ls' none acq ∧ ∃ y ∈ ls', y.lane = lane ∧ y.done = true ∧ y.old = old) ∧
      ((∀ y ∈ ls, y.lane ≠ lane → y.done = true) → ∀ r : Nat, reg = some r → typ ≠ 2 → o.lanes.getLsbD lane = true →
        ∃ c' : Crew, t.d.crew o.crew = some c' ∧ c'.val r lane = BitVec.ofNat 64 old) :=
  ⟨_, h.exec, h.bytes, h.kept,
    fun hleft => ⟨_, _, h.goesOn hleft, h.left, rfl, _, mem_lanesDone h.mem _, h.lane_eq, rfl, rfl⟩,
    fun hall _ hreg htyp hlane => h.result hall hreg htyp hlane⟩

end AtPlace

end Sys2Proof.Machine
end

section
/-! PROOFS. SharedNumber: why O29 fails as stated. `Work.newId` numbers operations apart, but O29 asks for an atomic that is alone under its number in
its last clause only. Where another operation bears the number too, the flags of the lane go to both (`Work.performLane` changes every operation of
that number). No enabled trap stops an atomic (R146), but one stops any other operation when it retires (R223): the halt then begins, and its stop
record is written outside the lane's bytes. Where the atomic is alone under its number, `AtPlace.performs` holds. -/

namespace Sys2Proof.Machine

/-- The byte that memory holds at a key in the state a step answers. -/
def byteAfter (o : Out) (k : Nat) : Option Byte :=
  match o with
  | .next t => some (t.mem.get k)
  | _ => none

/-- The one lane of an AFADD on FP32: local memory holds +0 there, and the operand is a signalling NaN, so that the lane raises INV (R146). -/
def nanLane : AtomicLane := { lane := 0, refs := (List.range 4).map fun i => { key := localBase + i }, opnd := 0x7F800001 }

/-- The AFADD of that lane, which is operation 0. -/
def nanAtomic : Op := { id := 0, crew := 0, cls := 1, iaddr := 0, lanes := 1, kind := .atomic 10 4 0 (some 0) [nanLane] none none }

/-- A complete matrix operation of the same crew and the same number. -/
def sameNumber : Op := { id := 0, crew := 0, cls := 4, iaddr := 0, lanes := 1, kind := .matrix, done := true }

/-- A crew with some operations in flight, in a context that traps INV (CMR bit 8, R209). -/
def inFlight (os : List Op) : State :=
  { d := { parts := [{ towers := [0], ctx := some 0 }], ctxs := [{ ctxid := 0, part := 0, cmr := 0x100 }], crews := [{}], ops := os } }

theorem nanLane_routeUp (os : List Op) : routeUp (inFlight os) {} nanLane.refs := by
  have elsewhere : ∀ r ∈ nanLane.refs, placeOf r.key ≠ 2 := by decide
  exact fun r hr h => absurd h (elsewhere r hr)

/-- Alone in flight the atomic performs its lane as O29 says. -/
theorem nanAtomic_atPlace : AtPlace (inFlight [nanAtomic]) 0 0 nanAtomic {} 10 4 0 (some 0) [nanLane] none nanLane where
  found := rfl
  crew := rfl
  kind := rfl
  left := rfl
  next := rfl
  lower := by decide
  turn := by decide +kernel
  route := nanLane_routeUp _
  sound := rfl
  keys := by decide
  late := ⟨List.forall_mem_singleton.2 (.inr rfl), List.forall_mem_nil _⟩
  wf := rfl
  own := by simp [inFlight]

/-- The atomic beside an operation of its number. -/
def sharedNumber : State := inFlight [nanAtomic, sameNumber]

theorem sharedNumber_noLateTraps : noLateTraps sharedNumber :=
  ⟨List.forall_mem_cons.2 ⟨.inr rfl, List.forall_mem_singleton.2 (.inl rfl)⟩, List.forall_mem_nil _⟩

theorem sharedNumber_inTurn : sharedNumber.work.inTurn nanAtomic {} false nanLane = true := by decide +kernel

/-- The reason's byte of the first stop record of the partition, which is no byte of the lane. -/
theorem recordKey_not_mem_nanLane : recordKey 0 0 + 31 ∉ nanLane.refs.map (·.key) := by decide

theorem sharedNumber_byte : sharedNumber.mem.get (recordKey 0 0 + 31) = 0 := rfl

/-- The matrix operation retires with the atomic's flag, and the fault's stop record is written. -/
theorem byteAfter_sharedNumber :
    byteAfter (exec (.atomicAtPlace 0 0) sharedNumber) (recordKey 0 0 + 31) = some (BitVec.ofNat 8 Reason.floatException.code) := by
  decide +kernel

/-- Refutes O29: the atomic shares its number with a complete matrix operation, which takes the lane's INV flag, traps as it retires and has a stop
record written, where the statement claims that the lane's own bytes are all that changes. -/
theorem not_atomicsAtTheirPlace : ¬ Obligations.AtomicsAtTheirPlace := by
  unfold Obligations.AtomicsAtTheirPlace
  rintro ⟨-, -, performs⟩
  obtain ⟨t, hexec, -, kept, -⟩ := performs sharedNumber 0 0 nanAtomic {} 10 4 0 (some 0) [nanLane] none nanLane rfl rfl rfl rfl rfl (by decide)
    (by decide) sharedNumber_inTurn (nanLane_routeUp _) rfl (by decide) sharedNumber_noLateTraps rfl
  have unchanged : t.mem.get (recordKey 0 0 + 31) = 0 := (kept _ recordKey_not_mem_nanLane).trans sharedNumber_byte
  have written := byteAfter_sharedNumber
  rw [hexec, byteAfter, unchanged] at written
  exact absurd written (by decide)

end Sys2Proof.Machine
end

section
/-! PROOFS. LaneElements: what is read back from a lane that was packed element by element (R183, R215). -/

namespace Sys2Proof.Machine

theorem elem_eq_toNat (w : Nat) (v : Word) (e : Nat) : elem w v e = (elementAt w v e).toNat := by
  rw [elem, elementAt, BitVec.extractLsb'_toNat, Nat.shiftRight_eq_div_pow]

theorem testBit_pack {w i : Nat} (hi : i < w) (l : List Nat) (e : Nat) : (pack w l).testBit (w * e + i) = (l.getD e 0).testBit i := by
  induction l generalizing e with
  | nil => simp [pack]
  | cons x r ih =>
    rw [pack, Nat.add_comm, Nat.testBit_two_pow_mul_add _ (Nat.mod_lt _ (Nat.two_pow_pos w))]
    cases e with
    | zero => simp [hi]
    | succ e =>
      rw [if_neg (by rw [Nat.mul_succ]; omega), show w * (e + 1) + i - w = w * e + i by rw [Nat.mul_succ]; omega, ih, List.getD_cons_succ]

theorem elementAt_eachElem {w e : Nat} (he : e < 64 / w) (f : Nat → Nat) : elementAt w (eachElem w f) e = BitVec.ofNat w (f e) := by
  have inside : w * e + w ≤ 64 := calc
    w * e + w = w * (e + 1) := rfl
    _ ≤ w * (64 / w) := Nat.mul_le_mul_left w he
    _ ≤ 64 := Nat.mul_div_le 64 w
  ext i hi
  rw [elementAt, BitVec.getElem_extractLsb', eachElem, BitVec.getLsbD_ofNat, testBit_pack hi, ← BitVec.getLsbD_eq_getElem hi, BitVec.getLsbD_ofNat]
  simp [he, hi, show w * e + i < 64 by omega]

theorem elements_eachElem {w : Nat} {f : Nat → Nat} {g : Nat → BitVec w} (h : ∀ e, f e = (g e).toNat) : elements w (eachElem w f) g := by
  intro e he
  rw [← elementAt, elementAt_eachElem he, h, BitVec.ofNat_toNat, BitVec.setWidth_eq]

end Sys2Proof.Machine
end

section
/-! PROOFS. ExactFp32: RoundTo FP32 of a value with at most 24 significant bits and a normal exponent, and the numbers of U24 (R213, R217, R228). -/

namespace Sys2Proof.Machine

theorem fp32_value_normal {e m : Nat} (he : 0 < e) (he' : e < 255) (hm : m < 2 ^ 23) :
    Fmt.fp32.value (e * 2 ^ 23 + m) = .fin false (m + 2 ^ 23) ((e : Int) - 127 - 23) := by
  have man : (e * 2 ^ 23 + m) % 2 ^ 23 = m := by omega
  have exp : (e * 2 ^ 23 + m) / 2 ^ 23 % 2 ^ 8 = e := by omega
  have sign : (e * 2 ^ 23 + m) / 2 ^ (8 + 23) % 2 = 0 := by omega
  simp only [Fmt.value, Fmt.isFloat, Fmt.mb, Fmt.eb, Fmt.signBit, Fmt.ieee, Fmt.bias, man, exp, sign]
  simp [he.ne', he'.ne]

theorem packMag_normal (f : Fmt) {k : Nat} (q : Int) (lo : 2 ^ f.mb ≤ k) (hi : k < 2 ^ (f.mb + 1)) :
    packMag f k q = (q + f.mb + f.bias).toNat * 2 ^ f.mb + (k - 2 ^ f.mb) := by
  rw [packMag, if_neg (Nat.not_lt.2 lo)]
  simp only [beq_iff_eq, hi.ne, if_false]

theorem roundQuantum_of_le {q e : Int} (h : q ≤ e) (r : Rnd) (neg : Bool) (m : Nat) :
    roundQuantum r neg m e q false = (m * 2 ^ (e - q).toNat, false) := if_pos h

/-- A number shifted so that its leading bit is bit `n`. -/
theorem shifted_bounds {m n : Nat} (hm : m ≠ 0) (h : Nat.log2 m ≤ n) :
    2 ^ n ≤ m * 2 ^ (n - Nat.log2 m) ∧ m * 2 ^ (n - Nat.log2 m) < 2 ^ (n + 1) := by
  constructor
  · calc
      2 ^ n = 2 ^ Nat.log2 m * 2 ^ (n - Nat.log2 m) := by rw [← pow_add, Nat.add_sub_cancel' h]
      _ ≤ m * 2 ^ (n - Nat.log2 m) := Nat.mul_le_mul_right _ (Nat.log2_self_le hm)
  · calc
      m * 2 ^ (n - Nat.log2 m) < 2 ^ (Nat.log2 m + 1) * 2 ^ (n - Nat.log2 m) := Nat.mul_lt_mul_of_pos_right Nat.lt_log2_self (Nat.two_pow_pos _)
      _ = 2 ^ (n + 1) := by rw [← pow_add, Nat.add_right_comm, Nat.add_sub_cancel' h]

section Normal
variable {m : Nat} {e : Int} (k : FCtl) (hm : m ≠ 0) (bits : Nat.log2 m ≤ 23) (lo : -126 ≤ (Nat.log2 m : Int) + e) (hi : (Nat.log2 m : Int) + e ≤ 127)
include hm bits lo hi

theorem roundTo_fp32_normal :
    (roundTo k .fp32 (.fin false m e)).bits = ((Nat.log2 m : Int) + e + 127).toNat * 2 ^ 23 + (m * 2 ^ (23 - Nat.log2 m) - 2 ^ 23) := by
  obtain ⟨big, small⟩ := shifted_bounds hm bits
  rw [roundTo, if_neg (by simpa using hm), roundFin]
  generalize Nat.log2 m = n at *
  have emax : ((Fmt.fp32.maxBits / 2 ^ Fmt.fp32.mb : Nat) : Int) - (Fmt.fp32.bias : Int) = 127 := by decide
  have largest : Fmt.fp32.maxBits = 254 * 2 ^ 23 + (2 ^ 23 - 1) := by decide
  have quantum : max ((n : Int) + e) (1 - (Fmt.fp32.bias : Int)) - (Fmt.fp32.mb : Int) = (n : Int) + e - 23 := by
    simp only [Fmt.bias, Fmt.mb]; omega
  have rounded := roundQuantum_of_le (show (n : Int) + e - 23 ≤ e by omega) k.rnd false m
  have shift : (e - ((n : Int) + e - 23)).toNat = 23 - n := by omega
  have field : ((n : Int) + e - 23 + Fmt.fp32.mb + Fmt.fp32.bias).toNat = ((n : Int) + e + 127).toNat := by
    simp only [Fmt.bias, Fmt.mb]; omega
  have packed : packMag .fp32 (m * 2 ^ (23 - n)) ((n : Int) + e - 23) = ((n : Int) + e + 127).toNat * 2 ^ 23 + (m * 2 ^ (23 - n) - 2 ^ 23) := by
    rw [packMag_normal .fp32 _ big small, field]; rfl
  have normal : decide (m * 2 ^ (23 - n) < 2 ^ Fmt.fp32.mb) = false := decide_eq_false (Nat.not_lt.2 big)
  simp only [emax, quantum, rounded, shift, packed, normal, Bool.and_false]
  rw [if_neg (by omega), if_neg (by omega)]
  simp [Fmt.signed]

theorem rat_roundTo_fp32_normal : (Fmt.fp32.value (roundTo k .fp32 (.fin false m e)).bits).rat = (Val.fin false m e).rat := by
  obtain ⟨big, small⟩ := shifted_bounds hm bits
  rw [roundTo_fp32_normal k hm bits lo hi, fp32_value_normal (by omega) (by omega) (by omega), Nat.sub_add_cancel big, Val.rat, Val.rat]
  have exponent : (((Nat.log2 m : Int) + e + 127).toNat : Int) - 127 - 23 = e - (23 - Nat.log2 m : Nat) := by omega
  rw [exponent, zpow_sub₀ two_ne_zero, zpow_natCast, Nat.cast_mul, Nat.cast_pow, Nat.cast_ofNat]
  field_simp

end Normal

theorem u24_lt (z : Word) : u24 z < 2 ^ 32 := by
  have lt := z.isLt
  rw [u24]
  generalize hk : z.toNat / 2 ^ 40 = m
  by_cases hm : m = 0
  · subst hm
    decide
  · have bits : Nat.log2 m < 24 := (Nat.log2_lt hm).2 (by omega)
    have small := (shifted_bounds hm (Nat.lt_succ_iff.1 bits)).2
    rw [roundTo_fp32_normal _ hm (by omega) (by omega) (by omega)]
    omega

theorem rat_u24 (z : Word) : (Fmt.fp32.value (u24 z)).rat = some (((z.extractLsb' 40 24).toNat : ℚ) / 2 ^ 24) := by
  have top : (z.extractLsb' 40 24).toNat = z.toNat / 2 ^ 40 := by
    rw [BitVec.extractLsb'_toNat, Nat.shiftRight_eq_div_pow]
    have := z.isLt
    omega
  rw [u24, ← top]
  have lt := (z.extractLsb' 40 24).isLt
  generalize (z.extractLsb' 40 24).toNat = m at *
  by_cases hm : m = 0
  · subst hm
    norm_num [roundTo, Fmt.value, Fmt.zero, Fmt.signed, Fmt.isFloat, Fmt.ieee, Val.rat, Fmt.eb, Fmt.mb, Fmt.signBit]
  · have bits : Nat.log2 m < 24 := (Nat.log2_lt hm).2 lt
    rw [rat_roundTo_fp32_normal _ hm (by omega) (by omega) (by omega), Val.rat]
    norm_num [zpow_neg, div_eq_mul_inv]

end Sys2Proof.Machine
end

section
/-! PROOFS. CrossLane: the moves between lanes, the masks of lanes, the votes and the random numbers (R183, R192, R227, R228, R284, R287). -/

namespace Sys2Proof.Machine

/-! ## Masks of lanes -/

theorem length_maskLanes_below (m : Mask) {l : Nat} (hl : l < 32) :
    ((maskLanes m).filter (· < l)).length = (List.range l).countP fun k => m.getLsbD k := by
  have below : (List.range 32).filter (· < l) = List.range l := by
    simpa [List.Ico.zero_bot, Nat.min_eq_right hl.le] using List.Ico.filter_lt 0 32 l
  rw [maskLanes, lanes, List.filter_comm, below, List.countP_eq_length_filter]

theorem maskWord_high (m : Mask) : (maskWord m).extractLsb' 32 32 = 0 := by
  ext i hi
  simp [maskWord]

theorem maskWord_getLsbD (m : Mask) {k : Nat} (hk : k < 32) : (maskWord m).getLsbD k = m.getLsbD k := by
  rw [maskWord, BitVec.getLsbD_setWidth, decide_eq_true (by omega), Bool.true_and]

/-- The word ACTV packs of a mask and a lane's rank in it. -/
theorem actvWord_fields (m : Mask) {n : Nat} (hn : n < 32) : let v : Word := BitVec.ofNat 64 (m.toNat + 2 ^ 32 * n)
    v.extractLsb' 0 32 = m ∧ (v.extractLsb' 32 5).toNat = n ∧ v.extractLsb' 37 27 = 0 := by
  have hm := m.isLt
  refine ⟨BitVec.eq_of_toNat_eq ?_, ?_, BitVec.eq_of_toNat_eq ?_⟩ <;>
    simp only [BitVec.extractLsb'_toNat, BitVec.toNat_ofNat, BitVec.ofNat_eq_ofNat, Nat.shiftRight_eq_div_pow] <;> omega

/-! ## Votes (R284) -/

/-- What VOTE computes of the answers of the active lanes. -/
def voteOf (mode : Nat) (vs : List Bool) : Bool :=
  match mode with
  | 0 => vs.all id
  | 1 => vs.any id
  | _ => vs.all id || vs.all (!·)

theorem voteOf_all (vs : List Bool) : voteOf 0 vs = true ↔ ∀ b ∈ vs, b = true := by simp [voteOf]

theorem voteOf_any (vs : List Bool) : voteOf 1 vs = true ↔ ∃ b ∈ vs, b = true := by simp [voteOf]

theorem voteOf_uni (vs : List Bool) : voteOf 2 vs = true ↔ ∀ a ∈ vs, ∀ b ∈ vs, a = b := by
  have sides : voteOf 2 vs = true ↔ (∀ b ∈ vs, b = true) ∨ ∀ b ∈ vs, b = false := by simp [voteOf]
  rw [sides]
  refine ⟨?_, fun agree => ?_⟩
  · rintro (h | h) a ha b hb <;> rw [h a ha, h b hb]
  · by_cases h : true ∈ vs
    · exact .inl fun b hb => agree b hb true h
    · exact .inr fun b hb => Bool.eq_false_iff.2 fun e => h (e ▸ hb)

/-! ## VK64 and Bern (R227, R228) -/

/-- Round `r` of VK64 under the key `k` (R227). -/
def vkRound (k : Word) (r : Nat) (x : Word) : Word :=
  let x := x + k + BitVec.ofNat 64 r * 0x9E3779B97F4A7C15#64
  let x := x ^^^ (x >>> 29)
  let x := x * 0xBF58476D1CE4E5B9#64
  x ^^^ (x >>> 32)

theorem vkRounds_succ (k0 k1 : Word) (n r : Nat) (x : Word) :
    vkRounds k0 k1 (n + 1) r x = vkRounds k0 k1 n (r + 1) (vkRound (if r % 2 == 0 then k0 else k1) r x) :=
  vkRounds.eq_def k0 k1 (n + 1) r x

theorem vkRounds_eq_foldl (k0 k1 : Word) (n r : Nat) (x : Word) :
    vkRounds k0 k1 n r x = (List.range' r n).foldl (fun x r => vkRound (if r % 2 = 0 then k0 else k1) r x) x := by
  induction n generalizing r x with
  | zero => rfl
  | succ n ih =>
    rw [vkRounds_succ, ih, List.range'_succ, List.foldl_cons]
    simp only [beq_iff_eq]

theorem vk64_eq_foldl (x k0 k1 : Word) :
    vk64 x k0 k1 = (List.range 8).foldl (fun x r => vkRound (if r % 2 = 0 then k0 else k1) r x) x := by
  rw [vk64, vkRounds_eq_foldl, List.range_eq_range']

theorem bern_eq_ite (z t : Word) : BitVec.ofNat 64 (bern z (t.toNat % 2 ^ 16)) = if z.extractLsb' 48 16 < t.extractLsb' 0 16 then 1 else 0 := by
  have below : z.extractLsb' 48 16 < t.extractLsb' 0 16 ↔ u16 z < t.toNat % 2 ^ 16 := by
    have := z.isLt
    rw [BitVec.lt_def, BitVec.extractLsb'_toNat, BitVec.extractLsb'_toNat, Nat.shiftRight_eq_div_pow, Nat.mod_eq_of_lt (by omega), u16]
    rfl
  simp only [bern, below]
  split <;> rfl

theorem u24Word_fields (z : Word) : let v : Word := BitVec.ofNat 64 (u24 z)
    v.extractLsb' 32 32 = 0 ∧ (Fmt.fp32.value v.toNat).rat = some (((z.extractLsb' 40 24).toNat : ℚ) / 2 ^ 24) := by
  intro v
  have lt := u24_lt z
  have hv : v.toNat = u24 z := Nat.mod_eq_of_lt (by omega)
  refine ⟨BitVec.eq_of_toNat_eq ?_, by rw [hv, rat_u24]⟩
  rw [BitVec.extractLsb'_toNat, hv, Nat.shiftRight_eq_div_pow, Nat.div_eq_of_lt lt]
  rfl

/-! ## What each instruction executes -/

theorem exec_shfl (o : OpRR) (s : State) :
    ∀ p ∈ [(Instr.shfl64, 64), (.shfl32, 32), (.shfl16, 16), (.shfl8, 8)], exec (p.1 o) s = shflOp p.2 o s := by
  simp only [List.forall_mem_cons]
  exact ⟨rfl, rfl, rfl, rfl, nofun⟩

theorem exec_sperm (o : OpRR) (s : State) : exec (.sperm o) s = execSperm o s := rfl

theorem exec_bcast (o : OpLane) (s : State) : exec (.bcast o) s = uniOp s o.g o.a o.d fun i => i.val o.a.toNat o.k.toNat := rfl

theorem exec_xorl (o : OpLane) (s : State) : exec (.xorl o) s = genOp s o.g [o.a] o.d fun i l => i.val o.a.toNat (l ^^^ o.k.toNat) := rfl

theorem exec_rotl (o : OpLane) (s : State) : exec (.rotl o) s = genOp s o.g [o.a] o.d fun i l => i.val o.a.toNat ((l + o.k.toNat) % 32) := rfl

theorem exec_actv (o : OpD) (s : State) : exec (.actv o) s = execActv o s := rfl

theorem exec_laneMatch (o : OpMatch) (s : State) : exec (.laneMatch o) s = execLaneMatch o s := rfl

theorem exec_ballot (o : OpBallot) (s : State) : exec (.ballot o) s = execBallot o s := rfl

theorem exec_vote (o : OpVote) (s : State) :
    exec (.vote o) s = predOp s o.g [] o.q fun i _ => voteOf o.mode.toNat ((maskLanes i.act).map fun k => i.c.predSrc o.neg o.s k) := rfl

theorem exec_rng64 (o : OpDA) (s : State) : exec (.rng64 o) s = execRng64 o s := rfl

theorem exec_rngu (o : OpDA) (s : State) : exec (.rngu o) s = execRngu o s := rfl

theorem exec_rngb (o : OpRR) (s : State) : exec (.rngb o) s = execRngb o s := rfl

/-! ## What each instruction leaves -/

section Results
variable {s : State} {cu : Cur} {c : Crew}

theorem uniOp_done {g : Guard} {a d : Reg} {f : Iss → Word} {P : Nat → Word → Prop} (h : Ready s cu c g [a.toNat, d.toNat]) (hr : c.roomForG d.toNat)
    (hv : ∀ l < 32, (activeLanes cu c g).getLsbD l = true → P l (f { cu := cu, c := c, act := activeLanes cu c g, w0 := s.chosen cu c })) :
    ∃ t, uniOp s g a d f = .next t ∧ regDone s t cu c g d.toNat P :=
  put_done (v := .uni (f { cu := cu, c := c, act := activeLanes cu c g, w0 := s.chosen cu c })) h hr rfl nofun nofun (by rintro i rfl; rfl) hv

theorem shflOp_done {o : OpRR} (h : Ready s cu c o.g [o.a.toNat, o.b.toNat, o.d.toNat]) (hr : c.roomForG o.d.toNat) (w : Nat) :
    ∃ t, shflOp w o s = .next t ∧ regDone s t cu c o.g o.d.toNat fun l v => elements w v fun e =>
      let i := (elementAt w (c.val o.b.toNat l) e).toNat % (32 * (64 / w))
      elementAt w (c.val o.a.toNat (i / (64 / w))) (i % (64 / w)) := by
  refine genOp_done h hr fun l _ _ => elements_eachElem fun e => ?_
  simp only [Crew.vecElem, Iss.val, elem_eq_toNat]

theorem sperm_done {o : OpRR} (h : Ready s cu c o.g [o.a.toNat, o.b.toNat, o.d.toNat]) (hr : c.roomForG o.d.toNat) :
    ∃ t, exec (.sperm o) s = .next t ∧ regDone s t cu c o.g o.d.toNat fun l v => elements 8 v fun e =>
      let n := elementAt 8 (c.val o.b.toNat l) e
      if n.getLsbD 7 then 0 else elementAt 8 (c.val o.a.toNat l) (n.toNat % 8) := by
  rw [exec_sperm]
  refine genOp_done h hr fun l _ _ => elements_eachElem fun e => ?_
  have top (n : BitVec 8) : n.getLsbD 7 = true ↔ 128 ≤ n.toNat := by
    rw [← BitVec.msb_eq_getLsbD_last, BitVec.msb_eq_decide, decide_eq_true_iff]
  simp only [Iss.val, elem_eq_toNat, top, apply_ite BitVec.toNat]
  rfl

theorem laneMove_done {o : OpLane} (h : Ready s cu c o.g [o.a.toNat, o.d.toNat]) (hr : c.roomForG o.d.toNat) {i : OpLane → Instr} {src : Nat → Nat}
    (hi : (i, src) ∈ [(Instr.bcast, fun _ => o.k.toNat), (.xorl, fun l => l ^^^ o.k.toNat), (.rotl, fun l => (l + o.k.toNat) % 32)]) :
    ∃ t, exec (i o) s = .next t ∧ regDone s t cu c o.g o.d.toNat fun l v => v = c.val o.a.toNat (src l) := by
  simp only [List.mem_cons, Prod.mk.injEq, List.not_mem_nil, or_false] at hi
  obtain ⟨rfl, rfl⟩ | ⟨rfl, rfl⟩ | ⟨rfl, rfl⟩ := hi
  · rw [exec_bcast]
    exact uniOp_done h hr fun _ _ _ => rfl
  · rw [exec_xorl]
    exact genOp_done h hr fun _ _ _ => rfl
  · rw [exec_rotl]
    exact genOp_done h hr fun _ _ _ => rfl

theorem actv_done {o : OpD} (h : Ready s cu c o.g [o.d.toNat]) (hr : c.roomForG o.d.toNat) :
    ∃ t, exec (.actv o) s = .next t ∧ regDone s t cu c o.g o.d.toNat fun l v => v.extractLsb' 0 32 = activeLanes cu c o.g ∧
      (v.extractLsb' 32 5).toNat = (List.range l).countP (fun k => (activeLanes cu c o.g).getLsbD k) ∧ v.extractLsb' 37 27 = 0 := by
  rw [exec_actv]
  refine genOp_done h hr fun l hl _ => ?_
  have few : (List.range l).countP (fun k => (activeLanes cu c o.g).getLsbD k) < 32 := (List.countP_le_length.trans_eq List.length_range).trans_lt hl
  simp only [length_maskLanes_below _ hl]
  exact actvWord_fields _ few

theorem laneMatch_done {o : OpMatch} (h : Ready s cu c o.g [o.a.toNat, o.d.toNat]) (hr : c.roomForG o.d.toNat) :
    ∃ t, exec (.laneMatch o) s = .next t ∧ regDone s t cu c o.g o.d.toNat fun l v => v.extractLsb' 32 32 = 0 ∧ ∀ k < 32, v.getLsbD k =
      ((activeLanes cu c o.g).getLsbD k && if o.k32 then (c.val o.a.toNat k).setWidth 32 == (c.val o.a.toNat l).setWidth 32
        else c.val o.a.toNat k == c.val o.a.toNat l) := by
  rw [exec_laneMatch]
  refine genOp_done h hr fun l _ _ => ⟨maskWord_high _, fun k hk => ?_⟩
  have low (v : Word) : elem 32 v 0 = (v.setWidth 32).toNat := by simp [elem]
  rw [maskWord_getLsbD _ hk, maskOf_getLsbD _ _ hk]
  cases o.k32 <;> simp [Iss.val, low, ← BitVec.toNat_inj, Bool.beq_eq_decide_eq]

theorem ballot_done {o : OpBallot} (h : Ready s cu c o.g [o.d.toNat]) (hr : c.roomForG o.d.toNat) :
    ∃ t, exec (.ballot o) s = .next t ∧ regDone s t cu c o.g o.d.toNat fun _ v => v.extractLsb' 32 32 = 0 ∧ ∀ k < 32, v.getLsbD k =
      ((activeLanes cu c o.g).getLsbD k && ((c.pred o.q.toNat).getLsbD k ^^ o.neg)) := by
  rw [exec_ballot]
  refine genOp_done h hr fun l _ _ => ⟨maskWord_high _, fun k hk => ?_⟩
  rw [maskWord_getLsbD _ hk, maskOf_getLsbD _ _ hk, Crew.predSrc, Bool.bne_eq_xor]

theorem vote_done {o : OpVote} (hq : o.q ≠ 7) (h : Ready s cu c o.g []) :
    let yes := fun k => (c.pred o.s.toNat).getLsbD k ^^ o.neg
    let on := fun k => decide (k < 32) && (activeLanes cu c o.g).getLsbD k
    ∃ (t : State) (b : Bool), exec (.vote o) s = .next t ∧ predDone s t cu c o.g o.q.toNat (fun _ => b) ∧
      (o.mode = 0 → (b = true ↔ ∀ k : Nat, on k = true → yes k = true)) ∧ (o.mode = 1 → (b = true ↔ ∃ k : Nat, on k = true ∧ yes k = true)) ∧
      (o.mode = 2 → (b = true ↔ ∀ j k : Nat, on j = true → on k = true → yes j = yes k)) := by
  intro yes on
  have answers : ((maskLanes (activeLanes cu c o.g)).map fun k => c.predSrc o.neg o.s k) = (maskLanes (activeLanes cu c o.g)).map yes := by
    simp only [Crew.predSrc, Bool.bne_eq_xor, yes]
  have mem_on (k : Nat) : k ∈ maskLanes (activeLanes cu c o.g) ↔ on k = true := by simp [on, mem_maskLanes]
  obtain ⟨t, ht, hdone⟩ := predOp_done (srcs := []) h hq
    (f := fun i _ => voteOf o.mode.toNat ((maskLanes i.act).map fun k => i.c.predSrc o.neg o.s k))
  refine ⟨t, _, ht, hdone, fun all => ?_, fun any => ?_, fun uni => ?_⟩
  · rw [answers, all]
    simpa [mem_on] using voteOf_all ((maskLanes (activeLanes cu c o.g)).map yes)
  · rw [answers, any]
    simpa [mem_on] using voteOf_any ((maskLanes (activeLanes cu c o.g)).map yes)
  · rw [answers, uni]
    refine (voteOf_uni _).trans ?_
    simp only [List.forall_mem_map, mem_on]
    exact ⟨fun agree j k hj hk => agree j hj k hk, fun agree j hj k hk => agree j k hj hk⟩

theorem rng64_done {o : OpDA} (h : Ready s cu c o.g [o.a.toNat, o.d.toNat]) (hr : c.roomForG o.d.toNat) :
    ∃ t, exec (.rng64 o) s = .next t ∧ regDone s t cu c o.g o.d.toNat fun l v => v = vk64 (c.val o.a.toNat l) c.sp.key0 c.sp.key1 := by
  rw [exec_rng64]
  exact genOp_done h hr fun _ _ _ => rfl

theorem rngu_done {o : OpDA} (h : Ready s cu c o.g [o.a.toNat, o.d.toNat]) (hr : c.roomForG o.d.toNat) :
    ∃ t, exec (.rngu o) s = .next t ∧ regDone s t cu c o.g o.d.toNat fun l v => v.extractLsb' 32 32 = 0 ∧
      (Fmt.fp32.value v.toNat).rat = some ((((vk64 (c.val o.a.toNat l) c.sp.key0 c.sp.key1).extractLsb' 40 24).toNat : ℚ) / 2 ^ 24) := by
  rw [exec_rngu]
  exact genOp_done h hr fun _ _ _ => u24Word_fields _

theorem rngb_done {o : OpRR} (h : Ready s cu c o.g [o.a.toNat, o.b.toNat, o.d.toNat]) (hr : c.roomForG o.d.toNat) :
    ∃ t, exec (.rngb o) s = .next t ∧ regDone s t cu c o.g o.d.toNat fun l v =>
      v = if (vk64 (c.val o.a.toNat l) c.sp.key0 c.sp.key1).extractLsb' 48 16 < (c.val o.b.toNat l).extractLsb' 0 16 then 1 else 0 := by
  rw [exec_rngb]
  exact genOp_done h hr fun _ _ _ => bern_eq_ite _ _

end Results

/-- Settles O15, instruction by instruction: each writes lane by lane what its own lemma above says, and the rounds of VK64 are a fold over their
numbers. -/
theorem crossLaneResults : Obligations.CrossLaneResults := by
  refine ⟨fun s cu c => ⟨fun o h hr => ⟨fun p hp => ?_, sperm_done h hr⟩, fun o h hr i src hi => laneMove_done h hr hi, fun o h hr => actv_done h hr⟩,
    fun s cu c => ⟨fun o h hr => laneMatch_done h hr, fun o h hr => ballot_done h hr, fun o hq _ h => vote_done hq h⟩, ?_⟩
  · rw [exec_shfl o s p hp]
    exact shflOp_done h hr p.2
  · intro s cu c round vk
    have folded : (fun x => vk64 x c.sp.key0 c.sp.key1) = vk := funext fun x => vk64_eq_foldl x c.sp.key0 c.sp.key1
    clear_value vk
    subst folded
    exact ⟨fun o h hr => ⟨rng64_done h hr, rngu_done h hr⟩, fun o h hr => rngb_done h hr⟩

end Sys2Proof.Machine
end

section
/-! PROOFS. IntegerOps: the integer functions on bit vectors, what the integer instructions execute, and the register they leave (R203, R261, R262). -/

namespace Sys2Proof.Machine

/-! ## The functions on bit vectors (R262) -/

theorem ofSigned_eq_toNat_ofInt (w : Nat) (v : Int) : ofSigned w v = (BitVec.ofInt w v).toNat := by
  rw [BitVec.toNat_ofInt, ofSigned]
  norm_cast

/-- The high half of the low `2 * w` bits of an integer. -/
theorem extractLsb'_ofInt_high (w : Nat) (p : Int) : (BitVec.ofInt (2 * w) p).extractLsb' w w = BitVec.ofInt w (p / 2 ^ w) := by
  have width : (2 : Int) ^ (2 * w) = 2 ^ w * 2 ^ w := by rw [two_mul, pow_add]
  have positive : (0 : Int) < 2 ^ w := by positivity
  obtain ⟨n, hn⟩ := Int.eq_ofNat_of_zero_le (Int.emod_nonneg p (width ▸ mul_pos positive positive).ne')
  have split : p = n + 2 ^ w * (2 ^ w * (p / 2 ^ (2 * w))) := by
    have := Int.emod_add_mul_ediv p (2 ^ (2 * w))
    rw [hn, width, mul_assoc, ← width] at this
    exact this.symm
  apply BitVec.eq_of_toNat_eq
  rw [BitVec.extractLsb'_toNat, BitVec.toNat_ofInt, BitVec.toNat_ofInt, Nat.shiftRight_eq_div_pow]
  push_cast
  rw [hn, split, Int.add_mul_ediv_left _ _ positive.ne', Int.add_mul_emod_self_left]
  norm_cast

theorem sshiftRight_min_width {w : Nat} (a : BitVec w) (n : Nat) : a.sshiftRight (min n w) = a.sshiftRight n := by
  ext i hi
  rw [BitVec.getElem_sshiftRight, BitVec.getElem_sshiftRight]
  by_cases h : n ≤ w
  · rw [Nat.min_eq_left h]
  · rw [dif_neg (by omega), dif_neg (by omega)]

section Functions
variable {w : Nat} (a b : BitVec w)

theorem apply_add : IFn.add.apply w a.toNat b.toNat = (a + b).toNat := (BitVec.toNat_add ..).symm

theorem apply_sub : IFn.sub.apply w a.toNat b.toNat = (a - b).toNat := by
  have := b.isLt
  rw [BitVec.toNat_sub, IFn.apply, show 2 ^ w - b.toNat + a.toNat = a.toNat + 2 ^ w - b.toNat by omega]

theorem apply_mul : IFn.mul.apply w a.toNat b.toNat = (a * b).toNat := (BitVec.toNat_mul ..).symm

theorem apply_mulh (hw : 0 < w) :
    IFn.mulh.apply w a.toNat b.toNat = ((a.signExtend (2 * w) * b.signExtend (2 * w)).extractLsb' w w).toNat := by
  rw [IFn.apply, toSigned_toNat hw, toSigned_toNat hw, ofSigned_eq_toNat_ofInt, BitVec.signExtend, BitVec.signExtend, ← BitVec.ofInt_mul,
    extractLsb'_ofInt_high]

theorem apply_mulhu : IFn.mulhu.apply w a.toNat b.toNat = ((a.setWidth (2 * w) * b.setWidth (2 * w)).extractLsb' w w).toNat := by
  have product : a.toNat * b.toNat < 2 ^ w * 2 ^ w := Nat.mul_lt_mul'' a.isLt b.isLt
  have high : a.toNat * b.toNat / 2 ^ w < 2 ^ w := Nat.div_lt_of_lt_mul product
  have wide (x : BitVec w) : (x.setWidth (2 * w)).toNat = x.toNat := BitVec.toNat_setWidth_of_le (by omega)
  rw [← pow_add, ← two_mul] at product
  rw [BitVec.extractLsb'_toNat, BitVec.toNat_mul, wide, wide, Nat.mod_eq_of_lt product, Nat.shiftRight_eq_div_pow, Nat.mod_eq_of_lt high, IFn.apply]

theorem apply_shl : IFn.shl.apply w a.toNat b.toNat = (a <<< b.toNat).toNat := by
  rw [IFn.apply]
  by_cases h : w ≤ b.toNat
  · rw [if_pos h, BitVec.shiftLeft_eq_zero h, BitVec.toNat_zero]
  · rw [if_neg h, BitVec.toNat_shiftLeft, Nat.shiftLeft_eq]

theorem apply_shr : IFn.shr.apply w a.toNat b.toNat = (a >>> b.toNat).toNat := by
  rw [IFn.apply]
  by_cases h : w ≤ b.toNat
  · rw [if_pos h, BitVec.ushiftRight_eq_zero h, BitVec.toNat_zero]
  · rw [if_neg h, BitVec.toNat_ushiftRight, Nat.shiftRight_eq_div_pow]

theorem apply_sar (hw : 0 < w) : IFn.sar.apply w a.toNat b.toNat = (a.sshiftRight b.toNat).toNat := by
  rw [← sshiftRight_min_width, BitVec.sshiftRight_eq, Int.shiftRight_eq_div_pow, IFn.apply, sarBits, toSigned_toNat hw, ofSigned_eq_toNat_ofInt]
  norm_cast

theorem apply_addsat (hw : 0 < w) : IFn.addsat.apply w a.toNat b.toNat =
    (BitVec.ofInt w (max (-2 ^ (w - 1)) (min (a.toInt + b.toInt) (2 ^ (w - 1) - 1)))).toNat := by
  rw [IFn.apply, toSigned_toNat hw, toSigned_toNat hw, ofSigned_eq_toNat_ofInt, clampSigned]

end Functions

/-- The integer functions in minor order (R261). -/
def intFns : List IFn := [.add, .sub, .mul, .mulh, .mulhu, .min, .max, .minu, .maxu, .and, .or, .xor, .shl, .shr, .sar, .addsat]

/-- The model's integer functions on numbers are those of R262 on bit vectors. -/
theorem intFns_intRule {w : Nat} (hw : 0 < w) :
    List.Forall₂ (fun fn r => ∀ a b : BitVec w, fn.apply w a.toNat b.toNat = (r a b).toNat) intFns (intRule w) := by
  simp only [intFns, intRule, List.forall₂_cons, List.Forall₂.nil, and_true]
  have signed (a b : BitVec w) := toSigned_le_iff_sle hw a b
  refine ⟨apply_add, apply_sub, apply_mul, fun a b => apply_mulh a b hw, apply_mulhu, fun a b => ?min, fun a b => ?max, fun a b => ?minu,
    fun a b => ?maxu, fun a b => ?and, fun a b => ?or, fun a b => ?xor, apply_shl, apply_shr, fun a b => apply_sar a b hw,
    fun a b => apply_addsat a b hw⟩
  case min => simp only [IFn.apply, signed, apply_ite BitVec.toNat]
  case max => simp only [IFn.apply, signed, apply_ite BitVec.toNat]
  case minu => exact Nat.min_def.trans (apply_ite BitVec.toNat ..).symm
  case maxu => exact Nat.max_def.trans (apply_ite BitVec.toNat ..).symm
  case and => exact (BitVec.toNat_and ..).symm
  case or => exact (BitVec.toNat_or ..).symm
  case xor => exact (BitVec.toNat_xor ..).symm

/-! ## The lanes, and their affine cases (R203) -/

theorem elements_lane {w : Nat} {fn : IFn} {r : BitVec w → BitVec w → BitVec w} (h : ∀ a b : BitVec w, fn.apply w a.toNat b.toNat = (r a b).toNat)
    (x y : Word) : elements w (fn.lane w x y) fun e => r (elementAt w x e) (elementAt w y e) :=
  elements_eachElem fun e => by rw [elem_eq_toNat, elem_eq_toNat, h]

/-- At 64 bits a lane is its one element. -/
theorem lane_64 {fn : IFn} {r : Word → Word → Word} (h : ∀ a b : Word, fn.apply 64 a.toNat b.toNat = (r a b).toNat) (x y : Word) :
    fn.lane 64 x y = r x y := by
  have whole (v : Word) : v.extractLsb' 0 64 = v := BitVec.extractLsb'_eq_self
  simpa [elementAt, whole] using elements_lane h x y 0 (by decide)

/-- Where an affine case of an integer operation applies, its lanes are those the operation gives. -/
theorem aff_lane {w : Nat} {fn : IFn} {x y z : RegVal} (h : fn.aff w x y = some z) (l : Nat) : z.lane l = fn.lane w (x.lane l) (y.lane l) := by
  by_cases hw : w = 64
  · subst hw
    cases fn with
    | add => rw [RegVal.addv_lane h, lane_64 apply_add]
    | sub => rw [RegVal.subv_lane h, lane_64 apply_sub]
    | mul => rw [RegVal.mulv_lane h, lane_64 apply_mul]
    | shl => rw [RegVal.shlv_lane h, lane_64 apply_shl]
    | _ => exact nomatch h
  · simp [IFn.aff, hw, RegVal.nov] at h

/-! ## What each instruction executes -/

/-- The instruction `i` is the integer function `fn` of width `w`, and only I64 ADD, SUB, MUL and SHL have affine cases. -/
structure IntRow (w : Nat) (i : OpRR → Instr) (fn : IFn) : Prop where
  executes : ∀ (o : OpRR) (s : State), exec (i o) s = intOp w fn o s
  affine : i ∈ [Instr.i64Add, .i64Sub, .i64Mul, .i64Shl] ∨ fn.aff w = RegVal.nov

theorem intInstrs_rows {w : Nat} (hw : w ∈ [64, 32, 16, 8]) : List.Forall₂ (IntRow w) (intInstrs w) intFns := by
  simp only [List.mem_cons, List.not_mem_nil, or_false] at hw
  rcases hw with rfl | rfl | rfl | rfl
  all_goals
    simp only [intInstrs, intFns, List.forall₂_cons, List.Forall₂.nil, and_true]
    and_intros
  all_goals exact ⟨fun _ _ => rfl, by simp [IFn.aff]⟩

/-- Where two tables both match a third one row by row, a pair of their rows in one place has the third table's row there between them. -/
theorem exists_between_of_mem_zip {α β γ : Type} {R : α → β → Prop} {S : β → γ → Prop} {l₁ : List α} {l₂ : List β} {l₃ : List γ}
    (h : List.Forall₂ R l₁ l₂) (h' : List.Forall₂ S l₂ l₃) {p : α × γ} (hp : p ∈ l₁.zip l₃) : ∃ b, R p.1 b ∧ S b p.2 := by
  induction h generalizing l₃ with
  | nil => exact nomatch hp
  | cons hR _ ih =>
    obtain _ | ⟨hS, h'⟩ := h'
    rw [List.zip_cons_cons, List.mem_cons] at hp
    obtain rfl | hp := hp
    · exact ⟨_, hR, hS⟩
    · exact ih h' hp

/-! ## The register that is left (R203) -/

theorem Crew.started_full (c : Crew) (cu : Cur) (act : Mask) : (c.started cu).full act = c.full act := by
  simp only [Crew.full, Crew.live, Crew.started_exited]

theorem RegVal.tag_merge_ne_aff {new : RegVal} (h : new.tag ≠ 1) (old : RegVal) (full : Bool) (act : Mask) : (old.merge new full act).tag ≠ 1 := by
  cases full with
  | false => simp [RegVal.merge, RegVal.tag]
  | true =>
    cases new with
    | aff => exact absurd rfl h
    | _ => simp [RegVal.merge, RegVal.tag]

theorem Iss.tag_spread_ne_aff (i : Iss) (srcs : List Nat) (f : Nat → Word) : (i.spread srcs f).tag ≠ 1 := by
  unfold Iss.spread
  split <;> simp [RegVal.tag]

section Results
variable {s : State} {cu : Cur} {c : Crew}

/-- What an instruction that writes one register leaves in it, its tag included. -/
theorem put_reg {g : Guard} {u : Use} {body : Iss → Work → Res} {d : Nat} {v : RegVal} (h : Ready s cu c g (u.reads ++ u.writes))
    (hr : c.roomForG d) (hs : u.slots.permits c = true) (hh : u.home = true → c.landed = false) (hp : u.pends = true → c.wouldExceed u = false)
    (hb : ∀ i : Iss, i = { cu := cu, c := c, act := activeLanes cu c g, w0 := s.chosen cu c } → body i (s.begun cu c) = i.put (s.begun cu c) d v)
    (hru : u.refused = false := by rfl) :
    ∃ t c', issue s g u body = .next t ∧ t.d.crew cu.crew = some c' ∧
      c'.reg d = (c.reg d).merge v (c.full (activeLanes cu c g)) (activeLanes cu c g) := by
  obtain ⟨t, _, ht, hc, -⟩ := crew_done (body := body) (f := fun x => x.put d v (activeLanes cu c g)) h hs hh hp (fun _ => rfl)
    ((hb _ rfl).trans (Iss.put_ok v h.crew rfl hr)) hru
  refine ⟨t, _, ht, hc, ?_⟩
  show ((c.started cu).put d v (activeLanes cu c g)).reg d = _
  rw [Crew.reg_put, if_pos rfl, Crew.started_full, (c.started_same cu).reg]

/-- The register an instruction with affine cases leaves: the affine case where there is one, the lanes' values otherwise, merged into what the
register held. -/
theorem affOp_reg {g : Guard} {a b d : Reg} {aff : RegVal → RegVal → Option RegVal} {f : Word → Word → Word}
    (h : Ready s cu c g [a.toNat, b.toNat, d.toNat]) (hr : c.roomForG d.toNat) :
    let i : Iss := { cu := cu, c := c, act := activeLanes cu c g, w0 := s.chosen cu c }
    ∃ t c', affOp s g a b d aff f = .next t ∧ t.d.crew cu.crew = some c' ∧ c'.reg d.toNat = (c.reg d.toNat).merge
      ((aff (c.reg a.toNat) (c.reg b.toNat)).getD (i.spread [a.toNat, b.toNat] fun l => f (c.val a.toNat l) (c.val b.toNat l))) (c.full i.act) i.act :=
  put_reg h hr rfl nofun nofun (by rintro i rfl; rfl)

variable {w : Nat} {fn : IFn} {o : OpRR}

theorem intOp_done {r : BitVec w → BitVec w → BitVec w} (hv : ∀ a b : BitVec w, fn.apply w a.toNat b.toNat = (r a b).toNat)
    (h : Ready s cu c o.g [o.a.toNat, o.b.toNat, o.d.toNat]) (hr : c.roomForG o.d.toNat) :
    ∃ t, intOp w fn o s = .next t ∧ regDone s t cu c o.g o.d.toNat fun l v =>
      elements w v fun e => r (elementAt w (c.val o.a.toNat l) e) (elementAt w (c.val o.b.toNat l) e) :=
  affOp_done h hr (fun _ _ _ => aff_lane) fun _ _ _ => elements_lane hv _ _

/-- Without an affine case an integer operation never gives tag A. -/
theorem intOp_tag_ne_aff (haff : fn.aff w = RegVal.nov) (h : Ready s cu c o.g [o.a.toNat, o.b.toNat, o.d.toNat]) (hr : c.roomForG o.d.toNat)
    {t : State} (ht : intOp w fn o s = .next t) {c' : Crew} (hc : t.d.crew cu.crew = some c') : (c'.reg o.d.toNat).tag ≠ 1 := by
  obtain ⟨t', x, ht', hx, hreg⟩ := affOp_reg (aff := fn.aff w) (f := fn.lane w) h hr
  obtain rfl : t = t' := by injection ht.symm.trans ht'
  obtain rfl : c' = x := Option.some.inj (hc.symm.trans hx)
  rw [hreg, haff]
  exact RegVal.tag_merge_ne_aff (Iss.tag_spread_ne_aff _ _ _) _ _ _

end Results

/-- Settles O7, row by row of the table of R262: each instruction is an integer operation of the model, whose function is the row's on bit vectors,
and where it has no affine case what it writes is tagged U or G. -/
theorem integerResults : Obligations.IntegerResults := by
  intro s cu c o w hw h hr p hp
  have positive : 0 < w := by
    simp only [List.mem_cons, List.not_mem_nil, or_false] at hw
    omega
  obtain ⟨fn, row, value⟩ := exists_between_of_mem_zip (intInstrs_rows hw) (intFns_intRule positive) hp
  obtain ⟨t, ht, done⟩ := intOp_done value h hr
  refine ⟨t, (row.executes o s).trans ht, done, fun other c' hc => ?_⟩
  have plain : fn.aff w = RegVal.nov := row.affine.resolve_left fun affine => other _ affine rfl
  exact intOp_tag_ne_aff plain h hr ht hc

end Sys2Proof.Machine
end

section
/-! PROOFS. IssueEnds: what the end of an issue leaves of its crew, and the waits and yield points (R182, R298, R299). -/

namespace Sys2Proof.Machine

/-! ## Threads that move -/

/-- A complete hold is released in the threads that stand at it alone (R180). -/
theorem Crew.release_thread (c : Crew) {l : Nat} {t : Thread} (h : c.threads[l]? = some t) :
    ∃ t', c.release.threads[l]? = some t' ∧ t'.pc = t.pc ∧ t'.exited = t.exited ∧ (t'.m = t.m ∨ (t'.m = mNone ∧ t'.pc = t.m)) := by
  unfold Crew.release
  simp only [List.getElem?_map, h, Option.map_some]
  split
  case isTrue hheld =>
    have atPoint : t.pc = t.m := by simp only [Thread.held, Bool.and_eq_true, beq_iff_eq] at hheld; exact hheld.1.2
    exact ⟨_, rfl, rfl, rfl, .inr ⟨rfl, atPoint⟩⟩
  case isFalse => exact ⟨_, rfl, rfl, rfl, .inl rfl⟩

/-- The threads of a mask changed. -/
theorem Crew.modThreads_thread (c : Crew) (m : Mask) (f : Thread → Thread) {l : Nat} {t : Thread} (h : c.threads[l]? = some t) :
    (c.modThreads m f).threads[l]? = some (if m.getLsbD l then f t else t) := by
  simp [Crew.modThreads, h]

@[simp] theorem Crew.modThreads_threads_length (c : Crew) (m : Mask) (f : Thread → Thread) : (c.modThreads m f).threads.length = c.threads.length := by
  simp [Crew.modThreads]

@[simp] theorem Crew.release_threads_length (c : Crew) : c.release.threads.length = c.threads.length := by simp [Crew.release]

/-- The active lanes are lanes of the group (R177). -/
theorem group_of_activeLanes {cu : Cur} {c : Crew} {g : Guard} {l : Nat} (h : (activeLanes cu c g).getLsbD l = true) : cu.group.getLsbD l = true := by
  rw [activeLanes, BitVec.getLsbD_and, Bool.and_eq_true] at h
  exact h.1

/-- A crew advanced past an instruction, and then moved to `pc` in the lanes `act`, once it is released. -/
theorem threadsGo_setPc {cu : Cur} {c x : Crew} {act : Mask} {pc : Word} (h : x.threads = ((c.started cu).setPc act pc).threads) (a : Nat) :
    threadsGo cu c { x.release with age := a } act (fun _ => pc) (fun _ t => t.m) := by
  refine ⟨?_, fun l t ht => ?_⟩
  · show x.release.threads.length = _
    rw [Crew.release_threads_length, h, Crew.setPc, Crew.modThreads_threads_length, Crew.started_threads_length]
  · obtain ⟨t₁, h₁, pc₁, exited₁, m₁⟩ := c.started_thread cu l t ht
    obtain ⟨t₂, h₂, pc₂, exited₂, m₂⟩ := x.release_thread (l := l) (h ▸ Crew.modThreads_thread _ act (fun t => { t with pc := pc }) h₁)
    refine ⟨t₂, h₂, ?_, ?_, ?_⟩
    · rw [pc₂, ← pc₁]; split <;> rfl
    · rw [exited₂, ← exited₁]; split <;> rfl
    · show t₂.m = t.m ∨ t₂.m = mNone ∧ t₂.pc = t.m
      rw [← m₁]
      split at m₂ <;> exact m₂

/-- The threads that an issue leaves past it are where they would be if the active lanes were put there. -/
theorem Crew.started_setPc_ret (c : Crew) (cu : Cur) (g : Guard) :
    (c.started cu).threads = ((c.started cu).setPc (activeLanes cu c g) cu.ret).threads := by
  refine List.ext_getElem? fun l => ?_
  cases ht : c.threads[l]? with
  | none =>
    have short : c.threads.length ≤ l := List.getElem?_eq_none_iff.1 ht
    rw [List.getElem?_eq_none (by rwa [Crew.started_threads_length]),
      List.getElem?_eq_none (by rwa [Crew.setPc, Crew.modThreads_threads_length, Crew.started_threads_length])]
  | some t =>
    obtain ⟨t', h', pc', -⟩ := c.started_thread cu l t ht
    rw [Crew.setPc, Crew.modThreads_thread _ _ _ h', h']
    split
    case isTrue active =>
      rw [if_pos (group_of_activeLanes active)] at pc'
      rw [← pc']
    case isFalse => rfl

/-! ## What an issue leaves of its crew -/

theorem valuesKept_of {c c' : Crew} (hr : c'.regs = c.regs) (hp : c'.preds = c.preds) : valuesKept c c' :=
  ⟨fun r => by rw [Crew.reg, Crew.reg, hr], fun p => by rw [Crew.pred, Crew.pred, hp]⟩

/-- The fields of a crew that its advance past an instruction leaves. -/
theorem Crew.started_kept (c : Crew) (cu : Cur) : crewKept c (c.started cu) := by simp [crewKept, Crew.started]

@[simp] theorem Crew.started_regs (c : Crew) (cu : Cur) : (c.started cu).regs = c.regs := by simp [Crew.started]
@[simp] theorem Crew.started_preds (c : Crew) (cu : Cur) : (c.started cu).preds = c.preds := by simp [Crew.started]
@[simp] theorem Crew.started_sp (c : Crew) (cu : Cur) : (c.started cu).sp = c.sp := by simp [Crew.started]
@[simp] theorem Crew.started_cnt (c : Crew) (cu : Cur) : (c.started cu).cnt = c.cnt := by simp [Crew.started]
@[simp] theorem Crew.started_id (c : Crew) (cu : Cur) : (c.started cu).id = c.id := by simp [Crew.started]
@[simp] theorem Crew.started_team (c : Crew) (cu : Cur) : (c.started cu).team = c.team := by simp [Crew.started]
@[simp] theorem Crew.started_handler (c : Crew) (cu : Cur) : (c.started cu).handler = c.handler := by simp [Crew.started]
@[simp] theorem Crew.started_waits (c : Crew) (cu : Cur) : (c.started cu).waits = c.waits := by simp [Crew.started]
@[simp] theorem Crew.started_status (c : Crew) (cu : Cur) : (c.started cu).status = c.status := by simp [Crew.started]

/-- A changed crew. -/
theorem Dev.modCrew_own {d : Dev} {n : Nat} {c : Crew} (f : Crew → Crew) (hf : ∀ c, (f c).id = c.id) (h : d.crew n = some c) :
    (d.modCrew n f).crew n = some (f c) := by rw [Dev.modCrew_crew _ _ _ hf, if_pos rfl, h, Option.map_some]

/-- The crew that the effect of an issue finds. -/
theorem Iss.crew_begun {s : State} {c : Crew} {i : Iss} (h : s.d.crew i.cu.crew = some c) : i.crew (s.begun i.cu c) = c.started i.cu := by
  rw [Iss.crew, State.begun_crew h, Option.getD_some]

section Issue
variable {s : State} {cu : Cur} {c : Crew} {g : Guard}

/-- An instruction without registers that is ready, of a slot that may issue it. -/
theorem issue_plain {k : Slots} {body : Iss → Work → Res} {w : Work} (h : Ready s cu c g []) (hk : k.permits c = true)
    (hb : body { cu := cu, c := c, act := activeLanes cu c g, w0 := s.chosen cu c } (s.begun cu c) = .ok w) :
    issue s g { slots := k } body = .next (s.finish cu c w) := issue_ok h hk nofun nofun rfl hb

/-- The end of an issue whose effect changes its crew alone. -/
theorem finish_crew {f : Crew → Crew} (h : Ready s cu c g []) (hf : ∀ x, (f x).id = x.id) :
    let t := s.finish cu c ((s.begun cu c).mod fun d => d.modCrew cu.crew f)
    (∃ a, t.d.crew cu.crew = some { (f (c.started cu)).release with age := a }) ∧ restKept s t cu.crew := by
  have found : ((s.begun cu c).mod fun d => d.modCrew cu.crew f).d.crew cu.crew = some (f (c.started cu)) :=
    Dev.modCrew_own f hf (State.begun_crew h.crew)
  obtain ⟨-, -, -, -, -, crew⟩ := finish_spec cu c ((s.begun cu c).mod fun d => d.modCrew cu.crew f) h.alone rfl
  exact ⟨crew _ found, restKept_of h.alone rfl rfl (modCrew_kept hf (State.begun_kept h.crew))⟩

/-- The end of an issue without an effect: the threads of the group are past it. -/
theorem finish_nothing (h : Ready s cu c g []) : nothingDone s (s.finish cu c (s.begun cu c)) cu c := by
  have unchanged : ((s.begun cu c).mod fun d => d.modCrew cu.crew fun x => x) = s.begun cu c := by
    simp only [Work.mod, Dev.modCrew, ite_self, List.map_id']
  obtain ⟨⟨a, found⟩, kept⟩ := finish_crew (f := fun x => x) h fun _ => rfl
  rw [unchanged] at found kept
  exact ⟨_, found, valuesKept_of (c.started_regs cu) (c.started_preds cu), c.started_sp cu, threadsAdvance_of rfl a,
    crewKept_of (cu := cu) (by simp [crewKept]), kept⟩

end Issue

/-! ## WAITC (R298) -/

/-- The wait of a group that has issued its instruction (R182). -/
def Cur.wait (cu : Cur) (cond : Cond) : Wait := { mask := cu.group, cond := cond, again := false, next := cu.ret, addr := cu.addr }

/-- A crew whose group stays on the instruction it has issued, in its wait. -/
def Crew.enter (c : Crew) (cu : Cur) (cond : Cond) : Crew :=
  { c.setPc cu.group cu.addr with waits := c.waits ++ [cu.wait cond], held := false, holdCount := 0 }

section Waitc
variable {s : State} {cu : Cur} {c : Crew} {o : OpWaitc}

theorem exec_waitc (h : Ready s cu c o.g []) :
    exec (.waitc o) s = .next (s.finish cu c (if c.cnt.getD (o.cls.toNat - 1) 0 ≤ o.thr.toNat then s.begun cu c else
      (s.begun cu c).mod fun d => d.modCrew cu.crew fun x => x.enter cu (.counter o.cls.toNat o.thr.toNat))) := by
  show execWaitc o s = _
  refine issue_plain (k := .all) h rfl ?_
  rw [Iss.crew_begun h.crew, Crew.count, Crew.started_cnt]
  split <;> rfl

/-- A counter at or below its threshold holds nothing up. -/
theorem waitc_passes (h : Ready s cu c o.g []) (met : c.cnt.getD (o.cls.toNat - 1) 0 ≤ o.thr.toNat) :
    ∃ t, exec (.waitc o) s = .next t ∧ nothingDone s t cu c := by
  rw [exec_waitc h, if_pos met]
  exact ⟨_, rfl, finish_nothing h⟩

/-- Above it the group waits on the instruction, and nothing else changes. -/
theorem waitc_waits (h : Ready s cu c o.g []) (above : o.thr.toNat < c.cnt.getD (o.cls.toNat - 1) 0) :
    ∃ (t : State) (c' : Crew), exec (.waitc o) s = .next t ∧ t.d.crew cu.crew = some c' ∧
      c'.waits = c.waits ++ [cu.wait (.counter o.cls.toNat o.thr.toNat)] ∧ valuesKept c c' ∧ c'.sp = c.sp ∧
      threadsGo cu c c' cu.group (fun _ => cu.addr) (fun _ x => x.m) ∧ crewKept c { c' with waits := c.waits } ∧ restKept s t cu.crew := by
  obtain ⟨⟨a, found⟩, kept⟩ := finish_crew (f := fun x => x.enter cu (.counter o.cls.toNat o.thr.toNat)) h fun _ => rfl
  rw [exec_waitc h, if_neg (Nat.not_le.2 above)]
  refine ⟨_, _, rfl, found, ?_, valuesKept_of (c.started_regs cu) (c.started_preds cu), c.started_sp cu, threadsGo_setPc rfl a, ?_, kept⟩
  · simp [Crew.enter]
  · simpa [crewKept, Crew.enter] using c.started_kept cu

end Waitc

/-! ## Operations withdrawn under cancellation (R169, R320) -/

/-- A crew from which operations have been taken away: its counters, its waits and its pending registers alone may differ. -/
def Crew.Withdrawn (c c' : Crew) : Prop := ∃ cnt waits pend, c' = { c with cnt := cnt, waits := waits, pend := pend }

theorem Crew.Withdrawn.trans {a b c : Crew} (h : a.Withdrawn b) (k : b.Withdrawn c) : a.Withdrawn c := by
  obtain ⟨_, _, _, rfl⟩ := h
  obtain ⟨_, _, _, rfl⟩ := k
  exact ⟨_, _, _, rfl⟩

/-- A work from which operations of one crew have been taken away: of the device only that crew, operations and the cores' landing requests may
differ. -/
structure Work.Withdraws (crew : Nat) (w w' : Work) : Prop where
  same : ∃ cs os ks, w' = { w with d := { w.d with crews := cs, ops := os, cores := ks } }
  others : ∀ n, n ≠ crew → w'.d.crew n = w.d.crew n
  crew : ∀ c, w.d.crew crew = some c → ∃ c', w'.d.crew crew = some c' ∧ c.Withdrawn c'

theorem Work.Withdraws.trans {n : Nat} {a b c : Work} (h : a.Withdraws n b) (k : b.Withdraws n c) : a.Withdraws n c where
  same := by
    obtain ⟨_, _, _, rfl⟩ := h.same
    obtain ⟨_, _, _, rfl⟩ := k.same
    exact ⟨_, _, _, rfl⟩
  others m hm := (k.others m hm).trans (h.others m hm)
  crew x hx := by
    obtain ⟨y, hy, hxy⟩ := h.crew x hx
    obtain ⟨z, hz, hyz⟩ := k.crew y hy
    exact ⟨z, hz, hxy.trans hyz⟩

/-- A crew changed in its counters, waits and pending registers, in a device whose operations and cores are changed too. -/
theorem Work.Withdraws.modCrew (w : Work) (n : Nat) (os : List Op) (ks : List (Nat × Core)) {f : Crew → Crew} (hf : ∀ c : Crew, c.Withdrawn (f c)) :
    w.Withdraws n (w.mod fun d => ({ d with ops := os, cores := ks } : Dev).modCrew n f) := by
  have hid : ∀ c, (f c).id = c.id := fun c => by obtain ⟨_, _, _, h⟩ := hf c; rw [h]
  refine ⟨⟨_, _, _, rfl⟩, fun m hm => ?_, fun c hc => ⟨f c, ?_, hf c⟩⟩
  · rw [Work.mod_d, Dev.modCrew_crew _ _ _ hid, if_neg hm]; rfl
  · exact Dev.modCrew_own f hid hc

theorem Work.unissue_cons (w : Work) (o : Op) (gone : List Op) : w.unissue (o :: gone) = (w.unissue [o]).unissue gone := rfl

theorem Work.unissue_ops (w : Work) (gone : List Op) : (w.unissue gone).d.ops = w.d.ops.filter fun x => gone.all fun o => x.id != o.id := by
  induction gone generalizing w with
  | nil => simp [Work.unissue]
  | cons o gone ih =>
    rw [Work.unissue_cons, ih]
    simp [Work.unissue, List.filter_filter, Bool.and_comm]

theorem Work.unissue_withdraws {n : Nat} {gone : List Op} (h : ∀ o ∈ gone, o.crew = n) (w : Work) : w.Withdraws n (w.unissue gone) := by
  induction gone generalizing w with
  | nil => exact ⟨⟨_, _, _, rfl⟩, fun _ _ => rfl, fun c hc => ⟨c, hc, _, _, _, rfl⟩⟩
  | cons o gone ih =>
    rw [Work.unissue_cons]
    refine .trans ?_ (ih (fun x hx => h x (List.mem_cons_of_mem _ hx)) _)
    rw [← h o List.mem_cons_self]
    exact .modCrew w o.crew _ _ fun c => ⟨_, _, _, rfl⟩

/-- What a crew that stops under cancellation has waiting is taken away, and its waits. -/
theorem Work.withdrawAll_withdraws (w : Work) (n : Nat) : w.Withdraws n (w.withdrawAll n) := by
  refine (Work.unissue_withdraws (fun o ho => ?_) w).trans (.modCrew _ n _ _ fun c => ⟨_, _, _, rfl⟩)
  have chosen := (List.mem_filter.1 ho).2
  rw [Bool.and_eq_true, beq_iff_eq] at chosen
  exact chosen.1

theorem Work.withdrawAll_waits {w : Work} {n : Nat} {c : Crew} (h : (w.withdrawAll n).d.crew n = some c) : c.waits = [] := by
  rw [Work.withdrawAll, Work.mod_d, Dev.modCrew_crew _ _ (fun c => { c with waits := [] }) fun _ => rfl, if_pos rfl, Option.map_eq_some_iff] at h
  obtain ⟨x, -, rfl⟩ := h
  rfl

/-- Of the crew's operations what is left is complete, or it is no ring operation all of whose lanes have come to wait. -/
theorem Work.mem_withdrawAll_ops {w : Work} {n : Nat} {x : Op} (h : x ∈ (w.withdrawAll n).d.ops) :
    x ∈ w.d.ops ∧ (x.crew = n → x.done = true ∨ ∀ op reg ls sc, x.kind = .ring op reg ls sc → ∃ a ∈ ls, a.state = 0) := by
  rw [Work.withdrawAll, Work.mod_d, Dev.modCrew_ops, Work.unissue_ops, List.mem_filter] at h
  obtain ⟨listed, left⟩ := h
  refine ⟨listed, fun own => ?_⟩
  by_contra! waits
  obtain ⟨unfinished, op, reg, ls, sc, ring, stopped⟩ := waits
  have gone := List.all_eq_true.1 left x (List.mem_filter.2 ⟨listed, by simpa [own, ring, unfinished] using .inr stopped⟩)
  simp at gone

/-! ## YIELD (R299) -/

section Yield
variable {s : State} {cu : Cur} {c : Crew} {o : OpG}

/-- What a yield point asks of the crew it has reached is what it asked before (R169, R341, R412). -/
theorem begun_mustStop (s : State) (cu : Cur) (c : Crew) :
    (s.begun cu c).d.mustStop (c.started cu) = ((c.sp.preempt || c.sp.cancel) && !s.d.pairing c) := by
  have pairing : (s.begun cu c).d.pairing (c.started cu) = s.d.pairing c := by
    rw [Dev.pairing, Dev.pairing, Crew.started_id, Crew.started_team, Crew.started_handler]; rfl
  rw [Dev.mustStop, pairing, Crew.started_sp]

/-- What YIELD leaves, by whether the crew is to stop and whether it is cancelled. -/
theorem exec_yield (h : Ready s cu c o.g []) :
    exec (.yield o) s = .next (s.finish cu c (if (c.sp.preempt || c.sp.cancel) && !s.d.pairing c then
      (let w := (s.begun cu c).mod fun d => d.modCrew cu.crew fun x => x.stopHere false
       if c.sp.cancel then w.withdrawAll cu.crew else w) else s.begun cu c)) := by
  show execYield o s = _
  refine issue_plain (k := .all) h rfl ?_
  rw [Iss.crew_begun h.crew, begun_mustStop, Work.stopCrew, Crew.started_sp, Crew.started_id, Dev.crew_id h.crew]
  split <;> rfl

theorem yield_passes (h : Ready s cu c o.g []) (goes : ((c.sp.preempt || c.sp.cancel) && !s.d.pairing c) = false) :
    ∃ t, exec (.yield o) s = .next t ∧ nothingDone s t cu c := by
  rw [exec_yield h, goes]
  exact ⟨_, rfl, finish_nothing h⟩

/-- A crew that is to be saved stops past the instruction, and nothing else changes. -/
theorem yield_stops (h : Ready s cu c o.g []) (preempt : c.sp.preempt = true) (cancel : c.sp.cancel = false) (alone : s.d.pairing c = false) :
    ∃ (t : State) (c' : Crew), exec (.yield o) s = .next t ∧ t.d.crew cu.crew = some c' ∧ c'.status = .stopped ∧ valuesKept c c' ∧ c'.sp = c.sp ∧
      threadsAdvance cu c c' ∧ crewKept c { c' with status := c.status } ∧ restKept s t cu.crew := by
  obtain ⟨⟨a, found⟩, kept⟩ := finish_crew (f := fun x => x.stopHere false) h fun _ => rfl
  refine ⟨_, _, ?_, found, ?_, valuesKept_of (c.started_regs cu) (c.started_preds cu), c.started_sp cu, threadsAdvance_of rfl a, ?_, kept⟩
  · simp [exec_yield h, preempt, cancel, alone]
  · simp [Crew.stopHere, cancel]
  · simpa [crewKept, Crew.stopHere] using c.started_kept cu

/-- A cancelled crew stops past the instruction, and what it has waiting is withdrawn. -/
theorem yield_cancels (h : Ready s cu c o.g []) (cancel : c.sp.cancel = true) (alone : s.d.pairing c = false) :
    ∃ (t : State) (c' : Crew), exec (.yield o) s = .next t ∧ t.d.crew cu.crew = some c' ∧ c'.status = .cancelled ∧ valuesKept c c' ∧ c'.sp = c.sp ∧
      threadsAdvance cu c c' ∧ c'.waits = [] ∧ (∀ a, t.mem.get a = s.mem.get a) ∧ (∀ n, n ≠ cu.crew → t.d.crew n = s.d.crew n) ∧
      t.d.teams = s.d.teams ∧ t.d.parts = s.d.parts ∧
      ∀ x ∈ t.d.ops, x ∈ s.d.ops ∧ (x.crew = cu.crew → x.done = true ∨ ∀ op reg ls sc, x.kind = .ring op reg ls sc → ∃ a ∈ ls, a.state = 0) := by
  let w₁ := (s.begun cu c).mod fun d => d.modCrew cu.crew fun x => x.stopHere false
  have stopped : w₁.d.crew cu.crew = some ((c.started cu).stopHere false) :=
    Dev.modCrew_own (fun x => x.stopHere false) (fun _ => rfl) (State.begun_crew h.crew)
  have kept₁ : DevKept s.d w₁.d cu.crew := modCrew_kept (fun _ => rfl) (State.begun_kept h.crew)
  have withdrawn := w₁.withdrawAll_withdraws cu.crew
  obtain ⟨cs, os, ks, same⟩ := withdrawn.same
  obtain ⟨x, crew₂, cnt, waits, pend, rfl⟩ := withdrawn.crew _ stopped
  obtain ⟨hmem, -, -, -, kept₂, crew₃⟩ := finish_spec cu c (w₁.withdrawAll cu.crew) h.alone (by rw [same]; rfl)
  obtain ⟨a, found⟩ := crew₃ _ crew₂
  have noWaits := Work.withdrawAll_waits crew₂
  refine ⟨_, _, ?_, found, ?_, valuesKept_of (c.started_regs cu) (c.started_preds cu), c.started_sp cu, threadsAdvance_of rfl a,
    noWaits, fun k => ?_, fun n hn => ?_, ?_, ?_, fun y hy => ?_⟩
  · simp [exec_yield h, cancel, alone, w₁]
  · simp [Crew.stopHere, cancel]
  · rw [hmem, same]; rfl
  · rw [kept₂.crews n hn, withdrawn.others n hn, kept₁.crews n hn]
  · rw [kept₂.teams, same]; exact kept₁.teams
  · rw [kept₂.parts, same]; exact kept₁.parts
  · rw [kept₂.ops] at hy
    have left := Work.mem_withdrawAll_ops hy
    rwa [kept₁.ops] at left

end Yield
end Sys2Proof.Machine
end

section
/-! PROOFS. HaltBegins: a fault taken while its partition runs begins the halt with its record (R398 to R404), and so do TRAP and BKPT (R371). -/

namespace Sys2Proof.Machine

/-! ## The bytes of a stop record -/

/-- Bytes at the keys from `k` on. -/
def cellsFrom (k : Nat) (bs : List Byte) : List Host.Cell := (List.range' k bs.length).zip bs

theorem cellsFrom_keys (k : Nat) (bs : List Byte) : (cellsFrom k bs).map (·.1) = List.range' k bs.length :=
  List.map_fst_zip (List.length_range' ..).le

theorem mem_cellsFrom {k i : Nat} {bs : List Byte} {b : Byte} (h : bs[i]? = some b) : (k + i, b) ∈ cellsFrom k bs := by
  obtain ⟨hi, rfl⟩ := List.getElem?_eq_some_iff.1 h
  refine List.mem_of_getElem (i := i) (h := by simpa [cellsFrom] using hi) ?_
  simp [cellsFrom]

theorem Work.puts_eq (w : Work) (k : Nat) (bs : List Byte) : w.puts k bs = { w with wr := (cellsFrom k bs).reverse ++ w.wr } := by
  induction bs generalizing w k with
  | nil => rfl
  | cons b bs ih => rw [Work.puts, ih]; simp [Work.put, cellsFrom, List.range'_succ]

theorem natLe_getElem? {n i : Nat} (h : i < n) (v : Nat) : (natLe n v)[i]? = some (BitVec.ofNat 8 (v / 256 ^ i)) := by
  induction n generalizing i v with
  | zero => exact absurd h (Nat.not_lt_zero i)
  | succ n ih =>
    cases i with
    | zero => simp [natLe]
    | succ i => rw [natLe, List.getElem?_cons_succ, ih (Nat.lt_of_succ_lt_succ h), Nat.div_div_eq_div_mul, ← Nat.pow_succ']

theorem Engine.code_le (e : Engine) : e.code ≤ 18 := by cases e <;> decide

theorem Reason.code_lt (r : Reason) : r.code < 256 := by cases r <;> decide

theorem FaultInfo.bytes_length (f : FaultInfo) (ctx halts : Nat) : (f.bytes ctx halts).length = 64 := natLe_length _ _

theorem Halt.header_length (h : Halt) : h.header.length = 64 := natLe_length _ _

/-- REASON is byte 31 of a stop record, where the fields below it keep their widths (R404). -/
theorem FaultInfo.bytes_reason {f : FaultInfo} (h : f.engineTower < 8) (ctx halts : Nat) :
    (f.bytes ctx halts)[31]? = some (BitVec.ofNat 8 f.reason.code) := by
  have engine := f.engine.code_le
  have reason := f.reason.code_lt
  have lanes := f.lanes.isLt
  have fault : (if f.isFault = true then 2 ^ 228 else 0) ≤ 2 ^ 228 := by split <;> omega
  rw [FaultInfo.bytes, natLe_getElem? (by decide)]
  refine congrArg some (BitVec.eq_of_toNat_eq ?_)
  rw [BitVec.toNat_ofNat, BitVec.toNat_ofNat]
  generalize (if f.isFault = true then 2 ^ 228 else 0) = isFault at fault ⊢
  omega

/-! ## The halt -/

/-- A partition whose halt has begun with one record (R400). -/
def Part.halted (p : Part) (f : FaultInfo) : Part :=
  { p with halt := { p.halt with phase := .stopping, halts := (p.halt.halts + 1) % 2 ^ 32, count := 1, ovf := false, stopped := []
                                 records := [{ index := 0, info := f }] } }

theorem Dev.modPart_part (d : Dev) {t : Nat} {f : Part → Part} (hf : ∀ p, t ∈ p.towers → t ∈ (f p).towers) :
    (d.modPart t f).part t = (d.part t).map f := by
  have kept : (fun p : Part => p.towers.contains t) ∘ (fun p => if p.towers.contains t then f p else p) = fun p => p.towers.contains t := by
    funext p
    by_cases h : t ∈ p.towers
    · simp [h, hf p h]
    · simp [h]
  rw [Dev.part, Dev.part, Dev.modPart, List.find?_map, kept]
  cases h : d.parts.find? fun p => p.towers.contains t with
  | none => rfl
  | some p => rw [Option.map_some, Option.map_some, if_pos (List.find?_some h)]

/-- The partition of a tower replaced by one that holds it. -/
theorem Dev.modPart_own {d : Dev} {t : Nat} {p : Part} (q : Part) (hq : q.towers = p.towers) (h : d.part t = some p) :
    (d.modPart t fun _ => q).part t = some q := by
  have own : t ∈ p.towers := by simpa using List.find?_some h
  rw [Dev.modPart_part (f := fun _ => q) _ fun _ _ => hq ▸ own, h, Option.map_some]

/-- A partition changed and then replaced. -/
theorem Dev.modPart_replaced (d : Dev) (t : Nat) {f : Part → Part} (hf : ∀ p, (f p).towers = p.towers) (p : Part) :
    (d.modPart t f).modPart t (fun _ => p) = d.modPart t fun _ => p := by
  simp only [Dev.modPart, List.map_map]
  congr 1
  refine List.map_congr_left fun q _ => ?_
  by_cases h : t ∈ q.towers <;> simp [h, hf]

/-- A partition whose halt line is raised (R400). -/
def Part.lineRaised (p : Part) : Part :=
  { p with halt := { p.halt with phase := .stopping, halts := (p.halt.halts + 1) % 2 ^ 32, count := 0, ovf := false, records := [], stopped := [] } }

theorem Work.startHalt_eq (w : Work) (t : Nat) : w.startHalt t = w.mod fun d => d.modPart t Part.lineRaised := rfl

/-- What a halt writes: its first record, and the header of the stop area (R403). -/
def Part.haltCells (p : Part) (f : FaultInfo) : List Host.Cell :=
  cellsFrom (recordKey p.low 0) (f.bytes (p.ctx.getD 0) ((p.halt.halts + 1) % 2 ^ 32)) ++ cellsFrom (areaKey p.low 0 0) (p.halted f).halt.header

section Halt
variable {w : Work} {f : FaultInfo} {p : Part}

/-- The first record of a halt (R400, R403). -/
theorem Work.putRecord_first {t : Nat} (hp : w.d.part t = some p) :
    (w.startHalt t).putRecord t f false = { w with wr := (p.haltCells f).reverse ++ w.wr, d := w.d.modPart t fun _ => p.halted f } := by
  have started : (w.startHalt t).d.part t = some p.lineRaised := by
    rw [Work.startHalt_eq, Work.mod_d, Dev.modPart_part (f := Part.lineRaised) _ fun _ h => h, hp, Option.map_some]
  have replaced := Dev.modPart_replaced w.d t (f := Part.lineRaised) (fun _ => rfl) (p.halted f)
  have empty : p.lineRaised.halt.tail = [] := rfl
  have room : p.lineRaised.halt.count < stopRecords := show 0 < stopRecords by decide
  rw [Work.putRecord, started]
  dsimp only
  rw [if_neg (by simp [empty]), if_pos room, if_pos room, Work.putHeader, Work.puts_eq, Work.puts_eq, Part.haltCells, List.reverse_append,
    List.append_assoc]
  exact congrArg (fun d => ({ w with wr := (cellsFrom _ _).reverse ++ ((cellsFrom _ _).reverse ++ w.wr), d := d } : Work)) replaced

/-- A fault without a violation, taken while the resident context of its partition runs. -/
theorem Work.raise_running (hv : f.viol = none) (hp : w.d.part f.tower = some p) (hres : p.ctx.isSome = true) (hrun : p.halt.phase = .running) :
    w.raise f = { w with wr := (p.haltCells f).reverse ++ w.wr, d := w.d.modPart f.tower fun _ => p.halted f } := by
  have walked : f.walked = f := by rw [FaultInfo.walked, hv]
  have resident : p.ctx.isNone = false := by rwa [← Option.not_isSome, Bool.not_eq_false']
  rw [Work.raise, walked, hp]
  simp only [hv, resident, hrun, Bool.false_eq_true, if_false]
  exact Work.putRecord_first hp

/-- The keys that a halt writes are the first 128 of its stop area, each once. -/
theorem Part.haltCells_keys (p : Part) (f : FaultInfo) :
    (p.haltCells f).map (·.1) = List.range' (areaKey p.low 0 64) 64 ++ List.range' (areaKey p.low 0 0) 64 := by
  rw [Part.haltCells, List.map_append, cellsFrom_keys, cellsFrom_keys, FaultInfo.bytes_length, Halt.header_length]
  rfl

theorem Part.haltCells_nodup (p : Part) (f : FaultInfo) : ((p.haltCells f).map (·.1)).Nodup := by
  rw [Part.haltCells_keys, List.nodup_append]
  refine ⟨List.nodup_range', List.nodup_range', fun a ha b hb => ?_⟩
  simp only [List.mem_range'_1, areaKey] at ha hb
  omega

theorem Part.mem_haltCells_key {p : Part} {f : FaultInfo} {k : Nat} (h : k ∈ (p.haltCells f).map (·.1)) :
    areaKey p.low 0 0 ≤ k ∧ k < areaKey p.low 0 128 := by
  simp only [Part.haltCells_keys, List.mem_append, List.mem_range'_1, areaKey] at h ⊢
  omega

/-- An issue that ends with a fault still to be taken, while the partition runs. -/
theorem finish_raise {s : State} (cu : Cur) (c : Crew) (hc : s.cont = none) (hwr : w.wr = []) (hl : w.late = [f]) (hv : f.viol = none)
    (hp : w.d.part f.tower = some p) (hres : p.ctx.isSome = true) (hrun : p.halt.phase = .running) :
    let t := s.finish cu c w
    t.mem = s.mem.commit (p.haltCells f).reverse ∧ t.d.part f.tower = some (p.halted f) ∧
      ∀ x, w.d.crew cu.crew = some x → ∃ a, t.d.crew cu.crew = some { x.release with age := a } := by
  obtain ⟨d, ended, kept, crew⟩ := endHold_spec (w.mod fun d => d.modCrew cu.crew Crew.release) cu c
  have part : d.part f.tower = some p := by rw [Dev.part, kept.parts]; exact hp
  have done : s.finish cu c w = s.done { fx := w.fx, mem := w.mem, wr := (p.haltCells f).reverse, d := d.modPart f.tower fun _ => p.halted f } := by
    rw [State.finish, ended, hc]
    dsimp only [Work.mod]
    rw [hl, Work.raiseAll, Work.raise_running hv part hres hrun, Work.raiseAll, hwr, List.append_nil]
  have halted := Dev.modPart_own (p := p) (p.halted f) rfl part
  refine ⟨by rw [done, State.done_mem], by rw [done, Dev.part, State.done_parts]; exact halted, fun x hx => ?_⟩
  obtain ⟨a, aged⟩ := crew _ (Dev.modCrew_own Crew.release (fun _ => rfl) hx)
  exact ⟨a, by rw [done, Dev.crew, State.done_crews]; exact aged⟩

/-- Memory with the writes of a halt: the reason in its place of the first record, and nothing outside the stop area's first 128 bytes. -/
theorem commit_haltCells {m : Memory} (hm : m.wf = true) (ht : f.engineTower < 8) :
    (m.commit (p.haltCells f).reverse).get (recordKey p.low 0 + 31) = BitVec.ofNat 8 f.reason.code ∧
      ∀ k, ¬ (areaKey p.low 0 0 ≤ k ∧ k < areaKey p.low 0 128) → (m.commit (p.haltCells f).reverse).get k = m.get k := by
  have distinct : ((p.haltCells f).reverse.map (·.1)).Nodup := by rw [List.map_reverse, List.nodup_reverse]; exact p.haltCells_nodup f
  have listed : (recordKey p.low 0 + 31, BitVec.ofNat 8 f.reason.code) ∈ (p.haltCells f).reverse := by
    rw [List.mem_reverse, Part.haltCells, List.mem_append]
    exact .inl (mem_cellsFrom (FaultInfo.bytes_reason ht _ _))
  refine ⟨Memory.get_commit_mem (c := (recordKey p.low 0 + 31, BitVec.ofNat 8 f.reason.code)) hm distinct listed,
    fun k hk => Memory.get_commit_other hm fun h => hk (Part.mem_haltCells_key (f := f) ?_)⟩
  rwa [List.map_reverse, List.mem_reverse] at h

/-- The halt has begun in a partition with that record, and its stop area's first 128 bytes alone have been written. -/
theorem haltBegun_of {s t : State} {tower : Nat} {ok : FaultInfo → Prop} (hwf : s.wf = true) (ht : f.engineTower < 8)
    (hmem : t.mem = s.mem.commit (p.haltCells f).reverse) (hp : t.d.part tower = some (p.halted f)) (hok : ok f) : haltBegun s t tower p ok := by
  have canonical : s.mem.wf = true := by rw [State.wf, Bool.and_eq_true] at hwf; exact hwf.1
  obtain ⟨reason, kept⟩ := commit_haltCells (p := p) canonical ht
  rw [← hmem] at reason kept
  exact ⟨p.halted f, { index := 0, info := f }, hp, rfl, rfl, rfl, rfl, rfl, rfl, rfl, hok, reason, rfl, rfl, rfl, rfl, kept⟩

end Halt

/-! ## TRAP and BKPT (R371) -/

section Stops
variable {s : State} {cu : Cur} {c : Crew} {p : Part} {o : OpCode}

/-- The fault of a TRAP or BKPT: the code is in EXTRA. -/
def Crew.codeFault (c : Crew) (cu : Cur) (o : OpCode) (reason : Reason) : FaultInfo :=
  { c.fault reason cu.addr (activeLanes cu c o.g) with extra := o.code.setWidth 64 }

theorem exec_trap (h : Ready s cu c o.g []) (hk : c.handler = false) :
    exec (.trap o) s = .next (s.finish cu c { s.begun cu c with late := [c.codeFault cu o .trap] }) :=
  issue_plain (k := .kernel) (body := fun i w => .ok { w with late := w.late ++ [i.codeFault .trap o.code] }) h (by simp [Slots.permits, hk]) rfl

theorem exec_bkpt (h : Ready s cu c o.g []) (hk : c.handler = false) :
    exec (.bkpt o) s = .next (s.finish cu c { (s.begun cu c).mod (fun d => d.modCrew cu.crew fun x => x.setPc (activeLanes cu c o.g) cu.addr) with
      late := [c.codeFault cu o .breakpoint] }) := by
  show execBkpt o s = _
  exact issue_plain (k := .kernel) h (by simp [Slots.permits, hk]) rfl

/-- What a TRAP or BKPT leaves in a tower of the device: its crew as it is but for its threads, in the active lanes at `pc`, and the halt begun. -/
def codeStopped (s t : State) (cu : Cur) (c : Crew) (p : Part) (o : OpCode) (reason : Reason) (pc : Word) : Prop :=
  ∃ c' : Crew, t.d.crew cu.crew = some c' ∧ valuesKept c c' ∧ c'.cnt = c.cnt ∧ c'.sp = c.sp ∧
    threadsGo cu c c' (activeLanes cu c o.g) (fun _ => pc) (fun _ x => x.m) ∧
    haltBegun s t c.place.tower p fun f => f.reason = reason ∧ f.extra = o.code.setWidth 64 ∧ f.iaddr = cu.addr ∧
      f.lanes = activeLanes cu c o.g ∧ f.crew = c.place.gid

/-- The end of an issue that leaves a code's fault to be taken. -/
theorem finish_codeStopped {w : Work} {x : Crew} {reason : Reason} {pc : Word} (hwf : s.wf = true) (hrun : Running s c p) (ht : c.place.tower < 8)
    (h : Ready s cu c o.g []) (hwr : w.wr = []) (hparts : w.d.parts = s.d.parts) (hl : w.late = [c.codeFault cu o reason])
    (hx : w.d.crew cu.crew = some x) (hregs : x.regs = c.regs) (hpreds : x.preds = c.preds) (hcnt : x.cnt = c.cnt) (hsp : x.sp = c.sp)
    (hthreads : x.threads = ((c.started cu).setPc (activeLanes cu c o.g) pc).threads) :
    codeStopped s (s.finish cu c w) cu c p o reason pc := by
  have tower : (c.codeFault cu o reason).engineTower < 8 := by simpa [FaultInfo.engineTower, Crew.codeFault, Crew.fault, hrun.kernel] using ht
  have part : w.d.part (c.codeFault cu o reason).tower = some p := by rw [Dev.part, hparts]; exact hrun.part
  obtain ⟨mem, halted, crew⟩ := finish_raise cu c h.alone hwr hl rfl part hrun.resident hrun.running
  obtain ⟨a, found⟩ := crew x hx
  exact ⟨_, found, valuesKept_of hregs hpreds, hcnt, hsp, threadsGo_setPc hthreads a,
    haltBegun_of hwf tower mem halted ⟨rfl, rfl, rfl, rfl, rfl⟩⟩

/-- TRAP in a tower of the device: the halt begins, and the group stands past the instruction. -/
theorem trap_stops (hwf : s.wf = true) (hrun : Running s c p) (ht : c.place.tower < 8) (h : Ready s cu c o.g []) :
    ∃ t, exec (.trap o) s = .next t ∧ codeStopped s t cu c p o .trap cu.ret := by
  refine ⟨_, exec_trap h hrun.kernel, finish_codeStopped hwf hrun ht h rfl (State.begun_kept h.crew).parts rfl (State.begun_crew h.crew)
    (c.started_regs cu) (c.started_preds cu) (c.started_cnt cu) (c.started_sp cu) (c.started_setPc_ret cu o.g)⟩

/-- BKPT in a tower of the device: the halt begins, and the active lanes stand on the instruction. -/
theorem bkpt_stops (hwf : s.wf = true) (hrun : Running s c p) (ht : c.place.tower < 8) (h : Ready s cu c o.g []) :
    ∃ t, exec (.bkpt o) s = .next t ∧ codeStopped s t cu c p o .breakpoint cu.addr := by
  have moved := Dev.modCrew_own (fun x => x.setPc (activeLanes cu c o.g) cu.addr) (fun _ => rfl) (State.begun_crew h.crew)
  refine ⟨_, exec_bkpt h hrun.kernel, finish_codeStopped hwf hrun ht h rfl (State.begun_kept h.crew).parts rfl moved
    (c.started_regs cu) (c.started_preds cu) (c.started_cnt cu) (c.started_sp cu) rfl⟩

end Stops
end Sys2Proof.Machine
end

section
/-! PROOFS. Exits: EXIT, and what the barriers of the team that a crew leaves behind do to it (R300, R372). -/

namespace Sys2Proof.Machine

/-! ## What faults and barriers leave of a kernel crew -/

/-- From one crew to another these are kept: registers, predicates, counters, special registers, threads, status and kind. -/
structure Crew.Spared (c c' : Crew) : Prop where
  regs : c'.regs = c.regs
  preds : c'.preds = c.preds
  cnt : c'.cnt = c.cnt
  sp : c'.sp = c.sp
  threads : c'.threads = c.threads
  status : c'.status = c.status
  handler : c'.handler = c.handler

theorem Crew.Spared.refl (c : Crew) : c.Spared c := ⟨rfl, rfl, rfl, rfl, rfl, rfl, rfl⟩

theorem Crew.Spared.trans {a b c : Crew} (h : a.Spared b) (k : b.Spared c) : a.Spared c :=
  ⟨k.regs.trans h.regs, k.preds.trans h.preds, k.cnt.trans h.cnt, k.sp.trans h.sp, k.threads.trans h.threads, k.status.trans h.status,
    k.handler.trans h.handler⟩

/-- From one work to another every crew but the handlers' is spared, and the faults still to be taken are the same. -/
structure Work.Spares (w w' : Work) : Prop where
  late : w'.late = w.late
  crew : ∀ n c, w.d.crew n = some c → c.handler = false → ∃ c', w'.d.crew n = some c' ∧ c.Spared c'

theorem Work.Spares.trans {a b c : Work} (h : a.Spares b) (k : b.Spares c) : a.Spares c where
  late := k.late.trans h.late
  crew n x hx hk := by
    obtain ⟨y, hy, hxy⟩ := h.crew n x hx hk
    obtain ⟨z, hz, hyz⟩ := k.crew n y hy (hxy.handler.trans hk)
    exact ⟨z, hz, hxy.trans hyz⟩

/-- Where every crew is changed by a function that spares the kernel's. -/
theorem Work.Spares.map {w w' : Work} {g : Crew → Crew} (hl : w'.late = w.late) (hcrews : w'.d.crews = w.d.crews.map g) (hid : ∀ c, (g c).id = c.id)
    (hg : ∀ c : Crew, c.handler = false → c.Spared (g c)) : w.Spares w' where
  late := hl
  crew n c hc hk := by
    have ids : (fun c : Crew => c.id == n) ∘ g = fun c => c.id == n := funext fun c => by simp [hid]
    refine ⟨g c, ?_, hg c hk⟩
    rw [Dev.crew, hcrews, List.find?_map, ids]
    exact congrArg (Option.map g) hc

theorem Work.Spares.of_crews {w w' : Work} (hl : w'.late = w.late) (hcrews : w'.d.crews = w.d.crews) : w.Spares w' :=
  .map (g := fun c => c) hl (by rw [hcrews, List.map_id']) (fun _ => rfl) fun c _ => .refl c

theorem Work.Spares.refl (w : Work) : w.Spares w := .of_crews rfl rfl

theorem Work.puts_spares (w : Work) (k : Nat) (bs : List Byte) : w.Spares (w.puts k bs) := by
  rw [Work.puts_eq]
  exact .of_crews rfl rfl

theorem Work.mod_spares (w : Work) {f : Dev → Dev} (h : (f w.d).crews = w.d.crews) : w.Spares (w.mod f) := .of_crews rfl h

theorem Work.startHalt_spares (w : Work) (t : Nat) : w.Spares (w.startHalt t) := w.mod_spares rfl

theorem Work.putRecords_spares (w : Work) (low ctx halts : Nat) (rs : List HaltRec) : w.Spares (w.putRecords low ctx halts rs) := by
  refine List.foldlRecOn rs _ (motive := fun x => w.Spares x) (.refl w) fun x hx r _ => hx.trans ?_
  split
  · exact x.puts_spares _ _
  · exact .refl x

theorem Work.joinRecord_spares (w : Work) (p : Part) (f : FaultInfo) : w.Spares (w.joinRecord p f) :=
  (w.putRecords_spares ..).trans ((Work.mod_spares _ rfl).trans (Work.puts_spares ..))

theorem Work.putRecord_spares (w : Work) (t : Nat) (f : FaultInfo) (appended : Bool) : w.Spares (w.putRecord t f appended) := by
  unfold Work.putRecord
  split
  case h_1 => exact .refl w
  case h_2 p _ =>
    dsimp only
    split
    case isTrue => exact w.joinRecord_spares p f
    case isFalse =>
      refine .trans ?_ ((Work.mod_spares _ rfl).trans (Work.puts_spares ..))
      split
      · exact w.puts_spares _ _
      · exact .refl w

theorem Work.logViolation_spares (w : Work) (low : Nat) (f : FaultInfo) (v : Viol) : w.Spares (w.logViolation low f v) :=
  (w.puts_spares ..).trans (Work.puts_spares ..)

/-- A fault stops no crew but a handler's (R373, R400, R402). -/
theorem Work.raise_spares (w : Work) (f : FaultInfo) : w.Spares (w.raise f) := by
  unfold Work.raise
  dsimp only
  split
  case h_1 => exact .refl w
  case h_2 p _ =>
    cases f.walked.viol
    case' some v => refine (w.logViolation_spares p.low f.walked v).trans ?_
    all_goals
      dsimp only
      cases p.ctx.isNone with
      | true =>
        rw [if_pos rfl]
        exact Work.mod_spares _ (by rfl)
      | false =>
        rw [if_neg Bool.false_ne_true]
        cases p.halt.phase with
        | running => exact (Work.startHalt_spares ..).trans (Work.putRecord_spares ..)
        | stopping => exact Work.putRecord_spares ..
        | handling =>
          dsimp only
          split
          · refine (Work.putRecord_spares ..).trans (.map rfl rfl (fun c => ?_) fun c hk => ?_)
            · split <;> rfl
            · rw [hk, Bool.false_and, if_neg Bool.false_ne_true]
              exact .refl c
          · exact Work.putRecord_spares ..

theorem Work.raiseAll_spares (w : Work) (fs : List FaultInfo) : w.Spares (w.raiseAll fs) := by
  induction fs generalizing w with
  | nil => exact .refl w
  | cons f fs ih => exact (w.raise_spares f).trans (ih _)

theorem Crew.barrierDone_spared (c : Crew) (k : Nat) (arrived : List Nat) : c.Spared (c.barrierDone k arrived) := ⟨rfl, rfl, rfl, rfl, rfl, rfl, rfl⟩

theorem Work.barrierEnd_spares (w : Work) (team k : Nat) : w.Spares (w.barrierEnd team k) := by
  unfold Work.barrierEnd
  split
  case h_1 => exact .refl w
  case h_2 =>
    split
    case h_1 => exact .refl w
    case h_2 e _ =>
      split
      case isTrue => exact .refl w
      case isFalse =>
        refine .trans (.map (g := fun c => if c.team == team && !c.handler then c.barrierDone k e.2.arrived else c) (by rfl) (by rfl) (fun c => ?_)
          fun c _ => ?_) (Work.raiseAll_spares _ _)
        · split <;> rfl
        · split
          · exact c.barrierDone_spared k e.2.arrived
          · exact .refl c

theorem Work.barrierCheck_spares (w : Work) (team k : Nat) : w.Spares (w.barrierCheck team k) := by
  unfold Work.barrierCheck
  split
  · exact .refl w
  · dsimp only
    split
    · exact (w.mod_spares rfl).trans (Work.barrierEnd_spares _ team k)
    · exact w.barrierEnd_spares team k

theorem Work.barriersCheck_spares (w : Work) (team : Nat) : w.Spares (w.barriersCheck team) :=
  List.foldlRecOn (List.range 16) _ (motive := fun x => w.Spares x) (.refl w) fun _ hx k _ => hx.trans (Work.barrierCheck_spares _ team k)

/-! ## EXIT (R372) -/

/-- A thread that has exited. -/
def Thread.exit (t : Thread) : Thread := { t with exited := true, skip := 0 }

/-- A crew in which the threads of the lanes `act` have exited; with no thread left it drains. -/
def Crew.exitLanes (c : Crew) (act : Mask) : Crew :=
  let c := c.modThreads act Thread.exit
  if c.live == 0 then { c with status := if c.status == .running then .draining else c.status } else c

theorem Crew.exitLanes_id (c : Crew) (act : Mask) : (c.exitLanes act).id = c.id := by unfold Crew.exitLanes; dsimp only; split <;> rfl

theorem Crew.exitLanes_threads (c : Crew) (act : Mask) :
    (c.exitLanes act).threads = (c.modThreads act Thread.exit).threads := by
  unfold Crew.exitLanes; dsimp only; split <;> rfl

theorem Crew.exitLanes_live (c : Crew) (act : Mask) : (c.exitLanes act).live = (c.modThreads act Thread.exit).live := by
  simp only [Crew.live, Crew.thread, c.exitLanes_threads]

/-- With a thread left EXIT changes the threads alone. -/
theorem Crew.exitLanes_of_live {c : Crew} {act : Mask} (h : (c.exitLanes act).live ≠ 0) : c.exitLanes act = c.modThreads act Thread.exit := by
  rw [Crew.exitLanes_live] at h
  exact if_neg (by simpa using h)

/-- What EXIT leaves of a crew but its threads and its status. -/
theorem Crew.exitLanes_eq (c : Crew) (act : Mask) : ∃ ts st, c.exitLanes act = { c with threads := ts, status := st } := by
  unfold Crew.exitLanes; dsimp only; split <;> exact ⟨_, _, rfl⟩

theorem maskOf_eq_zero_iff (f : Nat → Bool) : maskOf f = 0 ↔ ∀ l < 32, f l = false := by
  refine ⟨fun h l hl => ?_, fun h => BitVec.eq_of_getLsbD_eq fun l hl => ?_⟩
  · rw [← maskOf_getLsbD f l hl, h]
    exact BitVec.getLsbD_zero
  · rw [maskOf_getLsbD f l hl, h l hl]
    exact BitVec.getLsbD_zero.symm

/-- A thread has exited after EXIT where it had before, and in the active lanes (R372). -/
theorem Crew.exitLanes_exited (c : Crew) (act : Mask) (l : Nat) : ((c.exitLanes act).thread l).exited = ((c.thread l).exited || act.getLsbD l) := by
  rw [Crew.thread, c.exitLanes_threads, Crew.thread, List.getD_eq_getElem?_getD, List.getD_eq_getElem?_getD]
  cases h : c.threads[l]? with
  | none => simp [Crew.modThreads, h]
  | some t =>
    rw [Crew.modThreads_thread _ _ _ h]
    cases act.getLsbD l <;> simp [Thread.exit]

section Exit
variable {s : State} {cu : Cur} {c : Crew} {o : OpG}

/-- A thread that an EXIT leaves going on: it has not exited, and its lane is not active. -/
def Crew.staysOn (c : Crew) (act : Mask) (l : Nat) : Prop := l < 32 ∧ (c.thread l).exited = false ∧ act.getLsbD l = false

/-- No thread is left after EXIT where none goes on. -/
theorem Crew.exitLanes_live_eq_zero_iff (c : Crew) (cu : Cur) (act : Mask) : ((c.started cu).exitLanes act).live = 0 ↔ ∀ l, ¬ c.staysOn act l := by
  rw [Crew.live, maskOf_eq_zero_iff]
  simp [Crew.exitLanes_exited, Crew.started_exited, Crew.staysOn]

/-- The crew of an EXIT, still to be released. -/
def exitWork (s : State) (cu : Cur) (c : Crew) (act : Mask) : Work := (s.begun cu c).mod fun d => d.modCrew cu.crew fun x => x.exitLanes act

theorem exitWork_crew (h : s.d.crew cu.crew = some c) (act : Mask) :
    (exitWork s cu c act).d.crew cu.crew = some ((c.started cu).exitLanes act) :=
  Dev.modCrew_own (fun x => x.exitLanes act) (fun x => x.exitLanes_id act) (State.begun_crew h)

/-- What EXIT leaves, by whether a thread is left. -/
theorem exec_exit (h : Ready s cu c o.g []) (hk : c.handler = false) :
    exec (.exit o) s = .next (s.finish cu c (if ((c.started cu).exitLanes (activeLanes cu c o.g)).live == 0
      then (exitWork s cu c (activeLanes cu c o.g)).barriersCheck c.team else exitWork s cu c (activeLanes cu c o.g))) := by
  show execExit o s = _
  refine issue_plain (k := .kernel) h (by simp [Slots.permits, hk]) (congrArg Res.ok ?_)
  have found := exitWork_crew h.crew (activeLanes cu c o.g)
  have crew : Iss.crew { cu := cu, c := c, act := activeLanes cu c o.g, w0 := s.chosen cu c } (exitWork s cu c (activeLanes cu c o.g)) =
      (c.started cu).exitLanes (activeLanes cu c o.g) := by rw [Iss.crew, found, Option.getD_some]
  exact congrArg (fun x : Crew => if x.live == 0 then (exitWork s cu c (activeLanes cu c o.g)).barriersCheck c.team
    else exitWork s cu c (activeLanes cu c o.g)) crew

/-- The threads after EXIT: the active lanes have exited, and the group is past the instruction. -/
theorem exitLanes_release_thread {x : Crew} {act : Mask} (hx : x.threads = ((c.started cu).exitLanes act).threads) {l : Nat} {t : Thread}
    (ht : c.threads[l]? = some t) :
    ∃ t', x.release.threads[l]? = some t' ∧ t'.exited = (t.exited || act.getLsbD l) ∧ t'.pc = if cu.group.getLsbD l then cu.ret else t.pc := by
  obtain ⟨t₁, h₁, pc₁, exited₁, -⟩ := c.started_thread cu l t ht
  have moved := Crew.modThreads_thread (c.started cu) act Thread.exit h₁
  rw [← Crew.exitLanes_threads, ← hx] at moved
  obtain ⟨t₂, h₂, pc₂, exited₂, -⟩ := x.release_thread moved
  refine ⟨t₂, h₂, ?_, ?_⟩
  · rw [exited₂, ← exited₁]; cases act.getLsbD l <;> simp [Thread.exit]
  · rw [pc₂, ← pc₁]; split <;> rfl

/-- What EXIT leaves of its crew, as O21 says (R372). -/
structure Exited (cu : Cur) (c c' : Crew) (act : Mask) : Prop where
  values : valuesKept c c'
  cnt : c'.cnt = c.cnt
  sp : c'.sp = c.sp
  threads : ∀ (l : Nat) (x : Thread), c.threads[l]? = some x → ∃ x' : Thread, c'.threads[l]? = some x' ∧
    x'.exited = (x.exited || act.getLsbD l) ∧ x'.pc = if cu.group.getLsbD l then cu.ret else x.pc

theorem exited_of_spared {x : Crew} {act : Mask} (h : ((c.started cu).exitLanes act).Spared x) (a : Nat) :
    Exited cu c { x.release with age := a } act := by
  obtain ⟨ts, st, unchanged⟩ := (c.started cu).exitLanes_eq act
  refine ⟨valuesKept_of ?_ ?_, ?_, ?_, fun l t ht => exitLanes_release_thread h.threads ht⟩
  · exact h.regs.trans (by rw [unchanged]; exact c.started_regs cu)
  · exact h.preds.trans (by rw [unchanged]; exact c.started_preds cu)
  · exact h.cnt.trans (by rw [unchanged]; exact c.started_cnt cu)
  · exact h.sp.trans (by rw [unchanged]; exact c.started_sp cu)

/-- With no thread left the crew stops issuing: it drains, where it ran. -/
theorem exit_last (h : Ready s cu c o.g []) (hk : c.handler = false) (none_left : ∀ l, ¬ c.staysOn (activeLanes cu c o.g) l) :
    ∃ (t : State) (c' : Crew), exec (.exit o) s = .next t ∧ t.d.crew cu.crew = some c' ∧ Exited cu c c' (activeLanes cu c o.g) ∧
      (c.status = .running → c'.status = .draining) := by
  have gone := (c.exitLanes_live_eq_zero_iff cu (activeLanes cu c o.g)).2 none_left
  obtain ⟨ts, st, unchanged⟩ := (c.started cu).exitLanes_eq (activeLanes cu c o.g)
  have kernel : ((c.started cu).exitLanes (activeLanes cu c o.g)).handler = false := by rw [unchanged]; exact (c.started_handler cu).trans hk
  have spares := (exitWork s cu c (activeLanes cu c o.g)).barriersCheck_spares c.team
  obtain ⟨x, found, spared⟩ := spares.crew cu.crew _ (exitWork_crew h.crew _) kernel
  obtain ⟨-, -, -, -, -, crew⟩ := finish_spec cu c _ h.alone spares.late
  obtain ⟨a, found⟩ := crew x found
  refine ⟨_, _, ?_, found, exited_of_spared spared a, fun running => ?_⟩
  · rw [exec_exit h hk, gone]; rfl
  · have drained : ((c.started cu).exitLanes (activeLanes cu c o.g)).status = .draining := by
      rw [Crew.exitLanes_live] at gone
      simp [Crew.exitLanes, gone, running]
    exact spared.status.trans drained

/-- With a thread left the crew goes on, and nothing outside its threads changes. -/
theorem exit_goesOn (h : Ready s cu c o.g []) (hk : c.handler = false) {l : Nat} (stays : c.staysOn (activeLanes cu c o.g) l) :
    ∃ (t : State) (c' : Crew), exec (.exit o) s = .next t ∧ t.d.crew cu.crew = some c' ∧ Exited cu c c' (activeLanes cu c o.g) ∧
      crewKept c c' ∧ restKept s t cu.crew := by
  have lives : ((c.started cu).exitLanes (activeLanes cu c o.g)).live ≠ 0 := fun none =>
    (c.exitLanes_live_eq_zero_iff cu _).1 none l stays
  obtain ⟨⟨a, found⟩, kept⟩ := finish_crew (f := fun x => x.exitLanes (activeLanes cu c o.g)) h fun x => x.exitLanes_id _
  refine ⟨_, _, ?_, found, exited_of_spared (.refl _) a, crewKept_of (cu := cu) ?_, kept⟩
  · rw [exec_exit h hk, if_neg (by simpa using lives)]; rfl
  · simp [crewKept, Crew.exitLanes_of_live lives]

end Exit
end Sys2Proof.Machine
end

section
/-! PROOFS. OutsideTower: why O21 fails as stated. R404 gives TOWER of a stop record three bits, [231:229], for the eight towers of the device.
The statement bounds no tower: where a crew stands in tower 2^19 and a partition holds that tower, the model's record, a sum of its fields
(`FaultInfo.bytes`), carries that number into REASON, bits [255:248]. In a tower below 8, and with memory in the canonical form of O5, `trap_stops` and
`bkpt_stops` give what the statement asks of TRAP and BKPT; its other clauses hold as they stand (`waitc_passes`, `waitc_waits`,
`yield_passes`, `yield_stops`, `yield_cancels`, `exit_last`, `exit_goesOn`). -/

namespace Sys2Proof.Machine

/-- A tower whose number, in the field that begins at bit 229 of a stop record, reaches REASON at bit 248 (R404). -/
def farTower : Nat := 2 ^ 19

/-- The partition of that tower, its context resident. -/
def farPart : Part := { towers := [farTower], ctx := some 0 }

/-- A crew of one thread in that tower. -/
def farCrew : Crew := { place := { tower := farTower }, threads := [{}] }

/-- The choice of its one thread. -/
def farCur : Cur := { group := 1 }

def farState : State := { d := { cur := some farCur, crews := [farCrew], parts := [farPart] } }

theorem farState_running : Running farState farCrew farPart := ⟨rfl, rfl, rfl, rfl⟩

theorem farState_ready : Ready farState farCur farCrew .always [] where
  cur := rfl
  crew := rfl
  alone := rfl
  active := by decide
  timer := rfl
  free := List.forall_mem_nil _
  allotted := List.forall_mem_nil _
  sound := List.forall_mem_nil _

/-- The TRAP's record holds the code of the next reason in its place. -/
theorem byteAfter_farState :
    byteAfter (exec (.trap ⟨0, .always⟩) farState) (recordKey farPart.low 0 + 31) = some (BitVec.ofNat 8 (Reason.trap.code + 1)) := by
  decide +kernel

/-- Refutes O21: a TRAP in tower 2^19 writes a record whose REASON is not the code of a TRAP. -/
theorem not_stopsAndWaits : ¬ Obligations.StopsAndWaits := by
  unfold Obligations.StopsAndWaits
  rintro ⟨-, stops, -⟩
  obtain ⟨t, -, hexec, -, -, -, -, -, -, r, -, -, -, -, -, -, -, -, ⟨reason, -⟩, byte, -⟩ :=
    stops farState farCur farCrew farPart ⟨0, .always⟩ farState_running farState_ready .trap .trap farCur.ret (by simp)
  have written := byteAfter_farState
  rw [hexec, byteAfter, byte, reason] at written
  exact absurd written (by decide)

end Sys2Proof.Machine
end
